-- ==== Sys2Proof/Word.lean ====
section
/-! DEFINITION. The byte and word types, and saturation at 32 bits (R17, R6). -/

namespace Sys2Proof

/-- One byte of host memory, of buffer memory or of tape (R6). -/
abbrev Byte := BitVec 8

/-- A byte string, first byte at the lowest address (R6). -/
abbrev Bytes := List Byte

/-- A 32-bit register word. -/
abbrev Word := BitVec 32

/-- A 64-byte submission entry (Table 4-1): byte `o` is bits `[8*o+7 : 8*o]`. -/
abbrev Entry := BitVec 512

/-- The largest value of a saturating counter of `w` bits. -/
def satMax (w : Nat) : Nat := 2 ^ w - 1

/-- A `w`-bit counter that saturates, after `k` more counts. -/
def satAdd (w n k : Nat) : Nat := min (n + k) (satMax w)

end Sys2Proof
end

