-- ==== Sys2Proof/Operand.lean ====
section
/-! DEFINITION. The data that commands carry: what host memory, a peripheral, the tape or the
read channel answered when the formatter looked, and the cartridge that a transport holds. -/

namespace Sys2Proof

/-- One scatter list element as read from host memory (Table 5-4). -/
structure SglElem where
  addr : Nat
  len  : Nat
  rsvd : Nat
  deriving DecidableEq, Repr

/-- A record on tape: its header fields (Table 9-2, full values of R465), its label, its body (the
payload followed by the sealed CRC, as ciphertext when `enc`) and its GCM tag. -/
structure TapeRec where
  seq      : Nat
  tag      : Nat
  iv       : Bytes
  keyId    : Nat
  origLen  : Nat
  label    : Bytes
  raw      : Bool
  enc      : Bool
  sec      : Nat
  ns       : Nat
  histBase : Nat
  body     : Bytes
  gtag     : Bytes
  ds       : Nat
  off      : Nat
  dsLast   : Nat
  deriving DecidableEq, Repr

/-- A dataset position on tape, with its dataset header fields (Table 9-3), and where it begins and ends, in bits from the
start of its wrap's data area. -/
structure TapeDs where
  num      : Nat
  attempt  : Nat
  complete : Bool
  parity   : Bool
  gen      : Nat
  fid      : Nat
  sec      : Nat
  ns       : Nat
  wrap     : Nat
  c3Pos    : Nat
  c3First  : Nat
  firstSeq : Nat
  hdrCount : Nat
  firstHdr : Nat
  fillOff  : Nat
  spanIn   : Bool
  spanOut  : Bool
  ibase    : Nat
  skipCause : Nat
  skipWrap : Nat
  skipStart : Nat
  skipEnd  : Nat
  squallLanes : Nat
  begAt    : Nat
  endAt    : Nat
  deriving DecidableEq, Repr

/-- One entry of the cartridge memory table (Table 9-4). -/
structure PartEntry where
  policy    : Nat
  c3        : Bool
  wp        : Bool
  dirty     : Bool
  wraps     : Nat
  firstWrap : Nat
  tag       : Nat
  eod       : Nat
  nextSeq   : Nat
  eodWrap   : Nat
  eodLpos   : Nat
  deriving DecidableEq, Repr

/-- One copy of the cartridge memory table, present when MAGIC, VERSION and CM_CRC are correct (R483). -/
structure CmCopy where
  seq   : Nat
  gen   : Nat
  parts : List PartEntry
  deriving DecidableEq, Repr

/-- What one partition holds on tape, in the order of writing. -/
structure TapePart where
  ds   : List TapeDs
  recs : List TapeRec
  deriving DecidableEq, Repr

/-- A cartridge: its switch, its format (0 BLANK, 1 GRF-3, 2 GRF-2), its cartridge memory and its tape. -/
structure Cart where
  serial : Bytes
  wp     : Bool
  format : Nat
  cmA    : Option CmCopy
  cmB    : Option CmCopy
  parts  : List TapePart
  deriving DecidableEq, Repr

/-- What the status of a cartridge-memory reader says (R587, R678). -/
inductive CartChange where
  | inserted (c : Cart)
  | removed
  deriving DecidableEq, Repr

/-- A firmware image as its header describes it (R729); `verdict` is 0 when it verifies, 1 for a bad
header or length and 2 for a bad signature (R767). -/
structure Image where
  version : Nat
  ckpt    : Nat
  stfmt   : Nat
  verdict : Nat
  deriving DecidableEq, Repr

/-- A configuration-space field that a plain write stores (R111, R114, R115, R154, R157). -/
inductive CfgField where
  | memSpaceEnable
  | msixEnable
  | functionMask
  | relaxedOrdering
  | extendedTag
  | tenBitTag
  | numVfs
  | ariCapable
  | vfMse
  | pasidEnable
  deriving DecidableEq, Repr

/-- The AER registers that host software writes: the severities and masks that it reprograms (R150), and the status registers,
whose bits are cleared by writing 1. -/
inductive AerReg where
  | uncStatus
  | uncMask
  | uncSeverity
  | corStatus
  | corMask
  deriving DecidableEq, Repr

/-- What HIU found wrong on the bus without taking the link down (the other rows of Table 3-10). -/
inductive BusErr where
  | receiverError
  | badTlp
  | badDllp
  | replayTimeout
  | replayRollover
  | correctedInternal
  | unexpectedCompletion
  | unsupportedPosted
  | unsupportedRequest
  | prefixBlocked
  deriving DecidableEq, Repr

/-- What a REGISTER_WRITE writes: a BAR0 location (poisoned, or found with an ECRC error), a configuration field, an AER register;
or the bus access that HIU finds in error (R150). -/
inductive RegTarget where
  | bar0 (off size : Nat) (value : BitVec 64) (poisoned : Bool) (ecrc : Bool)
  | cfg (f : CfgField) (value : Nat)
  | aer (r : AerReg) (value : Word)
  | bus (e : BusErr)
  deriving DecidableEq, Repr

/-- The configuration values of Table 3-2, and the read-only fields that the chapter names. -/
inductive CfgItem where
  | field (f : CfgField)
  | busMasterEnable
  | powerState
  | vfEnable
  | transactionsPending
  | vendorId
  | deviceId
  | revisionId
  | classCode
  | subsystemVendorId
  | subsystemId
  | bar0Type
  | bar0Size
  | interruptPin
  | maxPayload
  | aspmSupport
  | l1ExitLatency
  | l1Substates
  | tPowerOn
  | commonModeRestore
  | timeoutRanges
  | timeoutDisable
  | noSoftReset
  | pmeSupport
  | msixTableSize
  | msixTable
  | msixPba
  | initialVfs
  | totalVfs
  | firstVfOffset
  | vfStride
  | vfDeviceId
  | pageSizes
  | vfMigration
  | ariNext
  | pasidWidth
  | pasidCaps
  | serialNumber
  | aerStatus (r : AerReg)
  | aerFirst
  | aerHeader (half : Bool)
  | aerPrefix (half : Bool)
  deriving DecidableEq, Repr

/-- What a register read reads: a BAR0 location, or an item of configuration space. -/
inductive ReadTarget where
  | bar0 (off size : Nat)
  | cfg (i : CfgItem)
  deriving DecidableEq, Repr

/-- The errors of Table 3-10 that take the link down. -/
inductive FatalErr where
  | malformedTlp
  | flowControl
  | dataLink
  | receiverOverflow
  | uncorrectableInternal
  deriving DecidableEq, Repr

/-- How a host read failed (Table 3-10): ERR_CAUSE of Table 4-17. -/
inductive ReadErr where
  | poisoned
  | timeout
  | urCa
  | ecrc
  deriving DecidableEq, Repr

/-- The class of a codeword in the decoder pool (R32). -/
inductive CwClass where
  | verify
  | restore
  | scan
  deriving DecidableEq, Repr

/-- What a stage sees of data that it reads from a memory and verifies: whether the live check agrees, the single-bit SRAM errors
corrected, whether an SRAM word was poisoned, and the BMU bursts corrected and delivered poisoned (R421 to R424). -/
structure Seen where
  good  : Bool
  corr  : Nat
  pois  : Bool
  fixed : Nat
  burst : Nat
  deriving DecidableEq, Repr

/-- The ROW checks of one row of a closed dataset as it is read and read again: data row 0 to 4,095 (128·subset + row), or C2
parity row 4,096 on (R415, R416). -/
structure RowSeen where
  row   : Nat
  tries : List Seen
  deriving DecidableEq, Repr

/-- What C1, C2, pinned re-decode, C3 and re-reads made of a dataset (R533). -/
inductive RecoverOut where
  | c2 (corrected : Bool)
  | pinned
  | c3
  | failed
  deriving DecidableEq, Repr

/-- One channel's measurement over 120 µm of tape. GRF-3: centroid and frame times in ns, and the LPOS symbol spacing `D`
in nm (R556, R560). GRF-2: the tone amplitudes A1 in `tM` and A2 in `tP`, and 60 tone-1 periods in `tF` (R563, R564). -/
structure ChanFrame where
  tM  : Int
  tP  : Int
  tN  : Int
  tF  : Nat
  dNm : Int
  deriving DecidableEq, Repr

/-- Where a DEFLATE stream stands (DSTATE of Table 6-6): in its wrapper header, at a block header, in a stored block, in a
Huffman block with its code lengths, in the wrapper trailer, or ended. -/
inductive InfState where
  | header
  | block
  | stored (left : Nat) (last : Bool)
  | huff (last : Bool) (lit dist : List Nat)
  | trailer
  | ended
  deriving DecidableEq, Repr

/-- What a service job's lane met (R315 to R325): the input as read from host memory, the input of a second read (R334), the items
after which a stop request took hold, whether the context could be written (R325), and the XFR and EGR checks (R420). -/
structure JobEnd where
  input      : Bytes
  again      : Bytes
  steps      : Nat
  ctxWriteOk : Bool
  chk        : Seen
  deriving DecidableEq, Repr

/-- A reading of the external diode (R762): a temperature in 1/16 degree, or open or shorted. -/
inductive ExtReading where
  | temp (t : Int)
  | openCircuit
  | shorted
  deriving DecidableEq, Repr

/-- The supplies whose loss the formatter acts on (R840, R859). -/
inductive Rail where
  | vddAon
  | vddCore
  | vddioMgmt
  deriving DecidableEq, Repr

end Sys2Proof
end

