-- ==== Sys2Proof/Syntax.lean ====
section
/-! DEFINITION. The commands of the formatter: one constructor per row of spec/opcode_table.json.
Rows that execute a submission entry take `id`, the in-flight command (its tag, or 32768 for the
mailbox command). Rows that pass time take `dt`, the 4 ns ticks gone by since the last command; CODEWORD_ARRIVAL takes the equaliser's output, one
value a bit, and the bits of the codeword that a DROPOUT span covers. -/

namespace Sys2Proof

/-- A command of the formatter (spec/opcode_table.json). -/
inductive Instr where
  /-- R203. Writes the 4,096-byte device or function identification page to host memory. -/
  | identify (id : Nat)
  /-- R204. Checks its fields, reserves a slot and ring number, creates the ring and programs its completion event route. -/
  | createRing (id : Nat)
  /-- R206. A CREATE_RING that was waiting for 16 pool tags continues once they are free, or fails if its owner entered FLR meanwhile. -/
  | createRingTagsFreed (id : Nat)
  /-- R207. Marks the ring DELETING, stops its fetch, discards its lookahead entry and, with FORCE, aborts its commands. -/
  | deleteRing (id : Nat)
  /-- R207. When the last command in flight on a deleting ring has completed, closes its streams, clears its session keys and releases its tags, slot and route. -/
  | deleteRingDrained (id : Nat)
  /-- R210. Aborts the consumed commands on the target ring that match the CID, or all of them with ALL. -/
  | abort (id : Nat)
  /-- R198. ABORT posts its own completion once every command it aborted has posted its completion. -/
  | abortComplete (id : Nat)
  /-- R212. Writes a snapshot slice of the selected log page to host memory, applying CLEAR where the page defines it. -/
  | getLogPage (id : Nat)
  /-- R91. Reads a descriptor and makes a FREE context ACTIVE and CLEAR, with VOLUME_USED set to 0. -/
  | createContext (id : Nat) (desc : BitVec 1024)
  /-- R92. Applies all the selected descriptor fields of a context, or none of them. -/
  | modifyContext (id : Nat) (desc : BitVec 1024)
  /-- R98. Makes the context DELETING, aborts its commands with FORCE, flushes its acknowledged records and then frees it. -/
  | deleteContext (id : Nat)
  /-- R89. Writes the context's 256-byte status page, snapshotted at one instant. -/
  | getContextStatus (id : Nat)
  /-- R380. Unwraps a wrapped blob into a tenant or operator key slot. -/
  | keyLoadWrapped (id : Nat) (blob : BitVec 512)
  /-- R400. Zeroes a key slot and verifies it, aborting the commands that use it when FORCE is set. -/
  | keyErase (id : Nat)
  /-- R375. Derives a KEK by ECDH and HKDF, unwraps the domain key and sets FORMATTER_ID and DOMAIN_ID, or leaves the domain with LEAVE. -/
  | domainJoin (id : Nat) (blk : BitVec 1536)
  /-- R403. Writes the selected DER certificate to host memory. -/
  | getDeviceCert (id : Nat)
  /-- R357. Writes the nonce status page with the counter, the persisted end and the journal state. -/
  | nonceStatus (id : Nat)
  /-- R282. Mounts a cartridge on a transport, scans dirty partitions and writes the mount information page. -/
  | mount (id : Nat) (cmOk : Bool)
  /-- R242. Aborts, closes and flushes the transport's streams when forced, writes open C3 parity, updates cartridge memory, and rewinds or ejects. -/
  | unmount (id : Nat) (cmOk : Bool)
  /-- R239. Replaces the cartridge's partition table and leaves every partition empty. -/
  | formatPartitions (id : Nat) (specs : List (BitVec 128))
  /-- R589. Writes a transport, read channel or pool parameter block, which takes effect at the next boundary. -/
  | transportConfig (id : Nat) (blk : BitVec 256)
  /-- R590. Returns the transport status page or a parameter block. -/
  | getTransportStatus (id : Nat)
  /-- R592. Runs start-up, motion or read-channel calibration on a transport and stores the results in boot flash. -/
  | calibrate (id : Nat) (passed : BitVec 3)
  /-- R715. Sets formatter time absolutely or relatively, or arms a set at the next PPS edge. -/
  | setTime (id : Nat)
  /-- R634. Configures or stops a telemetry stream and claims or releases its ACE channel and pacing timer. -/
  | telemetryConfig (id : Nat)
  /-- R735. Stops fetch and begins quiescing before entry to Lull-1, Lull-2 or Lull-3. -/
  | enterLull (id : Nat)
  /-- R766. Writes a piece of a firmware image into the inactive image region and verifies it on LAST. -/
  | fwStage (id : Nat) (img : Image) (data : Bytes)
  /-- R769. Activates the staged image, either live through a checkpoint and fetch pause, or at the next reset. -/
  | fwActivate (id : Nat) (verified : Bool)
  /-- R776. Lowers the thermal thresholds and sets the external diode and KEEP_MASK. -/
  | thermalConfig (id : Nat)
  /-- R774. Puts an engine into DRAIN, so that it becomes FENCED, or OFF when OFF is set. -/
  | fenceEngine (id : Nat)
  /-- R775. Powers and resets a fenced engine and runs its self-test. -/
  | resetEngine (id : Nat) (pass : Bool)
  /-- R814. Sets the doldrums watchdog period. -/
  | setWatchdog (id : Nat)
  /-- R815. Writes fault log entries from FROM_SEQ to host memory, consuming them with CONSUME. -/
  | getFaultLog (id : Nat)
  /-- R802. Remaps a 64 KiB buffer page, or its current spare, to a new spare page. -/
  | retireBufferPage (id : Nat) (copy : Seen)
  /-- R803. Disables or enables verification of a lane from the next dataset boundary. -/
  | laneDisable (id : Nat)
  /-- R244. Checks the conditions of Table 5-1 and opens a read or write stream bound to the issuing ring. -/
  | openStream (id : Nat)
  /-- R254. Ingests one record of a write stream toward tape. -/
  | write (id : Nat) (sgl : List SglElem)
  /-- R256. Ingests up to 256 records of a write stream, in list order. -/
  | writeBatch (id : Nat) (descs : List (BitVec 256)) (sgls : List (List SglElem))
  /-- R259. Opens a flush window that closes the dataset holding the stream's last record. -/
  | flush (id : Nat)
  /-- R262. Acts as FLUSH and then waits until the stream's earlier records are synced. -/
  | sync (id : Nat)
  /-- R265. Flushes or syncs a write stream, waits for its earlier commands and frees the stream identifier. -/
  | closeStream (id : Nat)
  /-- R273. Restores the context's records from the read stream's position into host memory. -/
  | read (id : Nat) (sgl : List SglElem)
  /-- R286. Positions a read stream by sequence number, beginning, end or ingest time. -/
  | locate (id : Nat)
  /-- R287. Decodes COUNT datasets, optionally checks tags, and writes a scan report. -/
  | verifyScan (id : Nat)
  /-- R284. Writes the stream's position block. -/
  | getPosition (id : Nat)
  /-- R315. Runs a DEFLATE, zlib or gzip compression job on a service lane. -/
  | compress (id : Nat) (inSgl outSgl : List SglElem)
  /-- R331. Runs a DEFLATE, zlib or gzip decompression job on a service lane. -/
  | decompress (id : Nat) (inSgl outSgl : List SglElem)
  /-- R326. Continues a saved service job from its resume context. -/
  | resume (id : Nat) (ctx : Bytes) (inSgl outSgl : List SglElem)
  /-- R324. A service job stops at a token, block or wrapper boundary, writes its resume context where required, and completes. -/
  | serviceJobEnd (id : Nat) (r : JobEnd)
  /-- R390. Runs one GCM seal, open or verify on a tenant buffer. -/
  | cryptBlock (id engine : Nat) (inSgl outSgl : List SglElem) (input aad : Bytes) (ivt : BitVec 256)
  /-- R404. Waits until the selected session keys are unused, clears them, and reports the session key state. -/
  | sessionKeyClear (id : Nat)
  /-- R179. The ring engine reads a ring's next entry into the lookahead slot once the tail differs from the head and a credit is free. -/
  | entryFetch (ring : Nat) (entry : Entry) (batchLen : Nat)
  /-- R67. Headwind picks a qualifying lookahead entry of a domain, and the entry is consumed with a tag and a completion slot. -/
  | entryAdmit (ring : Nat)
  /-- R167. An ORDERED command starts once every earlier command of its ring has completed. -/
  | orderedStart (id : Nat)
  /-- R129. A submission tail doorbell write announces new entries, or is discarded and recorded in HIU_FN_ERR. -/
  | submissionDoorbell (fn slot : Nat) (v : Word)
  /-- R177. A completion head doorbell write releases completion credits, or is discarded as invalid. -/
  | completionDoorbell (fn slot : Nat) (v : Word)
  /-- R872. Setting HIU_ADMIN_RING_CTRL.ENABLE creates ring 0 unless the write is discarded. -/
  | adminRingEnable
  /-- R128. Clearing ENABLE stops fetch from ring 0 and discards its lookahead entry. -/
  | adminRingDisable
  /-- R128. When the last admin completion has been posted after ENABLE was cleared, ADMIN_RDY clears. -/
  | adminRingDrained
  /-- R4. A write to a register with no row of its own stores or clears fields according to its access code. -/
  | registerWrite (fn : Nat) (t : RegTarget)
  /-- R142. A write to Initiate Function Level Reset runs the FLR sequence of the function. -/
  | flrInitiate (fn : Nat)
  /-- R874. Setting VF Enable enables NumVFs VFs, limited by TotalVFs and by ARI. -/
  | vfEnableSet
  /-- R139. Clearing VF Enable removes every VF through an FLR of each. -/
  | vfEnableClear
  /-- R138. Clearing Bus Master Enable, or entering D3hot, stops fetch, DMA and MSI-X for the function and ends commands that need host access. -/
  | busMasterDisable (fn : Nat) (d3 : Bool)
  /-- R137. Setting Bus Master Enable again posts the deferred completions and sends the pending MSI-X messages. -/
  | busMasterEnable (fn : Nat) (d0 : Bool)
  /-- R136. Clearing a vector mask or the Function Mask sends one message for a pending PBA bit. -/
  | msixUnmask (fn : Nat) (vec : Option Nat)
  /-- R792. At the end of a route's holdoff, sends one merged message to each addressed vector. -/
  | holdoffEnd (dt e : Nat)
  /-- R120. PERST_N falling resets the host side and runs the FLR sequence for every function. -/
  | perstFall
  /-- R118. PERST_N rising starts link training and the Configuration Request Retry Status window. -/
  | perstRise
  /-- R118. 900 ms after PERST_N rises, configuration requests complete normally even without FW_READY. -/
  | crsWindowEnd (dt : Nat)
  /-- R151. The link reaches DL_Active, and deferred completions resume. -/
  | linkUp
  /-- R151. The link leaves DL_Active, including after a fatal AER error, and R138 effects apply to every function. -/
  | linkDown (err : Option FatalErr)
  /-- R214. A failed ring entry read puts the ring into ERROR and raises the ring error event. -/
  | ringEntryReadError (ring : Nat) (cause : ReadErr)
  /-- R121. SYS_RST_N low resets the whole device. -/
  | sysRstAssert
  /-- R727. SYS_RST_N release samples the straps and starts the boot ROM. -/
  | sysRstRelease (straps : Byte)
  /-- R730. The first verified image starts, cores start and FW_READY sets, or FW_READY stays 0 when no image verifies. -/
  | bootComplete (trainA trainB : Bool)
  /-- R591. After firmware start or RESET_ENGINE, each transport probes its peripherals and configures its head module. -/
  | startupCalibration (t : Nat) (responds : Bool)
  /-- R254. HIU reads a record into tenant staging with its ingest CRC and ingest time stamp. -/
  | recordIngest (id : Nat) (label data : Bytes)
  /-- R312. A compressor lane codes the record with KTC or stores it raw and creates the sealed CRC. -/
  | recordCompress (id : Nat) (ing : Seen) (coded : Bytes)
  /-- R348. An AES engine seals the record under a fresh IV. -/
  | recordSeal (id engine : Nat)
  /-- R387. A second engine decrypts the sealed record and compares the sealed CRC and the tag. -/
  | checkBack (id engine : Nat) (chk : Seen)
  /-- R141. The dataset assembler packs the sealed record into the packed stream, and the record is acknowledged. -/
  | recordPack (id : Nat) (xfr lbl : Seen) (rows : List RowSeen)
  /-- R259. FLUSH_WINDOW_MS after a flush window opened, the pending dataset closes. -/
  | flushWindowExpire (dt t : Nat) (rows : List RowSeen)
  /-- R519. A segment completes in the sample store and waits for a decoder, evicting the oldest codeword if the store is full. -/
  | codewordArrival (lane : Nat) (cls : CwClass) (y : List Int) (gaps : List (Nat × Nat))
  /-- R511. The sync search window closes with a mark found or a flywheeled mark. -/
  | syncWindowEnd (lane : Nat) (found : List (Int × Nat))
  /-- R518. A freed decoder goes to the oldest waiting codeword of the highest class. -/
  | decoderGrant (d : Nat)
  /-- R516. A decoder grant ends by convergence, by its budget being spent, or by eviction. -/
  | decodeEnd (d iters : Nat)
  /-- R75. At a dataset boundary, CC2 recomputes the sustainable rate and guarantees, and new parameter blocks take effect. -/
  | datasetBoundary (t : Nat)
  /-- R234. After every 1,024 datasets, writes the end-of-data pointer and next RECORD_SEQ to cartridge memory. -/
  | cmUpdate (t : Nat) (cmOk : Bool)
  /-- R585. At the end of a wrap's data area, decelerates, moves the head to the next wrap and reverses. -/
  | wrapTurnaround (t : Nat)
  /-- R580. Every 10 ms, CC2 sets the target velocity of a writing transport by the speed-matching law. -/
  | speedMatchTick (dt t : Nat)
  /-- R582. A stopped transport restarts on RESTART_WM, a waiting SYNC or UNMOUNT, or a read preemption. -/
  | transportRestart (t : Nat)
  /-- R272. A transport returns to the write position once no read command waits. -/
  | writePositionReturn (t : Nat)
  /-- R533. Recovers a restored dataset through C2, pinned re-decode, C3 and re-reads. -/
  | datasetRecover (t ds : Nat)
  /-- R382. An AES engine checks the restored record's tag in RELEASE or VERIFY_ONLY mode. -/
  | recordOpen (id engine : Nat) (row xfr : Seen)
  /-- R335. A decompressor lane checks the sealed CRC and expands and checks each KTC unit. -/
  | recordDecompress (id : Nat) (egr : Seen)
  /-- R521. Every 256 µs, computes the decoder pool's utilisation and changes the load level. -/
  | poolEvaluation (dt : Nat)
  /-- R75. Every 10 ms, recomputes the guarantees and latency bounds of the service domain. -/
  | serviceDomainTick (dt : Nat)
  /-- R810. Every 10 ms, the doldrums watchdog looks for stalled wait chains. -/
  | watchdogExamine (dt : Nat)
  /-- R566. At each frame edge, publishes PES and velocity and updates track-follow, the write clocks, the inhibit conditions and the re-arm count. -/
  | servoFrame (t : Nat) (a b : Option ChanFrame) (wclkDev : Nat)
  /-- R561. Decodes a 36-frame LPOS word and checks its CRC-8. -/
  | lposWord (t ch : Nat) (syms : List Nat)
  /-- R559. A servo channel loses lock after LOST_FRAMES expected frame times without a valid frame. -/
  | servoLockLoss (t ch : Nat)
  /-- R572. After 50 ms of servo or LPOS loss during a write, stops the tape and re-acquires. -/
  | servoLossTimeout (dt t : Nat)
  /-- R575. At 10 kHz, the velocity loop updates the common-mode reel torque. -/
  | velocityLoopTick (t : Nat)
  /-- R575. At 5 kHz, the tension loop updates the differential reel torque. -/
  | tensionLoopTick (t mn : Nat)
  /-- R565. Tt_SHK_N low asserts the SHOCK inhibit. -/
  | shockInput (t widthNs : Nat)
  /-- R565. A falling Tt_WFLT_N sets WFLT_LATCH and inhibits the gate. -/
  | writeFaultInput (t widthNs : Nat)
  /-- R565. A write of WI_CTRL.FORCE_INHIBIT forces or releases the gate inhibit. -/
  | forceInhibitWrite (t : Nat) (v : Bool)
  /-- R573. A W1C write of WI_CAUSE clears cause bits, and bit 4 also clears WFLT_LATCH when Tt_WFLT_N is high. -/
  | wiCauseWrite (t : Nat) (v : Word)
  /-- R506. After DROP_BITS bits of low envelope, the lane enters DROPOUT and freezes its loops. -/
  | dropoutEntry (lane : Nat)
  /-- R507. After 32 bits of recovered envelope, the lane leaves DROPOUT and reacquires timing. -/
  | dropoutExit (lane : Nat)
  /-- R604. A CTRL.ARM write runs the arm and eddy checks and arms the channel. -/
  | aceArm (c : Nat)
  /-- R638. A CTRL.DISARM write discards the pending trigger and returns the channel to IDLE. -/
  | aceDisarm (c : Nat)
  /-- R611. A CTRL.GO write starts a software run or kicks a triggered channel. -/
  | aceGo (c : Nat)
  /-- R608. An iteration's last write completes, firing its completion trigger and entering DONE after ITER_COUNT iterations. -/
  | aceIterationComplete (c : Nat) (data : Bytes)
  /-- R618. A failed burst is scheduled for a retry, or halts the channel when its retries are spent. -/
  | aceBurstFail (c doneBytes : Nat) (domainClosed : Bool) (err : Option ReadErr) (data : Bytes)
  /-- R618. The backoff wait ends and the failed burst is retried. -/
  | aceRetryWaitEnd (dt c : Nat)
  /-- R647. SMP_CS_N falling selects the SPI mode and starts an SMP transaction. -/
  | smpCsFall (sck : Bool)
  /-- R651. SMP_CS_N rising ends the transaction and discards a partial byte. -/
  | smpCsRise (bits : Nat)
  /-- R645. The command byte sets the direction and start address of a transaction. -/
  | smpCommandByte (b : Byte)
  /-- R649. Commits a write data byte to its register, or discards it beyond 64 bytes. -/
  | smpWriteByte (b : Byte)
  /-- R647. Sends a wait byte, a start token, data or an abort token at each byte start of a read. -/
  | smpReadByte
  /-- R646. A write of SMP_PAGE selects the page that later addresses reach. -/
  | smpPageWrite (p : Byte)
  /-- R659. SMP_IND_CTRL.READ starts an indirect 4-byte read of PF BAR0. -/
  | smpIndRead (inc : Bool)
  /-- R659. SMP_IND_CTRL.WRITE starts an indirect 4-byte write of PF BAR0. -/
  | smpIndWrite (inc : Bool)
  /-- R664. An indirect access ends, clearing BUSY and setting IND_DONE. -/
  | smpIndDone
  /-- R666. SMP_MBX_CTRL.GO submits the mailbox entry, or answers NOT_READY before FW_READY. -/
  | mailboxGo
  /-- R670. Writes the mailbox completion, sets DONE and MBX_DONE, and clears BUSY. -/
  | mailboxComplete
  /-- R656. After 10 µs the attention notch ends and SMP_RB rises. -/
  | attentionNotchEnd
  /-- R678. PSPn_IRQ_N falling makes firmware read the status of the port's IRQ peripherals. -/
  | pspIrq (port : Nat) (changes : List (Nat × CartChange))
  /-- R685. Once per second, reads SMP_STATUS of every peer formatter. -/
  | peerPoll (answers : List (Nat × Option Byte))
  /-- R370. SK_COMMIT with GO loads the staged session key into INDEX, or records LOAD_ERR. -/
  | skCommitGo (fn slot : Nat) (v : Word)
  /-- R370. SK_COMMIT with CLEAR zeroes the session key at INDEX. -/
  | skCommitClear (fn slot : Nat) (v : Word)
  /-- R357. A nonce journal write completes and extends the persisted range. -/
  | nonceReserved
  /-- R359. A failed journal write raises an event and schedules a retry. -/
  | nonceJournalFail
  /-- R359. The backoff interval expires and the journal write is retried. -/
  | nonceRetry (dt : Nat)
  /-- R697. A PPS_IN rising edge is stamped and judged as a duplicate, accepted or out of window. -/
  | ppsEdge (dt : Nat)
  /-- R700. One second after an accepted edge, SLEW returns to 0. -/
  | slewEnd (dt : Nat)
  /-- R703. After 2.5 s without an accepted edge, the PPS state enters HOLDOVER. -/
  | ppsHoldover (dt : Nat)
  /-- R716. An AT_PPS SET_TIME sees no edge within 2.5 s and completes with NOT_READY. -/
  | setTimeTimeout (dt : Nat)
  /-- R706. A pacing timer reaches a grid point and fires. -/
  | pacingTimerFire (dt k : Nat)
  /-- R610. Formatter time crosses a whole second, which can trigger ACE channels. -/
  | secondBoundary (dt : Nat)
  /-- R709. Formatter time reaches an alarm, which sets FIRED, clears EN and raises the alarm event. -/
  | alarmFire (dt a : Nat)
  /-- R705. PPS_OUT rises at each formatter-time second plus its offset. -/
  | ppsOutRise (dt : Nat)
  /-- R705. PPS_OUT falls after PPS_OUT_WIDTH ms. -/
  | ppsOutFall (dt : Nat)
  /-- R703. A write of TBU_CFG changes discipline settings, and PPS_EN written 0 enters FREE. -/
  | tbuCfgWrite (v : Word)
  /-- R707. A write of a timer's control or period starts, stops or re-phases the timer, or sets CFG_ERR. -/
  | pacingTimerCtrlWrite (k : Nat) (isCtrl : Bool) (v : Word)
  /-- R709. A write of an alarm's control arms it or clears FIRED. -/
  | alarmCtrlWrite (a : Nat) (v : Word)
  /-- R712. A read of TBU_TIME_NS snapshots the seconds. -/
  | tbuTimeRead (wide : Bool)
  /-- R857. On loss of SYS_CLK_IN, the formatter inhibits every gate and freezes formatter time. -/
  | sysClkLoss
  /-- R735. The consumed commands have completed, so the gates begin closing in order. -/
  | lullQuiesced
  /-- R735. QUIESCE_MS expires, the entry is undone, and ENTER_LULL completes with NOT_READY. -/
  | quiesceTimeout (dt : Nat)
  /-- R745. A gate reaches CLOSED after its domain drains. -/
  | gateClosed (dt k : Nat)
  /-- R745. After 10 µs of CLOSING, a gate force-closes and its waiting requesters receive DOMAIN_CLOSED with LOST. -/
  | gateForceClose (dt k : Nat) (waiting : List Nat)
  /-- R737. Gate 14 closes, the state is saved and the domains change, with an immediate exit for a latched wake. -/
  | lullStateSaved
  /-- R739. CLKREQ_N assertion, or a TLP addressed to the formatter, wakes it from Lull-2. -/
  | hostLinkWake
  /-- R740. The exit restores the saved state, runs deferred FLR steps and enters Run. -/
  | lullExitComplete (dt : Nat) (digestOk : Bool)
  /-- R752. An engine in DRAIN finishes its work and becomes FENCED. -/
  | engineDrained (cls idx : Nat)
  /-- R752. DRAIN_MS expires and the engine's remaining jobs are stopped. -/
  | engineDrainTimeout (dt cls idx : Nat)
  /-- R756. At 1 kHz, the sensors are averaged and the thermal level is raised, lowered or latched. -/
  | thermalSample (dt : Nat) (temps : List Int) (ext : ExtReading)
  /-- R760. One second after Shutdown, every domain except AON powers off. -/
  | shutdownPowerOff (dt : Nat)
  /-- R763. PFAIL_N low for 200 ns stops writing, fetch and flash and cartridge-memory writes. -/
  | pfailQualified
  /-- R765. PFAIL_N rising with power still present resumes fetch and writing. -/
  | pfailRelease
  /-- R770. The new image's self-test passes, confirming it and scheduling replacement of the real-time cores. -/
  | selfTestPass
  /-- R771. The new image's self-test fails and the formatter rolls back to the previous image. -/
  | selfTestFail
  /-- R771. No self-test pass within 5 s causes a rollback. -/
  | selfTestTimeout (dt : Nat)
  /-- R142. The FLR sequence of a function ends: its registers are at reset values, configuration requests complete normally, and a VF re-enabled meanwhile becomes enabled. -/
  | flrComplete (fn : Nat)
  /-- R19. A host or indirect read of an RC register field returns its value and then clears the field. -/
  | rcRegisterRead (fn : Nat) (t : ReadTarget)
  /-- R510. A read lane in acquisition accepts the first sync mark that follows enough matched preamble and starts tracking. -/
  | syncAcquired (lane : Nat) (matchedPreamble preErrs markErrs : Nat)
  /-- R510. A read lane detects 256 bits of separator pattern and sets the nominal mark position for the next dataset position. -/
  | separatorDetected (lane errs : Nat)
  /-- R565. Tt_SHK_N returns high and the SHOCK inhibit condition clears, so the re-arm count can run. -/
  | shockCleared (t : Nat)
  /-- R570. A lane's write segment clock reaches a segment boundary, where writing resumes after the gate rises or stops after PFAIL_N or Write-stop. -/
  | writeSegmentBoundary (dt t : Nat) (rows : List RowSeen)
  /-- R840. VDD_AON, VDD_CORE or VDDIO_MGMT leaves its range, so the formatter drives Tt_WG low or the SMP ignores its inputs. -/
  | supplyOutOfRange (rail : Rail)
  /-- R767. A boot flash program or erase completes or fails, and a failure is retried with a fresh erase within the boot flash budget. -/
  | flashOperationEnd (ok : Bool)
  /-- R243. 100 ms after a failed cartridge-memory access, the access is tried again within its budget. -/
  | cmAccessRetry (dt t : Nat) (ok : Bool)
  /-- R684. After 10, 20 or 40 µs, a failed PSP transaction is retried, and an event is raised when the budget is spent. -/
  | peripheralRetry (dt port sel : Nat) (answer : Option Byte)
  /-- R573. Firmware tries again, 10 ms after the last try, to clear WFLT_LATCH, and after three failures the writing commands complete with TRANSPORT_FAULT. -/
  | wfltClearRetry (dt t : Nat)
  /-- R150. A host data read completes poisoned, with UR or CA status, or times out, and its command completes with HOST_ACCESS_ERROR. -/
  | hostReadError (id : Nat) (cause : ReadErr)
  deriving DecidableEq, Repr

end Sys2Proof
end

