-- ==== Sys2Proof/Config.lean ====
section
/-! DEFINITION. What one implementation fixes, and the free values: constants without a body, of
which nothing can be proved. -/

namespace Sys2Proof

/-- The 64-bit die identifier, reported as Device Serial Number (Table 3-2, Table 4-10). -/
opaque Config.dieId : Nat

/-- A value that the spec leaves open, as a function of the counter that the machine draws from. -/
opaque Config.freeValue : Nat → Nat

/-- Free signed values, for measured quantities with no number in the spec. -/
opaque Config.freeInt : Nat → Int

/-- Free byte strings, for contents with no value in the spec. -/
opaque Config.freeBytes : Nat → Bytes

/-- The DER certificates of GET_DEVICE_CERT, by number (R403): fused or stored at manufacture. -/
opaque Config.certDer : Nat → Bytes

/-- The device identity private key of DOMAIN_JOIN (R375): fused, never readable. -/
opaque Config.identityKey : Nat

/-- GRF-2 wraps on whose boundary tone 2 lies above (R563): the spec names none. -/
opaque Config.tone2Above : Nat → Bool

/-- The match that a compressor lane picks (length and distance), from its deferred match, the window, newest byte first, and the rest
of the block: the spec leaves the encoder's choice open (R315). One that is no match of the data counts as none. -/
opaque Config.lzMatch : Nat × Nat → Bytes → Bytes → Nat × Nat

/-- The match that a compressor lane holds deferred where it stops, from the window and the rest of its input (Table 6-6). -/
opaque Config.lzDeferred : Bytes → Bytes → Nat × Nat

/-- The tables with which a compressor lane codes a dynamic block, as the bits that follow BTYPE (R315). -/
opaque Config.dynTables : Bytes → Bytes → List Bool

/-- MiB of the ACE window of the firmware work region (R605, Table 12-3): the spec gives no number. -/
opaque Config.aceWinMib : Nat

/-- Records that the on-die queues between a compressor lane and its dataset assembler hold (R23): the spec gives no number. -/
opaque Config.queueRecords : Nat

/-- The read channel's branch metric: how well an equaliser output fits a target output, in LLR units (R515): the spec gives no scale. -/
opaque Config.metric : Int → Int → Int

/-- The normalisation of min-sum decoding: the magnitude of a check's message from the least magnitude of the others (R516). -/
opaque Config.minSum : Nat → Nat

/-- Silicon revision B0 (Table 4-10). -/
def Config.siliconRev : Nat := 0xB0

end Sys2Proof
end

