-- ==== Sys2Proof/Machine/Tbl.lean ====
section
/-! DEFINITION. Tables by number: lists of (key, value) pairs in one canonical form, keys strictly rising. -/

namespace Sys2Proof.Machine

/-- A table by number: contexts, rings, streams, key slots (absent = FREE, not created, EMPTY). -/
abbrev Tbl (α : Type) := List (Nat × α)

/-- The entry of key `k`. -/
def Tbl.get? {α : Type} (t : Tbl α) (k : Nat) : Option α :=
  match t with
  | [] => none
  | (j, v) :: r => if j = k then some v else Tbl.get? r k

/-- Does key `k` have an entry? -/
def Tbl.has {α : Type} (t : Tbl α) (k : Nat) : Bool := (Tbl.get? t k).isSome

/-- Stores `v` under `k`, keeping the keys rising. -/
def Tbl.put {α : Type} (t : Tbl α) (k : Nat) (v : α) : Tbl α :=
  match t with
  | [] => [(k, v)]
  | (j, w) :: r =>
    if j = k then (k, v) :: r
    else if k < j then (k, v) :: (j, w) :: r
    else (j, w) :: Tbl.put r k v

/-- Removes the entry of `k`. -/
def Tbl.del {α : Type} (t : Tbl α) (k : Nat) : Tbl α :=
  match t with
  | [] => []
  | (j, w) :: r => if j = k then r else (j, w) :: Tbl.del r k

/-- Changes the entry of `k`, if there is one. -/
def Tbl.upd {α : Type} (t : Tbl α) (k : Nat) (f : α → α) : Tbl α :=
  match t with
  | [] => []
  | (j, w) :: r => if j = k then (j, f w) :: r else (j, w) :: Tbl.upd r k f

/-- Changes every value. -/
def Tbl.mapVal {α : Type} (t : Tbl α) (f : Nat → α → α) : Tbl α := t.map fun p => (p.1, f p.1 p.2)

/-- Keeps the entries that satisfy `p`. -/
def Tbl.keep {α : Type} (t : Tbl α) (p : Nat → α → Bool) : Tbl α := t.filter fun e => p e.1 e.2

/-- The canonical form: keys strictly rising. -/
def Tbl.wf {α : Type} (t : Tbl α) : Bool :=
  match t with
  | [] => true
  | (j, _) :: r => (r.all fun e => decide (j < e.1)) && Tbl.wf r

/-- The least number from `lo`, among `n` candidates, that has no entry. -/
def Tbl.firstFree {α : Type} (t : Tbl α) (lo n : Nat) : Option Nat :=
  match n with
  | 0 => none
  | m + 1 => if Tbl.has t lo then Tbl.firstFree t (lo + 1) m else some lo

/-- A set of numbers as a rising list without repeats. -/
def setIns (l : List Nat) (k : Nat) : List Nat :=
  match l with
  | [] => [k]
  | j :: r => if j = k then j :: r else if k < j then k :: j :: r else j :: setIns r k

/-- Removes a number from a set. -/
def setDel (l : List Nat) (k : Nat) : List Nat := l.filter fun j => j != k

end Sys2Proof.Machine
end

