-- ==== Sys2Proof/Machine/Memory.lean ====
section
/-! DEFINITION. The addressed memories of the block: the mailbox data area (R665, R669) and the BUFFER window of the copy engine
(R605), each a list of cells in one canonical form. -/

namespace Sys2Proof.Machine

/-- A memory: cells at strictly rising addresses, none of them equal to what an unlisted address reads as. -/
abbrev Memory := List Host.Cell

/-- What an address that nothing has written reads as (log entry 4). -/
def Memory.blank : Byte := 0

/-- The byte at an address. -/
def Memory.read (m : Memory) (a : Nat) : Byte := (Tbl.get? m a).getD Memory.blank

/-- Stores a byte; storing what an unlisted address reads as removes the cell. -/
def Memory.write (m : Memory) (a : Nat) (b : Byte) : Memory :=
  if b = Memory.blank then Tbl.del m a else Tbl.put m a b

/-- Stores bytes at rising addresses. -/
def Memory.writeAll (m : Memory) (a : Nat) (b : Bytes) : Memory :=
  match b with
  | [] => m
  | x :: r => Memory.writeAll (Memory.write m a x) (a + 1) r

/-- Stores bytes one after another at one address. -/
def Memory.writeSame (m : Memory) (a : Nat) (b : Bytes) : Memory := b.foldl (fun m x => Memory.write m a x) m

/-- Reads `n` bytes at rising addresses. -/
def Memory.readAll (m : Memory) (a n : Nat) : Bytes :=
  match n with
  | 0 => []
  | k + 1 => Memory.read m a :: Memory.readAll m (a + 1) k

/-- The canonical form. -/
def Memory.wf (m : Memory) : Bool := Tbl.wf m && m.all fun c => c.2 != Memory.blank

end Sys2Proof.Machine
end

