-- ==== Sys2Proof/Machine/State.lean ====
section
/-! DEFINITION. The formatter's state as plain data, grouped by block, and its value after reset. -/

namespace Sys2Proof.Machine

/-- Why the machine stops with a fault. No rule of the spec stops the formatter for good on a command
of the table, so no meaning raises one today (safe). -/
inductive Fault where
  /-- Kept for a repair that finds a stop in the spec; raised by nobody. Safe: the machine would stop
  where the hardware goes on. -/
  | stopped
  deriving DecidableEq, Repr

/-- Why a command is turned away without a meaning. -/
inductive Refusal where
  /-- Raised by exec's refused arms only, for a row that has no meaning yet. Safe: nothing is claimed of it. -/
  | notModelled (mnemonic : String)
  deriving DecidableEq, Repr

/-! ### What leaves the block -/

/-- What the formatter sends out, in the order of sending. -/
inductive Out where
  /-- A posted write to host memory: requester function, PASID if tagged (R44), address, bytes, Relaxed Ordering (R114). -/
  | dma (fn : Nat) (pasid : Option Nat) (addr : Nat) (data : Bytes) (relaxed : Bool)
  /-- A read request: requester function, PASID if tagged (R44), address, bytes asked for. -/
  | rd (fn : Nat) (pasid : Option Nat) (addr len : Nat)
  /-- An MSI-X message on a vector of a function: the entry's Message Address and Message Data (R134). -/
  | msix (fn vec : Nat) (addr : BitVec 64) (data : Word)
  /-- The data of a completed register read (R124, R19). -/
  | cpl (fn : Nat) (data : BitVec 64)
  /-- A read answered with Completer Abort (R124). -/
  | ca (fn : Nat)
  /-- A request answered with Unsupported Request (Table 3-10). -/
  | ur (fn : Nat)
  /-- A configuration request answered with Configuration Request Retry Status (R118, R139, Table 3-9). -/
  | crs (fn : Nat)
  /-- A transaction on a peripheral serial port: port, select, the bytes sent, most significant bit first (R587, R673, R679). -/
  | psp (port sel : Nat) (data : Bytes)
  /-- What global write lane `g` sends, in order of sending: a segment, a separator or a lead-in (R443 to R447). -/
  | lane (g : Nat) (data : Bytes)
  /-- A copy of the table written to cartridge memory at an offset (R483, R484). -/
  | cartMem (t off : Nat) (data : Bytes)
  deriving DecidableEq, Repr

/-! ### Clock -/

/-- Model time and the free-value counter. -/
structure Clock where
  /-- 4 ns ticks since reset (R694); does not jump at a step. -/
  ticks : Nat
  /-- The next unused index of Config.freeValue (the model's own field). -/
  free : Nat
  /-- SYS_CLK_IN lost: time frozen until SYS_RST_N (R857). -/
  frozen : Bool
  deriving DecidableEq, Repr

/-! ### Host link -/

/-- One MSI-X table entry; its mask bit is 1 after reset (R134). -/
structure MsixVec where
  addr   : BitVec 64
  data   : Word
  masked : Bool
  deriving DecidableEq, Repr

/-- HIU_FN_ERR and HIU_FN_ERR_COUNT (Tables 3-5, 3-7). -/
structure FnErr where
  valid      : Bool
  dbRange    : Bool
  dbNoRing   : Bool
  dbResv     : Bool
  accessSize : Bool
  multi      : Bool
  slot       : Nat
  count      : Nat
  deriving DecidableEq, Repr

/-- A function's AER registers, their bits where PCI Express Base Specification 5.0 has them (R110, R150): status, mask and
severity of uncorrectable errors, status and mask of correctable ones, First Error Pointer, Header Log, TLP Prefix Log. -/
structure Aer where
  unc    : Word
  uncMask : Word
  uncSev : Word
  cor    : Word
  corMask : Word
  first  : Nat
  header : BitVec 128
  pfx    : BitVec 128
  deriving DecidableEq, Repr

/-- One function's configuration space, function registers, doorbell store and MSI-X table. -/
structure FnState where
  bme      : Bool
  d3hot    : Bool
  msixEn   : Bool
  fnMask   : Bool
  relaxed  : Bool
  extTag   : Bool
  tenBit   : Bool
  /-- An FLR of the function is in progress (R142, R139). -/
  flr      : Bool
  err      : FnErr
  msix     : Tbl MsixVec
  pba      : List Nat
  /-- Latest tail of each slot, while stored and not yet applied (R119, R132, R152). -/
  tails    : Tbl Nat
  /-- Latest head of each slot, while stored and not yet applied. -/
  heads    : Tbl Nat
  aer      : Aer
  deriving DecidableEq, Repr

/-- The administrative ring registers (Table 3-5). -/
structure AdminRegs where
  sqBase   : Nat
  cqBase   : Nat
  log2     : Nat
  enable   : Bool
  draining : Bool
  deriving DecidableEq, Repr

/-- The host link: reset inputs, link state, PF-only configuration and every function. -/
structure HostLink where
  /-- SYS_RST_N level. -/
  sysRst   : Bool
  /-- PERST_N level. -/
  perst    : Bool
  dlActive : Bool
  /-- The link is held in Detect, or waits for Run to start training (R741, R778, R861). -/
  training : Bool
  /-- The Configuration Request Retry Status window is open (R118). -/
  crs      : Bool
  crsEnd   : Nat
  fwReady  : Bool
  updatePause : Bool
  golden   : Bool
  wakeN    : Bool
  memEn    : Bool
  vfEn     : Bool
  vfMse    : Bool
  numVfs   : Nat
  ari      : Bool
  pasidEn  : Bool
  /-- VFs 1..vfCount are enabled while VF Enable is 1 (R113, R874). -/
  vfCount  : Nat
  admin    : AdminRegs
  /-- Functions whose Table 3-9 steps are owed at the next entry to Run (R148, R778). -/
  flrOwed  : List Nat
  fns      : Tbl FnState
  deriving DecidableEq, Repr

/-! ### Rings and commands in flight -/

/-- A key as the KSU holds it (R365). -/
structure KeyVal where
  bits256 : Bool
  key     : BitVec 256
  keyId   : Nat
  deriving DecidableEq, Repr

/-- A ring's session key window and session keys (Table 7-4, R374, R405). -/
structure SkWindow where
  stage   : BitVec 256
  keyId   : Nat
  keys    : Tbl KeyVal
  gens    : Tbl Nat
  loadErr : List Nat
  deriving DecidableEq, Repr

/-- STATE of Table 4-17. -/
inductive RingSt where
  | active
  | deleting
  | error
  deriving DecidableEq, Repr

/-- The lookahead slot: the entry read, the original length of a WRITE_BATCH's list (R59, R60), and whether its context left
ACTIVE while the entry waited (R103). -/
structure Look where
  entry    : Entry
  batchLen : Nat
  lost     : Bool
  deriving DecidableEq, Repr

/-- A created ring (Table 4-17). -/
structure Ring where
  st       : RingSt
  owner    : Nat
  slot     : Nat
  log2     : Nat
  sqBase   : Nat
  cqBase   : Nat
  vector   : Nat
  tagMax   : Nat
  sqHead   : Nat
  sqTail   : Nat
  cqHead   : Nat
  cqTail   : Nat
  /-- Number of the completion ring's current pass, from 1 (R175). -/
  pass     : Nat
  look     : Option Look
  deferUs  : Nat
  tagWaitUs : Nat
  creditWaitUs : Nat
  cqHeadInvalid : Nat
  errCause : Nat
  completions : Nat
  consumed : Nat
  sk       : SkWindow
  deriving DecidableEq, Repr

/-- A completion entry before it gets its phase (Tables 4-2, 4-3). -/
structure Compl where
  status    : Nat
  ew        : Bool
  more      : Bool
  lost      : Bool
  resumable : Bool
  result    : Nat
  result2   : Nat
  deriving DecidableEq, Repr

/-- A record of a WRITE or WRITE_BATCH on its way to tape: host data, checks (R415), stamps and what the
engines made of it. -/
structure RecWork where
  /-- Index in the command's list. -/
  idx      : Nat
  /-- 0 ingested, 1 coded, 2 sealed, 3 checked back or exempt, 4 to be read from host memory again. -/
  stage    : Nat
  label    : Bytes
  data     : Bytes
  ing      : Nat
  lbl      : Nat
  sec      : Nat
  ns       : Nat
  raw      : Bool
  payload  : Bytes
  sealCrc     : Nat
  /-- The record begins a history run (R305, R306). -/
  runStart : Bool
  iv       : Bytes
  ctr      : Nat
  enc      : Bool
  keyId    : Nat
  body     : Bytes
  gtag     : Bytes
  engine   : Nat
  /-- Engines that a reseal keeps off (R432). -/
  banned   : List Nat
  /-- Restarts of class 1 and reseals of class 2 (Table 16-4). -/
  retries  : Nat
  reseals  : Nat
  deriving DecidableEq, Repr

/-- What a command waits for, between the occurrences of its row. -/
inductive Prog where
  /-- Consumed, not executed yet. -/
  | fresh
  /-- ORDERED and not started (R167). -/
  | ordered
  /-- CREATE_RING waiting for 16 pool tags, with the slot and ring number it reserved (R206, R870). -/
  | tagWait (ring : Nat)
  /-- DELETE_RING waiting for the ring's commands in flight (R207). -/
  | ringDrain (ring aborted : Nat)
  /-- ABORT waiting for the completions of what it aborted (R198). -/
  | abortWait (ids : List Nat) (aborted past : Nat)
  /-- A command that waits for its condition; the row's next occurrence continues it. -/
  | waiting (n : Nat)
  /-- WRITE or WRITE_BATCH: total records, last STORED_LEN, and the first record known to fail, with its completion (R256). -/
  | writing (total stored : Nat) (bad : Option (Nat × Compl))
  /-- FLUSH or SYNC or CLOSE_STREAM: the dataset whose closure or verification is awaited (R259, R262, R265). -/
  | flushWait (sync : Bool) (ds : Nat)
  /-- READ: records returned, end of the last one in the data buffer, bytes written, any tag failure, the record in hand
  (0 none, 1 its datasets restored, 2 opened, 3 opened with a bad tag), its plaintext, and the retries spent on it
  (restore class, plus 4 for a re-open). -/
  | reading (n off bytes : Nat) (anyBad : Bool) (hand : Nat) (plain : Bytes) (retries : Nat)
  /-- VERIFY_SCAN: next dataset, datasets left and the report's counters (Table 5-11). -/
  | scanning (ds left : Nat) (rep : List Nat)
  /-- A service job or CRYPT_BLOCK running on an engine. -/
  | engine (idx : Nat)
  deriving DecidableEq, Repr

/-- Where a data entry took its fetch slot (R64). -/
inductive SlotCls where
  | write
  | read
  | service
  deriving DecidableEq, Repr

/-- A command in flight: its tag, ring, entry copy and progress (R164, R180, R185). -/
structure Cmd where
  id       : Nat
  ring     : Nat
  mailbox  : Bool
  entry    : Entry
  prog     : Prog
  /-- The completion once it is fixed; it may wait to be posted (R138, R167, R191). -/
  done     : Option Compl
  /-- The stream whose completion order binds it (R191). -/
  stream   : Option Nat
  /-- The fetch slot it holds: domain and class (R64, R65). -/
  fetch    : Option (Nat × SlotCls)
  charge   : Nat
  /-- Bytes of its charge that discards have taken off VOLUME_USED (R55). -/
  voided   : Nat
  /-- A CLOSE_STREAM of its stream was consumed before it (R248). -/
  late     : Bool
  /-- Records of the list as checked (Table 5-10), for WRITE_BATCH. -/
  descs    : List (BitVec 256)
  /-- The pieces of host memory behind each record of a WRITE or WRITE_BATCH: address and length (R280). -/
  bufs     : List (List (Nat × Nat))
  recs     : List RecWork
  /-- Records acknowledged, and the first one's RECORD_SEQ (Table 4-18). -/
  acked    : Nat
  firstSeq : Nat
  /-- Model time of consumption (R77) and of the last progress (R809). -/
  at0      : Nat
  moved    : Nat
  /-- Write-stop, or a hotter level, was in force at consumption (R258). -/
  hot      : Bool
  /-- Retries spent by its current stage (R797, R799). -/
  retries  : Nat
  deriving DecidableEq, Repr

/-- One entry of the FLR log (Table 4-18). -/
structure FlrEntry where
  fn      : Nat
  opcode  : Nat
  cid     : Nat
  ring    : Nat
  ctx     : Nat
  acked   : Nat
  flrSeq  : Nat
  firstSeq : Nat
  deriving DecidableEq, Repr

/-- The ring engine: rings, commands in consumption order, reservations and the FLR log. -/
structure RingEng where
  tbl     : Tbl Ring
  cmds    : List Cmd
  /-- Ring numbers reserved by a CREATE_RING that waits (R870). -/
  resv    : Tbl (Nat × Nat)
  flrLog  : List FlrEntry
  flrDropped : Nat
  flrCount : Nat
  /-- MSI-X merges in a running holdoff, by event: end tick and vectors addressed (R792). -/
  holdoff : Tbl (Nat × List (Nat × Nat))
  deriving DecidableEq, Repr

/-! ### Tenants -/

/-- The states of a context other than FREE (R39). -/
inductive CtxSt where
  | active
  | orphaned
  | deleting
  deriving DecidableEq, Repr

/-- A context descriptor (Table 2-1). -/
structure Desc where
  ownerFn   : Nat
  weight    : Nat
  rate      : Nat
  gust      : Nat
  staging   : Nat
  pasid     : Nat
  pasidEn   : Bool
  keySlot   : Nat
  keySlotEn : Bool
  cipher    : Nat
  flags     : Nat
  tag       : Nat
  wrMask    : Nat
  rdMask    : Nat
  volQuota  : Nat
  maxStreams : Nat
  maxLabel  : Nat
  xpMask    : Nat
  deriving DecidableEq, Repr

/-- What headwind keeps of a context in one domain (R67, R71, R75 to R77). -/
structure CtxDom where
  guar     : Nat
  bound    : Nat
  /-- Admissions of the last second: tick and bytes. -/
  admits   : List (Nat × Nat)
  /-- Latencies in µs of its data completions, newest first, at most 65,536 (R77). -/
  lats     : List Nat
  /-- Largest charge of the current and of each of the last 64 datasets (R76). -/
  maxs     : List Nat
  deriving DecidableEq, Repr

/-- A context that is not FREE (R39, R67, Table 2-2). -/
structure Ctx where
  st       : CtxSt
  d        : Desc
  bucket   : Int
  /-- Finish tag of the context's last admitted entry (R67). -/
  fin      : Nat
  staged   : Nat
  volUsed  : Nat
  hwUs     : Nat
  hwCount  : Nat
  orphanAborts : Nat
  doms     : Tbl CtxDom
  deriving DecidableEq, Repr

/-- One fair-queuing domain: virtual time and used fetch slots (R64, R67). -/
structure Domain where
  v      : Nat
  wrUsed : Nat
  rdUsed : Nat
  svUsed : Nat
  deriving DecidableEq, Repr

/-- The contexts and the five domains; `refillAt` is the time of the last bucket refill (R67). -/
structure Tenants where
  ctx      : Tbl Ctx
  doms     : Tbl Domain
  refillAt : Nat
  deriving DecidableEq, Repr

/-! ### Keys and nonces -/

/-- The key store, the domain identity, the counter and the journal writer (R355 to R368, Table 7-10). -/
structure Keys where
  tenant  : Tbl KeyVal
  oper    : Tbl KeyVal
  fid     : Nat
  did     : Nat
  ctr     : Nat
  pend    : Nat
  /-- A journal write in progress, for this block. -/
  resv    : Option Nat
  /-- A failed journal write waits: block, interval in ms, and the tick at which to retry (R359). -/
  retry   : Option (Nat × Nat × Nat)
  ok      : Nat
  fails   : Nat
  rejects : Nat
  deriving DecidableEq, Repr

/-! ### Streams -/

/-- An open stream (R244 to R249, Table 5-12, R306). -/
structure Stream where
  ctx     : Nat
  ring    : Nat
  xp      : Nat
  part    : Nat
  read    : Bool
  closing : Bool
  /-- It closes by itself once its acknowledged records are flushed (R83). -/
  dying   : Bool
  /-- Read: the position, as the least RECORD_SEQ not yet passed (R286). -/
  pos     : Nat
  lastAck : Nat
  synced  : Nat
  acked   : Nat
  syncedN : Nat
  /-- Dataset that holds the end of the last packed record. -/
  lastDs  : Nat
  /-- The history run: its first RECORD_SEQ, original bytes packed and key selection (R306). -/
  runBase : Nat
  runBytes : Nat
  runKey  : Nat
  runOpen : Bool
  runData : Bytes
  /-- Records acknowledged and not yet synced: RECORD_SEQ, first and last dataset. -/
  unsynced : List (Nat × Nat × Nat)
  /-- First damaged record not yet reported (R430). -/
  damaged : Option Nat
  deriving DecidableEq, Repr

/-! ### Transports -/

/-- The transport parameter block (Table 11-10). -/
structure XpBlock where
  vCeilA  : Nat
  vCeilB  : Nat
  accel   : Nat
  locVel  : Nat
  tension : Nat
  lowWm   : Nat
  setWm   : Nat
  highWm  : Nat
  restWm  : Nat
  tauMs   : Nat
  leadNs  : Nat
  xover   : Nat
  bhMm    : Nat
  deriving DecidableEq, Repr

/-- The read channel parameter block (Table 10-5). -/
structure RcBlock where
  syncWin  : Nat
  maxErr   : Nat
  verIter  : Nat
  squall   : Nat
  budget   : Nat
  dropThr  : Nat
  dropBits : Nat
  ctle     : Nat
  gainMu   : Nat
  baseMu   : Nat
  asymMu   : Nat
  firMu    : Nat
  timBw    : Nat
  pinRounds : Nat
  pinLlr   : Nat
  rcFlags  : Nat
  targets  : List Nat
  deriving DecidableEq, Repr

/-- The open dataset of a transport: the packed stream so far (R460, Table 9-3). -/
structure OpenDs where
  num      : Nat
  used     : Nat
  firstSeq : Nat
  hdrCount : Nat
  firstHdr : Nat
  ibase    : Nat
  spanIn   : Bool
  hostBytes : Nat
  deriving DecidableEq, Repr

/-- A closed dataset that is not yet verified and ended: its header fields, attempt and verify state. -/
structure ClosedDs where
  hdr      : TapeDs
  /-- Codewords that passed verify, as 144*s + r (R525). -/
  passed   : List Nat
  /-- Rewrites still to be written, in the order decided (R477): decision number, lane and codeword. -/
  pending  : List (Nat × Nat × Nat)
  /-- Rewrite segments written for this attempt, per lane (R528). -/
  rewrites : Tbl Nat
  /-- Consecutive verify failures of the attempt, per lane (R529). -/
  runs     : Tbl Nat
  synced   : Bool
  written  : Bool
  abandon  : Nat
  squalled : List Nat
  dataSegs : Nat
  rewSegs  : Nat
  defSegs  : Nat
  hostBytes : Nat
  tapeBytes : Nat
  deriving DecidableEq, Repr

/-- The position being written: dataset, attempt, segments written on every lane, gate low during the segment in progress
(R570), lead-in separator still to be written (R447). -/
structure CurPos where
  num     : Nat
  attempt : Nat
  seg     : Nat
  cut     : Bool
  lead    : Bool
  /-- Every rewrite goes to this position's own area (R263). -/
  own     : Bool
  deriving DecidableEq, Repr

/-- A mount session (R228 to R234, Table 5-5), with the partition table in force. -/
structure Mount where
  readOnly : Bool
  ew       : Nat
  flushMs  : Nat
  preMin   : Nat
  gen      : Nat
  parts    : List PartEntry
  /-- Partition being written, if a write stream is or was open on it. -/
  wrPart   : Option Nat
  /-- Window of R30: rewrite segments, data and rewrite segments, host bytes, tape bytes per dataset. -/
  window   : List (Nat × Nat × Nat × Nat)
  dsSinceCm : Nat
  openDs   : Option OpenDs
  closed   : List ClosedDs
  cur      : Option CurPos
  /-- Flush windows: pending closure tick (R259, R260). -/
  flushAt  : Option Nat
  /-- Members of the open C3 group written so far, and its first dataset. -/
  c3Count  : Nat
  c3First  : Nat
  /-- Write position: wrap and bits from the start of its data area. -/
  wrWrap   : Nat
  wrBits   : Nat
  /-- Datasets written since the last return from a preemption (R272). -/
  sincePre : Nat
  /-- The tape is away for reads (R269 to R272). -/
  away     : Bool
  /-- Records not yet on tape whose datasets are closed or open. -/
  recs     : List TapeRec
  /-- Number of the next dataset to open (R231). -/
  nextNum  : Nat
  /-- Rewrites have used up the reserve of R237 (R268). -/
  reserveOut : Bool
  ewRaised : Bool
  eopRaised : Bool
  deriving DecidableEq, Repr

/-- MOTION of Table 11-12. -/
inductive Motion where
  | stopped
  | writing
  | reading
  | locating
  | backhitch
  | turnaround
  | ramp
  deriving DecidableEq, Repr

/-- One servo channel (R556 to R562). -/
structure Servo where
  locked   : Bool
  good     : Nat
  lastTf   : Nat
  yNm      : Int
  lpos     : Nat
  lposOk   : Bool
  lposFails : Nat
  index    : Nat
  deriving DecidableEq, Repr

/-- The write-inhibit logic of a transport (Tables 11-3, 11-5 to 11-7). `cond` holds causes 0..5. -/
structure Inhibit where
  pesLimit  : Nat
  pesCount  : Nat
  lostFrames : Nat
  wclkTol   : Nat
  /-- New WI_CFG values apply from the next frame edge (Table 11-6). -/
  cfgNext   : Option (Nat × Nat × Nat × Nat)
  force     : Bool
  cond      : BitVec 6
  cause     : BitVec 6
  wfltLatch : Bool
  wgReq     : Bool
  /-- The re-arm of R567 is complete. -/
  armed     : Bool
  good      : Nat
  pesRun    : Nat
  episodes  : Nat
  counts    : Tbl Nat
  pes       : Int
  deriving DecidableEq, Repr

/-- A dataset in the restore region, with its recovered packed stream (R25, R533, R536). -/
structure Restored where
  part   : Nat
  num    : Nat
  pinned : Bool
  c3     : Bool
  ok     : Bool
  data   : Bytes
  deriving DecidableEq, Repr

/-- A codeword that a read lane has brought in: the lane, the dataset position it stood in (separators passed) and its place
there, if known; the header and descrambled payload as decoded, or the LLRs saved for pinned re-decode (R487, R520, R534). -/
structure ReadCw where
  lane  : Nat
  ord   : Nat
  place : Option Nat
  hdr   : Bytes
  data  : Bytes
  llr   : List Int
  deriving DecidableEq, Repr

/-- Counters of the RW_SUMMARY page (Table 10-9). -/
structure RwSum where
  datasets : Nat
  rewSeg   : Nat
  defSeg   : Nat
  abandon  : Tbl Nat
  pinned   : Nat
  c3       : Nat
  unrec    : Nat
  deriving DecidableEq, Repr

/-- One transport (Table 11-12). -/
structure Xport where
  fitted   : Bool
  calibrating : Bool
  faulted  : Bool
  startup  : Bool
  motionOk : Bool
  rcOk     : Bool
  cart     : Option Cart
  mount    : Option Mount
  /-- A failed cartridge-memory access waits for its retry: tries made, tick, command (R243). -/
  cmTry    : Option (Nat × Nat × Nat)
  blk      : XpBlock
  blkNext  : Option XpBlock
  rc       : RcBlock
  rcNext   : Option RcBlock
  lanesNext : List (Nat × Bool)
  motion   : Motion
  /-- Stop at the next dataset boundary (R580, R584). -/
  stopReq  : Bool
  /-- Stop at the next segment boundary: 1 Write-stop (R759), 2 PFAIL_N (R252). -/
  haltReq  : Nat
  /-- For PFAIL_N, the tick by which WG_REQ is low wherever the segment ends (R252). -/
  haltAt   : Nat
  /-- Made inactive by Throttle (R758). -/
  throttled : Bool
  wrap     : Nat
  reverse  : Bool
  velocity : Nat
  velHist  : List Nat
  target   : Nat
  servo    : Tbl Servo
  lossAt   : Option Nat
  reacqRun : Nat
  wi       : Inhibit
  shkLow   : Bool
  /-- Tt_WFLT_N is low before this tick (Table 11-3). -/
  wfltHighAt : Nat
  /-- Clears of WFLT_LATCH tried without success, and the tick of the next (R573). -/
  wfltTry  : Option (Nat × Nat)
  occ      : Nat
  rsOcc    : Nat
  arrivals : List (Nat × Nat)
  /-- Bytes that left the restore region, with their ticks, over the last 250 ms (R583). -/
  drains   : List (Nat × Nat)
  sust     : Nat
  restored : List Restored
  /-- Codewords of datasets that a read command has not recovered yet (R488). -/
  cws      : List ReadCw
  /-- The dataset that failed to recover, and its retries so far (R533 step 4, Table 16-4 class 5). -/
  reread   : Nat × Nat
  /-- Where a read command wants the head: wrap and LPOS (R25 step 2). -/
  goal     : Option (Nat × Nat)
  /-- Tape run since the velocity passed 1.2 m/s, in µm (R579). -/
  run      : Nat
  /-- Velocity loop ticks, modulo 10 (Table 11-9). -/
  loopTick : Nat
  /-- The lanes' write clock and read sample clock in Hz (R504, R577). -/
  wclk     : Nat
  rclk     : Nat
  pesHist  : List Int
  tensionMn : Nat
  headTemp : Int
  motorMa  : Nat
  torque   : Int
  diffTorque : Int
  dac      : Nat
  backhitches : Nat
  turnarounds : Nat
  reacqs   : Nat
  lposErrs : Nat
  rw       : RwSum
  deriving DecidableEq, Repr

/-! ### Read channel -/

/-- Identity of a codeword on a lane: dataset, attempt, codeword index and its segment's flags. -/
structure CwId where
  num      : Nat
  attempt  : Nat
  cw       : Nat
  rewrite  : Bool
  deferred : Bool
  filler   : Bool
  cut      : Bool
  deriving DecidableEq, Repr

/-- A codeword in a lane's sample store (R519). -/
structure Sample where
  ticket  : Nat
  cls     : CwClass
  what    : CwId
  missed  : Bool
  margin  : Bool
  passes  : Nat
  iters   : Nat
  decoder : Option Nat
  evicted : Bool
  atTick  : Nat
  /-- The equaliser's output, one value a bit; the spans of DROPOUT in it (R508, R515). -/
  y       : List Int
  gaps    : List (Nat × Nat)
  /-- The decoder's extrinsic information so far (R515), and the posterior LLRs of the last pass (R520). -/
  prior   : List Int
  post    : List Int
  ord     : Nat
  place   : Option Nat
  /-- Budget in force when the pass started: VERIFY_LIMIT, or ITER_TOTAL (R523, R547). -/
  limit   : Nat
  deriving DecidableEq, Repr

/-- The search state of a lane (R510). -/
inductive Search where
  | acquisition
  | positionStart
  | tracking
  deriving DecidableEq, Repr

/-- One read lane and its LANE_METRICS counters (Table 10-7). -/
structure Lane where
  search   : Search
  active   : Bool
  dropout  : Bool
  missed   : Bool
  margin   : Bool
  fly      : Nat
  /-- Separators passed since the lane began to read, and segments since the last one while the lane has kept count (R487, R510). -/
  ord      : Nat
  place    : Option Nat
  flight   : List CwId
  store    : List Sample
  gain     : Nat
  snr      : Int
  asym     : Int
  base     : Int
  fir      : List Int
  freq     : Int
  cwDecoded : Nat
  iterSum  : Nat
  unconv   : Nat
  markMissed : Nat
  markMargin : Nat
  dropouts : Nat
  vf       : Tbl Nat
  rewrites : Nat
  squalls  : Nat
  evictions : Nat
  pinnedOk : Nat
  deriving DecidableEq, Repr

/-- One level of the pool parameter block (Table 10-6). -/
structure PoolLevel where
  passes  : Nat
  perPass : Nat
  total   : Nat
  verify  : Nat
  deriving DecidableEq, Repr

/-- The pool parameter block (Table 10-6). -/
structure PoolBlock where
  l0     : PoolLevel
  l1     : PoolLevel
  l2     : PoolLevel
  enter1 : Nat
  exit1  : Nat
  enter2 : Nat
  exit2  : Nat
  dwell  : Nat
  shrink : Bool
  deriving DecidableEq, Repr

/-- The lanes and the decoder pool (Table 10-8). -/
structure ReadCh where
  lanes    : Tbl Lane
  /-- Decoders at work: lane and ticket. -/
  decs     : Tbl (Nat × Nat)
  ticket   : Nat
  blk      : PoolBlock
  blkNext  : Option PoolBlock
  level    : Nat
  /-- 256 µs evaluations since the level was entered (R522). -/
  evals    : Nat
  /-- Busy decoder time since the last evaluation, in ns (R521). -/
  busyNs   : Nat
  uPermille : Nat
  changes  : Nat
  iterVerify : Nat
  iterRestore : Nat
  iterScan : Nat
  l1Us     : Nat
  l2Us     : Nat
  waitMax  : Nat
  /-- Lanes disabled by LANE_DISABLE (R803). -/
  disabled : List Nat
  deriving DecidableEq, Repr

/-! ### Offload service -/

/-- A service job (R315 to R326, Table 6-6). -/
structure Job where
  compress  : Bool
  format    : Nat
  fixed     : Bool
  final     : Bool
  lane      : Nat
  inLen     : Nat
  outLen    : Nat
  expectLen : Nat
  totalIn   : Nat
  totalOut  : Nat
  bitPos    : Nat
  at_       : InfState
  check     : Nat
  /-- The last 32,768 bytes of the uncompressed side, oldest first. -/
  hist      : Bytes
  blockIn   : Nat
  /-- COMPRESS: output bits held back, oldest first, and the deferred match (Table 6-6). -/
  pend      : List Bool
  pendMatch : Nat × Nat
  /-- The pieces of the output buffer: address and length. -/
  outTo     : List (Nat × Nat)
  /-- The status with which a stop request ends it, 0 when there is none, and the command that counts it as aborted (R199). -/
  stopBy    : Nat
  stopFor   : Nat
  deriving DecidableEq, Repr

/-! ### Auxiliary copy engine and telemetry -/

/-- The states of an ACE channel (R603). -/
inductive AceSt where
  | idle
  | armed
  | running
  | done
  | halted
  deriving DecidableEq, Repr

/-- One ACE channel (Tables 12-3 to 12-6). -/
structure Ace where
  st       : AceSt
  cfg      : Word
  trig     : Word
  iter     : Nat
  src      : Nat
  dst      : Nat
  len      : Nat
  pending  : Bool
  err      : Nat
  domain   : Bool
  iterDone : Nat
  doneBytes : Nat
  /-- Bytes of the iteration whose bursts have had their turn (R607). -/
  served   : Nat
  overrun  : Nat
  retries  : Nat
  dstPos   : Nat
  /-- Retries of the failed burst, and the tick at which the next one starts (R618). -/
  retryNo  : Nat
  retryAt  : Option Nat
  /-- DISARM, or a stop, to be applied at the end of the iteration (Table 12-4, R623). -/
  disarm   : Bool
  /-- A SOFTWARE run whose next iteration waits for the end of Lull-2 (R623). -/
  parked   : Bool
  deriving DecidableEq, Repr

/-- What a SERVO stream gathers over its period (Table 12-8): frames and their velocities, published PES values, samples of
tension and motor current. -/
structure SrvAcc where
  frames : Nat
  velSum : Nat
  pesN   : Nat
  pesSum : Int
  pesMin : Int
  pesMax : Int
  pesSq  : Nat
  tenN   : Nat
  tenSum : Nat
  maSum  : Nat
  deriving DecidableEq, Repr

/-- A telemetry stream (R628 to R637, Table 12-9). -/
structure Tele where
  kind    : Nat
  source  : Nat
  ringLog2 : Nat
  periodUs : Nat
  ringAddr : Nat
  tflags  : Nat
  seq16   : Nat
  /-- The record in the capture window, until its channel has copied it. -/
  window  : Option Bytes
  /-- READ_CHANNEL counters at the period's start: codewords, iterations, failures, rewrites, dropouts. -/
  base    : List Nat
  acc     : SrvAcc
  /-- The source was missing when the period began (R632). -/
  part    : Bool
  deriving DecidableEq, Repr

/-- The auxiliary copy engine. -/
structure AceEng where
  ch      : Tbl Ace
  own     : List Nat
  ownViol : Nat
  stopped : Bool
  /-- The channel whose burst was served last (R607). -/
  last    : Nat
  tele    : Tbl Tele
  /-- Contents of the BUFFER space that ACE has written (R605). -/
  buf     : Memory
  deriving DecidableEq, Repr

/-! ### Sideband management port and peripheral ports -/

/-- The protocol states of R647. -/
inductive SmpSt where
  | idle
  | cmd
  | rwait
  | wdata
  | rdata
  | rabort
  deriving DecidableEq, Repr

/-- A peripheral table entry (Table 13-6). -/
structure Periph where
  typ   : Nat
  proto : Nat
  frame : Nat
  clk   : Nat
  div   : Nat
  lead  : Nat
  setup : Nat
  gap   : Nat
  xp    : Nat
  deriving DecidableEq, Repr

/-- The SMP, the mailbox and the peripheral ports. -/
structure Smp where
  st      : SmpSt
  mode3   : Bool
  page    : Nat
  addr    : Nat
  wb      : Nat
  waits   : Nat
  /-- SMP_SDO: the byte being sent, or high impedance (R644). -/
  sdo     : Option Byte
  /-- The byte being sent is SMP_ERR_COUNT, which clears once it is fully shifted out (R650, R687). -/
  rcOut   : Bool
  /-- SCK ignored until SMP_CS_N has next risen (R688). -/
  deaf    : Bool
  /-- VDDIO_MGMT below its range (R859). -/
  blind   : Bool
  err     : BitVec 8
  errCount : Nat
  attn    : BitVec 8
  attnEn  : BitVec 8
  straps  : Byte
  scratch : Byte
  indAddr : Word
  indData : Word
  indBusy : Bool
  indErr  : Nat
  /-- The indirect access in progress: write, increment. -/
  indOp   : Option (Bool × Bool)
  /-- The access met a gate that force-closed (R661). -/
  indLost : Bool
  sqe     : Entry
  cqe     : BitVec 128
  mbxBusy : Bool
  mbxDone : Bool
  mbxData : Memory
  /-- Attention notch: running, and pending until SMP_RB rises (R656, R657). -/
  notch   : Bool
  notchWait : Bool
  periph  : Tbl Periph
  /-- Pieces of at most 64 data bytes that wait behind loop traffic on each port, oldest first (R588). -/
  pspQ    : Tbl (List Out)
  /-- A failed peripheral transaction: tries made and the tick of the next (R684). -/
  pspTry  : Tbl (Nat × Nat)
  /-- Last SMP_STATUS of each peer formatter, or no answer (R685). -/
  peers   : Tbl (Option Byte)
  deriving DecidableEq, Repr

/-! ### Time base -/

/-- The PPS states (Table 14-1). -/
inductive PpsSt where
  | free
  | acquiring
  | locked
  | holdover
  deriving DecidableEq, Repr

/-- A pacing timer (R706 to R708). -/
structure PTimer where
  period  : Nat
  en      : Bool
  align   : Bool
  cfgErr  : Bool
  skipped : Nat
  /-- Grid origin and last firing, in formatter-time ns. -/
  origin  : Int
  last    : Int
  deriving DecidableEq, Repr

/-- An alarm (R709). -/
structure Alarm where
  sec   : Nat
  ns    : Nat
  en    : Bool
  fired : Bool
  deriving DecidableEq, Repr

/-- The time base unit (Tables 14-3, 14-4). -/
structure Tbu where
  sec     : Nat
  ns      : Nat
  f       : Int
  slew    : Int
  slewAt  : Nat
  pps     : PpsSt
  ppsEn   : Bool
  manual  : Bool
  outEn   : Bool
  shift   : Nat
  win     : Nat
  cable   : Int
  lastOff : Int
  outOff  : Int
  outWidth : Nat
  accepted : Nat
  outWin  : Nat
  dups    : Nat
  steps   : Nat
  holdovers : Nat
  snap    : Nat
  /-- Previous edge that was not a duplicate: formatter time in ns, since PPS_EN was set (R698, R722). -/
  prev    : Option Int
  /-- Offsets of the current run of out-of-window edges, newest first (R702). -/
  run     : List Int
  /-- Consecutive accepted edges with |o| at most 1,000 ns (Table 14-1). -/
  near    : Nat
  /-- Tick of the last accepted edge (Table 14-1). -/
  accAt   : Nat
  ppsOut  : Bool
  outFallAt : Nat
  outLast : Int
  timers  : Tbl PTimer
  alarms  : Tbl Alarm
  /-- A SET_TIME AT_PPS that waits: command, seconds and deadline tick (R715, R716). -/
  atPps   : Option (Nat × Nat × Nat)
  deriving DecidableEq, Repr

/-! ### Power, engines, thermal, boot and update -/

/-- PSTATE (Table 13-3), with the Shutdown end state of R760. -/
inductive PState where
  | run
  | lull1
  | lull2
  | lull3
  | waking
  | off
  deriving DecidableEq, Repr

/-- A Lull entry, the Lull state it reached, and the exit from it (R735 to R740). -/
structure LullEntry where
  /-- The ENTER_LULL command. -/
  cmd      : Nat
  /-- ENTRY_SEQ (R743). -/
  seq      : Nat
  target   : Nat
  deadline : Nat
  /-- 0 quiescing, 1 gates closing, 2 committed and gate 14 closing, 3 in the Lull state, 4 waking. -/
  phase    : Nat
  /-- The wake source seen, 0 when none (Table 15-6), whether it came after commit, and when the exit began. -/
  wake     : Nat
  after    : Bool
  wakeAt   : Nat
  /-- Formatter time of the commit. -/
  sec      : Nat
  ns       : Nat
  /-- Longest CLOSING in 16 ns, and gates force-closed. -/
  gateMax  : Nat
  forced   : Nat
  deriving DecidableEq, Repr

/-- One power log entry (Table 15-15). -/
structure PwrLog where
  seq     : Nat
  target  : Nat
  entered : Bool
  wake    : Nat
  flags   : Nat
  sec     : Nat
  ns      : Nat
  exitUs  : Nat
  gateMax : Nat
  forced  : Nat
  deriving DecidableEq, Repr

/-- A fabric domain gate (Tables 15-8, 15-9): state 0 OPEN, 1 CLOSING, 2 CLOSED. -/
structure Gate where
  st      : Nat
  forced  : Bool
  drain   : Nat
  since   : Nat
  closes  : Nat
  refused : Nat
  origin  : Nat
  deriving DecidableEq, Repr

/-- The states of an engine (R750). -/
inductive EngSt where
  | run
  | drain
  | fenced
  | off
  deriving DecidableEq, Repr

/-- An engine (Table 15-10): state, last self-test, and a DRAIN's deadline, OFF request and stopped jobs. -/
structure Engine where
  st       : EngSt
  failed   : Bool
  deadline : Nat
  offReq   : Bool
  stopped  : Nat
  deriving DecidableEq, Repr

/-- The thermal levels (Table 15-11). -/
inductive ThLevel where
  | normal
  | warn
  | throttle
  | writeStop
  | shutdown
  deriving DecidableEq, Repr

/-- The thermal unit (R755 to R762, R776). -/
structure Thermal where
  /-- Last 8 readings of sensors 0..5 and of the diode (6), newest first, in 1/16 degree. -/
  hist     : Tbl (List Int)
  level    : ThLevel
  /-- 1 kHz samples since the level was entered. -/
  dwell    : Nat
  lowWarn  : Nat
  lowThr   : Nat
  lowWs    : Nat
  extEn    : Bool
  extOff   : Int
  extFault : Bool
  keep     : Nat
  /-- Parameters waiting for the next sample (R776). -/
  next     : Option (Nat × Nat × Nat × Bool × Int × Nat)
  latched  : Option ThLevel
  hottest  : Nat
  /-- Ticks of the last transitions, newest first (R761). -/
  recent   : List Nat
  transitions : Nat
  latches  : Nat
  entWarn  : Nat
  entThr   : Nat
  entWs    : Nat
  /-- Deadline of the power-off after Shutdown (R760). -/
  offAt    : Option Nat
  deriving DecidableEq, Repr

/-- A live update in progress (R769 to R772): command, previous image region, phase (1 paused, 2 self-test, 3 paused until the
service jobs that cannot be carried over have stopped), deadline, whether it is a trial boot, and the outcome of a rollback. -/
structure Update where
  cmd      : Nat
  from_    : Nat
  fromVer  : Nat
  phase    : Nat
  /-- Phases 1 and 3: when the pause began; phase 2: when the self-test times out. -/
  deadline : Nat
  pauseUs  : Nat
  carried  : Nat
  aborted  : Nat
  trial    : Bool
  back     : Option Nat
  deriving DecidableEq, Repr

/-- One update log entry (Table 15-15). -/
structure UpdLog where
  seq     : Nat
  from_   : Nat
  to_     : Nat
  outcome : Nat
  rtMask  : Nat
  pauseUs : Nat
  carried : Nat
  aborted : Nat
  deriving DecidableEq, Repr

/-- A lane's loop values as a READ_CHANNEL calibration stored them (R505, R592). -/
structure Loops where
  gain : Nat
  asym : Int
  base : Int
  fir  : List Int
  freq : Int
  deriving DecidableEq, Repr

/-- The boot flash (Table 15-2, R362, R376, R594, R801, R863, R864). Region 0 is IMAGE_A, 1 IMAGE_B, 2 GOLDEN. -/
structure Flash where
  dirOk    : Bool
  /-- The directory: offset and length of the region of each TYPE (Table 15-2). -/
  dir      : Tbl (Nat × Nat)
  images   : Tbl Image
  /-- ACTIVE of BOOT_STATE and its trial flag. -/
  active   : Nat
  trial    : Bool
  staged   : Bool
  /-- Valid entries of the current and of the other nonce sector: FORMATTER_ID and BLOCK, newest first. -/
  nonceCur : List (Nat × Nat)
  nonceOld : List (Nat × Nat)
  /-- The sector that holds the current entries: 0 for NONCE_0, 1 for NONCE_1. -/
  nonceAt  : Nat
  domain   : Option (Nat × Nat × KeyVal)
  calMotion : List Nat
  calRc    : List Nat
  calLoops : Tbl Loops
  retired  : Tbl Nat
  spareUsed : Nat
  disabled : List Nat
  thermal  : Option (Nat × Int)
  board    : Tbl Periph
  subsys   : Nat × Nat
  deriving DecidableEq, Repr

/-- A flash operation of FW_STAGE in progress: command, image and piece written, tries made (R766, R767). -/
structure FlashOp where
  cmd   : Nat
  img   : Image
  data  : Bytes
  tries : Nat
  deriving DecidableEq, Repr

/-- The power management unit and what it governs. -/
structure Pmu where
  ps       : PState
  lull     : Option LullEntry
  entrySeq : Nat
  log      : List PwrLog
  logTotal : Nat
  gates    : Tbl Gate
  gateEvt  : List Nat
  engines  : Tbl Engine
  th       : Thermal
  pfail    : Bool
  booted   : Bool
  /-- The running image and the region it came from (R730, R769). -/
  runImg   : Image
  runReg   : Nat
  upd      : Option Update
  updLog   : List UpdLog
  rtOwed   : List Nat
  flash    : Flash
  flashOp  : Option FlashOp
  /-- Device events held until Run (R793). -/
  held     : List (Nat × Nat × Nat × Nat)
  bufBytes : Nat
  aonOk    : Bool
  deriving DecidableEq, Repr

/-! ### Event router and faults -/

/-- A route (Table 16-3). -/
structure Route where
  vector : Nat
  vfVec  : Nat
  holdUs : Nat
  owner  : Bool
  smp    : Bool
  en     : Bool
  deriving DecidableEq, Repr

/-- One event log entry (Table 16-6). -/
structure EvLog where
  seq    : Nat
  event  : Nat
  kind   : Nat
  route  : Nat
  subj   : Nat
  /-- Function that R790 would deliver it to. -/
  fn     : Nat
  sec    : Nat
  ns     : Nat
  detail : Nat
  deriving DecidableEq, Repr

/-- The event router (Table 16-2) and the event log (R806). -/
structure Evr where
  routes  : Tbl Route
  raised  : List Nat
  counts  : Tbl Nat
  unrouted : Nat
  log     : List EvLog
  logSeq  : Nat
  overwritten : Nat
  deriving DecidableEq, Repr

/-- One fault log entry (Table 16-5). -/
structure FltLog where
  seq     : Nat
  cls     : Nat
  status  : Nat
  event   : Nat
  sec     : Nat
  ns      : Nat
  tries   : Nat
  flags   : Nat
  ctx     : Nat
  xp      : Nat
  lane    : Nat
  ring    : Nat
  cid     : Nat
  ds      : Nat
  recSeq  : Nat
  buf     : Nat
  detail  : Nat
  deriving DecidableEq, Repr

/-- Counters of one fault class (Table 16-7). -/
structure ClsCount where
  detected  : Nat
  recovered : Nat
  reported  : Nat
  retries   : Nat
  deriving DecidableEq, Repr

/-- Fault log, fault counters and the watchdog (R805 to R814, R871). -/
structure Faults where
  log     : List FltLog
  next    : Nat
  overwritten : Nat
  cls     : Tbl ClsCount
  period  : Nat
  fires   : Nat
  aborts  : Nat
  noVictim : Nat
  sramCorr : Nat
  bmuCorr : Nat
  bmuPois : Nat
  deriving DecidableEq, Repr

/-! ### The state -/

/-- The formatter. `pending` is the queue of commands that wait, first in, first out. -/
structure State where
  pending : List Instr
  clk  : Clock
  out  : List Out
  host : HostLink
  rings : RingEng
  ten  : Tenants
  keys : Keys
  strm : Tbl Stream
  xp   : Tbl Xport
  rc   : ReadCh
  svc  : Tbl Job
  ace  : AceEng
  smp  : Smp
  tbu  : Tbu
  pmu  : Pmu
  evr  : Evr
  flt  : Faults
  deriving DecidableEq, Repr

/-! ### Reset values -/

/-- AER registers after reset: the default severities of Table 3-10 (bits 4, 5, 13, 17, 18 and 22 fatal), Uncorrectable Internal
Error and the advisory, internal and overflow correctable bits masked (log entry 17). -/
def Aer.reset : Aer := ⟨0, 0x00400000, 0x00462030, 0, 0x0000E000, 0, 0, 0⟩

/-- A function after reset (Table 3-7, PCIe defaults). -/
def FnState.reset : FnState :=
  { bme := false, d3hot := false, msixEn := false, fnMask := false, relaxed := false, extTag := false,
    tenBit := false, flr := false, err := ⟨false, false, false, false, false, false, 0, 0⟩, msix := [],
    pba := [], tails := [], heads := [], aer := Aer.reset }

/-- The admin ring registers after reset (Table 3-5). -/
def AdminRegs.reset : AdminRegs := ⟨0, 0, 0, false, false⟩

/-- The host link after SYS_RST_N, with SYS_RST_N and PERST_N low. -/
def HostLink.reset : HostLink :=
  { sysRst := false, perst := false, dlActive := false, training := false, crs := false, crsEnd := 0,
    fwReady := false, updatePause := false, golden := false, wakeN := false, memEn := false, vfEn := false,
    vfMse := false, numVfs := 0, ari := false, pasidEn := false, vfCount := 0, admin := AdminRegs.reset, flrOwed := [],
    fns := [] }

/-- An empty session key window (R371, R374). -/
def SkWindow.empty : SkWindow := ⟨0, 0, [], [], []⟩

/-- The ring engine after reset: no ring, no command, an empty FLR log. -/
def RingEng.reset : RingEng := ⟨[], [], [], [], 0, 0, []⟩

/-- No context, every domain at virtual time 0 (R39, R67). -/
def Tenants.reset : Tenants := ⟨[], [], 0⟩

/-- Keys after SYS_RST_N: every slot EMPTY (R368). -/
def Keys.reset : Keys := ⟨[], [], 0, 0, 0, 0, none, none, 0, 0, 0⟩

/-- Defaults of Table 11-10. -/
def XpBlock.default : XpBlock := ⟨600, 600, 100, 60, 850, 250, 500, 750, 500, 2000, 1000, 800, 20⟩

/-- Defaults of Table 10-5. -/
def RcBlock.default : RcBlock := ⟨24, 3, 6, 24, 12, 50, 12, 8, 3, 4, 5, 4, 1, 2, 31, 3, [32, 48, 0, 224, 240]⟩

/-- Defaults of Table 10-3. -/
def PoolBlock.default : PoolBlock :=
  ⟨⟨4, 10, 30, 6⟩, ⟨3, 8, 20, 5⟩, ⟨2, 6, 12, 4⟩, 80, 50, 92, 75, 10, true⟩

/-- The write-inhibit logic after SYS_RST_N (Tables 11-6, 11-7): SERVO_LOST in force. -/
def Inhibit.reset : Inhibit :=
  { pesLimit := 140, pesCount := 1, lostFrames := 3, wclkTol := 250, cfgNext := none, force := false,
    cond := 4, cause := 0, wfltLatch := false, wgReq := false, armed := false, good := 0, pesRun := 0,
    episodes := 0, counts := [], pes := 0 }

/-- An unlocked servo channel. -/
def Servo.reset : Servo := ⟨false, 0, 0, 0, 0, false, 0, 0⟩

/-- A transport after SYS_RST_N, holding the cartridge `c`. -/
def Xport.reset (c : Option Cart) : Xport :=
  { fitted := true, calibrating := false, faulted := false, startup := false, motionOk := false, rcOk := false,
    cart := c, mount := none, cmTry := none, blk := XpBlock.default, blkNext := none, rc := RcBlock.default,
    rcNext := none, lanesNext := [], motion := .stopped, stopReq := false, haltReq := 0, haltAt := 0, throttled := false,
    wrap := 0, reverse := false, velocity := 0, velHist := [], target := 0, servo := [(0, Servo.reset), (1, Servo.reset)],
    lossAt := none, reacqRun := 0, wi := Inhibit.reset, shkLow := false, wfltHighAt := 0, wfltTry := none,
    occ := 0, rsOcc := 0, arrivals := [], drains := [], sust := 0, restored := [], cws := [], reread := (0, 0), goal := none, run := 0, loopTick := 0, wclk := 0, rclk := 0,
    pesHist := [], tensionMn := 0, headTemp := 0,
    motorMa := 0, torque := 0, diffTorque := 0, dac := 0, backhitches := 0, turnarounds := 0, reacqs := 0,
    lposErrs := 0, rw := ⟨0, 0, 0, [], 0, 0, 0⟩ }

/-- A read lane after SYS_RST_N, with the built-in starting values of R865. -/
def Lane.reset : Lane :=
  { search := .acquisition, active := false, dropout := false, missed := true, margin := false, fly := 0, ord := 0, place := none,
    flight := [], store := [], gain := 120, snr := 0, asym := 0, base := 0,
    fir := [0, 0, 0, 0, 64, 0, 0, 0, 0, 0], freq := 0, cwDecoded := 0, iterSum := 0, unconv := 0, markMissed := 0,
    markMargin := 0, dropouts := 0, vf := [], rewrites := 0, squalls := 0, evictions := 0, pinnedOk := 0 }

/-- The read channel after SYS_RST_N, with the disabled lanes of the calibration record. -/
def ReadCh.reset : ReadCh :=
  { lanes := [], decs := [], ticket := 0, blk := PoolBlock.default, blkNext := none, level := 0, evals := 0,
    busyNs := 0, uPermille := 0, changes := 0, iterVerify := 0, iterRestore := 0, iterScan := 0, l1Us := 0,
    l2Us := 0, waitMax := 0, disabled := [] }

/-- An ACE channel after SYS_RST_N (Tables 12-3, 12-5): RING_LOG2 12, RETRY 3, ITER 1, LEN 4. -/
def Ace.reset : Ace :=
  { st := .idle, cfg := 0x0006C000, trig := 0, iter := 1, src := 0, dst := 0, len := 4, pending := false, err := 0,
    domain := false, iterDone := 0, doneBytes := 0, served := 0, overrun := 0, retries := 0, dstPos := 0,
    retryNo := 0, retryAt := none, disarm := false, parked := false }

/-- A SERVO period that has gathered nothing. -/
def SrvAcc.zero : SrvAcc := ⟨0, 0, 0, 0, 0, 0, 0, 0, 0, 0⟩

/-- The copy engine after SYS_RST_N. -/
def AceEng.reset : AceEng := ⟨[], [], 0, false, 0, [], []⟩

/-- The SMP after SYS_RST_N (Tables 13-2, 13-3). -/
def Smp.reset : Smp :=
  { st := .idle, mode3 := false, page := 0, addr := 0, wb := 0, waits := 0, sdo := none, rcOut := false, deaf := false, blind := false,
    err := 0, errCount := 0, attn := 0, attnEn := 0, straps := 0, scratch := 0, indAddr := 0, indData := 0,
    indBusy := false, indErr := 0, indOp := none, indLost := false, sqe := 0, cqe := 0, mbxBusy := false,
    mbxDone := false, mbxData := [], notch := false, notchWait := false, periph := [],
    pspQ := [], pspTry := [], peers := [] }

/-- A pacing timer after SYS_RST_N (R707). -/
def PTimer.reset : PTimer := ⟨0, false, false, false, 0, 0, 0⟩

/-- The time base after SYS_RST_N (R695, Tables 14-3, 14-4). -/
def Tbu.reset : Tbu :=
  { sec := 0, ns := 0, f := 0, slew := 0, slewAt := 0, pps := .free, ppsEn := false, manual := false, outEn := false,
    shift := 3, win := 100, cable := 0, lastOff := 0, outOff := 0, outWidth := 100, accepted := 0, outWin := 0,
    dups := 0, steps := 0, holdovers := 0, snap := 0, prev := none, run := [], near := 0, accAt := 0,
    ppsOut := false, outFallAt := 0, outLast := 0, timers := [], alarms := [], atPps := none }

/-- An OPEN gate after SYS_RST_N (Table 15-9). -/
def Gate.reset : Gate := ⟨0, false, 0, 0, 0, 0, 0⟩

/-- An engine in RUN (R750). -/
def Engine.reset : Engine := ⟨.run, false, 0, false, 0⟩

/-- The thermal unit after SYS_RST_N, with the defaults of R776. -/
def Thermal.reset : Thermal :=
  { hist := [], level := .normal, dwell := 0, lowWarn := 0, lowThr := 0, lowWs := 0, extEn := false, extOff := 0,
    extFault := false, keep := 3, next := none, latched := none, hottest := 0, recent := [], transitions := 0,
    latches := 0, entWarn := 0, entThr := 0, entWs := 0, offAt := none }

/-- A board record entry for peripheral `k` of Table 11-9 of transport `t`: RAW, EXTERNAL clock, the IRQ flag on the
cartridge-memory reader. -/
def Periph.std (t k : Nat) : Periph :=
  { typ := if k = 0 then 1 else if k ≤ 2 then 2 else k, proto := if k = 5 then 8 else 0, frame := 16, clk := 1, div := 1, lead := 5,
    setup := 5, gap := 20, xp := t }

/-- The six peripherals of transport `t` at their selects (R587). -/
def Periph.transport (t : Nat) : Tbl Periph := (List.range 6).map fun k => (16 * (t / 2) + 6 * (t % 2) + k, Periph.std t k)

/-- Where the board builder put the regions of R863, TYPE 1 to 10: image regions of 2 MiB, the others of 64 KiB (log entry 148). -/
def Flash.regions : Tbl (Nat × Nat) :=
  [(1, 0x200000, 0x200000), (2, 0x400000, 0x200000), (3, 0x600000, 0x200000)] ++
    (List.range 7).map fun k => (4 + k, 0x10000 * (k + 1), 0x10000)

/-- The boot flash as R863 and R864 require it before the first release of SYS_RST_N: a valid directory,
IMAGE_A and GOLDEN signed, a board record with the peripherals of four transports, every other region empty. -/
def Flash.initial : Flash :=
  { dirOk := true, dir := Flash.regions, images := [(0, ⟨0x030200, 1, 1, 0⟩), (2, ⟨0x030200, 1, 1, 0⟩)], active := 0, trial := false,
    staged := false, nonceCur := [], nonceOld := [], nonceAt := 0, domain := none, calMotion := [], calRc := [], calLoops := [], retired := [],
    spareUsed := 0, disabled := [], thermal := none,
    board := Periph.transport 0 ++ Periph.transport 1 ++ Periph.transport 2 ++ Periph.transport 3, subsys := (0, 0) }

/-- The PMU after SYS_RST_N, with the boot flash `fl` (which no reset clears). -/
def Pmu.reset (fl : Flash) : Pmu :=
  { ps := .run, lull := none, entrySeq := 0, log := [], logTotal := 0,
    gates := [], gateEvt := [], engines := [], th := Thermal.reset, pfail := false, booted := false, runImg := ⟨0, 0, 0, 0⟩, runReg := 0,
    upd := none, updLog := [], rtOwed := [], flash := fl, flashOp := none, held := [], bufBytes := 0, aonOk := true }

/-- The event router after reset (Table 16-3). -/
def Evr.reset : Evr := ⟨[], [], [], 0, [], 1, 0⟩

/-- Fault counters after SYS_RST_N (R871): watchdog period 2,000 ms. -/
def Faults.reset : Faults := ⟨[], 1, 0, [], 2000, 0, 0, 0, 0, 0, 0⟩

/-- The device right after SYS_RST_N falls, with the boot flash `fl` and the cartridges `c`. -/
def State.afterReset (fl : Flash) (c : Nat → Option Cart) (perst : Bool) (free : Nat) : State :=
  { pending := [], clk := ⟨0, free, false⟩, out := [], host := { HostLink.reset with perst := perst },
    rings := RingEng.reset, ten := Tenants.reset,
    keys := Keys.reset, strm := [],
    xp := [(0, Xport.reset (c 0)), (1, Xport.reset (c 1)), (2, Xport.reset (c 2)), (3, Xport.reset (c 3))],
    rc := ReadCh.reset, svc := [], ace := AceEng.reset, smp := Smp.reset, tbu := Tbu.reset, pmu := Pmu.reset fl,
    evr := Evr.reset, flt := Faults.reset }

/-- The machine right after reset: SYS_RST_N and PERST_N low, no cartridge, the boot flash of R863. -/
def State.reset : State := State.afterReset Flash.initial (fun _ => none) false 0

end Sys2Proof.Machine
end

