-- ==== Sys2Proof/Machine/Bits.lean ====
section
/-! DEFINITION. Little-endian fields of entries, structures and pages (R6), and the constants of time. -/

namespace Sys2Proof.Machine

/-- `n` bytes of `v`, least significant first (R6). -/
def leBytes (n v : Nat) : Bytes :=
  match n with
  | 0 => []
  | m + 1 => BitVec.ofNat 8 v :: leBytes m (v / 256)

/-- The number that bytes spell, least significant first (R6). -/
def leNat (b : Bytes) : Nat :=
  match b with
  | [] => 0
  | x :: r => x.toNat + 256 * leNat r

/-- The field of `size` bytes at byte `off`. -/
def fieldOf {w : Nat} (e : BitVec w) (off size : Nat) : Nat := (e.toNat >>> (8 * off)) % 2 ^ (8 * size)

/-- Bits `lo` to `lo + n - 1` of a number. -/
def bitsOf (v lo n : Nat) : Nat := (v >>> lo) % 2 ^ n

/-- One bit of a number. -/
def bitOf (v i : Nat) : Bool := v.testBit i

/-- A Bool as a bit. -/
def b2n (b : Bool) : Nat := if b then 1 else 0

/-- A signed number in `w` bits, two's complement. -/
def twos (w : Nat) (i : Int) : Nat := (i % (2 ^ w : Int)).toNat

/-- The signed number that `w` bits spell. -/
def signed (w v : Nat) : Int := if v % 2 ^ w < 2 ^ (w - 1) then (v % 2 ^ w : Nat) else ((v % 2 ^ w : Nat) : Int) - 2 ^ w

/-- A structure of `len` bytes with fields (offset, size, value); bytes not listed are zero. -/
def pageOf (len : Nat) (fs : List (Nat × Nat × Nat)) : Bytes :=
  leBytes len (fs.foldl (fun a f => a ||| ((f.2.2 % 2 ^ (8 * f.2.1)) <<< (8 * f.1))) 0)

/-- The fields of a structure moved by `o` bytes. -/
def shiftFields (o : Nat) (fs : List (Nat × Nat × Nat)) : List (Nat × Nat × Nat) :=
  fs.map fun f => (o + f.1, f.2.1, f.2.2)

/-- One byte string after another, numbered: entry `i` of `size` bytes lies at `base + size * i`. -/
def numbered {α : Type} (l : List α) (i : Nat) : List (Nat × α) :=
  match l with
  | [] => []
  | x :: r => (i, x) :: numbered r (i + 1)

/-- Sum of a list of numbers. -/
def sumOf (l : List Nat) : Nat := l.foldl (· + ·) 0

/-- A bit mask with the listed bits set. -/
def maskOf (l : List Nat) : Nat := l.foldl (fun a k => a ||| (1 <<< k)) 0

/-- The least number from `lo`, among `n` candidates, that is not in the list. -/
def leastFree (used : List Nat) (lo n : Nat) : Option Nat :=
  match n with
  | 0 => none
  | m + 1 => if used.elem lo then leastFree used (lo + 1) m else some lo

/-- Rounded up to a multiple. -/
def alignUp (v a : Nat) : Nat := (v + a - 1) / a * a

/-- Ticks of 4 ns in one microsecond, millisecond and second (R694). -/
def usTicks : Nat := 250
def msTicks : Nat := 250000
def secTicks : Nat := 250000000

end Sys2Proof.Machine
end

