-- ==== Sys2Proof/Machine/Check.lean ====
section
/-! DEFINITION. The check codes of the chain (R413, R454, R561) and the KTC tape codec (R296 to R304, R331). -/

namespace Sys2Proof.Machine

/-! ### Check codes -/

/-- One bit of a reflected CRC-32C step. -/
def crc32cBits (c : Word) (n : Nat) : Word :=
  match n with
  | 0 => c
  | m + 1 => crc32cBits (if c.getLsbD 0 then (c >>> 1) ^^^ 0x82F63B78 else c >>> 1) m

/-- CRC-32C of a byte string (R413). -/
def crc32c (b : Bytes) : Nat :=
  ((b.foldl (fun c x => crc32cBits (c ^^^ x.setWidth 32) 8) (0xFFFFFFFF : Word)) ^^^ 0xFFFFFFFF).toNat

/-- CRC16 of the codeword header: polynomial 0x1021, initial value 0xFFFF, most significant bit first (R454). -/
def crc16 (b : Bytes) : BitVec 16 :=
  let step (c : BitVec 16) (_ : Nat) : BitVec 16 := if c.msb then (c <<< 1) ^^^ 0x1021 else c <<< 1
  b.foldl (fun (c : BitVec 16) (x : Byte) => (List.range 8).foldl step (c ^^^ ((x.setWidth 16) <<< 8))) (0xFFFF : BitVec 16)

/-- CRC-8 of the LPOS word over a bit stream: polynomial 0x07, initial value 0 (R561). -/
def crc8 (bits : List Bool) : BitVec 8 :=
  bits.foldl (fun c x => if c.msb != x then (c <<< 1) ^^^ 0x07 else c <<< 1) 0

/-! ### KTC (R296 to R304) -/

/-- One unit of a KTC payload, as its header says: original length, stored, body length, first-of-run, last. -/
structure KtcUnit where
  orig  : Nat
  plain : Bool
  body  : Nat
  reset : Bool
  last  : Bool
  deriving DecidableEq, Repr

/-- Bytes in a full unit (R296). -/
def unitBytes : Nat := 1048576

/-- Copies `n` bytes, one at a time, from `d` bytes back; the window is kept newest first (R303). -/
def ktcCopy (w : Bytes) (d n : Nat) : Bytes :=
  match n with
  | 0 => w
  | m + 1 =>
    match w[d - 1]? with
    | some x => ktcCopy (x :: w) d m
    | none => w

/-- Decodes a CODED body (Table 6-2) onto the window `w`, newest byte first; `left` bytes of the unit remain. The error is
the status of Table 6-5, with the window at the last good token boundary (R332). -/
def ktcTokens (fuel : Nat) (b w : Bytes) (left : Nat) : Except (Nat × Bytes) Bytes :=
  match fuel, b with
  | _, [] => if left = 0 then .ok w else .error (0x25, w)
  | 0, _ => .error (0x25, w)
  | n + 1, t :: r =>
    let k := t.toNat
    if k < 0x7F then
      if left < k + 1 ∨ r.length < k + 1 then .error (0x25, w)
      else ktcTokens n (r.drop (k + 1)) ((r.take (k + 1)).reverse ++ w) (left - (k + 1))
    else if k = 0x7F then .error (0x23, w)
    else
      let e := if k = 0xFF then 2 else 0
      let len := if k = 0xFF then 131 + leNat (r.take 2) else k - 0x80 + 4
      let d := leNat ((r.drop e).take 2) + 1
      if r.length < e + 2 then .error (0x25, w)
      else if w.length < d then .error (0x24, w)
      else if left < len then .error (0x25, w)
      else ktcTokens n (r.drop (e + 2)) (ktcCopy w d len) (left - len)

/-- The header of the unit at the front of a payload (Table 6-1). -/
def ktcHeader (b : Bytes) : KtcUnit :=
  let u := leNat (b.take 4)
  ⟨u % 2 ^ 21, bitsOf u 21 2 == 1, leNat ((b.drop 4).take 4) % 2 ^ 21, bitOf u 24, bitOf u 23⟩

/-- Are the header's encodings legal (Table 6-5)? -/
def ktcHeaderOk (b : Bytes) (first : Bool) : Bool :=
  let u := leNat (b.take 4)
  let k := ktcHeader b
  decide (u < 2 ^ 25) && decide (bitsOf u 21 2 ≤ 1) && decide (leNat ((b.drop 4).take 4) < 2 ^ 21) &&
  decide (1 ≤ k.orig ∧ k.orig ≤ unitBytes) && decide (1 ≤ k.body ∧ k.body ≤ unitBytes) && (first || !k.reset)

/-- Decodes units from the front of a payload onto the window `w`; answers the units and the window. A layout that no row of
Table 6-5 names (a unit that runs past the payload, bytes after the last unit, lengths that do not add up to ORIG_LEN)
answers MEDIA_FORMAT (Table 4-5). An error carries the window at the last good token boundary (R332). -/
def ktcUnits (fuel : Nat) (b w : Bytes) (first : Bool) : Except (Nat × Bytes) (List KtcUnit × Bytes) :=
  match fuel with
  | 0 => .error (0x28, w)
  | n + 1 =>
    if b.length < 8 then .error (0x28, w)
    else if !ktcHeaderOk b first then .error (0x23, w)
    else
      let k := ktcHeader b
      let w := if k.reset then [] else w
      let body := (b.drop 8).take k.body
      let rest := b.drop (8 + k.body)
      if k.plain ∧ k.body ≠ k.orig then .error (0x25, w)
      else if body.length < k.body ∨ rest.length < 4 then .error (0x28, w)
      else
        match (if k.plain then Except.ok (body.reverse ++ w) else ktcTokens body.length body w k.orig) with
        | .error e => .error e
        | .ok w =>
          if leNat (rest.take 4) ≠ crc32c (w.take k.orig).reverse then .error (0x26, w)
          else if k.last then (if rest.length = 4 then .ok ([k], w) else .error (0x28, w))
          else match ktcUnits n (rest.drop 4) w false with
            | .error e => .error e
            | .ok (ks, w) => .ok (k :: ks, w)

/-- Decodes a KTC payload after the history `hist` (oldest byte first): its units and original bytes; an error carries the original
bytes up to the last good token boundary (R332). -/
def ktcDecode (hist payload : Bytes) (origLen : Nat) : Except (Nat × Bytes) (List KtcUnit × Bytes) :=
  match ktcUnits (payload.length / 12 + 1) payload hist.reverse true with
  | .error (e, w) => .error (e, (w.take (w.length - hist.length)).reverse)
  | .ok (ks, w) => if sumOf (ks.map (·.orig)) = origLen then .ok (ks, (w.take origLen).reverse) else .error (0x28, [])

/-- Every unit but the last is full (R296), and a CODED body is shorter than its original (R300). -/
def unitsFull (ks : List KtcUnit) : Bool :=
  match ks with
  | [] => false
  | [k] => k.last && (k.plain || decide (k.body < k.orig))
  | k :: r => decide (k.orig = unitBytes) && !k.last && (k.plain || decide (k.body < k.orig)) && unitsFull r

/-- Is `coded` a payload that a compressor lane may make of `data` (R296 to R304)? The choice of tokens is free. -/
def ktcCodes (hist : Bytes) (runStart : Bool) (data coded : Bytes) : Bool :=
  match ktcDecode (if runStart then [] else hist) coded data.length with
  | .ok (ks, d) => d == data && unitsFull ks && ((ks.head?).elim false fun k => k.reset == runStart)
  | .error _ => false

end Sys2Proof.Machine
end

