-- ==== Sys2Proof/Machine/Deflate.lean ====
section
/-! DEFINITION. The DEFLATE decoder of the offload service: RFC 1951 blocks in raw, zlib and gzip wrappers, with the errors
of Table 6-5 and the stops of R321 to R323 (R314, R317, R318, R331 to R333). -/

namespace Sys2Proof.Machine

/-! ### Check values -/

/-- One bit of a reflected CRC-32 step (RFC 1952). -/
def crc32Bits (c : Word) (n : Nat) : Word :=
  match n with
  | 0 => c
  | m + 1 => crc32Bits (if c.getLsbD 0 then (c >>> 1) ^^^ 0xEDB88320 else c >>> 1) m

/-- The running CRC-32 after more bytes; 0 before any. -/
def crc32 (c : Nat) (b : Bytes) : Nat :=
  ((b.foldl (fun c x => crc32Bits (c ^^^ x.setWidth 32) 8) (BitVec.ofNat 32 c ^^^ 0xFFFFFFFF)) ^^^ 0xFFFFFFFF).toNat

/-- The running Adler-32 after more bytes; 1 before any (RFC 1950). -/
def adler32 (c : Nat) (b : Bytes) : Nat :=
  let r := b.foldl (fun p x => let a := (p.1 + x.toNat) % 65521; (a, (p.2 + a) % 65521)) (c % 65536, c / 65536)
  r.2 * 65536 + r.1

/-- CHECK of a format (Table 6-6): its start value and its update. -/
def checkStart (format : Nat) : Nat := if format = 1 then 1 else 0
def checkMore (format c : Nat) (b : Bytes) : Nat :=
  match format with
  | 1 => adler32 c b
  | 2 => crc32 c b
  | _ => 0

/-! ### Bits and codes -/

/-- What one item of a stream gives: more input is needed, an error status, or a value with the rest of the bits. -/
inductive Got (α : Type) where
  | need
  | bad (status : Nat)
  | ok (v : α) (rest : List Bool)

/-- Goes on with a value. -/
def Got.bind {α β : Type} (g : Got α) (f : α → List Bool → Got β) : Got β :=
  match g with
  | .need => .need
  | .bad e => .bad e
  | .ok v r => f v r

/-- The bits of a byte string, least significant first (RFC 1951). -/
def bitsOfBytes (b : Bytes) : List Bool := (b.map fun x => (List.range 8).map x.getLsbD).flatten

/-- `n` bits, least significant first. -/
def getBits (n : Nat) (l : List Bool) : Got Nat :=
  match n, l with
  | 0, l => .ok 0 l
  | _ + 1, [] => .need
  | k + 1, b :: r => (getBits k r).bind fun v r => .ok (b2n b + 2 * v) r

/-- Symbols that have a code of `len` bits. -/
def symsOf (lens : List Nat) (len : Nat) : List Nat := ((numbered lens 0).filter fun p => p.2 == len).map (·.1)

/-- Reads a symbol of a canonical Huffman code (RFC 1951, 3.2.2): `code` and `first` at `len` bits. -/
def getSym (lens : List Nat) (fuel len code first : Nat) (l : List Bool) : Got Nat :=
  match fuel, l with
  | 0, _ => .bad 0x23
  | _ + 1, [] => .need
  | k + 1, b :: r =>
    let c := code + b2n b
    let s := symsOf lens len
    match s[c - first]? with
    | some v => if first ≤ c then .ok v r else .bad 0x23
    | none => getSym lens k (len + 1) (2 * c) (2 * (first + s.length)) r

/-- Reads a symbol. -/
def huffSym (lens : List Nat) (l : List Bool) : Got Nat := getSym lens 15 1 0 0 l

/-- 2^15 times the Kraft sum of a code. -/
def kraft (lens : List Nat) : Nat := sumOf (lens.map fun n => if n = 0 then 0 else 2 ^ (15 - n))

/-- Is the code complete, or a single distance code (Table 6-5)? -/
def lensOk (lens : List Nat) (dist : Bool) : Bool :=
  kraft lens == 2 ^ 15 || (dist && decide ((lens.filter (· != 0)).length ≤ 1))

/-- Base length and extra bits of a length symbol, and base distance and extra bits of a distance symbol (RFC 1951, 3.2.5). -/
def lenBase (s : Nat) : Nat × Nat :=
  let k := s - 257
  if k < 8 then (3 + k, 0) else if k = 28 then (258, 0) else (3 + (4 + k % 4) * 2 ^ (k / 4 - 1), k / 4 - 1)
def distBase (s : Nat) : Nat × Nat := if s < 4 then (1 + s, 0) else (1 + (2 + s % 2) * 2 ^ (s / 2 - 1), s / 2 - 1)

/-- The code lengths of a fixed Huffman block. -/
def fixedLit : List Nat := List.replicate 144 8 ++ List.replicate 112 9 ++ List.replicate 24 7 ++ List.replicate 8 8
def fixedDist : List Nat := List.replicate 32 5

/-- The order of the code length code lengths (RFC 1951, 3.2.7). -/
def clOrder : List Nat := [16, 17, 18, 0, 8, 7, 9, 6, 10, 5, 11, 4, 12, 3, 13, 2, 14, 1, 15]

/-- Reads `n` numbers of three bits. -/
def getTrios (n : Nat) (l : List Bool) : Got (List Nat) :=
  match n with
  | 0 => .ok [] l
  | k + 1 => (getBits 3 l).bind fun v r => (getTrios k r).bind fun vs r => .ok (v :: vs) r

/-- Reads code lengths until `n` are known; `acc` holds them newest first. -/
def getLens (cl : List Nat) (n fuel : Nat) (acc : List Nat) (l : List Bool) : Got (List Nat) :=
  match fuel with
  | 0 => .bad 0x23
  | k + 1 =>
    if n ≤ acc.length then (if acc.length = n then .ok acc.reverse l else .bad 0x23)
    else (huffSym cl l).bind fun s r =>
      if s < 16 then getLens cl n k (s :: acc) r
      else if s = 16 then
        match acc with
        | [] => .bad 0x23
        | a :: _ => (getBits 2 r).bind fun x r => getLens cl n k (List.replicate (3 + x) a ++ acc) r
      else (getBits (if s = 17 then 3 else 7) r).bind fun x r =>
        getLens cl n k (List.replicate ((if s = 17 then 3 else 11) + x) 0 ++ acc) r

/-- Reads the tables of a dynamic block. -/
def getTables (l : List Bool) : Got (List Nat × List Nat) :=
  (getBits 5 l).bind fun hlit r => (getBits 5 r).bind fun hdist r => (getBits 4 r).bind fun hclen r =>
    (getTrios (hclen + 4) r).bind fun cs r =>
      let cl := (List.range 19).map fun i => ((clOrder.zip cs).find? fun p => p.1 == i).elim 0 (·.2)
      if !lensOk cl false then .bad 0x23
      else (getLens cl (hlit + 257 + hdist + 1) 320 [] r).bind fun ls r =>
        let lit := ls.take (hlit + 257)
        let dist := ls.drop (hlit + 257)
        if lensOk lit false && lensOk dist true then .ok (lit, dist) r else .bad 0x23

/-! ### Items -/

/-- Bits to skip to the next byte boundary after `used` bits. -/
def alignBits (used : Nat) : Nat := (8 - used % 8) % 8

/-- Reads `n` whole bytes. -/
def getBytes (n : Nat) (l : List Bool) : Got Bytes :=
  match n with
  | 0 => .ok [] l
  | k + 1 => (getBits 8 l).bind fun v r => (getBytes k r).bind fun vs r => .ok (BitVec.ofNat 8 v :: vs) r

/-- Bytes up to and with a zero. -/
def getString (fuel : Nat) (l : List Bool) : Got Bytes :=
  match fuel with
  | 0 => .bad 0x29
  | k + 1 => (getBits 8 l).bind fun v r => if v = 0 then .ok [0] r else (getString k r).bind fun vs r => .ok (BitVec.ofNat 8 v :: vs) r

/-- The zlib header (Table 6-5). -/
def zlibHeader (l : List Bool) : Got Unit :=
  (getBits 8 l).bind fun cmf r =>
    if cmf % 16 ≠ 8 ∨ 7 < cmf / 16 then .bad 0x23
    else (getBits 8 r).bind fun flg r =>
      if (cmf * 256 + flg) % 31 ≠ 0 then .bad 0x26 else if bitOf flg 5 then .bad 0x29 else .ok () r

/-- The optional fields of a gzip header, with the bytes read (RFC 1952). -/
def gzipFields (flg : Nat) (fixed : Bytes) (l : List Bool) : Got Bytes :=
  (if bitOf flg 2 then (getBytes 2 l).bind fun n r => (getBytes (leNat n) r).bind fun x r => .ok (n ++ x) r else .ok [] l).bind
    fun ex r => (if bitOf flg 3 then getString 65537 r else .ok [] r).bind
    fun nm r => (if bitOf flg 4 then getString 65537 r else .ok [] r).bind
    fun cm r => .ok (fixed ++ ex ++ nm ++ cm) r

/-- The gzip header (R317, Table 6-5). -/
def gzipHeader (l : List Bool) : Got Unit :=
  (getBytes 2 l).bind fun m r =>
    if leNat m ≠ 0x8B1F then .bad 0x23
    else (getBits 8 r).bind fun cm r =>
      if cm ≠ 8 then .bad 0x29
      else (getBits 8 r).bind fun flg r =>
        if 32 ≤ flg then .bad 0x23
        else (getBytes 6 r).bind fun rest r =>
          match gzipFields flg (m ++ [8, BitVec.ofNat 8 flg] ++ rest) r with
          | .need => if 8 * 65526 < r.length then .bad 0x29 else .need
          | .bad e => .bad e
          | .ok h r =>
            let n := h.length + if bitOf flg 1 then 2 else 0
            if 65536 < n then .bad 0x29
            else if bitOf flg 1 then
              (getBytes 2 r).bind fun c r => if leNat c = crc32 0 h % 65536 then .ok () r else .bad 0x26
            else .ok () r

/-- A block header; `used` bits of the stream precede it. -/
def blockHeader (used : Nat) (l : List Bool) : Got InfState :=
  (getBits 1 l).bind fun fin r => (getBits 2 r).bind fun typ r =>
    match typ with
    | 0 => (getBits (alignBits (used + 3)) r).bind fun _ r => (getBits 16 r).bind fun len r => (getBits 16 r).bind fun nlen r =>
        if len + nlen = 65535 then .ok (.stored len (fin == 1)) r else .bad 0x23
    | 1 => .ok (.huff (fin == 1) fixedLit fixedDist) r
    | 2 => (getTables r).bind fun t r => .ok (.huff (fin == 1) t.1 t.2) r
    | _ => .bad 0x23

/-- What a Huffman token emits: a literal, a match of length and distance, or the block's end. -/
inductive Token where
  | lit (b : Byte)
  | copy (len dist : Nat)
  | stop
  deriving DecidableEq, Repr

/-- A token of a Huffman block. -/
def getToken (lit dist : List Nat) (l : List Bool) : Got Token :=
  (huffSym lit l).bind fun s r =>
    if s < 256 then .ok (.lit (BitVec.ofNat 8 s)) r
    else if s = 256 then .ok .stop r
    else if 285 < s then .bad 0x23
    else (getBits (lenBase s).2 r).bind fun x r => (huffSym dist r).bind fun d r =>
      if 29 < d then .bad 0x23
      else (getBits (distBase d).2 r).bind fun y r => .ok (.copy ((lenBase s).1 + x) ((distBase d).1 + y)) r

/-- The state after a block. -/
def afterBlock (format : Nat) (last : Bool) : InfState :=
  if !last then .block else if format = 0 then .ended else .trailer

/-- The wrapper trailer: Adler-32, or CRC-32 and ISIZE; it starts at a byte boundary. -/
def getTrailer (format used check total : Nat) (l : List Bool) : Got Unit :=
  (getBits (alignBits used) l).bind fun _ r =>
    if format = 1 then (getBytes 4 r).bind fun b r => if leNat b.reverse = check then .ok () r else .bad 0x26
    else (getBytes 4 r).bind fun c r =>
      if leNat c ≠ check then .bad 0x26
      else (getBytes 4 r).bind fun n r => if leNat n = total % 2 ^ 32 then .ok () r else .bad 0x26

/-- Where a decoder stands: state, bits left, bits used of this input, window (newest first), bytes produced in all and here
(newest first) and the check value. -/
structure Inf where
  at_   : InfState
  bits  : List Bool
  used  : Nat
  win   : Bytes
  total : Nat
  out   : Bytes
  check : Nat

/-- How a decoder stops: 0 for the end of the stream or of the input, 0x40 for want of output space, an error, or a stop request. -/
inductive Stop where
  | ended
  | input
  | full
  | request
  | error (status : Nat)

/-- One item: the new state with the bytes it emits, newest first. -/
def infItem (format : Nat) (i : Inf) : Got (InfState × Bytes) :=
  match i.at_ with
  | .header => match format with
    | 0 => .ok (.block, []) i.bits
    | 1 => (zlibHeader i.bits).bind fun _ r => .ok (.block, []) r
    | _ => (gzipHeader i.bits).bind fun _ r => .ok (.block, []) r
  | .block => (blockHeader i.used i.bits).bind fun s r => .ok (s, []) r
  | .stored 0 last => .ok (afterBlock format last, []) i.bits
  | .stored (n + 1) last => (getBits 8 i.bits).bind fun v r => .ok (.stored n last, [BitVec.ofNat 8 v]) r
  | .huff last lit dist => (getToken lit dist i.bits).bind fun t r => match t with
    | .lit b => .ok (.huff last lit dist, [b]) r
    | .copy n d =>
      if i.win.length < d ∨ 32768 < d then .bad 0x24 else .ok (.huff last lit dist, (ktcCopy i.win d n).take n) r
    | .stop => .ok (afterBlock format last, []) r
  | .trailer => (getTrailer format i.used i.check i.total i.bits).bind fun _ r => .ok (.ended, []) r
  | .ended => .need

/-- Decodes item after item: `room` bytes of output, `expect` bytes in all (0 for no limit), and a stop request after `stopAt`
items (R321 to R323, R331 to R333, R338). -/
def infRun (format expect room : Nat) (stopAt : Option Nat) (fuel : Nat) (i : Inf) : Inf × Stop :=
  match fuel with
  | 0 => (i, .input)
  | k + 1 =>
    if i.at_ = .ended then (i, .ended)
    else if stopAt = some 0 then (i, .request)
    else match infItem format i with
      | .need => (i, .input)
      | .bad e => (i, .error e)
      | .ok (s, b) r =>
        if expect ≠ 0 ∧ expect < i.total + b.length then (i, .error 0x25)
        else if room < i.out.length + b.length then (i, .full)
        else
          let j : Inf := {
            at_ := s, bits := r, used := i.used + (i.bits.length - r.length), win := (b ++ i.win).take 32768,
            total := i.total + b.length, out := b ++ i.out, check := checkMore format i.check b.reverse }
          infRun format expect room (stopAt.map (· - 1)) k j

/-- Whole bytes consumed, and the bits of the next one (R321). -/
def usedBytes (i : Inf) : Nat := i.used / 8
def usedBits (i : Inf) : Nat := i.used % 8

/-- DSTATE of Table 6-6. -/
def infCode (s : InfState) : Nat :=
  match s with
  | .header => 0
  | .block => 1
  | .stored _ _ => 2
  | .huff _ _ _ => 3
  | .trailer => 4
  | .ended => 4

/-- The wrapper header that the compressor writes (R316). -/
def wrapHeader (format : Nat) : Bytes :=
  match format with
  | 1 => [0x78, 0x9C]
  | 2 => [0x1F, 0x8B, 0x08, 0x00, 0, 0, 0, 0, 0x00, 0xFF]
  | _ => []


end Sys2Proof.Machine
end

