-- ==== Sys2Proof/Machine/Compress.lean ====
section
/-! DEFINITION. The DEFLATE encoder of the offload service: blocks of 65,536 input bytes in the smallest of the three codings, in raw,
zlib and gzip wrappers, stopping only between items (R315, R316, R321 to R323, R339, R340). Which matches and which dynamic
tables a lane picks is open: Config.lzMatch, Config.lzDeferred and Config.dynTables (log entry 128). -/

namespace Sys2Proof.Machine

/-! ### Codes -/

/-- The bytes that bits spell, least significant bit first; what does not fill a byte is left out. -/
def bytesOfBits (l : List Bool) : Bytes :=
  match l with
  | a :: b :: c :: d :: e :: f :: g :: h :: r =>
    BitVec.ofNat 8 (maskOf (((numbered [a, b, c, d, e, f, g, h] 0).filter (·.2)).map (·.1))) :: bytesOfBits r
  | _ => []

/-- The `n` low bits of a number, least significant first. -/
def valBits (n v : Nat) : List Bool := (List.range n).map v.testBit

/-- The first code of `n` bits of a canonical Huffman code (RFC 1951, 3.2.2). -/
def firstCode (lens : List Nat) (n : Nat) : Nat :=
  match n with
  | 0 => 0
  | k + 1 => 2 * (firstCode lens k + if k = 0 then 0 else (symsOf lens k).length)

/-- The code of a symbol, first bit first. A symbol without a code, which only an input that breaks R326 can ask for, gives free bits. -/
def codeBits (lens : List Nat) (sym : Nat) : List Bool :=
  match lens[sym]? with
  | some (k + 1) =>
    let v := firstCode lens (k + 1) + ((symsOf lens (k + 1)).takeWhile (· != sym)).length
    (List.range (k + 1)).map fun i => v.testBit (k - i)
  | _ => bitsOfBytes (Config.freeBytes sym)

/-- The symbol of a match length, and of a distance (RFC 1951, 3.2.5). -/
def lenSym (n : Nat) : Nat := 256 + ((List.range 29).filter fun k => decide ((lenBase (257 + k)).1 ≤ n)).length
def distSym (d : Nat) : Nat := ((List.range 30).filter fun k => decide ((distBase k).1 ≤ d)).length - 1

/-- The bits of a token. -/
def tokenBits (lit dist : List Nat) (t : Token) : List Bool :=
  match t with
  | .lit b => codeBits lit b.toNat
  | .stop => codeBits lit 256
  | .copy n d =>
    codeBits lit (lenSym n) ++ valBits (lenBase (lenSym n)).2 (n - (lenBase (lenSym n)).1) ++
    codeBits dist (distSym d) ++ valBits (distBase (distSym d)).2 (d - (distBase (distSym d)).1)

/-- Have the tables a code for every symbol of the token? -/
def tokenCoded (lit dist : List Nat) (t : Token) : Bool :=
  let has (l : List Nat) (s : Nat) : Bool := (l[s]?).elim false (· != 0)
  match t with
  | .lit b => has lit b.toNat
  | .stop => has lit 256
  | .copy n d => has lit (lenSym n) && has dist (distSym d)

/-! ### Tokens of a block -/

/-- Is it a match: 3 to 258 bytes at a distance of at most 32,768 that repeat what came before (Table 6-3)? -/
def isMatch (win rest : Bytes) (m : Nat × Nat) : Bool :=
  decide (3 ≤ m.1 ∧ m.1 ≤ 258 ∧ m.1 ≤ rest.length ∧ 1 ≤ m.2 ∧ m.2 ≤ 32768 ∧ m.2 ≤ win.length) &&
  ((ktcCopy win m.2 m.1).take m.1).reverse == rest.take m.1

/-- The next token of a block whose remaining bytes are `rest`: the match that the lane picks, or a literal. -/
def nextToken (pend : Nat × Nat) (win rest : Bytes) : Token :=
  match rest with
  | [] => .stop
  | b :: _ =>
    let m := Config.lzMatch pend win rest
    if isMatch win rest m then .copy m.1 m.2 else .lit b

/-- Input bytes of a token. -/
def tokenBytes (t : Token) : Nat :=
  match t with
  | .lit _ => 1
  | .copy n _ => n
  | .stop => 0

/-- A window after `n` bytes of input. -/
def slide (win rest : Bytes) (n : Nat) : Bytes := ((rest.take n).reverse ++ win).take 32768

/-- The tokens of a block, the end of block last. -/
def blockTokens (fuel : Nat) (pend : Nat × Nat) (win rest : Bytes) : List Token :=
  match fuel with
  | 0 => [.stop]
  | k + 1 =>
    match nextToken pend win rest with
    | .stop => [.stop]
    | t => t :: blockTokens k (0, 0) (slide win rest (tokenBytes t)) (rest.drop (tokenBytes t))

/-! ### Block headers -/

/-- Bits of the stored coding of `n` bytes after `used` bits; LEN holds at most 65,535, so a full block takes two (RFC 1951, 3.2.4). -/
def storedSize (used n : Nat) : Nat := 3 + alignBits (used + 3) + 32 + 8 * n + if 65535 < n then 40 else 0

/-- The header of a stored block of `n` bytes after `used` bits. -/
def storedHeader (used n : Nat) (last : Bool) : List Bool :=
  [last, false, false] ++ List.replicate (alignBits (used + 3)) false ++ valBits 16 n ++ valBits 16 (65535 - n)

/-- The dynamic tables for a block, with their bits, when they are good and code all of it. -/
def dynCoding (win data : Bytes) (toks : List Token) : Option (List Nat × List Nat × List Bool) :=
  let b := Config.dynTables win data
  match getTables b with
  | .ok t [] => if toks.all (tokenCoded t.1 t.2) then some (t.1, t.2, b) else none
  | _ => none

/-- Bits of a list of tokens. -/
def sizeOf_ (lit dist : List Nat) (toks : List Token) : Nat := sumOf (toks.map fun t => (tokenBits lit dist t).length)

/-- The state and the header of a block: the smallest of the stored, fixed and dynamic codings, and of equal ones the first
(R315). The second part of a full stored block is stored too; an empty block is fixed, 10 bits long (R340). -/
def blockStart (fixed last second : Bool) (used : Nat) (pend : Nat × Nat) (win data : Bytes) : InfState × List Bool :=
  let toks := blockTokens data.length pend win data
  let st := storedSize used data.length
  let fx := 3 + sizeOf_ fixedLit fixedDist toks
  let dyn := if fixed || data.isEmpty then none else dynCoding win data toks
  let dn := dyn.map fun d => 3 + d.2.2.length + sizeOf_ d.1 d.2.1 toks
  let no (n : Nat) : Bool := dn.elim true fun d => decide (n ≤ d)
  let stored : InfState × List Bool :=
    let n := min data.length 65535
    (.stored n (last && decide (data.length ≤ 65535)), storedHeader used n (last && decide (data.length ≤ 65535)))
  if second || (decide (st ≤ fx) && no st) then stored
  else match dyn with
    | some d => if fx ≤ dn.getD fx then (.huff last fixedLit fixedDist, [last, true, false])
        else (.huff last d.1 d.2.1, [last, false, true] ++ d.2.2)
    | none => (.huff last fixedLit fixedDist, [last, true, false])

/-! ### The encoder -/

/-- Where an encoder stands: state, input left and used, window (newest first), input bytes of its block, deferred match, output bits
(oldest first, those held back included), check value, and input bytes in all. -/
structure Enc where
  at_     : InfState
  rest    : Bytes
  used    : Nat
  win     : Bytes
  blockIn : Nat
  pend    : Nat × Nat
  bits    : List Bool
  check   : Nat
  total   : Nat

/-- The encoder with more output and a new state. -/
def Enc.emit (e : Enc) (a : InfState) (b : List Bool) : Enc := { e with at_ := a, bits := e.bits ++ b }

/-- The encoder after `n` bytes of its block. -/
def Enc.eat (format : Nat) (e : Enc) (n : Nat) : Enc :=
  { e with rest := e.rest.drop n, used := e.used + n, win := slide e.win e.rest n, blockIn := e.blockIn + n, pend := (0, 0),
           check := checkMore format e.check (e.rest.take n), total := e.total + n }

/-- The encoder past the end of a block; a raw stream ends on a byte boundary. -/
def Enc.close (format : Nat) (e : Enc) (last : Bool) (b : List Bool) : Enc :=
  let e := { e.emit (afterBlock format last) b with blockIn := 0 }
  if e.at_ = .ended then e.emit .ended (List.replicate (alignBits e.bits.length) false) else e

/-- The wrapper trailer (RFC 1950, RFC 1952). -/
def trailerBytes (format check total : Nat) : Bytes :=
  if format = 1 then (leBytes 4 check).reverse else leBytes 4 check ++ leBytes 4 (total % 2 ^ 32)

/-- One item; none when the input does not form it (R323): a block begins once all its input is there, that is 65,536 bytes, or the
end of a FINAL job (R315). -/
def encItem (format : Nat) (fixed final : Bool) (e : Enc) : Option Enc :=
  let n := 65536 - e.blockIn
  match e.at_ with
  | .header => some (e.emit .block (bitsOfBytes (wrapHeader format)))
  | .block =>
    if n ≤ e.rest.length ∨ final then
      let b := blockStart fixed (final && decide (e.rest.length ≤ n)) (e.blockIn != 0) e.bits.length e.pend e.win (e.rest.take n)
      some (e.emit b.1 b.2)
    else none
  | .stored 0 last =>
    some (if !last && e.blockIn == 65535 then e.emit .block [] else e.close format last [])
  | .stored (k + 1) last =>
    match e.rest with
    | [] => none
    | b :: _ => some ((e.emit (.stored k last) (bitsOfBytes [b])).eat format 1)
  | .huff last lit dist =>
    if n = 0 ∨ (e.rest = [] ∧ final) then some (e.close format last (tokenBits lit dist .stop))
    else match nextToken e.pend e.win (e.rest.take n) with
      | .stop => none
      | t => some ((e.emit e.at_ (tokenBits lit dist t)).eat format (tokenBytes t))
  | .trailer =>
    some (e.emit .ended (List.replicate (alignBits e.bits.length) false ++ bitsOfBytes (trailerBytes format e.check e.total)))
  | .ended => none

/-- Encodes item after item into `room` bytes of output, with a stop request after `stopAt` items (R321 to R323, R338). -/
def encRun (format : Nat) (fixed final : Bool) (room : Nat) (stopAt : Option Nat) (fuel : Nat) (e : Enc) : Enc × Stop :=
  match fuel with
  | 0 => (e, .input)
  | k + 1 =>
    if e.at_ = .ended then (e, .ended)
    else if stopAt = some 0 then (e, .request)
    else match encItem format fixed final e with
      | none => (e, .input)
      | some f =>
        if room < f.bits.length / 8 then (e, .full)
        else encRun format fixed final room (stopAt.map (· - 1)) k f

/-- Items that an encoder can need for `n` bytes of input. -/
def encFuel (n : Nat) : Nat := 2 * n + 8 * (n / 65536) + 16

end Sys2Proof.Machine
end

