-- ==== Sys2Proof/Machine/Ops.lean ====
section
/-! DEFINITION. The shared operations: functions and vectors, events, the host-memory writes of a
command, faults, and how a command completes, posts and is aborted. -/

namespace Sys2Proof.Machine

/-- What a meaning answers. -/
abbrev Answer := Host.Outcome State Fault Refusal

/-! ### Time -/

/-- Model time in 4 ns ticks. -/
def now (s : State) : Nat := s.clk.ticks

/-- Formatter time in ns (R694). -/
def timeNs (s : State) : Int := (s.tbu.sec * 1000000000 + s.tbu.ns : Nat)

/-- Draws the next free value's index; the counter advances (Config.freeValue). -/
def drawFree (s : State) : Nat × State := (s.clk.free, { s with clk.free := s.clk.free + 1 })

/-! ### Functions of the host link -/

/-- Function `n`'s registers; a function never touched is at its reset values. -/
def fnOf (s : State) (n : Nat) : FnState := (Tbl.get? s.host.fns n).getD FnState.reset

/-- Stores function `n`'s registers. -/
def setFn (s : State) (n : Nat) (f : FnState) : State := { s with host.fns := Tbl.put s.host.fns n f }

/-- The PF, or a VF that VF Enable enables (R113, R874). -/
def fnEnabled (s : State) (n : Nat) : Bool := n == 0 || (s.host.vfEn && decide (n ≤ s.host.vfCount))

/-- An FLR of the function is in progress (R142, R139). -/
def inFlr (s : State) (n : Nat) : Bool := (fnOf s n).flr

/-- Bus Master Enable as the formatter sees it: D3hot counts as 0 (R140). -/
def busMaster (s : State) (n : Nat) : Bool := (fnOf s n).bme && !(fnOf s n).d3hot

/-- May the formatter issue requests for the function now: Bus Master Enable (R137), link (R151), no FLR (R142), and no steps
of an earlier FLR still owed (R143, R148)? -/
def mayIssue (s : State) (n : Nat) : Bool :=
  busMaster s n && s.host.dlActive && !inFlr s n && !s.host.flrOwed.elem n

/-! ### AER (R110, R150) -/

/-- Records an uncorrectable error, bit `b` of its status register; the first unmasked one is pointed at and logs its TLP's header
and prefix, which the spec does not state: free values. -/
def logUnc (s : State) (n b : Nat) : State :=
  let a := (fnOf s n).aer
  let bit : Word := BitVec.ofNat 32 (2 ^ b)
  let fst := a.unc &&& ~~~a.uncMask == 0 && a.uncMask &&& bit == 0
  let (i, s) := drawFree s
  let (j, s) := drawFree s
  setFn s n { fnOf s n with aer := { a with
    unc := a.unc ||| bit, first := if fst then b else a.first,
    header := if fst then BitVec.ofNat 128 (Config.freeValue i) else a.header,
    pfx := if fst then BitVec.ofNat 128 (Config.freeValue j) else a.pfx } }

/-- Records a correctable error, bit `b` of its status register. -/
def logCor (s : State) (n b : Nat) : State :=
  setFn s n { fnOf s n with aer := { (fnOf s n).aer with cor := (fnOf s n).aer.cor ||| BitVec.ofNat 32 (2 ^ b) } }

/-- The status bits of Poisoned TLP Received, Completion Timeout, ECRC Error and Unsupported Request. -/
def aerPoisoned : Nat := 12
def aerTimeout : Nat := 14
def aerEcrc : Nat := 19
def aerUnsupported : Nat := 20

/-- Logs a failed read of the formatter in the function that issued it; a UR or CA status is not logged (Table 3-10). -/
def logReadErr (s : State) (n : Nat) (k : ReadErr) : State :=
  match k with
  | .poisoned => logUnc s n aerPoisoned
  | .timeout => logUnc s n aerTimeout
  | .ecrc => logUnc s n aerEcrc
  | .urCa => s

/-- Vectors of a function (R134). -/
def vectorCount (n : Nat) : Nat := if n == 0 then 2048 else 64

/-- Doorbell slots of a function (R123). -/
def slotCount (n : Nat) : Nat := if n == 0 then 1024 else 64

/-- An MSI-X entry; masked after reset. -/
def vecOf (f : FnState) (v : Nat) : MsixVec := (Tbl.get? f.msix v).getD ⟨0, 0, true⟩

/-- Can a message be sent on the vector (R136, R137; MSI-X Enable 0 counts as masked)? -/
def vecOpen (s : State) (n v : Nat) : Bool :=
  mayIssue s n && (fnOf s n).msixEn && !(fnOf s n).fnMask && !(vecOf (fnOf s n) v).masked

/-- The message of a vector: Message Address and Message Data of its table entry (R134). -/
def msixMsg (s : State) (n v : Nat) : Out := .msix n v (vecOf (fnOf s n) v).addr (vecOf (fnOf s n) v).data

/-- Sends an MSI-X message, or leaves it pending in the PBA; none during an FLR (R136, R137, R156). -/
def sendMsix (s : State) (n v : Nat) : State :=
  if inFlr s n then s
  else if vecOpen s n v then { s with out := msixMsg s n v :: s.out }
  else setFn s n { fnOf s n with pba := setIns (fnOf s n).pba v }

/-- Sends what the PBA holds for open vectors of a function (R136, R137). -/
def flushPba (s : State) (n : Nat) : State :=
  ((fnOf s n).pba).foldl (fun s v =>
    if vecOpen s n v then
      let f := fnOf s n
      let s := setFn s n { f with pba := setDel f.pba v }
      { s with out := msixMsg s n v :: s.out }
    else s) s

/-! ### SMP attention (R655 to R657) -/

/-- SMP_RB is low for another reason than a notch (R655). -/
def rbHeld (s : State) : Bool := !s.host.sysRst || s.smp.indBusy || s.smp.mbxBusy

/-- The level of SMP_RB (R655). -/
def smpRb (s : State) : Bool := !(rbHeld s || s.smp.notch)

/-- New SMP_ATTN and SMP_ATTN_EN, with the notch when their conjunction leaves zero (R656, R657). -/
def setAttn (s : State) (attn en : BitVec 8) : State :=
  let rise := s.smp.attn &&& s.smp.attnEn == 0 && attn &&& en != 0
  { s with smp.attn := attn, smp.attnEn := en,
           smp.notch := s.smp.notch || (rise && smpRb s),
           smp.notchWait := s.smp.notchWait || (rise && !smpRb s) }

/-- Sets bits of SMP_ATTN (Table 13-3). -/
def raiseAttn (s : State) (m : BitVec 8) : State := setAttn s (s.smp.attn ||| m) s.smp.attnEn

/-- A pending notch starts once nothing else holds SMP_RB low (R656). -/
def startNotch (s : State) : State :=
  if s.smp.notchWait && !rbHeld s && !s.smp.notch then
    { s with smp.notch := true, smp.notchWait := false } else s

/-! ### Events (R789 to R793) -/

/-- The event map (R786, R787): IDs of Table 16-1. -/
def evXp (t k : Nat) : Nat := 1024 + 64 * t + k
def evNonceFail : Nat := 1282
def evNonceFailed : Nat := 1283
def evSessionLoad : Nat := 1284
def evTagFail : Nat := 1285
def evCheckback : Nat := 1280
def evXfr : Nat := 1281
def evIng : Nat := 1344
def evSeal : Nat := 1345
def evUnit : Nat := 1346
def evAce (c : Nat) : Nat := 1376 + c
def evAlarm (a : Nat) : Nat := 1408 + a
def evPpsState : Nat := 1412
def evTimeStep : Nat := 1413
def evThermal : Nat := 1440
def evFlap : Nat := 1441
def evExtFault : Nat := 1442
def evPfail : Nat := 1443
def evGate : Nat := 1444
def evLull : Nat := 1445
def evEngine : Nat := 1446
def evBmuCorrected : Nat := 1472
def evBmuPoison : Nat := 1473
def evPageRetired : Nat := 1475
def evFlr : Nat := 1504
def evRingError : Nat := 1505
def evVfLimit : Nat := 1506
def evOrphaned : Nat := 1507
def evFnErr : Nat := 1508
def evChain : Nat := 1509
def evFwUpdate : Nat := 1510
def evPeripheral : Nat := 1511
def evPeer : Nat := 1512
def evDoldrums : Nat := 1513
def evPoolLevel : Nat := 1514
def evSmpErr : Nat := 1515
def evFaultLog : Nat := 1516
def evRow : Nat := 1474

/-- Subject kinds of Table 16-6. -/
def subjNone : Nat := 0
def subjFn : Nat := 1
def subjCtx : Nat := 2
def subjRing : Nat := 3
def subjXp : Nat := 4
def subjLane : Nat := 5
def subjEngine : Nat := 6
def subjAce : Nat := 7

/-- EVR_ROUTE after reset (Table 16-3). -/
def Route.reset : Route := ⟨0, 0, 0, false, false, false⟩

/-- The route of an event. -/
def routeOf (s : State) (e : Nat) : Route := (Tbl.get? s.evr.routes e).getD Route.reset

/-- The VF that owns a subject, if it is an enabled VF (R790). -/
def ownerVf (s : State) (kind subj : Nat) : Option Nat :=
  let n := if kind == subjFn then subj
    else if kind == subjCtx then (Tbl.get? s.ten.ctx subj).elim 0 (·.d.ownerFn)
    else if kind == subjRing then (Tbl.get? s.rings.tbl subj).elim 0 (·.owner) else 0
  if n != 0 && fnEnabled s n then some n else none

/-- Where a device event's message goes (R790). -/
def eventTarget (s : State) (r : Route) (kind subj : Nat) : Nat × Nat :=
  match r.owner, ownerVf s kind subj with
  | true, some n => (n, r.vfVec)
  | _, _ => (0, r.vector)

/-- Sends a message for event `e`, or merges it into the running holdoff (R792). -/
def notify (s : State) (e : Nat) (tgt : Nat × Nat) (holdUs : Nat) : State :=
  match Tbl.get? s.rings.holdoff e with
  | some (till, l) =>
    { s with rings.holdoff := Tbl.put s.rings.holdoff e (till, if l.elem tgt then l else l ++ [tgt]) }
  | none =>
    let s := sendMsix s tgt.1 tgt.2
    if holdUs == 0 then s
    else { s with rings.holdoff := Tbl.put s.rings.holdoff e (now s + holdUs * usTicks, []) }

/-- The event log keeps the latest 4,096 entries; the newest comes first in the list (R805, R806). -/
def logEvent (v : Evr) (e : EvLog) : Evr :=
  { v with log := (e :: v.log).take 4096, logSeq := v.logSeq + 1,
           overwritten := if v.log.length < 4096 then v.overwritten else v.overwritten + 1 }

/-- Raises a device event now: EVR_RAISED, EVR_COUNT, the log entry, and delivery by its route (R789, R790). -/
def raiseNow (s : State) (e kind subj detail : Nat) : State :=
  let r := routeOf s e
  let tgt := eventTarget s r kind subj
  let entry : EvLog :=
    { seq := s.evr.logSeq, event := e, kind := kind, route := b2n r.en + 2 * b2n r.owner + 4 * b2n r.smp,
      subj := if kind == subjNone then 0 else subj, fn := tgt.1, sec := s.tbu.sec, ns := s.tbu.ns, detail := detail }
  let v := logEvent { s.evr with raised := setIns s.evr.raised e,
                                 counts := Tbl.put s.evr.counts e (satAdd 32 ((Tbl.get? s.evr.counts e).getD 0) 1) } entry
  let s := { s with evr := v }
  if r.en then
    let s := notify s e tgt r.holdUs
    if r.smp then raiseAttn s 1 else s
  else { s with evr.unrouted := satAdd 32 s.evr.unrouted 1 }

/-- The formatter is in Lull-2 or Lull-3, or on its way out of one (R793). -/
def deepLull (s : State) : Bool := s.pmu.lull.elim false fun e => decide (3 ≤ e.phase ∧ 2 ≤ e.target)

/-- Raises a device event; one that occurs in Lull-2 or Lull-3 waits for Run (R793). -/
def raise (s : State) (e kind subj detail : Nat) : State :=
  if deepLull s then { s with pmu.held := s.pmu.held ++ [(e, kind, subj, detail)] }
  else raiseNow s e kind subj detail

/-- A ring's completion event; not raised when its route is off (R174, R790). -/
def raiseRing (s : State) (n fn : Nat) : State :=
  let r := routeOf s n
  if r.en then notify s n (fn, r.vector) r.holdUs else s

/-! ### Faults (R796, R797, R805) -/

/-- Counters of a fault class. -/
def clsOf (s : State) (c : Nat) : ClsCount := (Tbl.get? s.flt.cls c).getD ⟨0, 0, 0, 0⟩

/-- Counts a detected fault, its recovery, its report, or retries of a class (Table 16-7). -/
def countFault (s : State) (c det fixed rep ret : Nat) : State :=
  let k := clsOf s c
  let k' : ClsCount := { detected := satAdd 32 k.detected det, recovered := satAdd 32 k.recovered fixed,
                         reported := satAdd 32 k.reported rep, retries := satAdd 32 k.retries ret }
  { s with flt.cls := Tbl.put s.flt.cls c k' }

/-- A fault log entry with nothing named (Table 16-5). -/
def FltLog.blank : FltLog :=
  { seq := 0, cls := 0, status := 0, event := 0, sec := 0, ns := 0, tries := 0, flags := 0, ctx := 0xFFFF,
    xp := 0xFF, lane := 0xFF, ring := 0xFFFF, cid := 0, ds := 2 ^ 64 - 1, recSeq := 0, buf := 2 ^ 64 - 1, detail := 0 }

/-- Writes a fault log entry (the newest of at most 4,096 comes first) and raises FAULT_LOG (R805, Table 16-1). -/
def logFault (s : State) (e : FltLog) : State :=
  let e := { e with seq := s.flt.next, sec := s.tbu.sec, ns := s.tbu.ns }
  let s := { s with flt.log := (e :: s.flt.log).take 4096, flt.next := s.flt.next + 1,
                    flt.overwritten := if s.flt.log.length < 4096 then s.flt.overwritten else s.flt.overwritten + 1 }
  raise s evFaultLog subjNone 0 0

/-- A retry budget is spent: the class's event, if it has one, and a fault log entry (R797). -/
def faultSpent (s : State) (e : FltLog) (kind subj : Nat) : State :=
  let s := countFault s e.cls 0 0 1 0
  let s := if e.event == 0 then s else raise s e.event kind subj e.detail
  logFault s e

/-! ### Memory protection (R421 to R424, R788)

The SRAMs with check code are those that hold record bytes, checks or engine state: HIU buffers, engine queues, lane FIFOs, ROW side
tables. Every row whose stage verifies a live check over them, or over buffer memory, carries a `Seen`; the sample store has no check
code, so CODEWORD_ARRIVAL carries none (R554). -/

/-- Does the stage find its live check good? Poisoned data count as a mismatch (R424). -/
def seenOk (k : Seen) : Bool := k.good && !k.pois && k.burst == 0

/-- A check verified over data that no memory disturbed. -/
def seenFine : Seen := ⟨true, 0, false, 0, 0⟩

/-- DETAIL of an event or fault log entry over poisoned SRAM data (R788), and FFLAGS.POISON (Table 16-5). -/
def seenDetail (k : Seen) : Nat := if k.pois then 2 ^ 63 else 0
def seenFlag (k : Seen) : Nat := if k.pois || k.burst != 0 then 2 else 0

/-- Raises device event `e`, `n` times. -/
def raiseTimes (s : State) (e n : Nat) : State := (List.range n).foldl (fun s _ => raise s e subjNone 0 0) s

/-- What a read of memory shows: errors corrected are counted; a corrected or poisoned burst raises its event in the buffer memory
group, a poisoned SRAM word the mismatch event `ev` of the check that the stage was verifying (R422 to R424, R788). -/
def noteSeen (s : State) (k : Seen) (ev kind subj : Nat) : State :=
  let s := { s with flt.sramCorr := satAdd 64 s.flt.sramCorr k.corr, flt.bmuCorr := satAdd 64 s.flt.bmuCorr k.fixed,
                    flt.bmuPois := satAdd 64 s.flt.bmuPois k.burst }
  let s := raiseTimes (raiseTimes s evBmuCorrected k.fixed) evBmuPoison k.burst
  if k.pois then raise s ev kind subj (2 ^ 63) else s

/-- A poisoned BMU burst that an engine without a live check of its own meets (R423). -/
def noteBmu (s : State) : State := noteSeen s ⟨true, 0, false, 0, 1⟩ 0 subjNone 0

/-- The write-stop thermal level, or a hotter one, is in force (R258, R759). -/
def writeStop (s : State) : Bool := s.pmu.th.level == .writeStop || s.pmu.th.level == .shutdown

/-! ### Commands in flight -/

/-- The command with identifier `id`. -/
def cmdOf (s : State) (id : Nat) : Option Cmd := s.rings.cmds.find? fun c => c.id == id

/-- Changes the command with identifier `id`. -/
def updCmd (s : State) (id : Nat) (f : Cmd → Cmd) : State :=
  { s with rings.cmds := s.rings.cmds.map fun c => if c.id == id then f c else c }

/-- The progress of a command, which also counts as progress for the watchdog (R809). -/
def setProg (s : State) (id : Nat) (p : Prog) : State := updCmd s id fun c => { c with prog := p, moved := now s }

/-- Entry fields of Table 4-1. -/
def Cmd.opcode (c : Cmd) : Nat := fieldOf c.entry 0 1
def Cmd.cid (c : Cmd) : Nat := fieldOf c.entry 2 2
def Cmd.ctx (c : Cmd) : Nat := fieldOf c.entry 4 2 % 4096
def Cmd.noEvent (c : Cmd) : Bool := bitOf (fieldOf c.entry 1 1) 1
/-- A field of the entry. -/
def Cmd.fld (c : Cmd) (off size : Nat) : Nat := fieldOf c.entry off size

/-- Opcodes of commands that name a context (Table 4-8). -/
def namesCtx (op : Nat) : Bool :=
  (0x08 ≤ op && op ≤ 0x0B) || (0x40 ≤ op && op ≤ 0x45) || (0x48 ≤ op && op ≤ 0x4B) ||
  (0x80 ≤ op && op ≤ 0x82) || op == 0x84 || op == 0x85

/-- The function whose ring carried the command; the mailbox has the authority of the PF (R668). -/
def cmdFn (s : State) (c : Cmd) : Nat :=
  if c.mailbox then 0 else (Tbl.get? s.rings.tbl c.ring).elim 0 (·.owner)

/-- The PASID that tags the command's host accesses (R44). -/
def cmdPasid (s : State) (c : Cmd) : Option Nat :=
  if !namesCtx c.opcode || (0x08 ≤ c.opcode && c.opcode ≤ 0x0A) || (c.opcode == 0x0B && c.ring == 0) then none
  else match Tbl.get? s.ten.ctx c.ctx with
    | some x => if x.d.pasidEn then some x.d.pasid else none
    | none => none

/-- May the command reach host memory: requests may be issued, and a PASID only with PASID Enable (R116, R138)? -/
def dataOk (s : State) (c : Cmd) : Bool :=
  c.mailbox || (mayIssue s (cmdFn s c) && ((cmdPasid s c).isNone || s.host.pasidEn))

/-- A completion with a status and nothing else. -/
def Compl.of (st : Nat) : Compl := ⟨st, false, false, false, false, 0, 0⟩

/-- OK with results. -/
def Compl.ok (r r2 : Nat) : Compl := ⟨0, false, false, false, false, r, r2⟩

/-- INVALID_FIELD at an offset (R172). -/
def Compl.field (off : Nat) : Compl := ⟨2, false, false, false, false, off, 0⟩

/-! ### Streams, contexts and what a command holds -/

/-- Context `k`, if it is not FREE. -/
def ctxOf (s : State) (k : Nat) : Option Ctx := Tbl.get? s.ten.ctx k

/-- Changes context `k`. -/
def updCtx (s : State) (k : Nat) (f : Ctx → Ctx) : State := { s with ten.ctx := Tbl.upd s.ten.ctx k f }

/-- The context is HALTED (R55). -/
def halted (x : Ctx) : Bool := x.d.volQuota != 0 && decide (x.d.volQuota * 2 ^ 30 ≤ x.volUsed)

/-- Domain `d` of headwind; never used, it is at zero (R67). -/
def domOf (s : State) (d : Nat) : Domain := (Tbl.get? s.ten.doms d).getD ⟨0, 0, 0, 0⟩

/-- Releases the fetch slot of a command (R65). -/
def freeSlot (s : State) (id : Nat) : State :=
  match (cmdOf s id).bind (·.fetch) with
  | none => s
  | some (d, k) =>
    let m := domOf s d
    let m := match k with
      | .write => { m with wrUsed := m.wrUsed - 1 }
      | .read => { m with rdUsed := m.rdUsed - 1 }
      | .service => { m with svUsed := m.svUsed - 1 }
    let s := { s with ten.doms := Tbl.put s.ten.doms d m }
    updCmd s id fun c => { c with fetch := none }

/-! ### Completing and posting -/

/-- The 16 bytes of a completion entry with a phase (Tables 4-2, 4-3). -/
def complBytes (cid : Nat) (k : Compl) (phase : Nat) : Bytes :=
  pageOf 16 [(0, 2, cid), (2, 1, k.status),
    (3, 1, phase + 2 * b2n k.ew + 4 * b2n k.more + 8 * b2n k.lost + 16 * b2n k.resumable),
    (4, 4, k.result), (8, 8, k.result2)]

/-- The domain of a data command for latency (R77): its transport, or 4 for the services. -/
def latDomain (s : State) (c : Cmd) : Option Nat :=
  if c.opcode == 0x80 || c.opcode == 0x81 || c.opcode == 0x82 || c.opcode == 0x84 then some 4
  else if c.opcode == 0x41 || c.opcode == 0x42 || c.opcode == 0x48 || c.opcode == 0x4A then
    c.stream.bind fun k => (Tbl.get? s.strm k).map (·.xp)
  else none

/-- A context's numbers in one domain, before any. -/
def CtxDom.zero : CtxDom := ⟨0, 0xFFFFFFFF, [], [], []⟩

/-- Records a data completion's latency (R77); an entry turned away with NOT_OWNER is none of the context that it names. -/
def noteLatency (s : State) (c : Cmd) (k : Compl) : State :=
  match latDomain s c, k.status with
  | none, _ => s
  | _, 3 => s
  | some d, _ => updCtx s c.ctx fun x =>
    let m := (Tbl.get? x.doms d).getD CtxDom.zero
    { x with doms := Tbl.put x.doms d { m with lats := (((now s - c.at0) / usTicks) :: m.lats).take 65536 } }

/-- Posts one fixed completion of a ring command: the entry, the tail and phase, the event (R173 to R175). -/
def postOne (s : State) (c : Cmd) (k : Compl) : State :=
  match Tbl.get? s.rings.tbl c.ring with
  | none => s
  | some r =>
    let n := 2 ^ r.log2
    let s := noteLatency s c k
    let s := { s with
      out := .dma r.owner none (r.cqBase + 16 * r.cqTail) (complBytes c.cid k (r.pass % 2)) false :: s.out,
      rings.tbl := Tbl.put s.rings.tbl c.ring { r with
        cqTail := (r.cqTail + 1) % n, pass := if r.cqTail + 1 = n then r.pass + 1 else r.pass,
        completions := satAdd 64 r.completions 1 } }
    if c.noEvent then s else raiseRing s c.ring r.owner

/-- May the completion be posted now: its function may be written to, no live-update pause is in
progress (R225), and no earlier command of its stream is still unposted (R191)? -/
def postable (s : State) (kept : List Cmd) (c : Cmd) : Bool :=
  c.done.isSome && !c.mailbox && mayIssue s (cmdFn s c) && !s.host.updatePause &&
  !(kept.any fun k => k.stream.isSome && k.stream == c.stream)

/-- One command of the posting pass: post it, or keep it. -/
def postStep (p : State × List Cmd) (c : Cmd) : State × List Cmd :=
  match c.done with
  | some k => if postable p.1 p.2 c then (postOne p.1 c k, p.2) else (p.1, p.2 ++ [c])
  | none => (p.1, p.2 ++ [c])

/-- An ABORT stops waiting for the commands whose completions have been posted (R198): their tags are free (R185). -/
def forgetPosted (l : List Cmd) (c : Cmd) : Cmd :=
  match c.prog with
  | .abortWait ids a p => { c with prog := .abortWait (ids.filter fun i => l.any fun k => k.id == i) a p }
  | _ => c

/-- Posts, in consumption order, every fixed completion that may be posted (R138, R151, R191). -/
def postAll (s : State) : State :=
  let p := s.rings.cmds.foldl postStep (s, [])
  { p.1 with rings.cmds := p.2.map (forgetPosted p.2) }

/-- A completion that reports early warning of transport `t` (Table 4-3). -/
def pastEw (s : State) (t : Nat) : Bool :=
  ((Tbl.get? s.xp t).bind (·.mount)).elim false (·.ewRaised)

/-- Is the command one whose completions carry EW, on a write stream past early warning (R266)? -/
def carriesEw (s : State) (c : Cmd) : Bool :=
  decide (0x41 ≤ c.opcode ∧ c.opcode ≤ 0x45) &&
  (c.stream.bind (Tbl.get? s.strm)).elim false fun st => !st.read && pastEw s st.xp

/-- A completion with what every completion of its command carries: EW (R266), and for WRITE_BATCH the RECORD_SEQ of record 0 once
it is acknowledged (Table 5-13). -/
def Compl.finish (s : State) (c : Cmd) (k : Compl) : Compl :=
  { k with ew := k.ew || carriesEw s c, result2 := if c.opcode = 0x42 ∧ c.acked ≠ 0 then c.firstSeq else k.result2 }

/-- Fixes a command's completion without posting (R167): its fetch slot is released. -/
def fixDone (s : State) (id : Nat) (k : Compl) : State :=
  let s := freeSlot s id
  updCmd s id fun c => if c.done.isSome then c else { c with done := some (k.finish s c), moved := now s }

/-- Completes a command: its completion is fixed and posted as soon as it may be. -/
def complete (s : State) (id : Nat) (k : Compl) : State := postAll (fixDone s id k)

/-! ### Host-memory writes of a command -/

/-- Stores bytes in the mailbox data area (R669). -/
def putMbx (s : State) (off : Nat) (b : Bytes) : State :=
  { s with smp.mbxData := Memory.writeAll s.smp.mbxData off b }

/-- Bytes of the mailbox data area. -/
def getMbx (s : State) (off n : Nat) : Bytes := Memory.readAll s.smp.mbxData off n

/-- Writes for a command, to host memory under its function and PASID, or to the mailbox data area; Relaxed Ordering only when the
function enables it (R114). -/
def cmdWrite (s : State) (c : Cmd) (addr : Nat) (b : Bytes) (relaxed : Bool) : State :=
  if b.isEmpty then s
  else if c.mailbox then putMbx s addr b
  else { s with out := .dma (cmdFn s c) (cmdPasid s c) addr b (relaxed && (fnOf s (cmdFn s c)).relaxed) :: s.out }

/-- A read of host memory for a command, under its function and PASID (R44); the mailbox reads its data area. -/
def cmdRead (s : State) (c : Cmd) (addr len : Nat) : State :=
  if c.mailbox || len == 0 then s else { s with out := .rd (cmdFn s c) (cmdPasid s c) addr len :: s.out }

/-- A structure that the command reads: from host memory as the operand says, or from the mailbox data area (R669). -/
def cmdBlock (s : State) (c : Cmd) (addr : Nat) {w : Nat} (b : BitVec w) : BitVec w :=
  if c.mailbox then BitVec.ofNat w (leNat (getMbx s addr (w / 8))) else b

/-- Writes a structure at the address field of offset `off` and completes, or completes with the error of
the access: outside the mailbox data area (R669), or no host access (R116, R138). -/
def answer (s : State) (c : Cmd) (off : Nat) (b : Bytes) (k : Compl) : State :=
  let addr := c.fld off 8
  if c.mailbox && decide (4096 < addr + b.length) then complete s c.id (Compl.field off)
  else if !b.isEmpty && !dataOk s c then complete s c.id (Compl.of 7)
  else complete (cmdWrite s c addr b false) c.id k

/-- A row that executes a command just started: the command must be fresh, with the row's opcode. -/
def withCmd (s : State) (id op : Nat) (f : Cmd → State) : State :=
  match cmdOf s id with
  | some c => if c.opcode = op ∧ c.done.isNone ∧ c.prog = .fresh then f c else s
  | none => s

/-- A row that also continues a command that waits. -/
def withCmdW (s : State) (id op : Nat) (f : Cmd → State) : State :=
  match cmdOf s id with
  | some c => if c.opcode = op ∧ c.done.isNone ∧ c.prog ≠ .ordered then f c else s
  | none => s

end Sys2Proof.Machine
end

