-- ==== Sys2Proof/Machine/JobCtx.lean ====
section
/-! DEFINITION. Service jobs: how one begins, runs on its input and continues, and the resume context (R321 to R329, R337,
Table 6-6). -/

namespace Sys2Proof.Machine

/-- The lane of a job that holds none. -/
def noLane : Nat := 255

/-- A job as COMPRESS or DECOMPRESS begins it. -/
def Job.begin (c : Cmd) (compress : Bool) : Job :=
  { compress := compress, format := c.fld 0x10 1, fixed := compress && bitOf (c.fld 0x11 1) 1, final := bitOf (c.fld 0x11 1) 0,
    lane := 0, inLen := c.fld 0x14 4, outLen := c.fld 0x28 4,
    expectLen := if compress then 0 else c.fld 0x38 4, totalIn := 0, totalOut := 0, bitPos := 0, at_ := .header,
    check := checkStart (c.fld 0x10 1), hist := [], blockIn := 0, pend := [], pendMatch := (0, 0), outTo := [], stopBy := 0,
    stopFor := 0 }

/-- What a job leaves: its status, input and output counted, and the fields of its context. -/
structure JobOut where
  status   : Nat
  more     : Bool
  inUsed   : Nat
  out      : Bytes
  bitPos   : Nat
  at_      : InfState
  check    : Nat
  hist     : Bytes
  totalOut : Nat
  blockIn  : Nat
  pend     : List Bool
  pendMatch : Nat × Nat
  deriving DecidableEq, Repr

/-- What a job leaves that has consumed nothing. -/
def JobOut.start (j : Job) (status : Nat) : JobOut :=
  { status := status, more := false, inUsed := 0, out := [], bitPos := j.bitPos, at_ := j.at_, check := j.check, hist := j.hist,
    totalOut := j.totalOut, blockIn := j.blockIn, pend := j.pend, pendMatch := j.pendMatch }

/-- The status of a job that stopped: a stop request wins over a full output (R338). -/
def stopStatus (j : Job) (dry : Nat) (p : Stop) : Nat :=
  match p with
  | .ended => 0
  | .input => if j.final then dry else 0
  | .full => if j.stopBy = 0 then 0x40 else j.stopBy
  | .request => j.stopBy
  | .error e => e

/-- Runs a decompression on its input (R318, R321 to R323, R331 to R333). -/
def runDecode (j : Job) (input : Bytes) (steps : Nat) : JobOut :=
  let bits := (bitsOfBytes input).drop j.bitPos
  let stop := if j.stopBy = 0 then none else some steps
  let p := infRun j.format j.expectLen j.outLen stop (bits.length + 70000 + input.length)
    ⟨j.at_, bits, j.bitPos, j.hist.reverse, j.totalOut, [], j.check⟩
  let i := p.1
  { status := stopStatus j 0x25 p.2, more := i.at_ == .ended && j.format == 2 && decide (usedBytes i < input.length),
    inUsed := usedBytes i, out := i.out.reverse, bitPos := usedBits i, at_ := i.at_, check := i.check, hist := i.win.reverse,
    totalOut := i.total, blockIn := 0, pend := [], pendMatch := (0, 0) }

/-- A deferred match within the format's limits, or none. -/
def deferred (win rest : Bytes) : Nat × Nat :=
  let m := Config.lzDeferred win rest
  if m.1 ≤ 258 ∧ m.2 ≤ 32768 then m else (0, 0)

/-- Runs a compression on its input (R315, R316, R321 to R323). -/
def runEncode (j : Job) (input : Bytes) (steps : Nat) : JobOut :=
  let stop := if j.stopBy = 0 then none else some steps
  let p := encRun j.format j.fixed j.final j.outLen stop (encFuel input.length)
    ⟨j.at_, input, 0, j.hist.reverse, j.blockIn, j.pendMatch, j.pend, j.check, j.totalIn⟩
  let e := p.1
  let n := e.bits.length / 8
  { status := stopStatus j 0 p.2, more := false, inUsed := e.used, out := bytesOfBits e.bits, bitPos := 0, at_ := e.at_,
    check := e.check, hist := e.win.reverse, totalOut := j.totalOut + n, blockIn := e.blockIn, pend := e.bits.drop (8 * n),
    pendMatch := deferred e.win e.rest }

/-- Runs a job on its input. -/
def runJob (j : Job) (input : Bytes) (steps : Nat) : JobOut := if j.compress then runEncode j input steps else runDecode j input steps

/-! ### The resume context -/

/-- LAST_BLOCK, STORED_LEFT and CODE_LENGTHS of a stream state. -/
def stateFields (i : InfState) : Bool × Nat × List Nat :=
  match i with
  | .stored n l => (l, n, [])
  | .huff l a b => (l, 0, (a ++ List.replicate 288 0).take 288 ++ (b ++ List.replicate 32 0).take 32)
  | .trailer | .ended => (true, 0, [])
  | _ => (false, 0, [])

/-- The resume context (Table 6-6, R337); its history lies at the start of HISTORY. -/
def ctxBytes (c : Cmd) (j : Job) (o : JobOut) : Bytes :=
  let d := infCode o.at_
  let f := stateFields o.at_
  let head := pageOf 0x3FC ([(0x000, 4, 0x5854434B), (0x004, 1, 1), (0x005, 1, if j.compress then 1 else 2), (0x006, 1, j.format),
    (0x007, 1, b2n j.fixed + 2 * b2n f.1 + 4 * b2n (d != 0)), (0x008, 2, c.ctx), (0x00A, 1, o.bitPos),
    (0x00B, 1, o.pend.length), (0x00C, 1, maskOf (((numbered o.pend 0).filter (·.2)).map (·.1))), (0x00D, 1, d),
    (0x010, 8, j.totalIn + o.inUsed), (0x018, 8, o.totalOut), (0x020, 4, o.check), (0x024, 4, o.hist.length),
    (0x028, 4, o.hist.length), (0x02C, 4, f.2.1), (0x030, 2, o.pendMatch.1), (0x032, 2, o.pendMatch.2),
    (0x034, 4, o.blockIn), (0x038, 4, j.expectLen)])
  let head := head.take 0x40 ++ ((f.2.2.map (BitVec.ofNat 8)) ++ List.replicate 320 0).take 320 ++ List.replicate 636 0
  let hist := o.hist ++ List.replicate (65536 - o.hist.length) 0
  head ++ leBytes 4 (crc32c (head ++ hist)) ++ hist

/-- A field of a resume context as it was read. -/
def ctxFld (b : Bytes) (off n : Nat) : Nat := leNat ((b.drop off).take n)

/-- HISTORY of a context as read, oldest byte first: HIST_LEN bytes that end before HIST_POS, in a circular buffer. -/
def ctxHist (b : Bytes) : Bytes :=
  let h := (b.drop 0x400).take 65536
  let n := ctxFld b 0x024 4
  let p := ctxFld b 0x028 4 % 65536
  if n ≤ p then (h.drop (p - n)).take n else h.drop (65536 + p - n) ++ h.take p

/-- The stream state that a resume context records. -/
def ctxState (b : Bytes) : InfState :=
  let last := bitOf (ctxFld b 0x007 1) 1
  let lens := ((b.drop 0x040).take 320).map (·.toNat)
  match ctxFld b 0x00D 1 with
  | 0 => .header
  | 1 => .block
  | 2 => .stored (ctxFld b 0x02C 4) last
  | 3 => .huff last (lens.take 288) (lens.drop 288)
  | _ => .trailer

/-- Is the context usable by RESUME (R327): MAGIC, VERSION, CTX_CRC and CONTEXT, and the values that Table 6-6 gives its fields? -/
def ctxOk (c : Cmd) (b : Bytes) : Bool :=
  b.length == 66560 && ctxFld b 0x000 4 == 0x5854434B && ctxFld b 0x004 1 == 1 && ctxFld b 0x008 2 == c.ctx &&
  ctxFld b 0x3FC 4 == crc32c (b.take 0x3FC ++ b.drop 0x400) && (ctxFld b 0x005 1 == 1 || ctxFld b 0x005 1 == 2) &&
  decide (ctxFld b 0x006 1 ≤ 2) && decide (ctxFld b 0x00A 1 ≤ 7) && decide (ctxFld b 0x00B 1 ≤ 7) &&
  decide (ctxFld b 0x00D 1 ≤ 4) && decide (ctxFld b 0x024 4 ≤ 32768)

/-- A job as RESUME continues it (R326). -/
def Job.resume (c : Cmd) (b : Bytes) : Job :=
  { compress := ctxFld b 0x005 1 == 1, format := ctxFld b 0x006 1, fixed := bitOf (ctxFld b 0x007 1) 0,
    final := bitOf (c.fld 0x11 1) 0, lane := 0, inLen := c.fld 0x14 4, outLen := c.fld 0x28 4,
    expectLen := ctxFld b 0x038 4, totalIn := ctxFld b 0x010 8, totalOut := ctxFld b 0x018 8, bitPos := ctxFld b 0x00A 1,
    at_ := ctxState b, check := ctxFld b 0x020 4, hist := ctxHist b, blockIn := ctxFld b 0x034 4,
    pend := valBits (ctxFld b 0x00B 1) (ctxFld b 0x00C 1), pendMatch := (ctxFld b 0x030 2, ctxFld b 0x032 2), outTo := [],
    stopBy := 0, stopFor := 0 }

/-- Does a completion with this status carry a resume context (R324)? -/
def writesCtx (j : Job) (status : Nat) : Bool :=
  status == 0x40 || (status == 0 && !j.final) || status == 0x47 || status == 0x44 || status == 0x45

end Sys2Proof.Machine
end

