-- ==== Sys2Proof/Machine/Operands.lean ====
section
/-! DEFINITION. Submission entries: which bits of an entry a command uses, which values are valid
(R165, R172, R183, R877 and the field tables of each chapter), where an opcode is accepted (R202,
Table 13-5), and scatter lists (R280, R281). -/

namespace Sys2Proof.Machine

/-- The bits of an entry that a command uses, its address fields and its other conditions. -/
structure EntrySpec where
  /-- Byte offset and mask of each field's defined bits, bytes 0x08..0x3F. -/
  live : List (Nat × Nat)
  /-- Address fields: offset, bytes addressed, alignment. -/
  addrs : List (Nat × Nat × Nat)
  /-- Offsets of fields whose value must satisfy a condition. -/
  vals : List (Nat × Bool)
  deriving DecidableEq, Repr

/-- All bits of an `n`-byte field. -/
def full (n : Nat) : Nat := 2 ^ (8 * n) - 1

/-- Is the address aligned, and does the structure end inside the address space, or inside the mailbox
data area (R669, R877)? -/
def addrFine (mbx : Bool) (a len align : Nat) : Bool :=
  a % align == 0 && (len == 0 || decide (a + len ≤ if mbx then 4096 else 2 ^ 64))

/-- A data buffer field of R280: contiguous bytes, or an array of scatter list elements. -/
def bufAddr (off len sgl : Nat) : Nat × Nat × Nat := if sgl == 0 then (off, len, 1) else (off, 16 * sgl, 16)

/-- Engines of a class (Table 15-10). -/
def engineCount (cls : Nat) : Nat :=
  match cls with
  | 0 => 8
  | 1 => 8
  | 2 => 12
  | 3 => 40
  | 4 => 4
  | 5 => 4
  | _ => 0

/-- Bytes of an image region: the directory of this part gives each the least length of Table 15-2. -/
def imageRegionBytes : Nat := 0x200000

/-- Data capacity of buffer memory (Table 4-10), fixed when memory trains. -/
def entryInRegion (off len : Nat) : Bool := decide (off + len ≤ imageRegionBytes)

/-- Log pages whose PARAM is reserved (R212), given one, or none for a page that does not exist (Table 4-16, R544, R777, R807). -/
def pageParamMask (page : Nat) : Option Nat :=
  match page with
  | 0x01 => some 0xFFFF
  | 0x02 => some 0
  | 0x18 => some 0xFFFF
  | 0x19 => some 0
  | 0x1A => some 0xFFFF
  | 0x20 | 0x21 | 0x22 | 0x23 => some 0
  | 0x30 | 0x31 => some 0
  | _ => none

/-- The number of set bits among the low `n`. -/
def popcount (v n : Nat) : Nat := sumOf ((List.range n).map fun i => b2n (bitOf v i))

/-- Rings and identification (Tables 4-9, 4-12 to 4-15). -/
def specRing (e : Entry) (op : Nat) : EntrySpec :=
  let f := fieldOf e
  match op with
  | 0x01 => ⟨[(0x10, full 8), (0x18, 1)], [(0x10, 4096, 64)], []⟩
  | 0x02 =>
    let n := if f 0x21 1 ≤ 12 then 2 ^ f 0x21 1 else 0
    ⟨[(0x10, full 8), (0x18, full 8), (0x20, full 1), (0x21, full 1), (0x22, full 2), (0x24, full 2), (0x26, full 2), (0x28, 1)],
     [(0x10, 64 * n, 4096), (0x18, 16 * n, 4096)],
     [(0x21, decide (6 ≤ f 0x21 1 ∧ f 0x21 1 ≤ 12)),
      (0x22, if f 0x20 1 == 0 then decide (1 ≤ f 0x22 2 ∧ f 0x22 2 ≤ 1023) else decide (f 0x22 2 ≤ 63)),
      (0x26, decide (f 0x26 2 = 0 ∨ (16 ≤ f 0x26 2 ∧ f 0x26 2 ≤ n - 1)))]⟩
  | 0x03 => ⟨[(0x10, full 2), (0x12, 1)], [], [(0x10, decide (1 ≤ f 0x10 2 ∧ f 0x10 2 ≤ 1023))]⟩
  | 0x04 => ⟨[(0x10, full 2), (0x12, if bitOf (f 0x14 4) 0 then 0 else full 2), (0x14, 1)], [],
      [(0x10, decide (f 0x10 2 ≤ 1023))]⟩
  | _ =>
    let page := f 0x10 1
    ⟨[(0x10, full 1), (0x11, 1), (0x12, (pageParamMask page).getD (full 2)), (0x14, full 4), (0x18, full 8), (0x20, full 4)],
     [(0x18, f 0x14 4, 16)],
     [(0x10, (pageParamMask page).isSome),
      (0x12, !((page == 0x18 && decide (127 < f 0x12 2)) || (page == 0x1A && decide (3 < f 0x12 2)) ||
               (page == 0x01 && decide (1023 < f 0x12 2)))),
      (0x14, decide (4 ≤ f 0x14 4 ∧ f 0x14 4 ≤ 1048576) && f 0x14 4 % 4 == 0),
      (0x20, f 0x20 4 % 4 == 0 && !(page == 0x02 && bitOf (f 0x11 1) 0 && f 0x20 4 != 0))]⟩

/-- Contexts, keys and nonces (Tables 2-3, 7-8). -/
def specKey (e : Entry) (op : Nat) : EntrySpec :=
  let f := fieldOf e
  match op with
  | 0x08 => ⟨[(0x10, full 8)], [(0x10, 128, 64)], []⟩
  | 0x09 => ⟨[(0x10, full 8), (0x18, 0xFFFF)], [(0x10, 128, 64)], []⟩
  | 0x0A => ⟨[(0x10, 1)], [], []⟩
  | 0x0B => ⟨[(0x10, full 8)], [(0x10, 256, 64)], []⟩
  | 0x10 => ⟨[(0x10, full 8), (0x18, full 2), (0x1A, 1)], [(0x10, 64, 64)], [(0x18, decide (f 0x18 2 ≤ 4095))]⟩
  | 0x11 => ⟨[(0x10, full 1), (0x12, full 2), (0x14, 1)], [],
      [(0x10, decide (1 ≤ f 0x10 1 ∧ f 0x10 1 ≤ 2)),
       (0x12, if f 0x10 1 == 2 then decide (1 ≤ f 0x12 2 ∧ f 0x12 2 ≤ 62) else decide (f 0x12 2 ≤ 4095))]⟩
  | 0x12 => let leave := bitOf (f 0x18 1) 0
    ⟨[(0x10, if leave then 0 else full 8), (0x18, 1)], if leave then [] else [(0x10, 192, 64)], []⟩
  | 0x13 => ⟨[(0x10, full 8), (0x18, full 4), (0x1C, 1)], [(0x10, f 0x18 4, 1)], []⟩
  | 0x14 => ⟨[(0x10, full 8)], [(0x10, 64, 64)], []⟩
  | _ => ⟨[(0x10, 0xF)], [], []⟩

/-- Mount sessions and transports (Tables 5-5, 5-7, 11-11). -/
def specXport (e : Entry) (op : Nat) : EntrySpec :=
  let f := fieldOf e
  let xp : Nat × Bool := (0x10, decide (f 0x10 1 ≤ 3))
  match op with
  | 0x18 => ⟨[(0x10, full 1), (0x11, 1), (0x12, full 2), (0x14, full 2), (0x16, full 2), (0x18, full 8)],
      [(0x18, 4096, 64)], [xp, (0x14, decide (f 0x14 2 ≤ 1000)), (0x16, decide (f 0x16 2 ≤ 4096))]⟩
  | 0x19 => ⟨[(0x10, full 1), (0x11, 3)], [], [xp]⟩
  | 0x1A => ⟨[(0x10, full 1), (0x11, full 1), (0x18, full 8)], [(0x18, 16 * f 0x11 1, 16)],
      [xp, (0x11, decide (1 ≤ f 0x11 1 ∧ f 0x11 1 ≤ 64))]⟩
  | 0x1B => ⟨[(0x10, if f 0x11 1 == 2 then 0 else full 1), (0x11, full 1), (0x18, full 8)], [(0x18, 32, 32)],
      [(0x10, decide (f 0x10 1 ≤ 3) || f 0x11 1 == 2), (0x11, decide (f 0x11 1 ≤ 2))]⟩
  | 0x1C => ⟨[(0x10, if f 0x11 1 == 3 then 0 else full 1), (0x11, full 1), (0x18, full 8)],
      [(0x18, if f 0x11 1 == 0 then 128 else 32, 64)],
      [(0x10, decide (f 0x10 1 ≤ 3) || f 0x11 1 == 3), (0x11, decide (f 0x11 1 ≤ 3))]⟩
  | _ => let rc := bitOf (f 0x11 1) 2
    ⟨[(0x10, full 1), (0x11, 7), (0x12, if rc then full 1 else 0), (0x14, if rc then full 2 else 0)], [],
      [xp, (0x11, f 0x11 1 % 8 != 0), (0x12, !rc || decide (f 0x12 1 ≤ 63)),
       (0x14, !rc || decide (1 ≤ f 0x14 2 ∧ f 0x14 2 ≤ 64))]⟩

/-- Time, telemetry, power, engines and faults (Tables 14-5, 12-9, 15-12 to 15-14, 16-8). -/
def specDevice (e : Entry) (op : Nat) : EntrySpec :=
  let f := fieldOf e
  match op with
  | 0x20 => let rel := f 0x10 1 == 1
    ⟨[(0x10, full 1), (0x18, if rel then full 8 else full 6), (0x20, if f 0x10 1 == 0 then 2 ^ 30 - 1 else 0)], [],
      [(0x10, decide (f 0x10 1 ≤ 2)), (0x18, !rel || f 0x18 8 % 4 == 0),
       (0x20, f 0x10 1 != 0 || (f 0x20 4 % 4 == 0 && decide (f 0x20 4 % 2 ^ 30 ≤ 999999996)))]⟩
  | 0x21 =>
    let k := f 0x11 1
    let p := f 0x14 4
    let on := k != 0
    let src := k == 1 || k == 2
    ⟨[(0x10, full 1), (0x11, full 1), (0x12, if src then full 1 else 0), (0x13, if on then full 1 else 0),
      (0x14, if on then full 4 else 0), (0x18, if on then full 8 else 0), (0x20, 3)],
     if on then [(0x18, 2 ^ (f 0x13 1 % 32), 4096)] else [],
     [(0x10, decide (f 0x10 1 ≤ 7)), (0x11, decide (k ≤ 4)), (0x12, !src || decide (f 0x12 1 ≤ 3)),
      (0x13, !on || decide (12 ≤ f 0x13 1 ∧ f 0x13 1 ≤ 30)),
      (0x14, !on || (decide ((if k == 1 || k == 3 then 100 else 1000) ≤ p ∧ p ≤ 1000000) &&
        (!bitOf (f 0x20 1) 0 || 1000000 % p == 0)))]⟩
  | 0x24 => ⟨[(0x10, full 1), (0x12, full 2)], [],
      [(0x10, decide (1 ≤ f 0x10 1 ∧ f 0x10 1 ≤ 3)), (0x12, decide (f 0x12 2 ≤ 60000))]⟩
  | 0x25 => ⟨[(0x10, full 8), (0x18, full 4), (0x1C, full 4), (0x20, 3)], [(0x10, f 0x1C 4, 64)],
      [(0x18, f 0x18 4 % 256 == 0 && entryInRegion (f 0x18 4) 0 && (!bitOf (f 0x20 1) 0 || f 0x18 4 == 0)),
       (0x1C, decide (256 ≤ f 0x1C 4 ∧ f 0x1C 4 ≤ 1048576) && f 0x1C 4 % 256 == 0 && entryInRegion (f 0x18 4) (f 0x1C 4))]⟩
  | 0x26 => ⟨[(0x10, 1)], [], []⟩
  | 0x27 => ⟨[(0x10, full 1), (0x11, full 1), (0x12, full 1), (0x13, 1), (0x14, full 1), (0x15, 0xF)], [],
      [(0x10, decide (f 0x10 1 ≤ 20)), (0x11, decide (f 0x11 1 ≤ 20)), (0x12, decide (f 0x12 1 ≤ 20)),
       (0x15, popcount (f 0x15 1) 4 == 2)]⟩
  | 0x28 => ⟨[(0x10, full 1), (0x11, full 1), (0x12, full 2), (0x14, 1)], [],
      [(0x10, decide (f 0x10 1 ≤ 5)), (0x11, decide (f 0x11 1 < engineCount (f 0x10 1)) || decide (5 < f 0x10 1)),
       (0x12, decide (f 0x12 2 ≤ 10000))]⟩
  | 0x29 => ⟨[(0x10, full 1), (0x11, full 1)], [],
      [(0x10, decide (f 0x10 1 ≤ 5)), (0x11, decide (f 0x11 1 < engineCount (f 0x10 1)) || decide (5 < f 0x10 1))]⟩
  | 0x2A => ⟨[(0x10, full 4)], [], [(0x10, f 0x10 4 == 0 || decide (100 ≤ f 0x10 4 ∧ f 0x10 4 ≤ 60000))]⟩
  | 0x2B => ⟨[(0x10, full 8), (0x18, full 4), (0x1C, full 2), (0x1E, 1)], [(0x10, 64 + 64 * f 0x1C 2, 64)],
      [(0x1C, decide (1 ≤ f 0x1C 2 ∧ f 0x1C 2 ≤ 4096))]⟩
  | 0x2C => ⟨[(0x10, full 8), (0x18, 3)], [], [(0x10, f 0x10 8 % 65536 == 0)]⟩
  | _ => ⟨[(0x10, full 1), (0x11, 1)], [], [(0x10, decide (f 0x10 1 ≤ 127))]⟩

/-- Streams (Table 5-9). -/
def specStream (e : Entry) (op : Nat) : EntrySpec :=
  let f := fieldOf e
  match op with
  | 0x40 => ⟨[(0x10, full 1), (0x11, full 1), (0x12, 1)], [],
      [(0x10, decide (f 0x10 1 ≤ 3)), (0x11, decide (f 0x11 1 ≤ 63))]⟩
  | 0x41 =>
    let lab := f 0x22 1
    ⟨[(0x10, full 2), (0x12, 3), (0x13, full 1), (0x14, full 4), (0x18, full 8), (0x20, full 2), (0x22, full 1),
      (0x24, full 4), (0x28, if lab == 0 then 0 else full 8)],
     [bufAddr 0x18 (f 0x14 4) (f 0x20 2), (0x28, lab, 1)],
     [(0x13, decide (f 0x13 1 ≤ 4)), (0x14, decide (1 ≤ f 0x14 4 ∧ f 0x14 4 ≤ 16777215)),
      (0x20, decide (f 0x20 2 ≤ 256)), (0x22, decide (lab ≤ 224))]⟩
  | 0x42 => ⟨[(0x10, full 2), (0x12, full 2), (0x14, full 1), (0x18, full 8)], [(0x18, 32 * f 0x12 2, 32)],
      [(0x12, decide (1 ≤ f 0x12 2 ∧ f 0x12 2 ≤ 256)), (0x14, decide (f 0x14 1 ≤ 4))]⟩
  | 0x43 | 0x44 => ⟨[(0x10, full 2)], [], []⟩
  | 0x45 => ⟨[(0x10, full 2), (0x12, 1)], [], []⟩
  | 0x48 =>
    let vo := bitOf (f 0x12 1) 0
    ⟨[(0x10, full 2), (0x12, 1), (0x13, full 1), (0x14, full 4), (0x18, full 8), (0x20, full 2), (0x22, full 2), (0x28, full 8)],
     (if vo then [] else [bufAddr 0x18 (f 0x14 4) (f 0x20 2)]) ++ [(0x28, 64 * f 0x22 2, 64)],
     [(0x13, decide (f 0x13 1 ≤ 4)), (0x14, decide (16 ≤ f 0x14 4 ∧ f 0x14 4 ≤ 268435456)),
      (0x20, decide (f 0x20 2 ≤ 256)), (0x22, decide (1 ≤ f 0x22 2 ∧ f 0x22 2 ≤ 256))]⟩
  | 0x49 =>
    let m := f 0x12 1
    ⟨[(0x10, full 2), (0x12, full 1), (0x18, if m == 0 then full 8 else if m == 3 then full 6 else 0),
      (0x20, if m == 3 then 2 ^ 30 - 1 else 0)], [], [(0x12, decide (m ≤ 3))]⟩
  | 0x4A => ⟨[(0x10, full 2), (0x12, 1), (0x14, full 4), (0x18, full 8)], [(0x18, 64, 64)],
      [(0x14, decide (1 ≤ f 0x14 4 ∧ f 0x14 4 ≤ 65535))]⟩
  | _ => ⟨[(0x10, full 2), (0x18, full 8)], [(0x18, 64, 64)], []⟩

/-- Services (Tables 6-4, 7-11) and SESSION_KEY_CLEAR. -/
def specService (e : Entry) (op : Nat) : EntrySpec :=
  let f := fieldOf e
  match op with
  | 0x84 =>
    let noOut := f 0x10 1 == 2 || f 0x14 4 == 0
    ⟨[(0x10, full 1), (0x11, full 1), (0x12, full 2), (0x14, full 4), (0x18, full 8), (0x20, if noOut then 0 else full 8),
      (0x28, full 2), (0x2A, full 2), (0x30, if f 0x2A 2 == 0 then 0 else full 8), (0x38, full 8)],
     [bufAddr 0x18 (f 0x14 4) (f 0x12 2)] ++ (if noOut then [] else [bufAddr 0x20 (f 0x14 4) (f 0x28 2)]) ++
       [(0x30, f 0x2A 2, 1), (0x38, 32, 32)],
     [(0x10, decide (f 0x10 1 ≤ 2)), (0x11, decide (f 0x11 1 ≤ 4)), (0x12, decide (f 0x12 2 ≤ 256)),
      (0x14, decide (f 0x14 4 ≤ 16777216)), (0x28, decide (f 0x28 2 ≤ 256)), (0x2A, decide (f 0x2A 2 ≤ 4096))]⟩
  | _ =>
    ⟨[(0x10, if op == 0x82 then 0 else full 1), (0x11, if op == 0x80 then 3 else 1), (0x12, full 2), (0x14, full 4),
      (0x18, full 8), (0x20, full 8), (0x28, full 4), (0x2C, full 2), (0x30, full 8), (0x38, if op == 0x81 then full 4 else 0)],
     [bufAddr 0x18 (f 0x14 4) (f 0x12 2), bufAddr 0x20 (f 0x28 4) (f 0x2C 2), (0x30, 66560, 64)],
     [(0x10, decide (f 0x10 1 ≤ 2) || op == 0x82), (0x12, decide (f 0x12 2 ≤ 256)), (0x28, decide (1 ≤ f 0x28 4)),
      (0x2C, decide (f 0x2C 2 ≤ 256))]⟩

/-- The field table of an opcode; none when Table 4-8 does not have it (R202). -/
def entrySpec (e : Entry) : Option EntrySpec :=
  let op := fieldOf e 0 1
  if 0x01 ≤ op && op ≤ 0x05 then some (specRing e op)
  else if (0x08 ≤ op && op ≤ 0x0B) || (0x10 ≤ op && op ≤ 0x14) || op == 0x85 then some (specKey e op)
  else if 0x18 ≤ op && op ≤ 0x1D then some (specXport e op)
  else if op == 0x20 || op == 0x21 || (0x24 ≤ op && op ≤ 0x2D) then some (specDevice e op)
  else if (0x40 ≤ op && op ≤ 0x45) || (0x48 ≤ op && op ≤ 0x4B) then some (specStream e op)
  else if (0x80 ≤ op && op ≤ 0x82) || op == 0x84 then some (specService e op)
  else none

/-- The defined bits of the common header (Table 4-1). -/
def headerLive (op : Nat) : List (Nat × Nat) :=
  [(0, full 1), (1, 3), (2, full 2), (4, if namesCtx op then 0xFFF else 0),
   (8, if op == 0x41 || op == 0x42 then full 8 else 0)]

/-- The return block address of WRITE and WRITE_BATCH (R194). -/
def headerAddrs (e : Entry) (op : Nat) : List (Nat × Nat × Nat) :=
  if op == 0x41 then [(8, 64, 64)] else if op == 0x42 then [(8, 64 * fieldOf e 0x12 2, 64)] else []

/-- The lowest byte of the entry that holds a set bit outside the live bits. -/
def reservedByte (e : Entry) (live : List (Nat × Nat)) : Option Nat :=
  let m := live.foldl (fun a p => a ||| (p.2 <<< (8 * p.1))) 0
  (List.range 64).find? fun i => decide ((fieldOf e i 1) &&& (((2 ^ 512 - 1) ^^^ m) >>> (8 * i)) % 256 ≠ 0)

/-- The least of some offsets. -/
def leastOff (l : List Nat) : Option Nat :=
  l.foldl (fun a k => match a with
    | none => some k
    | some j => some (min j k)) none

/-- The offset that INVALID_FIELD reports for an entry: the lowest of all that is wrong (R172, R183 check 3). -/
def badField (e : Entry) (mbx : Bool) (sp : EntrySpec) : Option Nat :=
  let op := fieldOf e 0 1
  let res := reservedByte e (headerLive op ++ sp.live)
  let adr := ((headerAddrs e op ++ sp.addrs).filter fun a => !addrFine mbx (fieldOf e a.1 8) a.2.1 a.2.2).map (·.1)
  let val := (sp.vals.filter fun v => !v.2).map (·.1)
  leastOff (res.toList ++ adr ++ val)

/-- Opcodes accepted on ring 0 only (Table 4-8). -/
def ring0Only (op : Nat) : Bool :=
  op == 0x02 || op == 0x03 || (0x08 ≤ op && op ≤ 0x0A) || (0x10 ≤ op && op ≤ 0x12) || op == 0x14 ||
  (0x18 ≤ op && op ≤ 0x1D) || op == 0x20 || op == 0x21 || (0x24 ≤ op && op ≤ 0x2D)

/-- Opcodes that the mailbox accepts (Table 13-5). -/
def mailboxOp (op : Nat) : Bool :=
  op == 0x01 || op == 0x05 || op == 0x0B || op == 0x13 || op == 0x14 || op == 0x18 || op == 0x19 || op == 0x1B ||
  op == 0x1C || op == 0x1D || op == 0x20 || op == 0x24 || (0x27 ≤ op && op ≤ 0x2D)

/-- Does R41 hold: no context named, an admin command on ring 0, or an ACTIVE context of the ring's function? -/
def ownsCtx (s : State) (fn ring : Nat) (e : Entry) : Bool :=
  let op := fieldOf e 0 1
  !namesCtx op || (0x08 ≤ op && op ≤ 0x0B && ring == 0) ||
  match Tbl.get? s.ten.ctx (fieldOf e 4 2 % 4096) with
  | some x => x.st == .active && x.d.ownerFn == fn
  | none => false

/-- Offsets of the fields whose range the device's state sets: ORIG_LEN and LABEL_LEN of a WRITE of a context that R41 lets the ring
name (Table 5-9, R102), and ADDR of RETIRE_BUFFER_PAGE (Table 16-8). -/
def rangeBad (s : State) (fn ring : Nat) (e : Entry) : List Nat :=
  let f := fieldOf e
  match f 0 1, Tbl.get? s.ten.ctx (f 4 2 % 4096) with
  | 0x41, some x =>
    if ownsCtx s fn ring e then
      (if x.d.staging * 1048576 < f 0x14 4 then [0x14] else []) ++ (if x.d.maxLabel < f 0x22 1 then [0x22] else [])
    else []
  | 0x2C, _ => if s.pmu.bufBytes ≤ f 0x10 8 then [0x10] else []
  | _, _ => []

/-- The checks of R183 in their order: the completion of the first that fails. -/
def entryCheck (s : State) (fn ring : Nat) (mbx : Bool) (e : Entry) : Option Compl :=
  let op := fieldOf e 0 1
  match entrySpec e with
  | none => some (Compl.of 1)
  | some sp =>
    if (mbx && !mailboxOp op) || (!mbx && ring0Only op && ring != 0) then some (Compl.of 1)
    else match leastOff ((badField e mbx sp).toList ++ rangeBad s fn ring e) with
      | some off => some (Compl.field off)
      | none => if ownsCtx s fn ring e then none else some (Compl.of 3)

/-! ### Charges, domains and scatter lists -/

/-- Is the entry a data entry (R59)? -/
def dataOp (op : Nat) : Bool :=
  op == 0x41 || op == 0x42 || op == 0x48 || op == 0x4A || (0x80 ≤ op && op ≤ 0x82) || op == 0x84

/-- The charge of a data entry (R59): `batch` is the original length of a WRITE_BATCH's list. -/
def rawCharge (e : Entry) (batch : Nat) : Nat :=
  match fieldOf e 0 1 with
  | 0x41 => fieldOf e 0x14 4
  | 0x42 => batch
  | 0x48 => fieldOf e 0x14 4
  | 0x4A => fieldOf e 0x14 4 * 4128256
  | 0x80 | 0x81 | 0x82 => fieldOf e 0x14 4
  | 0x84 => fieldOf e 0x14 4 + fieldOf e 0x2A 2
  | _ => 0

/-- The elements of a scatter list are all in range (R281). -/
def sglElemOk (x : SglElem) : Bool :=
  decide (1 ≤ x.len ∧ x.len ≤ 16777216) && x.rsvd == 0 && decide (x.addr + x.len ≤ 2 ^ 64)

/-- Is the data buffer usable: contiguous, or a list of `n` good elements that covers `len` (R280, R281)? -/
def sglOk (n len : Nat) (l : List SglElem) : Bool :=
  n == 0 || (l.length == n && l.all sglElemOk && decide (len ≤ sumOf (l.map (·.len))))

/-- The pieces of host memory behind a buffer: the list's elements, or one contiguous piece (R280). -/
def pieces (addr len n : Nat) (l : List SglElem) : List (Nat × Nat) :=
  if n == 0 then [(addr, len)] else l.map fun x => (x.addr, x.len)

/-- Splits bytes written at buffer offset `o` over the pieces of host memory. -/
def scatter (ps : List (Nat × Nat)) (o : Nat) (b : Bytes) : List (Nat × Bytes) :=
  match ps with
  | [] => []
  | (a, n) :: r =>
    if n ≤ o then scatter r (o - n) b
    else if b.isEmpty then []
    else (a + o, b.take (n - o)) :: scatter r 0 (b.drop (n - o))

/-- Writes data at a buffer offset; `relaxed` only for read data (R114). -/
def cmdScatter (s : State) (c : Cmd) (ps : List (Nat × Nat)) (o : Nat) (b : Bytes) (relaxed : Bool) : State :=
  (scatter ps o b).foldl (fun s p => cmdWrite s c p.1 p.2 relaxed) s

end Sys2Proof.Machine
end

