-- ==== Sys2Proof/Machine/Headwind.lean ====
section
/-! DEFINITION. Headwind admission: charges, domains, buckets, ranking and the state of a context
(R55 to R78), and command tags (R185 to R188). -/

namespace Sys2Proof.Machine

/-! ### Region sizes (Table 4-10; the shares of the 128 GiB board of Example 18.1) -/

/-- Tenant staging region in MiB. -/
def stagingMib (s : State) : Nat := s.pmu.bufBytes / 1048576 * 3 / 4

/-- Write assembly region of one transport in MiB. -/
def writeAsmMib (s : State) : Nat := s.pmu.bufBytes / 1048576 / 32

/-- Restore region of one transport in MiB. -/
def restoreMib (s : State) : Nat := s.pmu.bufBytes / 1048576 / 64

/-- Transport `t`, if fitted. -/
def xpOf (s : State) (t : Nat) : Option Xport := Tbl.get? s.xp t

/-- Changes transport `t`. -/
def updXp (s : State) (t : Nat) (f : Xport → Xport) : State := { s with xp := Tbl.upd s.xp t f }

/-- Changes the mount session of transport `t`. -/
def updMount (s : State) (t : Nat) (f : Mount → Mount) : State :=
  updXp s t fun x => { x with mount := x.mount.map f }

/-- The write assembly region of transport `t` counts as full (R66, R581). -/
def asmFull (s : State) (t : Nat) : Bool :=
  match xpOf s t with
  | some x => decide (x.blk.highWm * (writeAsmMib s * 1048576) ≤ x.occ * 1000) && s.pmu.bufBytes != 0
  | none => false

/-! ### The domain and charge of an entry -/

/-- The stream that a stream entry names, if it is bound to the entry's context and ring (R189, R246). -/
def boundStream (s : State) (ring : Nat) (e : Entry) : Option Stream :=
  (Tbl.get? s.strm (fieldOf e 0x10 2)).filter fun st => st.ctx == fieldOf e 4 2 % 4096 && st.ring == ring

/-- The bound stream, unless a CLOSE_STREAM has shut it to later commands (R248). -/
def entryStream (s : State) (ring : Nat) (e : Entry) : Option Stream := (boundStream s ring e).filter fun st => !st.closing

/-- The fair-queuing domain of a data entry: its stream's transport, or 4 for the services. -/
def entryDomain (s : State) (ring : Nat) (e : Entry) : Option Nat :=
  let op := fieldOf e 0 1
  if op == 0x80 || op == 0x81 || op == 0x82 || op == 0x84 then some 4
  else (entryStream s ring e).map (·.xp)

/-- The function that owns a ring. -/
def ringOwner (s : State) (n : Nat) : Nat := (Tbl.get? s.rings.tbl n).elim 0 (·.owner)

/-- The charge of a lookahead entry (R59): zero for an entry that fails its checks (R183), for a write of a
HALTED context, for a write above the staging quota (R102, R285), and for a stream that is not open. -/
def lookCharge (s : State) (ring : Nat) (l : Look) : Nat :=
  let op := fieldOf l.entry 0 1
  if !dataOp op || l.lost || (entryCheck s (ringOwner s ring) ring false l.entry).isSome then 0
  else match entryDomain s ring l.entry, ctxOf s (fieldOf l.entry 4 2 % 4096) with
    | some _, some x =>
      let c := rawCharge l.entry l.batchLen
      if (op == 0x41 || op == 0x42) && (halted x || decide (x.d.staging * 1048576 < c)) then 0 else c
    | _, _ => 0

/-- The class of fetch slot of an opcode (R64). -/
def slotClass (op : Nat) : SlotCls :=
  if op == 0x41 || op == 0x42 then .write else if op == 0x48 || op == 0x4A then .read else .service

/-- Has the domain a free fetch slot of the class (R64, R66)? -/
def slotFree (s : State) (d : Nat) (k : SlotCls) : Bool :=
  match k with
  | .write => decide ((domOf s d).wrUsed < 64) && !asmFull s d
  | .read => decide ((domOf s d).rdUsed < 16)
  | .service => decide ((domOf s d).svUsed < 64)

/-- Takes a fetch slot. -/
def takeSlot (s : State) (d : Nat) (k : SlotCls) : State :=
  let m := domOf s d
  let m' : Domain := match k with
    | .write => { m with wrUsed := m.wrUsed + 1 }
    | .read => { m with rdUsed := m.rdUsed + 1 }
    | .service => { m with svUsed := m.svUsed + 1 }
  { s with ten.doms := Tbl.put s.ten.doms d m' }

/-! ### Tags and credits (R178 to R188) -/

/-- Commands of ring `n` that hold a tag, completed or not, until their completion is posted (R185). -/
def ringCmds (s : State) (n : Nat) : List Cmd := s.rings.cmds.filter fun c => c.ring == n && !c.mailbox

/-- Tags taken from the shared pool (R186). -/
def poolUsed (s : State) : Nat := sumOf (s.rings.tbl.map fun p => (ringCmds s p.1).length - 16)

/-- Tags of the shared pool (R186). -/
def poolSize (s : State) : Nat := 32768 - 16 * s.rings.tbl.length

/-- Is a tag available to ring `n` (R186, R187)? -/
def tagFree (s : State) (n : Nat) (r : Ring) : Bool :=
  let k := (ringCmds s n).length
  decide (k < r.tagMax) && (decide (k < 16) || decide (poolUsed s < poolSize s))

/-- Completions posted and not released, plus slots reserved for commands in flight (R178). -/
def creditsUsed (s : State) (n : Nat) (r : Ring) : Nat :=
  (r.cqTail + 2 ^ r.log2 - r.cqHead) % 2 ^ r.log2 + (ringCmds s n).length

/-- May RNG read the ring's next entry (R179)? -/
def creditFree (s : State) (n : Nat) (r : Ring) : Bool := decide (creditsUsed s n r < 2 ^ r.log2 - 1)

/-- The ring engine takes entries at all: firmware is up (R119), no live-update pause (R225), the device is in
Run with no Lull entry in progress (R735), PFAIL_N is not qualified (R763). -/
def fetchOn (s : State) : Bool :=
  s.host.fwReady && !s.host.updatePause && s.pmu.ps == .run && s.pmu.lull.isNone && !s.pmu.pfail && s.host.sysRst

/-- The ring may be fetched from: ACTIVE, and requests of its function may be issued (R137, R142, R151, R214). -/
def ringOn (s : State) (n : Nat) (r : Ring) : Bool :=
  fetchOn s && r.st == .active && mayIssue s r.owner && fnEnabled s r.owner && (n != 0 || s.host.admin.enable)

/-! ### Buckets (R67) -/

/-- Refills every context's bucket for the microseconds since the last refill. -/
def refill (s : State) : State :=
  let us := (now s - s.ten.refillAt) / usTicks
  { s with
    ten.refillAt := s.ten.refillAt + us * usTicks,
    ten.ctx := Tbl.mapVal s.ten.ctx fun _ x =>
      if x.d.rate = 0 then x else { x with bucket := min (x.bucket + x.d.rate * us) (x.d.gust * 1048576) } }

/-- The conditions of R63 that a waiting data entry of non-zero charge must meet. -/
def rateOk (x : Ctx) : Bool := x.d.rate == 0 || decide (0 < x.bucket)

/-- Bytes of admitted WRITE and WRITE_BATCH entries of context `k` that are still to be ingested: they are as good as staged, so
that the quota of R52 holds whatever the order of admission and ingest (log entry 127). -/
def dueStaging (s : State) (k : Nat) : Nat :=
  sumOf ((s.rings.cmds.filter fun c => (c.opcode == 0x41 || c.opcode == 0x42) && c.ctx == k && c.done.isNone).map fun c =>
    c.charge - c.voided - sumOf (c.recs.map fun r => r.data.length))

/-- The staging condition of R63. -/
def stagingOk (s : State) (k : Nat) (x : Ctx) (op charge : Nat) : Bool :=
  !(op == 0x41 || op == 0x42) || decide (x.staged + dueStaging s k + charge ≤ x.d.staging * 1048576)

/-- May an entry be consumed from the ring now: the ring may be fetched from, and a tag is free (R180, R188)? -/
def canConsume (s : State) (n : Nat) (r : Ring) : Bool := ringOn s n r && tagFree s n r

/-- Does the lookahead entry qualify in domain `d` (R63)? An entry of a ring that cannot consume it does not hold others back. -/
def qualifies (s : State) (ring d : Nat) (l : Look) : Bool :=
  let op := fieldOf l.entry 0 1
  let k := fieldOf l.entry 4 2 % 4096
  match ctxOf s k with
  | some x => entryDomain s ring l.entry == some d && lookCharge s ring l != 0 && rateOk x &&
      stagingOk s k x op (lookCharge s ring l) && slotFree s d (slotClass op) &&
      (Tbl.get? s.rings.tbl ring).elim false (canConsume s ring)
  | none => false

/-- The start tag of an entry in a domain (R67). -/
def startTag (s : State) (d : Nat) (l : Look) : Nat :=
  max ((ctxOf s (fieldOf l.entry 4 2 % 4096)).elim 0 (·.fin)) (domOf s d).v

/-- The ring whose lookahead entry the domain admits: the least start tag, ties to the lower ring (R67). -/
def pick (s : State) (d : Nat) : Option Nat :=
  (s.rings.tbl.foldl (fun best p =>
    match p.2.look with
    | some l => if qualifies s p.1 d l then
        match best with
        | some (_, t) => if startTag s d l < t then some (p.1, startTag s d l) else best
        | none => some (p.1, startTag s d l)
      else best
    | none => best) (none : Option (Nat × Nat))).map (·.1)

/-! ### The headwind state (R55, R69) -/

/-- The context of a lookahead entry, if R41 lets the ring's function name it. -/
def lookCtx (s : State) (n : Nat) (r : Ring) (l : Look) : Option Nat :=
  if ownsCtx s r.owner n l.entry && !l.lost then some (fieldOf l.entry 4 2 % 4096) else none

/-- Does context `k` wait with the entry: a data entry of its own that is not admitted? One of zero charge is admitted as soon as
the ring can consume it (R62), so it waits only where the ring cannot. -/
def waitsWith (s : State) (k n : Nat) (r : Ring) : Bool :=
  r.look.elim false fun l =>
    lookCtx s n r l == some k && dataOp (fieldOf l.entry 0 1) && (lookCharge s n l != 0 || !canConsume s n r)

/-- Has the context a data entry in a lookahead slot that is not admitted? -/
def waits (s : State) (k : Nat) : Bool := s.rings.tbl.any fun p => waitsWith s k p.1 p.2

/-- HW_STATE of Table 2-2: 0 CLEAR, 1 HEADWIND, 2 HALTED (R69). -/
def hwState (s : State) (k : Nat) : Nat :=
  match ctxOf s k with
  | some x => if halted x then 2 else if waits s k then 1 else 0
  | none => 0

/-- The context whose entry domain `d` admits next. -/
def pickCtx (s : State) (d : Nat) : Option Nat :=
  (pick s d).bind fun n => (Tbl.get? s.rings.tbl n).bind fun r => r.look.map fun l => fieldOf l.entry 4 2 % 4096

/-- HW_REASON of Table 2-2: SHARE (another context ranks first), RATE, STAGING (R69, R101). -/
def hwReason (s : State) (k : Nat) : Nat :=
  match ctxOf s k with
  | some x =>
    let share := s.rings.tbl.any fun p => p.2.look.elim false fun l =>
      waitsWith s k p.1 p.2 && (entryDomain s p.1 l.entry).elim false fun d =>
        qualifies s p.1 d l && (pickCtx s d).elim false (· != k)
    let stag := decide (x.d.staging * 1048576 ≤ x.staged) || s.rings.tbl.any fun p => p.2.look.elim false fun l =>
      waitsWith s k p.1 p.2 && !stagingOk s k x (fieldOf l.entry 0 1) (lookCharge s p.1 l)
    b2n share + 2 * b2n (!rateOk x) + 4 * b2n stag
  | none => 0

/-- Bytes of context `k` staged for transport `d`: records ingested and not yet packed. -/
def stagedFor (s : State) (k d : Nat) : Nat :=
  sumOf ((s.rings.cmds.filter fun c => c.ctx == k && (c.opcode == 0x41 || c.opcode == 0x42) &&
    ((c.stream.bind (Tbl.get? s.strm)).map (·.xp) == some d)).map fun c =>
      sumOf ((c.recs.drop c.acked).map fun r => r.data.length))

/-- Is context `k` backlogged in domain `d`: a data entry of its own in a lookahead slot, or data staged for `d` (R70)? -/
def backlogged (s : State) (k d : Nat) : Bool :=
  (s.rings.tbl.any fun p => p.2.look.elim false fun l =>
    lookCtx s p.1 p.2 l == some k && dataOp (fieldOf l.entry 0 1) && entryDomain s p.1 l.entry == some d) ||
  (decide (d < 4) && decide (0 < stagedFor s k d))

/-- Counts an entry into HEADWIND when the context was not in it before (Table 2-2). -/
def countHw (before s : State) (k : Nat) : State :=
  if hwState s k == 1 && hwState before k != 1 then updCtx s k fun x => { x with hwCount := satAdd 32 x.hwCount 1 } else s

end Sys2Proof.Machine
end

