-- ==== Sys2Proof/Machine/Time.lean ====
section
/-! DEFINITION. Time passing: ticks of 4 ns (R694) and the counters that count microseconds (R78, R188,
Tables 2-2, 4-17, 10-8). -/

namespace Sys2Proof.Machine

/-- Microseconds that end within `dt` ticks from now. -/
def usPassed (s : State) (dt : Nat) : Nat := (now s + dt) / usTicks - now s / usTicks

/-- Formatter time after `dt` ticks of 4 ns; the seconds wrap at 2^48 (R694). -/
def tickTime (u : Tbu) (dt : Nat) : Tbu :=
  { u with ns := (u.ns + 4 * dt) % 1000000000, sec := (u.sec + (u.ns + 4 * dt) / 1000000000) % 2 ^ 48 }

/-- One ring's counters after `k` microseconds (R78, R188, Table 4-17). -/
def tickRing (s : State) (k n : Nat) (r : Ring) : Ring :=
  let data := r.look.elim false fun l => dataOp (fieldOf l.entry 0 1)
  { r with
    deferUs := if data then satAdd 32 r.deferUs k else r.deferUs,
    tagWaitUs := if r.look.isSome && !tagFree s n r then satAdd 32 r.tagWaitUs k else r.tagWaitUs,
    creditWaitUs := if r.sqTail != r.sqHead && !creditFree s n r then satAdd 32 r.creditWaitUs k else r.creditWaitUs }

/-- Lets `dt` ticks go by. Nothing moves while SYS_CLK_IN is lost (R857). -/
def advance (s : State) (dt : Nat) : State :=
  if s.clk.frozen then s
  else
    let k := usPassed s dt
    { s with
      clk.ticks := s.clk.ticks + dt,
      tbu := tickTime s.tbu dt,
      rings.tbl := Tbl.mapVal s.rings.tbl (tickRing s k),
      ten.ctx := Tbl.mapVal s.ten.ctx fun n x =>
        if hwState s n == 1 then { x with hwUs := satAdd 64 x.hwUs k } else x,
      rc := { s.rc with
        busyNs := s.rc.busyNs + 4 * dt * s.rc.decs.length,
        l1Us := if s.rc.level = 1 then satAdd 64 s.rc.l1Us k else s.rc.l1Us,
        l2Us := if s.rc.level = 2 then satAdd 64 s.rc.l2Us k else s.rc.l2Us } }

end Sys2Proof.Machine
end

