-- ==== Sys2Proof/Machine/Abort.lean ====
section
/-! DEFINITION. Discarding records and aborting commands (R55, R196 to R199, Table 4-5). -/

namespace Sys2Proof.Machine

/-- The identifier that no command has: what waits for an aborted command keeps it instead. -/
def noCmd : Nat := 65535

/-- Gives back the staging and the volume of discarded records, which may end HALTED (R52, R55, R57). Where VOLUME_RESET came in
between, more may be discarded than VOLUME_USED still counts; the spec is silent, and VOLUME_USED stops at 0 (log entry 129). -/
def discardBytes (s : State) (k staged vol : Nat) : State :=
  let s' := updCtx s k fun x => { x with staged := x.staged - staged, volUsed := x.volUsed - vol }
  countHw s s' k

/-- Original length of the records of a WRITE or WRITE_BATCH that are neither acknowledged nor discarded. -/
def unacked (c : Cmd) : Nat := c.charge - c.voided - sumOf ((c.recs.take c.acked).map fun r => r.data.length)

/-- Discards the records of a WRITE or WRITE_BATCH from record `i` on, of which `vol` bytes are still counted: they leave staging
and VOLUME_USED at once (R52, R55). -/
def discardFrom (s : State) (c : Cmd) (i vol : Nat) : State :=
  let s := discardBytes s c.ctx (sumOf ((c.recs.drop i).map fun r => r.data.length)) vol
  updCmd s c.id fun c => { c with recs := c.recs.take i, voided := c.voided + vol }

/-- Discards the records of a WRITE or WRITE_BATCH that are not acknowledged (R55, R254). -/
def dropRecords (s : State) (c : Cmd) : State :=
  if c.opcode == 0x41 || c.opcode == 0x42 then discardFrom s c c.acked (unacked c) else s

/-! ### Abort (R196 to R199, Table 4-5) -/

/-- Is the command past its abort limit? READ, VERIFY_SCAN, FLUSH, SYNC, LOCATE and the service jobs are abortable until their
completion is posted, so also while it is held back. -/
def pastLimit (c : Cmd) : Bool :=
  match c.opcode with
  | 0x41 => decide (1 ≤ c.acked)
  | 0x42 => !c.descs.isEmpty && decide (c.descs.length ≤ c.acked)
  | 0x43 | 0x44 | 0x48 | 0x49 | 0x4A | 0x80 | 0x81 | 0x82 => false
  | 0x84 => c.done.isSome
  | _ => true

/-- A status that an abort gives: ABORTED_BY_HOST, DEADLOCK_BROKEN or ABORTED_BY_UPDATE. -/
def abortStatus (st : Nat) : Bool := st == 0x47 || st == 0x44 || st == 0x45

/-- Has an abort reached the command already, so that it completes as aborted, or stops for it (R199)? -/
def abortedAlready (s : State) (c : Cmd) : Bool :=
  c.done.elim false (fun k => abortStatus k.status) ||
  (c.done.isNone && (Tbl.get? s.svc c.id).elim false (fun j => j.stopBy != 0))

/-- The bytes a READ has written to host memory so far. -/
def readBytes (c : Cmd) : Nat :=
  match c.prog with
  | .reading _ _ b _ _ _ _ => b
  | _ => 0

/-- RESULT of a command that ends before its work is done: records acknowledged, bytes returned, or none. -/
def partResult (c : Cmd) : Nat := if c.opcode == 0x42 then c.acked else if c.opcode == 0x48 then readBytes c else 0

/-- The completion `k` takes the place of the one that is fixed and not posted, if there is one. -/
def fixAgain (s : State) (id : Nat) (k : Compl) : State :=
  updCmd (freeSlot s id) id fun c => { c with done := some (k.finish s c), moved := now s }

/-- Aborts a service job that no lane has started, or that has ended and waits to be posted: its context is written where it
stands, or HOST_ACCESS_ERROR if it cannot be (R324, R325, Table 4-5). The context of a RESUME that has not started is the one in
host memory, which stays (log entry 130). -/
def abortJob (st : Nat) (s : State) (c : Cmd) : State :=
  let old := c.done.getD (Compl.of 0)
  let j := ((Tbl.get? s.svc c.id).filter fun _ => c.done.isSome).getD (Job.begin c (c.opcode == 0x80))
  let k := { old with status := st, resumable := true }
  if old.resumable || (c.done.isNone && c.opcode == 0x82) then fixAgain s c.id k
  else if !dataOk s c then fixAgain s c.id { old with status := 7 }
  else fixAgain (cmdWrite s c (c.fld 0x30 8) (ctxBytes c j (JobOut.start j st)) false) c.id k

/-- Aborts one command with a status, for the command `by_` that counts it; a service job that runs stops at a boundary
(Table 4-5). -/
def abortOne (st by_ : Nat) (s : State) (c : Cmd) : State :=
  if c.opcode == 0x80 || c.opcode == 0x81 || c.opcode == 0x82 then
    match c.prog, c.done with
    | .engine _, none =>
      { s with svc := Tbl.upd s.svc c.id fun j => if j.stopBy = 0 then { j with stopBy := st, stopFor := by_ } else j }
    | _, _ => abortJob st s c
  else fixAgain (dropRecords s c) c.id { Compl.of st with result := partResult c }

/-- The commands of a list that an abort reaches, and how many are past their limits; one that was aborted before, and an ABORT,
is neither. -/
def abortTargets (s : State) (l : List Cmd) : List Cmd × Nat :=
  let l := l.filter fun c => c.opcode != 0x04 && !abortedAlready s c
  (l.filter fun c => !pastLimit c, (l.filter pastLimit).length)

/-- Aborts the commands of a list that are not past their limits, for the command `by_`. -/
def abortList (s : State) (st by_ : Nat) (l : List Cmd) : State := (abortTargets s l).1.foldl (abortOne st by_) s

/-- A service job that was to stop for command `by_` ended by itself: it is not counted as aborted or stopped (R199, R208, R211,
R774). -/
def uncount (s : State) (by_ : Nat) : State :=
  let s := match (cmdOf s by_).map (·.prog) with
    | some (.engine k) => { s with pmu.engines := Tbl.upd s.pmu.engines k fun e => { e with stopped := e.stopped - 1 } }
    | _ => s
  updCmd s by_ fun c => match c.prog, c.done with
    | .abortWait ids a p, none => { c with prog := .abortWait ids (a - 1) p }
    | .ringDrain n k, none => { c with prog := .ringDrain n (k - 1) }
    | .waiting n, none => { c with prog := .waiting (n - 1) }
    | _, _ => c

end Sys2Proof.Machine
end

