-- ==== Sys2Proof/Machine/Psp.lean ====
section
/-! DEFINITION. The peripheral serial ports: loop traffic goes first, other transactions wait in pieces; the instructions of the boot
flash (R587, R588, R673, R679, Table 11-9). -/

namespace Sys2Proof.Machine

/-! ### The ports (R588) -/

/-- What waits on a port. -/
def pspWaiting (s : State) (port : Nat) : List Out := (Tbl.get? s.smp.pspQ port).getD []

/-- The port has a turn for other traffic: its oldest piece goes out (R588, log entry 147). -/
def pspTurn (s : State) (port : Nat) : State :=
  match pspWaiting s port with
  | [] => s
  | m :: r => { s with out := m :: s.out, smp.pspQ := if r.isEmpty then Tbl.del s.smp.pspQ port else Tbl.put s.smp.pspQ port r }

/-- The select of peripheral `k` of transport `t` on its port (R587). -/
def pspSel (t k : Nat) : Nat := 6 * (t % 2) + k

/-- The `n` bytes of a frame, most significant first (R673). -/
def frameBytes (n v : Nat) : Bytes := (leBytes n v).reverse

/-- A loop message to peripheral `k` of transport `t` goes out ahead of what waits on the port (R587, R588). -/
def sendPsp (s : State) (t k n v : Nat) : State := { s with out := .psp (t / 2) (pspSel t k) (frameBytes n v) :: s.out }

/-- Other traffic, cut into pieces, joins what waits on the port, and the port has a turn (R588). -/
def pspQueue (s : State) (port : Nat) (l : List Out) : State :=
  pspTurn { s with smp.pspQ := Tbl.put s.smp.pspQ port (pspWaiting s port ++ l) } port

/-- A transaction whose answer is there has gone out, and before it all that waited on the port. -/
def pspDone (s : State) (port : Nat) (l : List Out) : State :=
  { s with out := (pspWaiting s port ++ l).reverse ++ s.out, smp.pspQ := Tbl.del s.smp.pspQ port }

/-- Bytes in pieces of at most 64, each with its offset (R588). -/
def piecesOf (off : Nat) (b : Bytes) (n : Nat) : List (Nat × Bytes) :=
  match n with
  | 0 => []
  | k + 1 => if b.isEmpty then [] else (off, b.take 64) :: piecesOf (off + 64) (b.drop 64) k

/-! ### The boot flash (R679) -/

/-- An instruction of the boot flash at PSP1 select 15. -/
def flashOut (b : Bytes) : Out := .psp 1 15 b

/-- An instruction with a 24-bit address: only the first 16 MiB are addressed (R679). -/
def flashAddr (op : Byte) (a : Nat) (data : Bytes) : Out := flashOut (op :: frameBytes 3 (a % 2 ^ 24) ++ data)

/-- The boot ROM reads at an address: instruction 0x03 (R679). -/
def flashRead (a : Nat) : Out := flashAddr 0x03 a []

/-- Write enable, 64 KiB sector erase, read status. -/
def flashErase (a : Nat) : List Out := [flashOut [0x06], flashAddr 0xD8 a [], flashOut [0x05]]

/-- Write enable, page program and read status, for every 64 bytes. -/
def flashProgram (a : Nat) (data : Bytes) : List Out :=
  ((piecesOf a data (data.length / 64 + 1)).map fun p => [flashOut [0x06], flashAddr 0x02 p.1 p.2, flashOut [0x05]]).flatten

/-- Where the region of TYPE `k` begins (Table 15-2). -/
def regionAt (f : Flash) (k : Nat) : Nat := (Tbl.get? f.dir k).elim 0 (·.1)

/-- The length of the region of TYPE `k` (Table 15-2). -/
def regionLen (f : Flash) (k : Nat) : Nat := (Tbl.get? f.dir k).elim 0 (·.2)

/-- The sectors of a region are erased. -/
def eraseRegion (f : Flash) (k : Nat) : List Out :=
  ((List.range (regionLen f k / 65536)).map fun i => flashErase (regionAt f k + 65536 * i)).flatten

end Sys2Proof.Machine
end

