-- ==== Sys2Proof/Machine/TapeOps.lean ====
section
/-! DEFINITION. Geometry of the tape, opening and closing datasets, dataset positions, verify
outcomes, and the completion of FLUSH, SYNC and CLOSE_STREAM (R231, R237, R259 to R268, R436 to R482). -/

namespace Sys2Proof.Machine

/-! ### Geometry (R237, R437 to R442) -/

/-- Packed-stream bytes of a dataset (R457). -/
def packBytes : Nat := 4128256

/-- Bits per lane of a dataset position without rewrites (R442). -/
def dsBits : Nat := 1288448

/-- Is wrap `w` in zone A (R439)? -/
def zoneA (w : Nat) : Bool := w / 48 == 1 || w / 48 == 2

/-- Bits in one LPOS frame of 120 µm (R439, R440). -/
def frameBits (w : Nat) : Nat := if zoneA w then 3600 else 3120

/-- Bits in one LPOS frame of a cartridge of the given format: a GRF-2 tape has one zone at 21.0 kbit/mm (Table 9-5). -/
def frameBitsIn (fmt w : Nat) : Nat := if fmt == 2 then 2520 else frameBits w

/-- Bits of a wrap's data area on one lane: LPOS 250,000 to 9,025,000 (R440). -/
def wrapBits (w : Nat) : Nat := 8775000 * frameBits w

/-- LPOS at `b` bits into wrap `w`; odd wraps run in the reverse direction (R437, R440). -/
def lposIn (fmt w b : Nat) : Nat :=
  if w % 2 == 0 then 250000 + b / frameBitsIn fmt w else 9025000 - b / frameBitsIn fmt w

/-- LPOS at `b` bits into wrap `w` of a GRF-3 tape. -/
def lposAt (w b : Nat) : Nat := lposIn 1 w b

/-- The partition entry `p` of a mount session. -/
def partOf (m : Mount) (p : Nat) : Option PartEntry := m.parts[p]?

/-- Changes partition entry `p` of a table. -/
def updPart (l : List PartEntry) (p : Nat) (f : PartEntry → PartEntry) : List PartEntry :=
  match l, p with
  | [], _ => []
  | x :: r, 0 => f x :: r
  | x :: r, n + 1 => x :: updPart r n f

/-- Bits of the data area of wrap `w` of a cartridge of the given format. -/
def wrapBitsIn (fmt w : Nat) : Nat := 8775000 * frameBitsIn fmt w

/-- The last wrap of a partition. -/
def endWrap (e : PartEntry) : Nat := e.firstWrap + e.wraps - 1

/-- Where the end-of-partition point lies on the last wrap: 8 dataset lengths before its physical end (R237). -/
def eopBits (fmt : Nat) (e : PartEntry) : Nat := wrapBitsIn fmt (endWrap e) - 8 * dsBits

/-- Does `(w, b)` lie at or past the end-of-partition point (R244)? -/
def atPoint (fmt : Nat) (e : PartEntry) (w b : Nat) : Bool :=
  decide (endWrap e < w ∨ (w = endWrap e ∧ eopBits fmt e ≤ b))

/-- Dataset positions without rewrites on `n` whole wraps from wrap `w` on (R442). -/
def wrapsCap (fmt w n : Nat) : Nat :=
  match n with
  | 0 => 0
  | m + 1 => wrapBitsIn fmt w / dsBits + wrapsCap fmt (w + 1) m

/-- Positions that begin from bit `b` of the last wrap on and not past the end-of-partition point (R267). -/
def lastCap (fmt : Nat) (e : PartEntry) (b : Nat) : Nat := if eopBits fmt e < b then 0 else (eopBits fmt e - b) / dsBits + 1

/-- Dataset positions that can still begin from `(w, b)` on and not past the end-of-partition point (R237, R267, R442). -/
def roomFrom (fmt : Nat) (e : PartEntry) (w b : Nat) : Nat :=
  if endWrap e < w then 0
  else if w = endWrap e then lastCap fmt e b
  else (wrapBitsIn fmt w - b) / dsBits + wrapsCap fmt (w + 1) (endWrap e - w - 1) + lastCap fmt e 0

/-- Datasets before the end-of-partition point: those that begin before it (R237, Table 5-6). -/
def capacityDs (fmt : Nat) (e : PartEntry) : Nat := roomFrom fmt e e.firstWrap 0

/-- Closed datasets whose position is not yet written, the one being written included. -/
def unwritten (m : Mount) : Nat := (m.closed.filter fun d => !d.written).length

/-- Datasets that can still begin before the end-of-partition point (R267). -/
def roomLeft (m : Mount) : Nat :=
  match m.wrPart.bind (partOf m) with
  | some e => roomFrom 1 e m.wrWrap m.wrBits
  | none => 0

/-- Datasets from the write position to early warning, 0 when it is past (R237, Table 5-12). -/
def dsToEw (m : Mount) : Nat := roomLeft m - m.ew

/-- May the assembler open another dataset before the end-of-partition point (R267)? -/
def mayOpen (m : Mount) : Bool := decide (unwritten m < roomLeft m)

/-! ### Opening and closing datasets -/

/-- Does the partition being written carry C3? -/
def hasC3 (m : Mount) : Bool := (m.wrPart.bind (partOf m)).elim false (·.c3)

/-- The write assembly space of transport `t` after packing `n` bytes, with the arrival noted (R580). -/
def addOcc (s : State) (t n : Nat) : State :=
  updXp s t fun x => { x with
    occ := x.occ + n,
    arrivals := [(now s, n)] ++ (x.arrivals.filter fun a => decide (now s < a.1 + 250 * msTicks)) }

/-- Header fields common to a dataset that closes now (R468, R470). -/
def closedHdr (s : State) (m : Mount) (num : Nat) (parity : Bool) : TapeDs :=
  { num := num, attempt := 0, complete := false, parity := parity, gen := m.gen, fid := s.keys.fid,
    sec := s.tbu.sec, ns := s.tbu.ns, wrap := m.wrWrap,
    c3Pos := if hasC3 m then m.c3Count else 0xFF, c3First := if hasC3 m then m.c3First else 0,
    firstSeq := 0, hdrCount := 0, firstHdr := 0xFFFFFFFF, fillOff := packBytes, spanIn := false, spanOut := false,
    ibase := 0, skipCause := 0, skipWrap := 0, skipStart := 0, skipEnd := 0, squallLanes := 0, begAt := 0, endAt := 0 }

/-- A closed dataset with nothing written yet. -/
def ClosedDs.new (h : TapeDs) (host tape : Nat) : ClosedDs :=
  { hdr := h, passed := [], pending := [], rewrites := [], runs := [], synced := false, written := false, abandon := 0,
    squalled := [], dataSegs := 0, rewSegs := 0, defSegs := 0, hostBytes := host, tapeBytes := tape }

/-- Adds the parity dataset of the open C3 group and starts the next group (R471, R472). -/
def closeGroup (s : State) (m : Mount) : Mount :=
  if m.c3Count = 0 then m
  else { m with closed := m.closed ++ [ClosedDs.new (closedHdr s m m.nextNum true) 0 0],
                nextNum := m.nextNum + 1, c3Count := 0, c3First := m.nextNum + 1 }

/-- Closes the open dataset: filler, C2, header stamps, and the C3 parity after 15 members (R259, R470, R471). -/
def closeOpen (s : State) (m : Mount) (spanOut : Bool) : Mount :=
  match m.openDs with
  | none => m
  | some o =>
    let h := { closedHdr s m o.num false with
      firstSeq := o.firstSeq, hdrCount := o.hdrCount, firstHdr := o.firstHdr, fillOff := min o.used packBytes,
      spanIn := o.spanIn, spanOut := spanOut, ibase := o.ibase }
    let m := { m with openDs := none, flushAt := none, closed := m.closed ++ [ClosedDs.new h o.hostBytes o.used],
                      c3Count := if hasC3 m then m.c3Count + 1 else 0 }
    if m.c3Count = 15 then closeGroup s m else m

/-- Closes the open dataset of transport `t`; the filler takes up write assembly space too (R259). -/
def closeDataset (s : State) (t : Nat) (spanOut : Bool) : State :=
  match (xpOf s t).bind (·.mount) with
  | none => s
  | some m =>
    let fill := m.openDs.elim 0 fun o => packBytes - min o.used packBytes
    let s := updMount s t fun m => closeOpen s m spanOut
    updXp s t fun x => { x with occ := x.occ + fill }

/-- Opens a flush window on transport `t`, or shares the pending closure (R259, R260). -/
def openWindow (s : State) (t : Nat) : State :=
  updMount s t fun m =>
    if m.openDs.isSome && m.flushAt.isNone then { m with flushAt := some (now s + m.flushMs * msTicks) } else m

/-- Does the open dataset hold the end of the stream's last record? -/
def endsOpen (s : State) (st : Stream) : Bool :=
  st.acked != 0 && (((xpOf s st.xp).bind (·.mount)).bind (·.openDs)).elim false fun o => o.num == st.lastDs

/-- Changes stream `k`. -/
def updStrm (s : State) (k : Nat) (f : Stream → Stream) : State := { s with strm := Tbl.upd s.strm k f }

/-- Closes a stream at once: its acknowledged records go on to tape (R207, R242, R83). -/
def dropStream (s : State) (k : Nat) : State :=
  match Tbl.get? s.strm k with
  | none => s
  | some st =>
    let s := if !st.read && endsOpen s st then openWindow s st.xp else s
    { s with strm := Tbl.del s.strm k }

/-- Closes every stream that satisfies `p`. -/
def dropStreams (s : State) (p : Stream → Bool) : State :=
  (s.strm.filter fun e => p e.2).foldl (fun s e => dropStream s e.1) s

/-! ### Completion of FLUSH, SYNC and CLOSE_STREAM -/

/-- Commands consumed before `id`. -/
def before (s : State) (id : Nat) : List Cmd := s.rings.cmds.takeWhile fun c => c.id != id

/-- Does a WRITE or WRITE_BATCH of the stream, consumed before, still have records to pack? -/
def packsBefore (s : State) (c : Cmd) : Bool :=
  (before s c.id).any fun k => k.stream == c.stream && (k.opcode == 0x41 || k.opcode == 0x42) && k.done.isNone

/-- Does any command of the stream, consumed before, still run (R265)? -/
def runsBefore (s : State) (c : Cmd) : Bool := (before s c.id).any fun k => k.stream == c.stream && k.done.isNone

/-- Is the dataset closed (R259)? -/
def dsClosed (s : State) (t ds : Nat) : Bool :=
  (((xpOf s t).bind (·.mount)).bind (·.openDs)).elim true fun o => o.num != ds

/-- Does the command ask for sync: SYNC, or CLOSE_STREAM with CFLAGS.SYNC (R265)? -/
def wantsSync (c : Cmd) : Bool := c.opcode == 0x44 || (c.opcode == 0x45 && bitOf (c.fld 0x12 1) 0)

/-- The window of a waiting FLUSH, SYNC or CLOSE_STREAM opens once its records are packed (R259, R262). -/
def openFor (s : State) (c : Cmd) : State :=
  match c.prog, c.stream.bind (Tbl.get? s.strm) with
  | .waiting _, some st =>
    if packsBefore s c then s
    else
      let s := if !st.read && endsOpen s st then openWindow s st.xp else s
      -- R261: the stream's next record starts with an empty history.
      let s := c.stream.elim s fun k => updStrm s k fun x => { x with runOpen := false }
      setProg s c.id (.flushWait (wantsSync c && !st.read) st.lastDs)
  | _, _ => s

/-- An UNMOUNT is running on transport `t`; it completes the waiting FLUSH, SYNC and CLOSE_STREAM itself (R292). -/
def unmounting (s : State) (t : Nat) : Bool :=
  s.rings.cmds.any fun c => c.opcode == 0x19 && c.done.isNone && c.fld 0x10 1 == t &&
    (match c.prog with
     | .waiting _ => true
     | _ => false)

/-- Has step 3 of R242 ended on transport `t`: every acknowledged record is written and verified? -/
def dataWritten (s : State) (t : Nat) : Bool :=
  ((xpOf s t).bind (·.mount)).elim true fun m => m.openDs.isNone && m.closed.all fun d => d.synced || d.hdr.parity

/-- The completion of a FLUSH, SYNC or CLOSE_STREAM that waits, once it is due (R258, R259, R262, R265, R268, R289, R292, Table 5-13).
RESULT2 of a FLUSH that closed no dataset is a free value. -/
def flushResult (s : State) (c : Cmd) (st : Stream) (sync : Bool) (ds : Nat) : Option Compl :=
  let m := (xpOf s st.xp).bind (·.mount)
  if c.opcode == 0x45 && runsBefore s c then none
  else if st.read then some (Compl.ok 0 0)
  else if unmounting s st.xp && !dataWritten s st.xp && !(xpOf s st.xp).elim false (·.faulted) && !m.elim false (·.reserveOut) then none
  else if (xpOf s st.xp).elim false (·.faulted) then some (Compl.of 0x64)
  else if writeStop s then none
  else if sync then
    if st.unsynced.any fun p => decide (p.2.2 ≤ ds) then
      if m.elim false (·.reserveOut) then some (Compl.of 0x61) else none
    else match st.damaged with
      | some q => some { Compl.of 0x20 with result2 := q }
      | none => some (Compl.ok 0 st.synced)
  else if st.acked == 0 || dsClosed s st.xp ds then
    some (Compl.ok 0 (if c.opcode == 0x43 then (if st.acked == 0 then Config.freeValue s.clk.free % 2 ^ 64 else ds) else 0))
  else none

/-- Completes one waiting FLUSH, SYNC or CLOSE_STREAM if its condition holds (R259, R262, R265, R430). -/
def settleOne (s : State) (id : Nat) : State :=
  match cmdOf s id with
  | none => s
  | some c =>
    let s := openFor s c
    match (cmdOf s id).elim Prog.fresh (·.prog), c.stream with
    | .flushWait sync ds, some k =>
      match Tbl.get? s.strm k with
      | none => fixDone s id (Compl.of 0x05)
      | some st =>
        match flushResult s c st sync ds with
        | none => s
        | some r =>
          let s := if r.status = 0x20 then updStrm s k fun x => { x with damaged := none } else s
          let s := fixDone (drawFree s).2 id r
          if c.opcode == 0x45 then { s with strm := Tbl.del s.strm k } else s
    | _, _ => s

/-- Is the command a FLUSH, SYNC or CLOSE_STREAM in flight that its row has started? -/
def settles (c : Cmd) : Bool :=
  c.done.isNone && (c.opcode == 0x43 || c.opcode == 0x44 || c.opcode == 0x45) &&
  match c.prog with
  | .waiting _ | .flushWait _ _ => true
  | _ => false

/-- Streams that close by themselves go once their acknowledged records are flushed (R83). -/
def reap (s : State) : State :=
  { s with strm := Tbl.keep s.strm fun _ st => !(st.dying && (st.read || st.acked == 0 || dsClosed s st.xp st.lastDs)) }

/-- Completes every waiting FLUSH, SYNC and CLOSE_STREAM that is due, in consumption order, and posts. -/
def settle (s : State) : State :=
  postAll (reap ((s.rings.cmds.filter settles).foldl (fun s c => settleOne s c.id) s))

/-! ### Verify outcomes of closed datasets -/

/-- Changes closed dataset `n` of a mount session. -/
def updClosed (m : Mount) (n : Nat) (f : ClosedDs → ClosedDs) : Mount :=
  { m with closed := m.closed.map fun d => if d.hdr.num == n then f d else d }

/-- Closed dataset `n`. -/
def closedOf (m : Mount) (n : Nat) : Option ClosedDs := m.closed.find? fun d => d.hdr.num == n

/-- Lane of codeword (s, r), index 144·s + r (R459). -/
def laneOf (cw : Nat) : Nat := (cw % 144 + 9 * (cw / 144)) % 32

/-- Codeword that lane `l` writes at row `r` (R459). -/
def cwAt (l r : Nat) : Nat := 144 * ((25 * (l + 32 * 144 - r)) % 32) + r

/-- Codewords of a dataset that must pass verify: those of lanes that are not disabled (R803). -/
def cwNeeded (s : State) (t : Nat) : Nat :=
  4608 - 144 * ((List.range 32).filter fun l => s.rc.disabled.elem (32 * t + l)).length

/-- Puts a dataset position on the tape of partition `p`; a copy of the same attempt is replaced. -/
def putDs (c : Cart) (p : Nat) (h : TapeDs) : Cart :=
  let upd (l : List TapeDs) : List TapeDs := (l.filter fun d => !(d.num == h.num && d.attempt == h.attempt)) ++ [h]
  { c with parts := (numbered c.parts 0).map fun e => if e.1 == p then { e.2 with ds := upd e.2.ds } else e.2 }

/-- Puts records on the tape of partition `p`. -/
def putRecs (c : Cart) (p : Nat) (l : List TapeRec) : Cart :=
  { c with parts := (numbered c.parts 0).map fun e => if e.1 == p then { e.2 with recs := e.2.recs ++ l } else e.2 }

/-- Moves the records that begin in dataset `n` or before onto the tape; one is readable once all its datasets are (R249). -/
def landRecs (x : Xport) (n : Nat) : Xport :=
  match x.mount, x.cart with
  | some m, some c =>
    let go := m.recs.filter fun r => decide (r.ds ≤ n)
    { x with mount := some { m with recs := m.recs.filter fun r => !decide (r.ds ≤ n) },
             cart := some (putRecs c (m.wrPart.getD 0) go) }
  | _, _ => x

/-- Writes dataset header `h` to the tape of the partition being written. -/
def landDs (x : Xport) (h : TapeDs) : Xport :=
  match x.mount, x.cart with
  | some m, some c => { x with cart := some (putDs c (m.wrPart.getD 0) h) }
  | _, _ => x

/-- Is some dataset in the range closed and unsynced, or open? A parity dataset between them holds no record (R264). -/
def anyUnsynced (m : Mount) (a b : Nat) : Bool :=
  (m.closed.any fun d => !d.synced && !d.hdr.parity && decide (a ≤ d.hdr.num ∧ d.hdr.num ≤ b)) ||
  m.openDs.elim false fun o => decide (a ≤ o.num ∧ o.num ≤ b)

/-- A stream's records that became synced leave its list (R262, R290). -/
def syncStream (m : Mount) (st : Stream) : Stream :=
  let gone := st.unsynced.filter fun p => !anyUnsynced m p.2.1 p.2.2
  { st with unsynced := st.unsynced.filter fun p => anyUnsynced m p.2.1 p.2.2,
            synced := gone.foldl (fun a p => max a p.1) st.synced, syncedN := st.syncedN + gone.length }

/-- A dataset is released once it is verified and its position has ended: its numbers join the window (R30, R532). The spec does not
say at which instant a dataset counts as written for the window: the model takes this one (log entry 96). -/
def releaseDone (m : Mount) : Mount :=
  let fin := m.closed.filter fun d => d.synced && d.written
  { m with closed := m.closed.filter fun d => !(d.synced && d.written),
           window := (fin.reverse.map (fun d => (d.rewSegs, d.dataSegs + d.rewSegs, d.hostBytes, d.tapeBytes)) ++ m.window).take 64,
           dsSinceCm := m.dsSinceCm + fin.length, sincePre := m.sincePre + fin.length }

/-- Every codeword of dataset `n` has passed verify: its records are synced, its space is released (R416, R262). A reader finds it from
now on, also when a power failure leaves its position without a separator (R250, log entry 140). -/
def dsSynced (s : State) (t n : Nat) : State :=
  let s := updMount s t fun m => updClosed m n fun d => { d with synced := true, pending := [] }
  let s := updXp s t fun x =>
    let x := match x.mount.bind (fun m => closedOf m n) with
      | some d => { landDs x { d.hdr with complete := true } with occ := if d.hdr.parity then x.occ else x.occ - packBytes }
      | none => x
    landRecs x n
  let s := match (xpOf s t).bind (·.mount) with
    | some m => { s with strm := Tbl.mapVal s.strm fun _ st =>
        if st.xp == t && !st.read then syncStream m st else st }
    | none => s
  settle (updMount s t releaseDone)

/-- Skip note and next attempt of dataset `n` after an abandoned or interrupted attempt (R480, R481). -/
def nextAttempt (w b e : Nat) (cause : Nat) (d : ClosedDs) : ClosedDs :=
  { d with
    hdr := { d.hdr with attempt := d.hdr.attempt + 1, skipCause := cause, skipWrap := w, skipStart := lposAt w b,
                        skipEnd := lposAt w e, squallLanes := maskOf d.squalled, complete := false },
    passed := [], pending := [], rewrites := [], runs := [], written := false, abandon := 0, squalled := [],
    rewSegs := d.rewSegs + d.dataSegs, dataSegs := 0 }

/-- The retry budget of write verify allows another attempt: ATTEMPT 0 to 3 (Table 16-4). -/
def lastAttempt (d : ClosedDs) : Bool := decide (3 ≤ d.hdr.attempt)

/-- The next dataset to write: the first closed one with no position; parity waits for its members (R473). -/
def nextToWrite (m : Mount) : Option ClosedDs :=
  match m.closed.find? fun d => !d.written with
  | some d => if d.hdr.parity && m.closed.any (fun k => !k.synced && decide (k.hdr.num < d.hdr.num)) then none else some d
  | none => none

/-- The rewrite fraction over the window: rewrite segments, and data and rewrite segments (R30, R532). -/
def rewriteShare (m : Mount) : Nat × Nat :=
  let tot := sumOf (m.window.map fun w => w.2.1)
  if m.window.isEmpty || tot == 0 then (3, 100) else (sumOf (m.window.map (·.1)), tot)

/-- Rewrite fraction in parts per million (R532, Table 10-9). -/
def rfPpm (m : Mount) : Nat := (rewriteShare m).1 * 1000000 / (rewriteShare m).2

end Sys2Proof.Machine
end

