-- ==== Sys2Proof/Machine/Gate.lean ====
section
/-! DEFINITION. The write-inhibit logic of a transport: conditions, causes, episodes, re-arm and the level of Tt_WG
(R565 to R573, R595 to R597). -/

namespace Sys2Proof.Machine

/-- Cause numbers of Table 11-5. -/
def causePes : Nat := 0
def causeShock : Nat := 1
def causeServo : Nat := 2
def causeWclk : Nat := 3
def causeWflt : Nat := 4
def causeForce : Nat := 5

/-- INHIBIT: the OR of the conditions (R565). -/
def inhibited (w : Inhibit) : Bool := w.cond != 0

/-- The level of Tt_WG (R568). -/
def wgHigh (w : Inhibit) : Bool := w.wgReq && !inhibited w && w.armed

/-- A condition mask with bit `k` set to `v`. -/
def condWith (c : BitVec 6) (k : Nat) (v : Bool) : BitVec 6 :=
  if v then c ||| BitVec.ofNat 6 (2 ^ k) else c &&& ~~~(BitVec.ofNat 6 (2 ^ k))

/-- The gate fell: the segment in progress is cut, but nothing of a lead-in separator is (R570, R597). -/
def cutSegment (x : Xport) : Xport :=
  { x with mount := x.mount.map fun m => { m with cur := m.cur.map fun c => if c.lead then c else { c with cut := true } } }

/-- New conditions of transport `t`: each cause that asserts sets its bit and counts; any assertion restarts the re-arm;
INHIBIT rising while the gate is requested is one episode; a gate that falls raises WRITE_INHIBIT (R567, R569, R571, R595,
R596). -/
def setCond (s : State) (t : Nat) (c : BitVec 6) : State :=
  match xpOf s t with
  | none => s
  | some x =>
    let rise := c &&& ~~~x.wi.cond
    let was := wgHigh x.wi
    let counts := (List.range 6).foldl (fun l k =>
      if rise.getLsbD k then Tbl.put l k (satAdd 32 ((Tbl.get? l k).getD 0) 1) else l) x.wi.counts
    let ep := x.wi.cond == 0 && c != 0 && x.wi.wgReq
    let w := { x.wi with
      cond := c, cause := x.wi.cause ||| rise, counts := counts,
      armed := x.wi.armed && c == 0, good := if rise != 0 then 0 else x.wi.good,
      episodes := if ep then satAdd 32 x.wi.episodes 1 else x.wi.episodes }
    let x := { x with wi := w }
    let s := { s with xp := Tbl.put s.xp t (if was && !wgHigh w then cutSegment x else x) }
    if was && !wgHigh w then raise s (evXp t 0) subjXp t 0 else s

/-- One condition of transport `t` becomes `v`. -/
def setCause (s : State) (t k : Nat) (v : Bool) : State :=
  match xpOf s t with
  | some x => setCond s t (condWith x.wi.cond k v)
  | none => s

/-- WG_REQ of a transport: rising while INHIBIT is 1 is an episode (R571); a request dropped cuts nothing by itself. -/
def setReq (x : Xport) (v : Bool) : Xport :=
  let ep := v && !x.wi.wgReq && inhibited x.wi
  { x with wi := { x.wi with wgReq := v, episodes := if ep then satAdd 32 x.wi.episodes 1 else x.wi.episodes } }

/-- Sets FORCE_INHIBIT of transport `t` (Table 11-5). -/
def setForce (s : State) (t : Nat) (v : Bool) : State :=
  setCause (updXp s t fun x => { x with wi := { x.wi with force := v } }) t causeForce v

/-- WI_STATUS (Table 11-7). -/
def wiStatus (w : Inhibit) : Nat :=
  b2n (inhibited w) + 2 * w.cond.toNat + 2 ^ 7 * b2n (!inhibited w && !w.armed) + 2 ^ 8 * b2n w.wgReq +
  2 ^ 9 * b2n (wgHigh w) + 2 ^ 10 * b2n w.wfltLatch + 2 ^ 16 * w.good

/-- WG_REQ is low 20 µs after a qualified PFAIL_N, wherever the segment ends (R252). -/
def lateReq (s : State) (x : Xport) : Xport := if x.haltReq = 2 ∧ x.haltAt ≤ now s then setReq x false else x

/-- The tape of transport `t` stops and the gate request drops. -/
def stopTape (x : Xport) (m : Motion) : Xport := { setReq x false with motion := m, run := 0 }

end Sys2Proof.Machine
end

