-- ==== Sys2Proof/Machine/Pages.lean ====
section
/-! DEFINITION. The log pages of GET_LOG_PAGE (Tables 4-16 to 4-18, 10-7 to 10-9, 15-15, 15-17, 16-6, 16-7)
and the identification pages (Tables 4-10, 4-11). -/

namespace Sys2Proof.Machine

/-- Numeric code of a ring state (Table 4-17). -/
def RingSt.code (r : RingSt) : Nat :=
  match r with
  | .active => 1
  | .deleting => 2
  | .error => 3

/-- RING_STATE (Table 4-17). -/
def ringPage (s : State) (n : Nat) : Bytes :=
  match Tbl.get? s.rings.tbl n with
  | none => pageOf 64 [(0, 2, n)]
  | some r =>
    pageOf 64 [(0x00, 2, n), (0x02, 2, r.slot), (0x04, 1, r.owner), (0x05, 1, r.st.code), (0x06, 1, r.log2),
      (0x07, 1, r.errCause), (0x08, 2, r.sqHead), (0x0A, 2, r.sqTail), (0x0C, 2, r.cqTail), (0x0E, 2, r.cqHead),
      (0x10, 2, creditsUsed s n r), (0x12, 2, ((ringCmds s n).filter (·.done.isNone)).length), (0x14, 2, r.tagMax),
      (0x18, 4, r.deferUs), (0x1C, 4, r.tagWaitUs), (0x20, 4, r.creditWaitUs), (0x24, 4, r.cqHeadInvalid),
      (0x28, 8, r.completions), (0x30, 8, r.consumed)]

/-- FLR_LOG (Table 4-18), oldest entry first (R216). -/
def flrPage (s : State) : Bytes :=
  pageOf 16 [(0, 4, s.rings.flrLog.length), (4, 4, s.rings.flrDropped), (8, 4, s.rings.flrCount)] ++
  (s.rings.flrLog.map fun e => pageOf 32 [(0, 1, e.fn), (1, 1, e.opcode), (2, 2, e.cid), (4, 2, e.ring), (6, 2, e.ctx),
    (8, 1, 0x46), (9, 1, b2n (e.acked != 0)), (0xA, 2, e.acked), (0xC, 4, e.flrSeq), (0x10, 8, e.firstSeq)]).flatten

/-- STATE of LANE_METRICS (Table 10-7). -/
def laneState (s : State) (l : Nat) (x : Lane) : Nat :=
  if s.rc.disabled.elem l then 4 else if !x.active then 0 else if x.dropout then 3
  else if x.search == .acquisition then 1 else 2

/-- A lane of the read channel. -/
def laneAt (s : State) (l : Nat) : Lane := (Tbl.get? s.rc.lanes l).getD Lane.reset

/-- LANE_METRICS (Table 10-7). -/
def lanePage (s : State) (l : Nat) : Bytes :=
  let x := laneAt s l
  let ctle := (xpOf s (l / 32)).elim 0 (·.rc.ctle)
  pageOf 128 ([(0x00, 1, l), (0x01, 1, laneState s l x), (0x02, 1, x.gain), (0x03, 1, ctle), (0x04, 2, twos 16 x.snr),
    (0x06, 1, twos 8 x.asym), (0x07, 1, twos 8 x.base)] ++
    ((numbered x.fir 0).map fun p => (0x08 + p.1, 1, twos 8 p.2)) ++
    [(0x12, 2, twos 16 x.freq), (0x18, 8, x.cwDecoded), (0x20, 8, x.iterSum), (0x28, 4, x.unconv), (0x2C, 4, x.markMissed),
     (0x30, 4, x.markMargin), (0x34, 4, x.dropouts)] ++
    ((List.range 6).map fun k => (0x38 + 4 * k, 4, (Tbl.get? x.vf (k + 1)).getD 0)) ++
    [(0x50, 4, x.rewrites), (0x54, 4, x.squalls), (0x58, 4, x.evictions), (0x5C, 4, x.pinnedOk)])

/-- POOL_STATE (Table 10-8). -/
def poolPage (s : State) : Bytes :=
  pageOf 64 [(0x00, 1, s.rc.level), (0x01, 1, b2n s.rc.blk.shrink), (0x02, 2, s.rc.uPermille), (0x04, 4, s.rc.changes),
    (0x08, 8, s.rc.iterVerify), (0x10, 8, s.rc.iterRestore), (0x18, 8, s.rc.iterScan), (0x20, 8, s.rc.l1Us),
    (0x28, 8, s.rc.l2Us), (0x30, 4, s.rc.waitMax)]

/-- RW_SUMMARY (Table 10-9). -/
def rwPage (s : State) (t : Nat) : Bytes :=
  match xpOf s t with
  | none => pageOf 64 [(0, 1, t)]
  | some x =>
    pageOf 64 ([(0x00, 1, t), (0x04, 4, x.mount.elim 30000 rfPpm), (0x08, 8, x.rw.datasets), (0x10, 8, x.rw.rewSeg),
      (0x18, 8, x.rw.defSeg)] ++ ((List.range 3).map fun c => (0x20 + 4 * c, 4, (Tbl.get? x.rw.abandon (c + 1)).getD 0)) ++
      [(0x2C, 4, x.rw.pinned), (0x30, 4, x.rw.c3), (0x34, 4, x.rw.unrec)])

/-- POWER_LOG (Table 15-15), newest first, up to 64 entries. -/
def powerPage (s : State) : Bytes :=
  let l := s.pmu.log.take 64
  pageOf 16 [(0, 4, l.length), (4, 4, s.pmu.logTotal)] ++
  (l.map fun e => pageOf 32 [(0, 4, e.seq), (4, 1, e.target), (5, 1, b2n e.entered), (6, 1, e.wake), (7, 1, e.flags),
    (8, 6, e.sec), (14, 4, e.ns), (18, 4, e.exitUs), (22, 2, e.gateMax), (24, 1, e.forced)]).flatten

/-- The 8-sample average of a sensor, in 1/16 degree (R755). -/
def sensorAvg (h : Thermal) (n : Nat) : Int :=
  match Tbl.get? h.hist n with
  | some l => if l.isEmpty then 0 else l.foldl (· + ·) 0 / l.length
  | none => 0

/-- Numeric code of a thermal level (Table 15-17). -/
def ThLevel.code (l : ThLevel) : Nat :=
  match l with
  | .normal => 0
  | .warn => 1
  | .throttle => 2
  | .writeStop => 3
  | .shutdown => 4

/-- TFL of Table 12-8. -/
def thermalFlags (h : Thermal) : Nat := b2n h.latched.isSome + 2 * b2n h.extFault

/-- THERMAL (Table 15-17). -/
def thermalPage (s : State) : Bytes :=
  let h := s.pmu.th
  let sd := s.pmu.flash.thermal.getD (0, 0)
  pageOf 64 ([(0, 1, h.level.code), (1, 1, thermalFlags h), (2, 1, h.hottest)] ++
    ((List.range 7).map fun n => (4 + 2 * n, 2, twos 16 (sensorAvg h n))) ++
    [(0x14, 4, h.transitions), (0x18, 4, h.latches), (0x1C, 4, h.entWarn), (0x20, 4, h.entThr), (0x24, 4, h.entWs),
     (0x28, 6, sd.1), (0x30, 2, twos 16 sd.2)])

/-- UPDATE_LOG (Table 15-15): up to 16 entries. -/
def updatePage (s : State) : Bytes :=
  ((s.pmu.updLog.take 16).map fun e => pageOf 32 [(0, 4, e.seq), (4, 4, e.from_), (8, 4, e.to_), (12, 1, e.outcome),
    (13, 1, e.rtMask), (14, 4, e.pauseUs), (18, 4, e.carried), (22, 4, e.aborted)]).flatten

/-- Key of an engine: CLASS·64 + INDEX (Table 16-6). -/
def engKey (cls idx : Nat) : Nat := cls * 64 + idx

/-- An engine's record; RUN when nothing ever changed it. -/
def engOf (s : State) (cls idx : Nat) : Engine := (Tbl.get? s.pmu.engines (engKey cls idx)).getD Engine.reset

/-- Numeric code of an engine state (Table 15-15). -/
def EngSt.code (e : EngSt) : Nat :=
  match e with
  | .run => 0
  | .drain => 1
  | .fenced => 2
  | .off => 3

/-- ENGINE_STATE (Table 15-15): 76 bytes in Table 15-10 order. -/
def enginePage (s : State) : Bytes :=
  ((List.range 6).map fun c => (List.range (engineCount c)).map fun i =>
    let e := engOf s c i
    BitVec.ofNat 8 (e.st.code + 4 * b2n e.failed)).flatten

/-- Event log entries that a function may see, oldest first: off ring 0, those that R790 delivered to it (R806). -/
def eventEntries (s : State) (ring fn : Nat) : List EvLog :=
  (if ring == 0 then s.evr.log else s.evr.log.filter fun e => e.fn == fn && bitOf e.route 0).reverse

/-- EVENT_LOG (Table 16-6). -/
def eventPage (s : State) (ring fn : Nat) : Bytes :=
  let l := eventEntries s ring fn
  pageOf 16 [(0, 4, l.length), (4, 4, s.evr.overwritten)] ++
  (l.map fun e => pageOf 32 [(0, 4, e.seq), (4, 2, e.event), (6, 1, e.kind), (7, 1, e.route), (8, 4, e.subj),
    (0xC, 4, e.ns), (0x10, 6, e.sec), (0x18, 8, e.detail)]).flatten

/-- FAULT_COUNTERS (Table 16-7). -/
def faultPage (s : State) : Bytes :=
  pageOf 320 (((List.range 13).map fun k =>
      let c := clsOf s k
      [(16 * k, 4, c.detected), (16 * k + 4, 4, c.recovered), (16 * k + 8, 4, c.reported), (16 * k + 12, 4, c.retries)]).flatten ++
    [(0x100, 4, s.flt.period), (0x104, 4, s.flt.fires), (0x108, 4, s.flt.aborts), (0x10C, 4, s.flt.noVictim),
     (0x110, 8, s.flt.sramCorr), (0x118, 8, s.flt.bmuCorr), (0x120, 8, s.flt.bmuPois),
     (0x128, 4, s.pmu.flash.spareUsed), (0x12C, 4, 1024 - s.pmu.flash.spareUsed), (0x130, 16, maskOf s.pmu.flash.disabled)])

/-- The content of a log page (Table 4-16) for a command of a ring and function. -/
def logPage (s : State) (page param ring fn : Nat) : Bytes :=
  match page with
  | 0x01 => ringPage s param
  | 0x02 => flrPage s
  | 0x18 => lanePage s param
  | 0x19 => poolPage s
  | 0x1A => rwPage s param
  | 0x20 => powerPage s
  | 0x21 => thermalPage s
  | 0x22 => updatePage s
  | 0x23 => enginePage s
  | 0x30 => eventPage s ring fn
  | _ => faultPage s

/-- The page rights of Table 4-16 (R543, R777, R806, R807). -/
def pageAllowed (s : State) (page param ring fn : Nat) : Bool :=
  ring == 0 || page == 0x30 ||
  (page == 0x01 && (Tbl.get? s.rings.tbl param).elim false fun r => r.owner == fn)

/-- What LFLAGS.CLEAR does to a page of which `n` bytes were written (R217, R545, R806, R807). -/
def clearPage (s : State) (page param n : Nat) : State :=
  let k := (n - 16) / 32
  match page with
  | 0x02 => { s with rings.flrLog := s.rings.flrLog.drop k }
  | 0x18 => { s with rc.lanes := Tbl.upd s.rc.lanes param fun x =>
      { x with cwDecoded := 0, iterSum := 0, unconv := 0, markMissed := 0, markMargin := 0, dropouts := 0, vf := [],
               rewrites := 0, squalls := 0, evictions := 0, pinnedOk := 0 } }
  | 0x19 => { s with rc := { s.rc with changes := 0, iterVerify := 0, iterRestore := 0, iterScan := 0, l1Us := 0, l2Us := 0, waitMax := 0 } }
  | 0x1A => updXp s param fun x => { x with rw := ⟨0, 0, 0, [], 0, 0, 0⟩ }
  | 0x30 => { s with evr.log := s.evr.log.take (s.evr.log.length - k) }
  | 0x31 => { s with flt := { s.flt with cls := [], fires := 0, aborts := 0, noVictim := 0, sramCorr := 0, bmuCorr := 0, bmuPois := 0 } }
  | _ => s

/-- The IDENTIFY device page (Table 4-10). -/
def devicePage (s : State) : Bytes :=
  let tr := maskOf ((s.xp.filter fun p => p.2.fitted).map (·.1))
  pageOf 4096 [(0x000, 2, 0x1D8B), (0x002, 2, 0x4096), (0x004, 1, Config.siliconRev), (0x005, 3, s.pmu.runImg.version),
    (0x008, 8, Config.dieId), (0x010, 4, s.keys.fid), (0x014, 2, 4096), (0x016, 2, 1024), (0x018, 2, 32768),
    (0x01A, 2, 16384), (0x01C, 1, 64), (0x01D, 1, tr), (0x01E, 2, 224), (0x020, 8, s.pmu.bufBytes),
    (0x028, 4, stagingMib s), (0x02C, 4, writeAsmMib s), (0x030, 4, restoreMib s), (0x034, 4, 16777215),
    (0x038, 1, 8), (0x039, 1, 8), (0x03A, 1, 12), (0x03B, 1, 40), (0x03C, 4, 0x1F)]

/-- The IDENTIFY function page (Table 4-11). -/
def functionPage (s : State) (fn : Nat) : Bytes :=
  let mine := s.rings.tbl.filter fun p => p.2.owner == fn
  pageOf 4096 [(0, 1, fn), (2, 2, mine.length), (4, 2, slotCount fn),
    (6, 2, (s.ten.ctx.filter fun p => p.2.st == .active && p.2.d.ownerFn == fn).length), (8, 2, vectorCount fn),
    (0x10, 16, if fn == 0 then 0 else maskOf (mine.map fun p => p.2.slot))]

end Sys2Proof.Machine
end

