-- ==== Sys2Proof/Machine/Rings.lean ====
section
/-! DEFINITION. Rings and entries: fetch, admission, ordered start, and the commands IDENTIFY, CREATE_RING,
DELETE_RING, ABORT and GET_LOG_PAGE (chapter 4), with the ring read error of R150 and R214. -/

namespace Sys2Proof.Machine

/-! ### Fetch and admission -/

/-- ENTRY_FETCH: the next entry enters the lookahead slot once the tail differs from the head and a credit is
free (R60, R179). -/
def execEntryFetch (n : Nat) (e : Entry) (batch : Nat) (s : State) : Answer :=
  match Tbl.get? s.rings.tbl n with
  | none => .next s
  | some r =>
    if ringOn s n r && r.look.isNone && r.sqTail != r.sqHead && creditFree s n r then
      let s' := { s with
        out := .rd r.owner none (r.sqBase + 64 * r.sqHead) 64 :: s.out,
        rings.tbl := Tbl.put s.rings.tbl n { r with look := some ⟨e, batch, false⟩ } }
      .next (countHw s s' (fieldOf e 4 2 % 4096))
    else .next s

/-- Does the entry name a stream: opcodes 0x41 to 0x4B (Table 4-8)? -/
def onStream (e : Entry) : Bool := decide (0x41 ≤ fieldOf e 0 1 ∧ fieldOf e 0 1 ≤ 0x4B)

/-- The command that consuming an entry creates (R180, R185). One consumed after its stream's CLOSE_STREAM still belongs to the stream,
whose completions keep their order (R191, R248). -/
def newCmd (s : State) (id n charge : Nat) (e : Entry) (slot : Option (Nat × SlotCls)) : Cmd :=
  { id := id, ring := n, mailbox := false, entry := e, prog := if bitOf (fieldOf e 1 1) 0 then .ordered else .fresh,
    done := none,
    stream := if onStream e then (boundStream s n e).map fun _ => fieldOf e 0x10 2 else none,
    fetch := slot, charge := charge, voided := 0,
    late := onStream e && (boundStream s n e).elim false (·.closing), descs := [], bufs := [], recs := [], acked := 0, firstSeq := 0, at0 := now s, moved := now s, hot := writeStop s,
    retries := 0 }

/-- The lowest free command tag (R185). -/
def freeTag (s : State) : Option Nat :=
  leastFree (s.rings.cmds.map (·.id)) 0 32768

/-- Consumes the lookahead entry of ring `n` under tag `id`: head, slot, tag and completion slot at one instant (R180).
A CLOSE_STREAM that passes the checks of R183 shuts its stream to later commands (R248, R14). -/
def consume (s : State) (n : Nat) (r : Ring) (e : Entry) (id charge : Nat) (slot : Option (Nat × SlotCls)) : State :=
  let c := newCmd s id n charge e slot
  let s := { s with
    rings.tbl := Tbl.put s.rings.tbl n { r with
      look := none, sqHead := (r.sqHead + 1) % 2 ^ r.log2, consumed := satAdd 64 r.consumed 1 },
    rings.cmds := s.rings.cmds ++ [c], svc := Tbl.del s.svc id }
  match c.stream with
  | some k => if fieldOf e 0 1 == 0x45 && (entryCheck s r.owner n false e).isNone then
      updStrm s k fun x => { x with closing := true } else s
  | none => s

/-- A context's numbers in domain `d` after an admission of `charge` bytes (R67, R76, Table 2-2). -/
def admitCtx (s : State) (d charge start op : Nat) (x : Ctx) : Ctx :=
  let m := (Tbl.get? x.doms d).getD CtxDom.zero
  let mx := match m.maxs with
    | [] => [charge]
    | a :: r => max a charge :: r
  { x with
    bucket := if x.d.rate = 0 then x.bucket else x.bucket - charge,
    volUsed := if op == 0x41 || op == 0x42 then x.volUsed + charge else x.volUsed,
    fin := (start + charge * 65536 / x.d.weight) % 2 ^ 64,
    doms := Tbl.put x.doms d { m with
      admits := (now s, charge) :: (m.admits.filter fun a => decide (now s < a.1 + secTicks)), maxs := mx } }

/-- Admits a qualifying data entry into domain `d`: virtual time, finish tag, bucket, slot and volume (R55, R64, R67). -/
def admitData (s : State) (d charge : Nat) (l : Look) (op : Nat) : State :=
  let st := startTag s d l
  let s := { s with ten.doms := Tbl.put s.ten.doms d { domOf s d with v := st } }
  let s := takeSlot s d (slotClass op)
  updCtx s (fieldOf l.entry 4 2 % 4096) (admitCtx s d charge st op)

/-- The lookahead entry `l` of ring `n` is decided: consumed at once with an error or with zero charge (R58, R62,
R103, R183), admitted by its domain if it ranks first (R63, R67), or left waiting. -/
def admitLook (s : State) (n : Nat) (r : Ring) (l : Look) (id : Nat) : State :=
  let op := fieldOf l.entry 0 1
  match entryCheck s r.owner n false l.entry with
  | some k => complete (consume s n r l.entry id 0 none) id k
  | none =>
    if l.lost then complete (consume s n r l.entry id 0 none) id (Compl.of 3)
    else if (op == 0x41 || op == 0x42) && (ctxOf s (fieldOf l.entry 4 2 % 4096)).elim false halted then
      complete (consume s n r l.entry id 0 none) id (Compl.of 0x41)
    else
      let ch := lookCharge s n l
      match entryDomain s n l.entry with
      | some d =>
        if ch = 0 then consume s n r l.entry id 0 none
        else if pick s d = some n then
          consume (admitData s d ch l op) n r l.entry id ch (some (d, slotClass op))
        else s
      | none => consume s n r l.entry id 0 none

/-- ENTRY_ADMIT: refills the buckets and decides the lookahead entry of the ring (R67, R180, R188). -/
def execEntryAdmit (n : Nat) (s : State) : Answer :=
  match Tbl.get? s.rings.tbl n with
  | none => .next s
  | some r =>
    match r.look, freeTag s with
    | some l, some id =>
      if ringOn s n r && tagFree s n r then
        let s := refill s
        .next (admitLook s n r l id)
      else .next s
    | _, _ => .next s

/-- ORDERED_START: every command consumed earlier from the ring has completed (R167). -/
def execOrderedStart (id : Nat) (s : State) : Answer :=
  match cmdOf s id with
  | some c =>
    if c.prog = .ordered ∧ !c.mailbox ∧ ((before s id).all fun k => k.ring != c.ring || k.mailbox || k.done.isSome) then
      .next (setProg s id .fresh)
    else .next s
  | none => .next s

/-- RING_ENTRY_READ_ERROR: the ring enters ERROR, stops fetching and records its cause (R150, R214). -/
def execRingEntryReadError (n : Nat) (cause : ReadErr) (s : State) : Answer :=
  match Tbl.get? s.rings.tbl n with
  | none => .next s
  | some r =>
    if ringOn s n r && r.look.isNone && r.sqTail != r.sqHead && creditFree s n r then
      let k := match cause with
        | .poisoned => 1
        | .timeout => 2
        | .urCa => 3
        | .ecrc => 4
      let s := { s with
        out := .rd r.owner none (r.sqBase + 64 * r.sqHead) 64 :: s.out,
        rings.tbl := Tbl.put s.rings.tbl n { r with st := .error, errCause := k } }
      let s := logReadErr s r.owner cause
      let s := countFault s 0 1 0 0 0
      .next (faultSpent s { FltLog.blank with cls := 0, event := evRingError, ring := n, tries := 1 } subjRing n)
    else .next s

/-! ### IDENTIFY and GET_LOG_PAGE -/

/-- IDENTIFY: writes the device page or the issuing function's page (R203). -/
def execIdentify (id : Nat) (s : State) : Answer :=
  .next (withCmd s id 0x01 fun c =>
    answer s c 0x10 (if c.fld 0x18 1 = 0 then devicePage s else functionPage s (cmdFn s c)) (Compl.ok 0 0))

/-- GET_LOG_PAGE: page rights, the slice, MORE, and CLEAR (R212, R213, R217, R806). -/
def execGetLogPage (id : Nat) (s : State) : Answer :=
  .next (withCmd s id 0x05 fun c =>
    let page := c.fld 0x10 1
    let param := c.fld 0x12 2
    let clear := bitOf (c.fld 0x11 1) 0
    let off := c.fld 0x20 4
    let len := c.fld 0x14 4
    let fn := cmdFn s c
    if !pageAllowed s page param c.ring fn then complete s id (Compl.of 3)
    else if page == 0x30 && clear && c.ring != 0 then complete s id (Compl.field 0x11)
    else if page == 0x30 && clear && off != 0 then complete s id (Compl.field 0x20)
    else
      let b := logPage s page param c.ring fn
      let part := (b.drop off).take len
      let k := { Compl.ok part.length b.length with more := decide (off + len < b.length) }
      if !part.isEmpty && !dataOk s c then complete s id (Compl.of 7)
      else
        let s := if clear then clearPage s page param part.length else s
        answer s c 0x18 part k)

/-! ### CREATE_RING and DELETE_RING -/

/-- Is the doorbell slot of a function in use, by a ring or a reservation (R205, R870)? -/
def slotUsed (s : State) (fn slot : Nat) : Bool :=
  (s.rings.tbl.any fun p => p.2.owner == fn && p.2.slot == slot) || s.rings.resv.any fun p => p.2 == (fn, slot)

/-- The lowest ring number neither created nor reserved (R204, R870). -/
def freeRing (s : State) : Option Nat := leastFree ((s.rings.tbl.map (·.1)) ++ s.rings.resv.map (·.1)) 1 1023

/-- The checks of R205, in order; OK answers the ring number. -/
def createChecks (s : State) (c : Cmd) : Except Compl Nat :=
  let fn := c.fld 0x20 1
  let n := 2 ^ c.fld 0x21 1
  let sq := c.fld 0x10 8
  let cq := c.fld 0x18 8
  if !fnEnabled s fn then .error (Compl.field 0x20)
  else if inFlr s fn then .error (Compl.of 4)
  else if slotUsed s fn (c.fld 0x22 2) then .error (Compl.field 0x22)
  else if vectorCount fn ≤ c.fld 0x24 2 then .error (Compl.field 0x24)
  else if sq < cq + 16 * n ∧ cq < sq + 64 * n then .error (Compl.field 0x18)
  else match freeRing s with
    | none => .error (Compl.field 0xFE)
    | some k => .ok k

/-- A ring as it is created (R162). -/
def newRing (owner slot log2 sq cq vec tagMax : Nat) : Ring :=
  { st := .active, owner := owner, slot := slot, log2 := log2, sqBase := sq, cqBase := cq, vector := vec, tagMax := tagMax,
    sqHead := 0, sqTail := 0, cqHead := 0, cqTail := 0, pass := 1, look := none, deferUs := 0, tagWaitUs := 0,
    creditWaitUs := 0, cqHeadInvalid := 0, errCause := 0, completions := 0, consumed := 0, sk := SkWindow.empty }

/-- Are 16 pool tags unassigned (R206)? -/
def poolHas16 (s : State) : Bool := decide (poolUsed s + 16 ≤ poolSize s)

/-- Creates ring `n` for the command, programs its route and completes (R204, R795). -/
def makeRing (s : State) (c : Cmd) (n : Nat) : State :=
  let size := 2 ^ c.fld 0x21 1
  let tm := c.fld 0x26 2
  let r := newRing (c.fld 0x20 1) (c.fld 0x22 2) (c.fld 0x21 1) (c.fld 0x10 8) (c.fld 0x18 8) (c.fld 0x24 2)
    (if tm = 0 then size - 1 else tm)
  let s := { s with
    rings.tbl := Tbl.put s.rings.tbl n r, rings.resv := Tbl.del s.rings.resv n,
    evr.routes := Tbl.put s.evr.routes n { Route.reset with vector := c.fld 0x24 2, en := bitOf (c.fld 0x28 4) 0 } }
  complete s c.id (Compl.ok n 0)

/-- CREATE_RING (R204 to R206, R869, R870). -/
def execCreateRing (id : Nat) (s : State) : Answer :=
  .next (withCmd s id 0x02 fun c =>
    match createChecks s c with
    | .error k => complete s id k
    | .ok n =>
      if poolHas16 s then makeRing s c n
      else setProg { s with rings.resv := Tbl.put s.rings.resv n (c.fld 0x20 1, c.fld 0x22 2) } id (.tagWait n))

/-- CREATE_RING_TAGS_FREED: the wait ends with the ring, or with CONTEXT_STATE when its owner is gone (R206, R870). -/
def execCreateRingTagsFreed (id : Nat) (s : State) : Answer :=
  match cmdOf s id with
  | some c =>
    match c.prog, c.done with
    | .tagWait n, none =>
      let fn := c.fld 0x20 1
      if !fnEnabled s fn || inFlr s fn then
        .next (complete { s with rings.resv := Tbl.del s.rings.resv n } id (Compl.of 4))
      else if poolHas16 s then .next (makeRing s c n)
      else .next s
    | _, _ => .next s
  | none => .next s

/-- Removes a ring with its keys and route (R207 step 5, R795). -/
def removeRing (s : State) (n : Nat) : State :=
  { s with
    rings.tbl := Tbl.del s.rings.tbl n, evr.routes := Tbl.del s.evr.routes n, rings.holdoff := Tbl.del s.rings.holdoff n }

/-- DELETE_RING: the ring becomes DELETING, its lookahead entry is discarded and, with FORCE, its commands are
aborted (R207 steps 1 and 2, R221). -/
def execDeleteRing (id : Nat) (s : State) : Answer :=
  .next (withCmd s id 0x03 fun c =>
    let n := c.fld 0x10 2
    match Tbl.get? s.rings.tbl n with
    | none => complete s id (Compl.field 0x10)
    | some r =>
      if r.st = .deleting then complete s id (Compl.field 0x10)
      else
        let s := { s with rings.tbl := Tbl.put s.rings.tbl n { r with st := .deleting, look := none } }
        let l := if bitOf (c.fld 0x12 2) 0 then ringCmds s n else []
        let k := (abortTargets s l).1.length
        postAll (setProg (abortList s 0x47 id l) id (.ringDrain n k)))

/-- DELETE_RING_DRAINED: every command of the ring has posted; its streams close and the ring goes (R207 steps 3 to 5, R208, R222). -/
def execDeleteRingDrained (id : Nat) (s : State) : Answer :=
  match cmdOf s id with
  | some c =>
    match c.prog, c.done with
    | .ringDrain n k, none =>
      if !Tbl.has s.rings.tbl n then .next (complete s id (Compl.ok 0 0))
      else if (ringCmds s n).isEmpty then
        .next (complete (removeRing (dropStreams s fun st => st.ring == n) n) id (Compl.ok k 0))
      else .next s
    | _, _ => .next s
  | none => .next s

/-! ### ABORT -/

/-- ABORT: aborts the matching commands in flight on the target ring (R196 to R199, R209, R210). -/
def execAbort (id : Nat) (s : State) : Answer :=
  .next (withCmd s id 0x04 fun c =>
    let n := c.fld 0x10 2
    match Tbl.get? s.rings.tbl n with
    | none => complete s id (if c.ring = 0 then Compl.field 0x10 else Compl.of 3)
    | some r =>
      if c.ring != 0 && r.owner != cmdFn s c then complete s id (Compl.of 3)
      else
        let l := (ringCmds s n).filter fun k => bitOf (c.fld 0x14 4) 0 || k.cid == c.fld 0x12 2
        let p := abortTargets s l
        postAll (setProg (abortList s 0x47 id l) id (.abortWait (p.1.map (·.id)) p.1.length p.2)))

/-- ABORT_COMPLETE: the completions of all the commands it aborted have been posted (R198, R211). -/
def execAbortComplete (id : Nat) (s : State) : Answer :=
  match cmdOf s id with
  | some c =>
    match c.prog, c.done with
    | .abortWait ids a p, none =>
      if s.rings.cmds.any fun k => ids.elem k.id then .next s
      else .next (complete s id (Compl.ok a p))
    | _, _ => .next s
  | none => .next s

end Sys2Proof.Machine
end

