-- ==== Sys2Proof/Machine/Wake.lean ====
section
/-! DEFINITION. Wake sources, and how a Lull entry is undone or left (R736 to R741). -/

namespace Sys2Proof.Machine

/-- A gate; OPEN when nothing ever closed it. -/
def gateOf (s : State) (k : Nat) : Gate := (Tbl.get? s.pmu.gates k).getD Gate.reset

/-- Stores gate `k`. -/
def setGate (s : State) (k : Nat) (g : Gate) : State := { s with pmu.gates := Tbl.put s.pmu.gates k g }

/-- Opens every gate (R736, R740). -/
def openGates (s : State) : State :=
  { s with pmu.gates := Tbl.mapVal s.pmu.gates fun _ g => { g with st := 0 } }

/-- The gates that close for a Lull state before LULL_COMMIT, in order: ACE stays open in Lull-1 (Table 15-1). -/
def lullGates (target : Nat) : List Nat := if target == 1 then List.range 13 else List.range 14

/-- Writes a power log entry (at most 64 are shown) and raises LULL (Table 15-15, Table 16-1). -/
def logPower (s : State) (e : PwrLog) : State :=
  raise { s with pmu.log := (e :: s.pmu.log).take 64, pmu.logTotal := s.pmu.logTotal + 1 } evLull subjNone 0 0

/-- Writes the mailbox completion: SMP_MBX_CQE, DONE and MBX_DONE, then BUSY clears (R670). -/
def deliverMbx (s : State) (cid : Nat) (k : Compl) : State :=
  let s := { s with smp.cqe := BitVec.ofNat 128 (leNat (complBytes cid k 1)), smp.mbxDone := true }
  let s := raiseAttn s 2
  startNotch { s with smp.mbxBusy := false }

/-- The identifier of the mailbox command. -/
def mbxId : Nat := 32768

/-- Starts a mailbox command that waits for fetch (R671, R735): the checks of R183, then execution. -/
def startMbx (s : State) : State :=
  match cmdOf s mbxId with
  | some c =>
    if c.prog = .ordered ∧ fetchOn s then
      match entryCheck s 0 0 true c.entry with
      | some k => fixDone (setProg s mbxId .fresh) mbxId k
      | none => setProg s mbxId .fresh
    else s
  | none => s

/-- Undoes an uncommitted entry: the gates reopen, fetch resumes, ENTER_LULL completes with `st` and the entry's number (R735 step
3, R736, R743). -/
def undoLull (s : State) (e : LullEntry) (wake st : Nat) : State :=
  let s := openGates { s with pmu.lull := none }
  let s := logPower s {
    seq := e.seq, target := e.target, entered := false, wake := wake, flags := 0,
    sec := s.tbu.sec, ns := s.tbu.ns, exitUs := 0, gateMax := e.gateMax, forced := e.forced }
  startMbx (complete s e.cmd { Compl.of st with result2 := e.seq })

/-- Begins the exit from a Lull state (R739, R741). -/
def beginExit (s : State) (e : LullEntry) (code : Nat) : State :=
  { s with
    pmu.ps := .waking,
    pmu.lull := some { e with phase := 4, wake := code, wakeAt := now s },
    host.wakeN := e.target == 3 && s.host.perst && !s.host.dlActive }

/-- Is a source a wake source in the Lull state it finds (Table 15-6)? -/
def wakes (target code : Nat) : Bool :=
  match code with
  | 1 => target == 1
  | 2 => target == 2
  | _ => true

/-- A wake source: it aborts an uncommitted entry, is latched after commit, or starts an exit (R736, R737, R739). -/
def wake (s : State) (code : Nat) : State :=
  match s.pmu.lull with
  | none => s
  | some e =>
    if e.phase < 2 then (if code = 2 then s else undoLull s e code 0x66)
    else if e.phase = 2 then
      (if code = 2 ∨ e.wake ≠ 0 then s
       else { s with pmu.lull := some { e with wake := code, after := true } })
    else if e.phase = 3 ∧ wakes e.target code then beginExit s e code
    else s

end Sys2Proof.Machine
end

