-- ==== Sys2Proof/Machine/Reach.lean ====
section
/-! DEFINITION. Which requests of the host reach a function, and what becomes of the others (R118, R122, R139, R150, R154,
Table 3-9, Table 3-10). -/

namespace Sys2Proof.Machine

/-- The host's requests arrive at all: SYS_RST_N and PERST_N high, the link up. -/
def linkOn (s : State) : Bool := s.host.sysRst && s.host.perst && s.host.dlActive

/-- Memory Space Enable of a function: its own for the PF, VF MSE for every VF (R154). -/
def memOn (s : State) (fn : Nat) : Bool := if fn == 0 then s.host.memEn else s.host.vfMse

/-- A host memory access reaches BAR0 of the function: link up, memory space enabled (R154), no FLR (Table 3-9),
and not in Lull-2 or Lull-3, where the access waits for the exit. -/
def hostReach (s : State) (fn : Nat) : Bool :=
  linkOn s && fnEnabled s fn && !inFlr s fn && !deepLull s && memOn s fn

/-- A write to a session key window reaches its function: also in Lull-2, where the windows are kept (R407, Table 15-1). -/
def windowReach (s : State) (fn : Nat) : Bool := linkOn s && fnEnabled s fn && !inFlr s fn && memOn s fn

/-- A configuration request is answered normally: link up, no retry status (R118, Table 3-9). -/
def cfgReach (s : State) (fn : Nat) : Bool :=
  linkOn s && !s.host.crs && fnEnabled s fn && !inFlr s fn && !deepLull s

/-- A configuration request is answered with Configuration Request Retry Status: in the window of R118, and during an FLR of its
function (R139, Table 3-9). -/
def cfgRetry (s : State) (fn : Nat) : Bool := linkOn s && fnEnabled s fn && !deepLull s && (s.host.crs || inFlr s fn)

/-- A configuration request has its effect, gets retry status, or does not arrive. -/
def cfgDo (s : State) (fn : Nat) (t : State) : State :=
  if cfgReach s fn then t else if cfgRetry s fn then { s with out := .crs fn :: s.out } else s

/-- A request finds BAR0 of the function mapped out: the link is up and its Memory Space Enable is 0 (Table 3-10). -/
def barOff (s : State) (fn : Nat) : Bool :=
  linkOn s && fnEnabled s fn && !inFlr s fn && !deepLull s && !memOn s fn

/-- A write that reaches BAR0 of the function has its effect; one that finds it mapped out is dropped as an Unsupported Request. -/
def whenReached (s : State) (fn : Nat) (t : State) : State :=
  if hostReach s fn then t else if barOff s fn then logUnc s fn aerUnsupported else s

/-- A request of the function is answered with Unsupported Request status, which is logged (Table 3-10). -/
def refuseRead (s : State) (fn : Nat) : State := logUnc { s with out := .ur fn :: s.out } fn aerUnsupported

/-- The answer to a read of a function: its completion data. -/
def reply (s : State) (fn v : Nat) : State := { s with out := .cpl fn (BitVec.ofNat 64 v) :: s.out }

end Sys2Proof.Machine
end

