-- ==== Sys2Proof/Machine/Ace.lean ====
section
/-! DEFINITION. The auxiliary copy engine: arming, eddies, triggers, iterations, bursts that fail (R603 to R627). -/

namespace Sys2Proof.Machine

/-- Channel `c`; at its reset values when never touched. -/
def aceOf (s : State) (c : Nat) : Ace := (Tbl.get? s.ace.ch c).getD Ace.reset

/-- Stores channel `c`. -/
def setAce (s : State) (c : Nat) (a : Ace) : State := { s with ace.ch := Tbl.put s.ace.ch c a }

/-- Fields of ACE_CH_c_CFG (Table 12-5). -/
def Ace.mode (a : Ace) : Nat := bitsOf a.cfg.toNat 0 2
def Ace.srcSpace (a : Ace) : Nat := bitsOf a.cfg.toNat 2 2
def Ace.dstSpace (a : Ace) : Nat := bitsOf a.cfg.toNat 4 2
def Ace.srcFixed (a : Ace) : Bool := bitOf a.cfg.toNat 6
def Ace.dstFixed (a : Ace) : Bool := bitOf a.cfg.toNat 7
def Ace.srcStep (a : Ace) : Nat := bitsOf a.cfg.toNat 8 2
def Ace.dstStep (a : Ace) : Nat := bitsOf a.cfg.toNat 10 2
def Ace.ringLog2 (a : Ace) : Nat := bitsOf a.cfg.toNat 12 5
def Ace.retryMax (a : Ace) : Nat := bitsOf a.cfg.toNat 17 4
def Ace.kickEn (a : Ace) : Bool := bitOf a.cfg.toNat 21
def Ace.evtEach (a : Ace) : Bool := bitOf a.cfg.toNat 22
def Ace.evtWrap (a : Ace) : Bool := bitOf a.cfg.toNat 23
def Ace.prio (a : Ace) : Bool := bitOf a.cfg.toNat 24
/-- Trigger selects (Table 12-3). -/
def Ace.sel0 (a : Ace) : Nat := bitsOf a.trig.toNat 0 8
def Ace.sel1 (a : Ace) : Nat := bitsOf a.trig.toNat 8 8

/-- Is the channel held by TELEMETRY_CONFIG? -/
def aceHeld (s : State) (c : Nat) : Bool := s.ace.own.elem c

/-- Is a trigger select one of Table 12-2? -/
def selOk (v : Nat) : Bool := v == 0 || (0x10 ≤ v && v ≤ 0x21) || (0x40 ≤ v && v ≤ 0x5F)

/-- Does the select come from outside the ACE (R616)? -/
def selOutside (v : Nat) : Bool := 0x10 ≤ v && v ≤ 0x21

/-- Bytes that an address can reach over the whole run, for the window check; a ring stays inside its size (R606). -/
def aceSpan (step fixed ringLog2 iter len : Nat) : Nat :=
  if step == 1 then (iter - 1) * len + (if fixed == 1 then 1 else len)
  else if step == 2 then 2 ^ ringLog2 else if fixed == 1 then 1 else len

/-- Is a BUFFER address range inside the ACE window (R605, Table 12-1)? An unbounded ADVANCE never is. -/
def inWindow (base step fixed ringLog2 iter len : Nat) : Bool :=
  !(step == 1 && iter == 0) && decide (base + aceSpan step fixed ringLog2 iter len ≤ Config.aceWinMib * 1048576)

/-- The configuration checks of Table 12-1 (all but the eddy check). -/
def aceConfigOk (s : State) (c : Nat) (a : Ace) : Bool :=
  let reserved := decide (a.mode ≤ 1) && decide (a.srcSpace ≤ 2) && decide (a.dstSpace ≤ 2) && decide (a.srcStep ≤ 2) &&
    decide (a.dstStep ≤ 2) && decide (12 ≤ a.ringLog2 ∧ a.ringLog2 ≤ 30) && bitsOf a.cfg.toNat 25 7 == 0 &&
    selOk a.sel0 && selOk a.sel1 && bitsOf a.trig.toNat 16 16 == 0
  let len := a.len % 4 == 0 && decide (4 ≤ a.len ∧ a.len ≤ 16777216)
  let mode := if a.mode == 0 then a.iter != 0 else a.sel0 != 0 || a.sel1 != 0 || a.kickEn
  let ring (step base : Nat) : Bool := step != 2 || (2 ^ a.ringLog2 % a.len == 0 && base % 4096 == 0)
  let dev := aceHeld s c || (a.srcSpace != 2 && a.dstSpace != 2)
  let win (space base step fixed : Nat) : Bool := space != 1 || inWindow base step fixed a.ringLog2 a.iter a.len
  reserved && len && mode && ring a.srcStep a.src && ring a.dstStep a.dst && dev &&
    win a.srcSpace a.src a.srcStep (b2n a.srcFixed) && win a.dstSpace a.dst a.dstStep (b2n a.dstFixed)

/-! ### Eddies (R616) -/

/-- Is the channel ARMED or RUNNING? -/
def aceLive (a : Ace) : Bool := a.st == .armed || a.st == .running

/-- Members of the trigger graph: channels armed, with the arming channel `c`. -/
def graphNodes (s : State) (c : Nat) : List Nat :=
  setIns ((s.ace.ch.filter fun p => aceLive p.2).map (·.1)) c

/-- Does channel `b` select the completion of channel `a`? In SOFTWARE mode trigger selects are ignored (R611). -/
def feeds (s : State) (a b : Nat) : Bool :=
  let x := aceOf s b
  x.mode == 1 && (x.sel0 == 0x40 + a || x.sel1 == 0x40 + a)

/-- Can `goal` be reached from one of `front` in at most `fuel` edges among `nodes`, keeping to those nodes? -/
def reaches (s : State) (nodes front : List Nat) (goal fuel : Nat) : Bool :=
  match fuel with
  | 0 => false
  | n + 1 =>
    let next := nodes.filter fun b => front.any fun a => feeds s a b
    next.elem goal || reaches s nodes (next.foldl setIns front) goal n

/-- Does the graph on `nodes` hold a cycle through `c`? -/
def cycleThrough (s : State) (nodes : List Nat) (c : Nat) : Bool := reaches s nodes [c] c (nodes.length + 1)

/-- Does every cycle through `c` meet R616? A cycle without an outside start lies among the channels that have none;
a cycle with an unbounded member runs through one that has ITER_COUNT 0. -/
def eddyOk (s : State) (c : Nat) : Bool :=
  let nodes := graphNodes s c
  let closed := nodes.filter fun b => let a := aceOf s b
    !(a.kickEn || selOutside a.sel0 || selOutside a.sel1)
  let noStart := closed.elem c && cycleThrough s closed c
  let reachFrom (u v : Nat) : Bool := reaches s nodes [u] v (nodes.length + 1)
  let unbounded := nodes.any fun u => (aceOf s u).iter == 0 &&
    (if u == c then cycleThrough s nodes c else reachFrom c u && reachFrom u c)
  !(noStart || unbounded)

/-! ### States and triggers -/

/-- ACE is stopped in Lull-2 and Lull-3 (R623). -/
def aceStopped (s : State) : Bool := s.ace.stopped

/-- Is the channel using host memory? -/
def usesHost (a : Ace) : Bool := a.srcSpace == 0 || a.dstSpace == 0

/-- A channel halts: its trigger pending is discarded and its event is raised (R619). -/
def haltAce (s : State) (c err : Nat) (domain : Bool) : State :=
  let s := setAce s c { aceOf s c with st := .halted, pending := false, err := err, domain := domain, retryAt := none, disarm := false, parked := false }
  raise s (evAce c) subjAce c 0

/-- Host channels stop and halt with ACE_ERR_RESET at a PF FLR and while PERST_N is low (R621). -/
def aceHostReset (s : State) : State :=
  (s.ace.ch.filter fun p => aceLive p.2 && usesHost p.2).foldl (fun s p =>
    setAce s p.1 { aceOf s p.1 with st := .halted, pending := false, err := 4, domain := false, retryAt := none, disarm := false, parked := false }) s

/-- Is host memory out of the ACE's reach: PERST_N low, or an FLR of the PF (R621)? -/
def hostDown (s : State) : Bool := !s.host.perst || inFlr s 0

/-- Starts an iteration of an ARMED channel (R611). -/
def startIter (s : State) (c : Nat) : State :=
  setAce s c { aceOf s c with st := .running, doneBytes := 0, served := 0, retryNo := 0, retryAt := none }

/-- Counts a discarded trigger (R612). -/
def overrun (s : State) (c : Nat) : State :=
  setAce s c { aceOf s c with overrun := satAdd 16 (aceOf s c).overrun 1 }

/-- One trigger reaches channel `c` (R611, R612, R623). -/
def trigger (s : State) (c : Nat) : State :=
  let a := aceOf s c
  if !aceLive a then s
  else if aceStopped s then overrun s c
  else if a.st == .armed then startIter s c
  else if a.pending then overrun s c
  else setAce s c { a with pending := true }

/-- A trigger source fires: every channel in TRIGGERED mode that selects it is triggered, select 0 before select 1 (R610 to R613). -/
def fireSource (s : State) (v : Nat) : State :=
  s.ace.ch.foldl (fun s p =>
    let a := aceOf s p.1
    if a.mode != 1 then s
    else
      let s := if a.sel0 == v then trigger s p.1 else s
      if a.sel1 == v then trigger s p.1 else s) s

/-- ARM: the checks of Table 12-1, then ARMED; ITER_DONE keeps its value from HALTED (R604, R617, R620). A channel that uses HOST
while the host side is reset halts at once (R621). -/
def armChannel (s : State) (c : Nat) : State :=
  let a := aceOf s c
  if a.st == .idle || a.st == .done || a.st == .halted then
    let err := if !aceConfigOk s c a then 3 else if !eddyOk s c then 1 else 0
    if err ≠ 0 then raise (setAce s c { a with st := .idle, err := err, domain := false }) (evAce c) subjAce c 0
    else setAce s c { a with st := if usesHost a && hostDown s then .halted else .armed,
                             err := if usesHost a && hostDown s then 4 else 0, domain := false, pending := false, doneBytes := 0, served := 0, retryNo := 0, retryAt := none,
                             iterDone := if a.st == .halted then a.iterDone else 0,
                             dstPos := if a.st == .halted then a.dstPos else 0 }
  else s

/-- DISARM: discards the pending trigger; a RUNNING channel first completes its iteration (Table 12-4). -/
def disarmChannel (s : State) (c : Nat) : State :=
  let a := aceOf s c
  if a.st == .running && !a.parked then setAce s c { a with pending := false, disarm := true }
  else setAce s c { a with st := .idle, pending := false, parked := false }

/-- GO: starts a software run, or counts as a trigger when KICK_EN is 1 (R611). -/
def goChannel (s : State) (c : Nat) : State :=
  let a := aceOf s c
  if a.mode == 0 then (if a.st == .armed && !aceStopped s then startIter s c else s)
  else if a.kickEn then trigger s c else s

/-- Raises GATE for gate `k`; Table 16-1 names an engine as its subject and gives a gate none: a free value. -/
def raiseGate (s : State) (k : Nat) : State :=
  let (i, s) := drawFree s
  raise { s with pmu.gateEvt := setIns s.pmu.gateEvt k } evGate subjEngine (Config.freeValue i) k

/-- A write that a CLOSING or CLOSED gate refuses (R747). -/
def refusePosted (s : State) (k origin : Nat) : State :=
  let g := gateOf s k
  let s := setGate s k { g with refused := satAdd 32 g.refused 1, origin := origin }
  raiseGate s k

/-- A host or SMP write of ACE_CH_c_CTRL: refused by gate 13, discarded on a held channel (R627, R747), else `f`. -/
def ctrlWrite (s : State) (c origin : Nat) (f : State → Nat → State) : State :=
  if 32 ≤ c || !s.host.sysRst then s
  else if (gateOf s 13).st ≠ 0 then refusePosted s 13 origin
  else if aceHeld s c then { s with ace.ownViol := satAdd 32 s.ace.ownViol 1 }
  else f s c

/-- ACE_ARM: a CTRL.ARM write (R604). -/
def execAceArm (c : Nat) (s : State) : Answer := .next (whenReached s 0 (ctrlWrite s c 0x20 armChannel))

/-- ACE_DISARM: a CTRL.DISARM write (R638, Table 12-4). -/
def execAceDisarm (c : Nat) (s : State) : Answer := .next (whenReached s 0 (ctrlWrite s c 0x20 disarmChannel))

/-- ACE_GO: a CTRL.GO write (R611). -/
def execAceGo (c : Nat) (s : State) : Answer := .next (whenReached s 0 (ctrlWrite s c 0x20 goChannel))

/-! ### Iterations -/

/-- Where iteration `i` starts (R606). -/
def iterBase (base step ringLog2 i len : Nat) : Nat :=
  if step == 1 then base + i * len else if step == 2 then base + (i * len) % 2 ^ ringLog2 else base

/-- Bytes of the BUFFER space; one address again and again when FIXED (R605, R606). -/
def bufBytes (s : State) (addr n : Nat) (fixed : Bool) : Bytes :=
  if fixed then List.replicate n (Memory.read s.ace.buf addr) else Memory.readAll s.ace.buf addr n

/-- Stores bytes in the BUFFER space, at one address when FIXED. -/
def putBuf (s : State) (addr : Nat) (b : Bytes) (fixed : Bool) : State :=
  { s with ace.buf := if fixed then Memory.writeSame s.ace.buf addr b else Memory.writeAll s.ace.buf addr b }

/-- Where byte `o` of the current iteration is read and written (R606). -/
def srcAt (a : Ace) (o : Nat) : Nat := iterBase a.src a.srcStep a.ringLog2 a.iterDone a.len + if a.srcFixed then 0 else o
def dstAt (a : Ace) (o : Nat) : Nat := iterBase a.dst a.dstStep a.ringLog2 a.iterDone a.len + if a.dstFixed then 0 else o

/-- Writes a burst to its destination at byte `o` of the iteration; a FIXED destination takes each byte at one address. -/
def burstSink (s : State) (a : Ace) (o : Nat) (b : Bytes) : State :=
  match a.dstSpace with
  | 1 => putBuf s (dstAt a o) b a.dstFixed
  | 2 => s
  | _ => { s with out := .dma 0 none (dstAt a o) b false :: s.out }

/-- Writes bytes from byte `o` of the iteration on, in bursts of at most 512 (R607). -/
def burstsSink (s : State) (a : Ace) (o : Nat) (b : Bytes) (n : Nat) : State :=
  match n with
  | 0 => s
  | k + 1 => if b.isEmpty then s else burstsSink (burstSink s a o (b.take 512)) a (o + 512) (b.drop 512) k

/-- The record in the capture window of a telemetry channel. -/
def windowOf (s : State) (c : Nat) : Option Bytes := (Tbl.get? s.ace.tele (c - 24)).bind (·.window)

/-- What a burst of BUFFER or DEVICE space reads: host data come with the command (R605, R629). -/
def burstSource (s : State) (c : Nat) (a : Ace) (n : Nat) : Bytes :=
  if a.srcSpace = 1 then bufBytes s (srcAt a a.served) n a.srcFixed
  else (((windowOf s c).getD []).drop (if a.srcFixed then 0 else a.served)).take n

/-- Can the channel's next burst go now: running, not waiting for a retry, the host or its capture window (R618, R622, R629)? -/
def burstReady (s : State) (c : Nat) : Bool :=
  let a := aceOf s c
  a.st == .running && !a.parked && a.retryAt.isNone && (!usesHost a || mayIssue s 0) && decide (a.served < a.len) &&
  (a.srcSpace != 2 || (windowOf s c).isSome)

/-- The channel whose burst is next: those with PRIO set first, in turn among equals (R607). -/
def nextBurst (s : State) : Option Nat :=
  let l := (List.range 32).filter (burstReady s)
  let p := l.filter fun c => (aceOf s c).prio
  let l := if p.isEmpty then l else p
  match l.find? fun c => decide (s.ace.last < c) with
  | some c => some c
  | none => l.head?

/-- One burst of channel `c`, of at most 512 bytes: a host source is asked for its bytes, which are written when they come; any other
source is copied (R605, R607). -/
def serveBurst (s : State) (c : Nat) : State :=
  let a := aceOf s c
  let n := min 512 (a.len - a.served)
  let s := { s with ace.last := c }
  if a.srcSpace = 0 then setAce { s with out := .rd 0 none (srcAt a a.served) n :: s.out } c { a with served := a.served + n }
  else
    setAce (burstSink s a a.served (burstSource s c a n)) c { a with served := a.served + n, doneBytes := a.served + n }

/-- Bursts are served until channel `c` has had its turns up to byte `goal` (R607). -/
def serveTo (s : State) (c goal n : Nat) : State :=
  match n with
  | 0 => s
  | k + 1 =>
    if goal ≤ (aceOf s c).served then s
    else match nextBurst s with
      | some d => serveTo (serveBurst s d) c goal k
      | none => s

/-- Bursts that running channels still have to make. -/
def burstsLeft (s : State) : Nat :=
  sumOf ((List.range 32).map fun c => ((aceOf s c).len - (aceOf s c).served + 511) / 512)

/-- The bytes of a host source that have come, written in bursts up to byte `goal` (R607). -/
def writeHost (s : State) (c goal : Nat) (data : Bytes) : State :=
  let a := aceOf s c
  let b := (data.take goal).drop a.doneBytes
  burstsSink s a a.doneBytes b (b.length / 512 + 1)

/-- The next iteration's start relative to the destination base (DST_POS, R606). -/
def nextPos (a : Ace) (i : Nat) : Nat := iterBase 0 a.dstStep a.ringLog2 i a.len

/-- An iteration ends, with the event of R609: a SOFTWARE run goes on with the next, in Lull-2 only after it (R611, R623). -/
def endIter (s : State) (c : Nat) : State :=
  let a := aceOf s c
  let i := a.iterDone + 1
  let fin := a.iter != 0 && decide (a.iter ≤ a.iterDone + 1)
  let on := !a.disarm && !fin && a.mode == 0
  let pos := nextPos a (a.iterDone + 1)
  let wrapped := a.dstStep == 2 && pos == 0
  let a' := { a with iterDone := i, dstPos := pos, doneBytes := if on then 0 else a.len, served := if on then 0 else a.len, retryNo := 0, retryAt := none }
  let s := setAce s c { a' with
    st := if a.disarm then .idle else if fin then .done else if on then .running else .armed,
    parked := on && aceStopped s,
    pending := if a.disarm || fin then false else a.pending,
    overrun := if fin && a.pending && !a.disarm then satAdd 16 a.overrun 1 else a.overrun,
    disarm := false }
  let s := if fin || a.evtEach || (a.evtWrap && wrapped) then raise s (evAce c) subjAce c 0 else s
  let s := fireSource s (0x40 + c)
  -- a pending trigger starts the next iteration (R612)
  let b := aceOf s c
  if b.st == .armed && b.pending && !aceStopped s then startIter (setAce s c { b with pending := false }) c else s

/-- May the running channel move data now: not waiting for a retry, for Run, or for Bus Master Enable (R618, R622, R623)? -/
def burstsGo (s : State) (a : Ace) : Bool := a.st == .running && !a.parked && a.retryAt.isNone && (!usesHost a || mayIssue s 0)

/-- ACE_ITERATION_COMPLETE: the iteration's bursts have had their turns among the running channels' and its last write is done;
completion trigger, DST_POS and events follow (R606 to R609). `data` is what a HOST source held. A host burst waits while Bus Master
Enable is 0 (R622). -/
def execAceIterationComplete (c : Nat) (data : Bytes) (s : State) : Answer :=
  let a := aceOf s c
  if !burstsGo s a ∨ (a.srcSpace = 0 ∧ data.length ≠ a.len) ∨ (a.srcSpace = 2 ∧ (windowOf s c).isNone) then .next s
  else
    let s := serveTo s c a.len (burstsLeft s)
    let s := if a.srcSpace = 0 then writeHost s c a.len data else s
    let s := if a.srcSpace = 2 then { s with ace.tele := Tbl.upd s.ace.tele (c - 24) fun x => { x with window := none } } else s
    .next (endIter s c)

/-- ACE_BURST_FAIL: the burst at byte `done` of the iteration is scheduled for a retry, or the channel halts with ACE_ERR_BUS (R618,
R619). `data` is what a HOST source has given before it. A host burst's error `err` is logged in the PF (R150); a burst that fails with
neither that nor DOMAIN_CLOSED came poisoned from buffer memory (R423). -/
def execAceBurstFail (c done : Nat) (domainClosed : Bool) (err : Option ReadErr) (data : Bytes) (s : State) : Answer :=
  let a := aceOf s c
  if !burstsGo s a ∨ a.len ≤ done ∨ done < a.doneBytes ∨ (a.srcSpace = 0 ∧ data.length ≠ done) then .next s
  else
    let s := match err with
      | some k => if usesHost a then logReadErr s 0 k else s
      | none => if domainClosed then s else noteBmu s
    let s := if a.retryNo = 0 then countFault s 12 1 0 0 0 else s
    let s := serveTo s c done (burstsLeft s)
    let s := if a.srcSpace = 0 then writeHost s c done data else s
    let s := setAce s c { aceOf s c with doneBytes := done, served := done }
    if a.retryNo < a.retryMax then
      let k := a.retryNo + 1
      let s := setAce s c { aceOf s c with
        retryNo := k, retries := satAdd 16 a.retries 1, retryAt := some (now s + min (2 ^ (k - 1)) 1000 * usTicks) }
      .next (countFault s 12 0 0 0 1)
    else
      let s := haltAce s c 2 domainClosed
      let s := countFault s 12 0 0 1 0
      .next (logFault s { FltLog.blank with cls := 12, event := evAce c, tries := a.retryMax + 1, detail := c })

/-- ACE_RETRY_WAIT_END: the backoff ends and the burst starts again (R618). -/
def execAceRetryWaitEnd (dt c : Nat) (s : State) : Answer :=
  let s := advance s dt
  let a := aceOf s c
  match a.retryAt with
  | some t => if t ≤ now s ∧ a.st = .running then .next (setAce s c { a with retryAt := none }) else .next s
  | none => .next s

end Sys2Proof.Machine
end

