-- ==== Sys2Proof/Machine/Cipher.lean ====
section
/-! DEFINITION. The cryptography the spec names: AES (FIPS 197), GCM (SP 800-38D), key wrap (RFC 3394), SHA-384
(FIPS 180-4), HKDF (RFC 5869) and ECDH on P-384 (FIPS 186-5), for R344 to R392. -/

namespace Sys2Proof.Machine

/-! ### AES -/

/-- Multiplication by x in GF(2^8). -/
def gfX (b : Byte) : Byte := if b.msb then (b <<< 1) ^^^ 0x1B else b <<< 1

/-- Product in GF(2^8), over `n` bits of the second factor. -/
def gfMul (a b : Byte) (n : Nat) : Byte :=
  match n with
  | 0 => 0
  | m + 1 => (if b.getLsbD 0 then a else 0) ^^^ gfMul (gfX a) (b >>> 1) m

/-- Inverse in GF(2^8): the 254th power; 0 stays 0. -/
def gfInv (a : Byte) : Byte :=
  let mul (x y : Byte) := gfMul x y 8
  let a2 := mul a a
  let a4 := mul a2 a2
  let a8 := mul a4 a4
  let a16 := mul a8 a8
  let a32 := mul a16 a16
  let a64 := mul a32 a32
  mul (mul a64 a64) (mul a64 (mul a32 (mul a16 (mul a8 (mul a4 a2)))))

/-- The S-box. -/
def sbox (a : Byte) : Byte :=
  let x := gfInv a
  x ^^^ x.rotateLeft 1 ^^^ x.rotateLeft 2 ^^^ x.rotateLeft 3 ^^^ x.rotateLeft 4 ^^^ 0x63

/-- The inverse S-box. -/
def invSbox (a : Byte) : Byte := gfInv (a.rotateLeft 1 ^^^ a.rotateLeft 3 ^^^ a.rotateLeft 6 ^^^ 0x05)

/-- Bytewise exclusive or, over the shorter length. -/
def xorBytes (a b : Bytes) : Bytes := List.zipWith (· ^^^ ·) a b

/-- Byte `i` of a string, 0 beyond its end. -/
def byteAt (b : Bytes) (i : Nat) : Byte := (b[i]?).getD 0

/-- Rows of a block rotate by their number; `inv` undoes it. -/
def shiftRows (b : Bytes) (inv : Bool) : Bytes :=
  (List.range 16).map fun i => byteAt b ((i + (if inv then 12 else 4) * (i % 4)) % 16)

/-- One column times a circulant matrix. -/
def mixColumn (m : Bytes) (c : Bytes) : Bytes :=
  (List.range 4).map fun r => (List.range 4).foldl (fun a k => a ^^^ gfMul (byteAt c k) (byteAt m ((k + 4 - r) % 4)) 8) 0

/-- All four columns. -/
def mixColumns (m : Bytes) (b : Bytes) : Bytes :=
  ((List.range 4).map fun c => mixColumn m ((b.drop (4 * c)).take 4)).flatten

/-- The key schedule's words, 4 bytes each, newest first, until there are `n`. -/
def keyWords (nk : Nat) (w : List Bytes) (rcon : Byte) (fuel n : Nat) : List Bytes :=
  match fuel with
  | 0 => w
  | m + 1 =>
    let i := w.length
    let prev := w.headD []
    let t := if i % nk = 0 then xorBytes ((prev.drop 1 ++ prev.take 1).map sbox) [rcon, 0, 0, 0]
      else if nk = 8 ∧ i % 8 = 4 then prev.map sbox else prev
    keyWords nk (xorBytes ((w[nk - 1]?).getD []) t :: w) (if i % nk = 0 then gfX rcon else rcon) m n

/-- Splits into pieces of `k` bytes, at most `n` of them. -/
def chunks (k n : Nat) (b : Bytes) : List Bytes :=
  match n with
  | 0 => []
  | m + 1 => b.take k :: chunks k m (b.drop k)

/-- The round keys of a 16-byte or 32-byte key. -/
def roundKeys (key : Bytes) : List Bytes :=
  let nk := key.length / 4
  let n := 4 * (nk + 7)
  let w := (keyWords nk (chunks 4 nk key).reverse 1 (n - nk) n).reverse
  (List.range (nk + 7)).map fun i => ((w.drop (4 * i)).take 4).flatten

/-- One block enciphered under round keys. -/
def aesRounds (ks : List Bytes) (b : Bytes) : Bytes :=
  match ks with
  | [] => b
  | [k] => xorBytes (shiftRows (b.map sbox) false) k
  | k :: r => aesRounds r (xorBytes (mixColumns [2, 3, 1, 1] (shiftRows (b.map sbox) false)) k)

/-- AES encryption of one block. -/
def aesEnc (key b : Bytes) : Bytes :=
  match roundKeys key with
  | [] => b
  | k :: r => aesRounds r (xorBytes b k)

/-- One block deciphered under the round keys, last first. -/
def aesUnrounds (ks : List Bytes) (b : Bytes) : Bytes :=
  match ks with
  | [] => b
  | [k] => xorBytes ((shiftRows b true).map invSbox) k
  | k :: r => aesUnrounds r (mixColumns [14, 11, 13, 9] (xorBytes ((shiftRows b true).map invSbox) k))

/-- AES decryption of one block. -/
def aesDec (key b : Bytes) : Bytes :=
  match (roundKeys key).reverse with
  | [] => b
  | k :: r => aesUnrounds r (xorBytes b k)

/-! ### GCM -/

/-- The number that bytes spell, most significant first. -/
def beNat (b : Bytes) : Nat := b.foldl (fun a x => a * 256 + x.toNat) 0

/-- `n` bytes of `v`, most significant first. -/
def beBytes (n v : Nat) : Bytes := (leBytes n v).reverse

/-- Product in GF(2^128) in GCM's bit order, over `n` more bits of `x`. -/
def gmul (x v z : BitVec 128) (n : Nat) : BitVec 128 :=
  match n with
  | 0 => z
  | m + 1 =>
    gmul (x <<< 1) (if v.getLsbD 0 then (v >>> 1) ^^^ (0xE1#128 <<< 120) else v >>> 1) (if x.msb then z ^^^ v else z) m

/-- GHASH of 16-byte blocks; the last one is padded with zeros. -/
def ghash (h : BitVec 128) (bs : List Bytes) (y : BitVec 128) : BitVec 128 :=
  match bs with
  | [] => y
  | b :: r => ghash h r (gmul (y ^^^ BitVec.ofNat 128 (beNat ((b ++ List.replicate (16 - b.length) 0).take 16))) h 0 128)

/-- Blocks of 16 bytes. -/
def blocks16 (b : Bytes) : List Bytes := chunks 16 ((b.length + 15) / 16) b

/-- The counter block after `i` increments of J0's last 32 bits. -/
def ctrBlock (iv : Bytes) (i : Nat) : Bytes := iv.take 12 ++ beBytes 4 ((1 + i) % 2 ^ 32)

/-- The keystream applied to data: GCM's counter mode from J0 + 1. -/
def gcmCtr (key iv data : Bytes) : Bytes :=
  ((numbered (blocks16 data) 1).map fun p => xorBytes p.2 (aesEnc key (ctrBlock iv p.1))).flatten

/-- The GCM tag over AAD and ciphertext. -/
def gcmTag (key iv aad ct : Bytes) : Bytes :=
  let h := BitVec.ofNat 128 (beNat (aesEnc key (List.replicate 16 0)))
  let len := beBytes 8 (8 * aad.length) ++ beBytes 8 (8 * ct.length)
  let s := ghash h (blocks16 aad ++ blocks16 ct ++ [len]) 0
  xorBytes (beBytes 16 s.toNat) (aesEnc key (ctrBlock iv 0))

/-- GCM seal: ciphertext and tag. -/
def gcmSeal (key iv aad p : Bytes) : Bytes × Bytes :=
  let ct := gcmCtr key iv p
  (ct, gcmTag key iv aad ct)

/-! ### RFC 3394 -/

/-- One unwrapping step: A and the 8-byte registers, `t` from 6n down to 1. -/
def unwrapSteps (key : Bytes) (a : Bytes) (r : List Bytes) (n t : Nat) : Bytes × List Bytes :=
  match t with
  | 0 => (a, r)
  | m + 1 =>
    let i := m % n
    let b := aesDec key (xorBytes a (beBytes 8 (m + 1)) ++ ((r[i]?).getD []))
    unwrapSteps key (b.take 8) (r.set i (b.drop 8)) n m

/-- RFC 3394 unwrapping with the default IV; none when the integrity check fails. -/
def keyUnwrap (key c : Bytes) : Option Bytes :=
  let n := c.length / 8 - 1
  let p := unwrapSteps key (c.take 8) (chunks 8 n (c.drop 8)) n (6 * n)
  if p.1 = List.replicate 8 0xA6 then some p.2.flatten else none

/-! ### SHA-384, HMAC, HKDF -/

/-- The first primes, found by trial among `fuel` candidates from `k`. -/
def primesFrom (k fuel : Nat) (acc : List Nat) : List Nat :=
  match fuel with
  | 0 => acc
  | m + 1 => primesFrom (k + 1) m (if acc.any fun p => k % p == 0 then acc else acc ++ [k])

/-- The cube root of `v` rounded down, bit by bit from bit `n - 1`. -/
def cubeRoot (v n r : Nat) : Nat :=
  match n with
  | 0 => r
  | m + 1 => cubeRoot v m (if (r + 2 ^ m) ^ 3 ≤ v then r + 2 ^ m else r)

/-- The square root of `v` rounded down, likewise. -/
def squareRoot (v n r : Nat) : Nat :=
  match n with
  | 0 => r
  | m + 1 => squareRoot v m (if (r + 2 ^ m) ^ 2 ≤ v then r + 2 ^ m else r)

/-- The round constants: fractions of the cube roots of the first 80 primes. -/
def shaK : List (BitVec 64) := ((primesFrom 2 408 []).take 80).map fun p => BitVec.ofNat 64 (cubeRoot (p * 2 ^ 192) 68 0)

/-- The initial value of SHA-384: fractions of the square roots of the ninth to sixteenth primes. -/
def sha384Init : List (BitVec 64) :=
  (((primesFrom 2 60 []).drop 8).take 8).map fun p => BitVec.ofNat 64 (squareRoot (p * 2 ^ 128) 68 0)

/-- The message schedule, newest word first. -/
def shaSched (w : List (BitVec 64)) (n : Nat) : List (BitVec 64) :=
  match n with
  | 0 => w
  | m + 1 =>
    let at_ (i : Nat) := (w[i]?).getD 0
    let x := at_ 1
    let y := at_ 14
    let s1 := x.rotateRight 19 ^^^ x.rotateRight 61 ^^^ (x >>> 6)
    let s0 := y.rotateRight 1 ^^^ y.rotateRight 8 ^^^ (y >>> 7)
    shaSched ((s1 + at_ 6 + s0 + at_ 15) :: w) m

/-- One round on the eight working variables. -/
def shaRound (v : List (BitVec 64)) (kw : BitVec 64 × BitVec 64) : List (BitVec 64) :=
  match v with
  | [a, b, c, d, e, f, g, h] =>
    let s1 := e.rotateRight 14 ^^^ e.rotateRight 18 ^^^ e.rotateRight 41
    let ch := (e &&& f) ^^^ ((~~~e) &&& g)
    let t1 := h + s1 + ch + kw.1 + kw.2
    let s0 := a.rotateRight 28 ^^^ a.rotateRight 34 ^^^ a.rotateRight 39
    let mj := (a &&& b) ^^^ (a &&& c) ^^^ (b &&& c)
    [t1 + s0 + mj, a, b, c, d + t1, e, f, g]
  | _ => v

/-- Compresses one 128-byte block. -/
def shaBlock (h : List (BitVec 64)) (b : Bytes) : List (BitVec 64) :=
  let w := (shaSched ((chunks 8 16 b).map fun c => BitVec.ofNat 64 (beNat c)).reverse 64).reverse
  List.zipWith (· + ·) h ((List.zip shaK w).foldl shaRound h)

/-- SHA-384. -/
def sha384 (m : Bytes) : Bytes :=
  let pad := m ++ [0x80] ++ List.replicate ((239 - m.length % 128) % 128) 0 ++ beBytes 16 (8 * m.length)
  (((chunks 128 (pad.length / 128) pad).foldl shaBlock sha384Init).map fun w => beBytes 8 w.toNat).flatten.take 48

/-- HMAC-SHA-384. -/
def hmac384 (key m : Bytes) : Bytes :=
  let k := if 128 < key.length then sha384 key else key
  let k := k ++ List.replicate (128 - k.length) 0
  sha384 (k.map (· ^^^ 0x5C) ++ sha384 (k.map (· ^^^ 0x36) ++ m))

/-- HKDF-SHA-384 with L = 32: one block of output. -/
def hkdf32 (ikm salt info : Bytes) : Bytes := (hmac384 (hmac384 salt ikm) (info ++ [1])).take 32

/-! ### P-384 -/

/-- The field's prime. -/
def p384 : Nat := 2 ^ 384 - 2 ^ 128 - 2 ^ 96 + 2 ^ 32 - 1

/-- The curve's constant b. -/
def p384B : Nat := 0xb3312fa7e23ee7e4988e056be3f82d19181d9c6efe8141120314088f5013875ac656398d8a2ed19d2a85c8edd3ec2aef

/-- Power modulo the prime, over `n` bits of the exponent. -/
def powP (b e n : Nat) : Nat :=
  match n with
  | 0 => 1
  | m + 1 =>
    let h := powP (b * b % p384) (e / 2) m
    if e % 2 = 1 then b * h % p384 else h

/-- Difference modulo the prime. -/
def subP (a b : Nat) : Nat := (a + p384 - b % p384) % p384

/-- Is a point of coordinates below the prime on the curve? -/
def onCurve (x y : Nat) : Bool := decide (x < p384 ∧ y < p384) && (y * y) % p384 == subP (x * x * x + p384B) (3 * x)

/-- Sum of two points; none is the point at infinity. -/
def addPoint (a b : Option (Nat × Nat)) : Option (Nat × Nat) :=
  match a, b with
  | none, q => q
  | p, none => p
  | some (x1, y1), some (x2, y2) =>
    if x1 = x2 ∧ (y1 + y2) % p384 = 0 then none
    else
      let l := if x1 = x2 then (subP (3 * x1 * x1) 3) * powP (2 * y1 % p384) (p384 - 2) 384 % p384
        else subP y2 y1 * powP (subP x2 x1) (p384 - 2) 384 % p384
      let x3 := subP (subP (l * l) x1) x2
      some (x3, subP (l * subP x1 x3) y1)

/-- Scalar multiple, over `n` bits. -/
def mulPoint (k : Nat) (p : Option (Nat × Nat)) (n : Nat) : Option (Nat × Nat) :=
  match n with
  | 0 => none
  | m + 1 =>
    let h := mulPoint (k / 2) (addPoint p p) m
    if k % 2 = 1 then addPoint p h else h

/-- The point of an uncompressed SEC 1 encoding, when it is valid (R375 step 1). -/
def readPoint (b : Bytes) : Option (Nat × Nat) :=
  let x := beNat ((b.drop 1).take 48)
  let y := beNat ((b.drop 49).take 48)
  if b.length = 97 ∧ byteAt b 0 = 4 ∧ onCurve x y then some (x, y) else none

/-- The KEK of DOMAIN_JOIN from the ephemeral public point (R375 steps 2 and 3). -/
def joinKek (q : Nat × Nat) (fid did : Nat) : Bytes :=
  let z := (mulPoint Config.identityKey (some q) 384).elim 0 (·.1)
  let salt := leBytes 8 Config.dieId ++ leBytes 4 fid ++ leBytes 8 did
  let info : Bytes := [0x54, 0x48, 0x41, 0x46, 0x41, 0x4E, 0x59, 0x58, 0x2D, 0x44, 0x4F, 0x4D, 0x41, 0x49, 0x4E, 0x2D,
    0x4A, 0x4F, 0x49, 0x4E, 0x2D, 0x31]
  hkdf32 (beBytes 48 z) salt info

end Sys2Proof.Machine
end

