-- ==== Sys2Proof/Machine/HostLink.lean ====
section
/-! DEFINITION. The host link: doorbells, the admin ring, Bus Master Enable, VF Enable, FLR, MSI-X masks and
holdoffs, PERST_N and the link (chapter 3, R792). -/

namespace Sys2Proof.Machine

/-! ### HIU_FN_ERR (Table 3-7, R875) -/

/-- Records one discarded write in HIU_FN_ERR of a function; VALID setting raises FN_ERR (Table 16-1). -/
def recordFnErr (s : State) (fn : Nat) (range noRing resv size : Bool) (slot : Nat) : State :=
  let f := fnOf s fn
  let e := f.err
  let e' : FnErr := {
    valid := true, dbRange := e.dbRange || range, dbNoRing := e.dbNoRing || noRing, dbResv := e.dbResv || resv,
    accessSize := e.accessSize || size, multi := e.multi || e.valid,
    slot := if e.valid then e.slot else slot, count := satAdd 32 e.count 1 }
  let s := setFn s fn { f with err := e' }
  if e.valid then s else raise s evFnErr subjFn fn 0

/-! ### Doorbells (R129 to R133, R152, R153) -/

/-- The table key of a ring 0 that a PF FLR in Lull-1 has doomed and that a new ring 0 has displaced (R148, R872): no ring has it. -/
def doomed0 : Nat := 4096

/-- Was the ring doomed by an FLR whose steps are still owed (R148)? A ring 0 created since was not. -/
def doomed (s : State) (n : Nat) (r : Ring) : Bool :=
  s.host.flrOwed.elem r.owner && !(n == 0 && Tbl.has s.rings.tbl doomed0)

/-- The ring in a doorbell slot of a function. -/
def ringAt (s : State) (fn slot : Nat) : Option (Nat × Ring) :=
  s.rings.tbl.find? fun p => p.2.owner == fn && p.2.slot == slot && !doomed s p.1 p.2

/-- Is `v` on the path from the completion head to the completion tail (R177)? -/
def headValid (r : Ring) (v : Nat) : Bool :=
  let n := 2 ^ r.log2
  decide ((v + n - r.cqHead) % n ≤ (r.cqTail + n - r.cqHead) % n)

/-- The ring engine's gate (Table 15-3). -/
def rngGate : Nat := 14

/-- Doorbells stay in the doorbell store: until FW_READY (R119), during UPDATE_PAUSE (R152), and while the ring engine's gate is
closed (R132, R133). -/
def storing (s : State) : Bool := !s.host.fwReady || s.host.updatePause || (gateOf s rngGate).st != 0

/-- Applies a tail: entries up to it become available (R129). -/
def applyTail (s : State) (n : Nat) (r : Ring) (v : Nat) : State :=
  { s with rings.tbl := Tbl.put s.rings.tbl n { r with sqTail := v } }

/-- Applies a head: completion slots are released, or the value is counted as invalid (R177). -/
def applyHead (s : State) (n : Nat) (r : Ring) (v : Nat) : State :=
  let r' := if headValid r v then { r with cqHead := v } else { r with cqHeadInvalid := satAdd 32 r.cqHeadInvalid 1 }
  { s with rings.tbl := Tbl.put s.rings.tbl n r' }

/-- The ring engine reads the doorbell store of one function: heads first (R131, R133). -/
def applyStore (s : State) (fn : Nat) : State :=
  let f := fnOf s fn
  let s := setFn s fn { f with tails := [], heads := [] }
  let s := f.heads.foldl (fun s p => match ringAt s fn p.1 with
    | some (n, r) => applyHead s n r p.2
    | none => s) s
  f.tails.foldl (fun s p => match ringAt s fn p.1 with
    | some (n, r) => applyTail s n r p.2
    | none => s) s

/-- Stores a doorbell: the latest value counts (R132, R133). -/
def storeBell (s : State) (fn slot : Nat) (isTail : Bool) (v : Nat) : State :=
  let f := fnOf s fn
  setFn s fn (if isTail then { f with tails := Tbl.put f.tails slot v } else { f with heads := Tbl.put f.heads slot v })

/-- A doorbell write as HIU judges it: discarded and recorded (R130), discarded silently on a ring being deleted (R153), or stored
(R132). A tail that leaves entries to consume wakes the formatter from Lull-1 (Table 15-6); the ring engine reads the store at
once when it runs. -/
def doorbell (s : State) (fn slot : Nat) (isTail : Bool) (w : Word) : State :=
  let v := w.toNat % 65536
  let resv := decide (65536 ≤ w.toNat)
  match ringAt s fn slot with
  | none => recordFnErr s fn false true resv false slot
  | some (_, r) =>
    let range := decide (2 ^ r.log2 ≤ v)
    if resv || range then recordFnErr s fn range false resv false slot
    else if r.st = .deleting then s
    else
      let s := storeBell s fn slot isTail v
      let s := if isTail && v != r.sqHead then wake s 1 else s
      if storing s then s else applyStore s fn

/-- The ring engine runs again and reads the whole doorbell store (R119, R133, R152). -/
def applyAll (s : State) : State := if storing s then s else (s.host.fns.map (·.1)).foldl applyStore s

/-- The end of UPDATE_PAUSE: stored doorbells take effect and held completions post (R152, R225). -/
def endPause (s : State) : State := postAll (applyAll { s with host.updatePause := false })

/-- SUBMISSION_DOORBELL: a host write to a submission tail doorbell (R129, R130). -/
def execSubmissionDoorbell (fn slot : Nat) (v : Word) (s : State) : Answer :=
  .next (if slot < slotCount fn then whenReached s fn (doorbell s fn slot true v) else s)

/-- COMPLETION_DOORBELL: a host write to a completion head doorbell (R129, R177). -/
def execCompletionDoorbell (fn slot : Nat) (v : Word) (s : State) : Answer :=
  .next (if slot < slotCount fn then whenReached s fn (doorbell s fn slot false v) else s)

/-! ### The administrative ring (R127, R128, R872) -/

/-- A ring 0 that an FLR has doomed makes room for a new one: it and its commands keep their number elsewhere (R148). -/
def displace0 (s : State) : State :=
  match Tbl.get? s.rings.tbl 0 with
  | some r => { s with
      rings.tbl := Tbl.put (Tbl.del s.rings.tbl 0) doomed0 r,
      rings.cmds := s.rings.cmds.map fun c => if c.ring == 0 && !c.mailbox then { c with ring := doomed0 } else c }
  | none => s

/-- Sets ENABLE: discarded with a reserved LOG2_SIZE or while ring 0 drains; otherwise ring 0 is created, with TAG_MAX 63 (R162,
R187, R872). It does not wait for 16 free pool tags: R206 gives that wait to CREATE_RING, and R872 names no such case (log entry
131). R795 programs a route for CREATE_RING only; ring 0 keeps the route of event 0. -/
def adminOn (s : State) : State :=
  let a := s.host.admin
  if a.enable || a.draining || decide (a.log2 < 6) || decide (12 < a.log2) then s
  else
    let s := displace0 s
    { s with
      host.admin := { a with enable := true },
      rings.tbl := Tbl.put s.rings.tbl 0 (newRing 0 0 a.log2 a.sqBase a.cqBase 0 63) }

/-- Ring 0 has drained: it goes, and ADMIN_RDY clears (R128, R223). -/
def adminGone (s : State) : State :=
  let s := dropStreams s fun st => st.ring == 0
  { s with rings.tbl := Tbl.del s.rings.tbl 0, host.admin := { s.host.admin with draining := false } }

/-- Clears ENABLE: fetch stops, the lookahead entry is discarded, ring 0 drains (R128). -/
def adminOff (s : State) : State :=
  if s.host.admin.enable then
    { s with
      host.admin := { s.host.admin with enable := false, draining := true },
      rings.tbl := Tbl.upd s.rings.tbl 0 fun r => { r with st := .deleting, look := none } }
  else s

/-- ADMIN_RING_ENABLE: a write that sets ENABLE (R872). -/
def execAdminRingEnable (s : State) : Answer := .next (whenReached s 0 (adminOn s))

/-- ADMIN_RING_DISABLE: a write that clears ENABLE (R128). -/
def execAdminRingDisable (s : State) : Answer := .next (whenReached s 0 (adminOff s))

/-- ADMIN_RING_DRAINED: the last admin completion has been posted; ADMIN_RDY clears (R128). -/
def execAdminRingDrained (s : State) : Answer :=
  .next (if s.host.admin.draining && (ringCmds s 0).isEmpty then adminGone s else s)

/-! ### Function-level reset (R142 to R149, R81 to R87, R106) -/




/-- Everything that waits on command `id` forgets it; an uncommitted Lull entry is undone with its command. -/
def forgetCmd (s : State) (id : Nat) : State :=
  let s := match s.pmu.lull with
    | some e => if e.cmd = id ∧ e.phase < 2 then undoLull s { e with cmd := noCmd } 0 0x46
                else if e.cmd = id then { s with pmu.lull := some { e with cmd := noCmd } } else s
    | none => s
  let s := match cmdOf s id with
    | some c => if c.opcode = 0x1D ∧ c.prog = Prog.waiting 0 then
        updXp s (c.fld 0x10 1) fun x => { x with calibrating := false, motion := .stopped } else s
    | none => s
  { s with
    pmu.upd := s.pmu.upd.map fun u => if u.cmd = id then { u with cmd := noCmd } else u,
    pmu.flashOp := s.pmu.flashOp.map fun o => if o.cmd = id then { o with cmd := noCmd } else o,
    tbu.atPps := s.tbu.atPps.filter fun p => p.1 != id,
    svc := Tbl.del s.svc id,
    xp := Tbl.mapVal s.xp fun _ x => { x with cmTry := x.cmTry.filter fun p => p.2.2 != id } }

/-- The ring number of a command as the log shows it. -/
def shownRing (c : Cmd) : Nat := if c.ring == doomed0 then 0 else c.ring

/-- One entry of the FLR log (Table 4-18, R216). -/
def flrLogOne (fn seq : Nat) (s : State) (c : Cmd) : State :=
  if s.rings.flrLog.length < 32768 then
    { s with rings.flrLog := s.rings.flrLog ++ [{
        fn := fn, opcode := c.opcode, cid := c.cid, ring := shownRing c, ctx := if namesCtx c.opcode then c.ctx else 0,
        acked := c.acked, flrSeq := seq, firstSeq := if c.acked = 0 then 0 else c.firstSeq }] }
  else { s with rings.flrDropped := satAdd 32 s.rings.flrDropped 1 }

/-- Aborts one command of the function: logged, its unacknowledged records discarded, what it held released. -/
def flrAbortOne (fn seq : Nat) (s : State) (c : Cmd) : State :=
  let s := flrLogOne fn seq s c
  let s := dropRecords s c
  let s := freeSlot s c.id
  forgetCmd s c.id

/-- The entries of context `k` that wait in lookahead slots are lost: the context leaves ACTIVE (R103). -/
def loseLooks (s : State) (k : Nat) : State :=
  { s with rings.tbl := Tbl.mapVal s.rings.tbl fun n r => { r with
      look := r.look.map fun l =>
        let op := fieldOf l.entry 0 1
        if namesCtx op && !(0x08 ≤ op && op ≤ 0x0B && n == 0) && fieldOf l.entry 4 2 % 4096 == k then { l with lost := true }
        else l } }

/-- The streams of a context close once their acknowledged records are flushed (R83): `settle` removes them then. -/
def dyingStreams (s : State) (k : Nat) : State :=
  let l := s.strm.filter fun p => p.2.ctx == k
  let s := { s with strm := Tbl.mapVal s.strm fun _ st => if st.ctx == k then { st with closing := true, dying := true } else st }
  l.foldl (fun s p => if !p.2.read && endsOpen s p.2 then openWindow s p.2.xp else s) s

/-- An ACTIVE context of the function becomes ORPHANED, with the count of its aborted commands (R81, R83, R87, R103). The commands
0x08 to 0x0B, which name a context but do not work for it, are not counted: R876 says so of IN_FLIGHT and leaves ORPHAN_ABORTS
open (log entry 132). -/
def orphanOne (cs : List Cmd) (s : State) (k : Nat) : State :=
  let n := (cs.filter fun c => namesCtx c.opcode && c.ctx == k && !(0x08 ≤ c.opcode && c.opcode ≤ 0x0B)).length
  let s := updCtx s k fun x => { x with st := .orphaned, orphanAborts := n }
  let s := dyingStreams (loseLooks s k) k
  raise s evOrphaned subjCtx k n

/-- The steps of Table 3-9 that CC0, CC1 and CC3 carry out for function `fn`. -/
def flrSteps (s : State) (fn : Nat) : State :=
  let rs := (s.rings.tbl.filter fun p => p.2.owner == fn && !(p.1 == 0 && Tbl.has s.rings.tbl doomed0)).map (·.1)
  let cs := s.rings.cmds.filter fun c => !c.mailbox && rs.elem c.ring
  let seq := s.rings.flrCount + 1
  let s := { s with rings.flrCount := seq }
  let s := cs.foldl (flrAbortOne fn seq) s
  let gone := cs.map (·.id)
  let s := { s with
    rings.cmds := s.rings.cmds.filter fun c => !gone.elem c.id,
    rings.resv := Tbl.keep s.rings.resv fun n _ => !(cs.any fun c => c.prog == Prog.tagWait n) }
  let s := ((s.ten.ctx.filter fun p => p.2.st == .active && p.2.d.ownerFn == fn).map (·.1)).foldl (orphanOne cs) s
  -- R106: a DELETE_CONTEXT that the FLR aborts completes; its context becomes FREE.
  let dels := (cs.filter fun c => c.opcode == 0x0A && (ctxOf s c.ctx).elim false (·.st == .deleting)).map (·.ctx)
  let s := dels.foldl (fun s k => let s := dropStreams s (·.ctx == k); { s with ten.ctx := Tbl.del s.ten.ctx k }) s
  let s := dropStreams s fun st => rs.elem st.ring && !st.dying
  let s := rs.foldl removeRing s
  -- R222: a DELETE_RING that runs on a ring deleted by the FLR completes with OK.
  let s := (s.rings.cmds.filter fun c => match c.prog with
    | .ringDrain n _ => rs.elem n && c.done.isNone
    | _ => false).foldl (fun s c => fixDone s c.id (Compl.ok 0 0)) s
  settle (raise s evFlr subjFn fn 0)

/-- A CREATE_RING that waits for pool tags for the function gives up its reservations and completes with CONTEXT_STATE (R870). -/
def dropTagWaits (s : State) (fn : Nat) : State :=
  let l := s.rings.cmds.filter fun c => c.done.isNone && c.fld 0x20 1 == fn && (match c.prog with
    | .tagWait _ => true
    | _ => false)
  let s := { s with rings.resv := Tbl.keep s.rings.resv fun n _ => !(l.any fun c => c.prog == Prog.tagWait n) }
  postAll (l.foldl (fun s c => fixDone s c.id (Compl.of 4)) s)

/-- Messages of the function that a holdoff has merged are not sent (R142, R156). -/
def dropMerged (s : State) (fn : Nat) : State :=
  { s with rings.holdoff := Tbl.mapVal s.rings.holdoff fun _ p => (p.1, p.2.filter fun t => t.1 != fn) }

/-- Starts the FLR of one function; in a Lull state the steps of the control cores wait for Run (R146, R148). -/
def flrOne (s : State) (fn : Nat) : State :=
  if inFlr s fn then s
  else
    let s := dropTagWaits (dropMerged (setFn s fn { FnState.reset with flr := true }) fn) fn
    let s := { s with rings.tbl := Tbl.mapVal s.rings.tbl fun _ r => if r.owner = fn then { r with look := none } else r }
    if s.pmu.lull.elim false (fun e => decide (3 ≤ e.phase)) then { s with host.flrOwed := setIns s.host.flrOwed fn }
    else flrSteps s fn

/-- Numbers of the VFs that VF Enable enables. -/
def vfList (s : State) : List Nat := if s.host.vfEn then (List.range s.host.vfCount).map (· + 1) else []

/-- Removes every VF: each undergoes an FLR (R139). -/
def removeVfs (s : State) : State :=
  let l := vfList s
  let s := { s with host.vfEn := false, host.vfCount := 0 }
  l.foldl flrOne s

/-- Starts the FLR of a function; the PF's includes every VF, ring 0 and the ACE channels that use the host (R144, R621). -/
def flrStart (s : State) (fn : Nat) : State :=
  if inFlr s fn then s
  else if fn = 0 then
    let s := flrOne (removeVfs s) 0
    aceHostReset { s with host := { s.host with
      admin := AdminRegs.reset, memEn := false, vfMse := false, numVfs := 0, ari := false, pasidEn := false } }
  else flrOne s fn

/-- FLR_INITIATE: a configuration write to Initiate Function Level Reset (R142, R146). In Lull-2 HIU carries out its own steps at
once, and the write wakes the formatter (R148, Table 15-6). -/
def execFlrInitiate (fn : Nat) (s : State) : Answer :=
  .next (if deepLull s && linkOn s && fnEnabled s fn && !s.host.crs then wake (flrStart s fn) 2
    else cfgDo s fn (flrStart s fn))

/-- FLR_COMPLETE: the function's registers are at reset values and its configuration requests complete (Table 3-9). -/
def execFlrComplete (fn : Nat) (s : State) : Answer :=
  .next (if inFlr s fn then { s with host.fns := Tbl.del s.host.fns fn } else s)

/-- VF_ENABLE_SET: enables NumVFs VFs, at most 255, and 1..7 without ARI (R113, R874). -/
def execVfEnableSet (s : State) : Answer :=
  .next (cfgDo s 0 (if s.host.vfEn then s
    else
      let n := min s.host.numVfs 255
      let n := if s.host.ari then n else min n 7
      let s' := { s with host.vfEn := true, host.vfCount := n }
      if n < s.host.numVfs then raise s' evVfLimit subjNone 0 0 else s'))

/-- VF_ENABLE_CLEAR: every VF is removed (R139). -/
def execVfEnableClear (s : State) : Answer := .next (cfgDo s 0 (removeVfs s))

/-! ### Bus Master Enable and the link (R137, R138, R140, R151) -/

/-- Does the command still need host data access (R138)? A DOMAIN_JOIN that leaves the domain needs none (Table 7-8). -/
def needsHost (c : Cmd) : Bool :=
  let op := c.opcode
  let reads := op == 0x08 || op == 0x09 || op == 0x10 || (op == 0x12 && !bitOf (c.fld 0x18 1) 0) || op == 0x1A ||
    op == 0x1B || op == 0x25
  (reads && (c.prog == .fresh || c.prog == .ordered)) ||
  op == 0x01 || op == 0x05 || op == 0x0B || op == 0x13 || op == 0x14 || op == 0x18 || op == 0x1C || op == 0x2B ||
  op == 0x41 || op == 0x42 || op == 0x48 || op == 0x4A || op == 0x4B || (0x80 ≤ op && op ≤ 0x82) || op == 0x84

/-- Ends one command with HOST_ACCESS_ERROR: its job and its retries stop, and records that are not acknowledged are discarded (R138). -/
def hostLostOne (s : State) (c : Cmd) : State :=
  let s := (Tbl.get? s.svc c.id).elim s fun j => if j.stopBy = 0 then s else uncount s j.stopFor
  let s := { s with
    svc := Tbl.del s.svc c.id,
    xp := Tbl.mapVal s.xp fun _ x => { x with cmTry := x.cmTry.filter fun p => p.2.2 != c.id } }
  fixDone (dropRecords s c) c.id { Compl.of 7 with result := partResult c }

/-- The commands of a function that still need the host end (R138). -/
def hostLost (s : State) (fn : Nat) : State :=
  (s.rings.cmds.filter fun c => !c.mailbox && cmdFn s c == fn && c.done.isNone && needsHost c).foldl hostLostOne s

/-- PASID Enable clears: the commands whose host accesses carry a PASID, and that still need some, end (R116). -/
def pasidLost (s : State) : State :=
  settle ((s.rings.cmds.filter fun c => !c.mailbox && (cmdPasid s c).isSome && c.done.isNone && needsHost c).foldl hostLostOne s)

/-- BUS_MASTER_DISABLE: Bus Master Enable clears, or the function enters D3hot (R137, R138, R140). -/
def execBusMasterDisable (fn : Nat) (d3 : Bool) (s : State) : Answer :=
  let f := fnOf s fn
  let s' := setFn s fn (if d3 then { f with d3hot := true } else { f with bme := false })
  .next (cfgDo s fn (if busMaster s fn then settle (hostLost s' fn) else s'))

/-- Requests may be issued again: deferred completions post and pending messages are sent (R137, R138, R151). -/
def hostBack (s : State) : State :=
  let s := postAll s
  ((s.host.fns).map (·.1)).foldl flushPba s

/-- BUS_MASTER_ENABLE: Bus Master Enable sets, or the function returns to D0 (R137, R138, R140). -/
def execBusMasterEnable (fn : Nat) (d0 : Bool) (s : State) : Answer :=
  let f := fnOf s fn
  .next (cfgDo s fn (hostBack (setFn s fn (if d0 then { f with d3hot := false } else { f with bme := true }))))

/-- MSIX_UNMASK: clears a vector's mask bit, or the Function Mask; pending messages are sent once (R136). -/
def execMsixUnmask (fn : Nat) (vec : Option Nat) (s : State) : Answer :=
  match vec with
  | some v =>
    let f := fnOf s fn
    .next (if v < vectorCount fn then
        whenReached s fn (flushPba (setFn s fn { f with msix := Tbl.put f.msix v { vecOf f v with masked := false } }) fn)
      else s)
  | none => .next (cfgDo s fn (flushPba (setFn s fn { fnOf s fn with fnMask := false }) fn))

/-- HOLDOFF_END: one merged message to each vector addressed; a route that sends again holds off again (R792). -/
def execHoldoffEnd (dt e : Nat) (s : State) : Answer :=
  let s := advance s dt
  match Tbl.get? s.rings.holdoff e with
  | some (till, l) =>
    if till ≤ now s then
      let hold := (routeOf s e).holdUs
      let h := if l.isEmpty || hold == 0 then Tbl.del s.rings.holdoff e
        else Tbl.put s.rings.holdoff e (now s + hold * usTicks, [])
      let s := { s with rings.holdoff := h }
      .next (l.foldl (fun s t => sendMsix s t.1 t.2) s)
    else .next s
  | none => .next s

/-! ### PERST_N, the retry window and the link -/

/-- The strap PCIE_HOLD (R861). -/
def pcieHold (s : State) : Bool := bitOf s.smp.straps.toNat 1

/-- FW_READY sets, when firmware runs and the steps of R120 are complete; the doorbells stored until then take effect (R119, R873). -/
def fwUp (s : State) : State :=
  if s.pmu.booted && s.host.perst && s.host.flrOwed.isEmpty && !deepLull s && s.pmu.ps != .off then
    applyAll { s with host.fwReady := true, host.crs := false } else s

/-- The host side of the formatter returns to its reset values: configuration space, function registers, doorbells,
MSI-X tables, the event router, and the ACE channels that use the host (R120, R794, R621). -/
def hostSideReset (s : State) : State :=
  let s := { s with
    host := { s.host with
      dlActive := false, training := false, crs := false, fwReady := false, memEn := false, vfEn := false, vfMse := false,
      numVfs := 0, ari := false, pasidEn := false, vfCount := 0, admin := AdminRegs.reset, fns := [] },
    rings.holdoff := [],
    evr := { Evr.reset with log := s.evr.log, logSeq := s.evr.logSeq, overwritten := s.evr.overwritten },
    rings.tbl := Tbl.mapVal s.rings.tbl fun _ r => { r with look := none } }
  aceHostReset s

/-- PERST_FALL: the host side resets; the FLR steps run for every function, in Lull-2 and Lull-3 at the next entry to
Run (R120, R741, R778). -/
def execPerstFall (s : State) : Answer :=
  if s.host.perst ∧ s.host.sysRst then
    let l := 0 :: vfList s
    let s := hostSideReset { s with host.perst := false, host.wakeN := false }
    .next (if deepLull s then { s with host.flrOwed := l.foldl setIns s.host.flrOwed } else l.foldl flrSteps s)
  else .next s

/-- Link training may start: PERST_N high, not held in Detect, host interface powered (R778, R861). -/
def canTrain (s : State) : Bool := s.host.sysRst && s.host.perst && !pcieHold s && !deepLull s && s.pmu.ps != .off

/-- Opens the retry window and starts link training (R117, R118). With strap PCIE_HOLD the link stays in Detect, so DL_Active, from
which R873 counts, does not come: FW_READY then sets at once (log entry 133). -/
def openWindow900 (s : State) : State :=
  if canTrain s then
    { s with host.training := true, host.crs := !s.host.fwReady, host.crsEnd := now s + 900 * msTicks }
  else if pcieHold s then fwUp s
  else s

/-- PERST_RISE: link training and the retry window start; a wake source (R118, R778, R854, Table 15-6). -/
def execPerstRise (s : State) : Answer :=
  if !s.host.perst ∧ s.host.sysRst then
    .next (wake (openWindow900 { s with host.perst := true }) 3)
  else .next s

/-- CRS_WINDOW_END: 900 ms have passed; configuration requests complete normally (R118, R873). -/
def execCrsWindowEnd (dt : Nat) (s : State) : Answer :=
  let s := advance s dt
  .next (if s.host.crs ∧ s.host.crsEnd ≤ now s then fwUp { s with host.crs := false } else s)

/-- LINK_UP: the link reaches DL_Active; deferred completions resume, FW_READY sets again, WAKE_N releases (R151, R873, R741). -/
def execLinkUp (s : State) : Answer :=
  if canTrain s ∧ !s.host.dlActive then
    .next (hostBack (fwUp { s with host.dlActive := true, host.training := false, host.wakeN := false }))
  else .next s

/-- The status bit of a fatal link error in the AER registers. -/
def FatalErr.code (e : FatalErr) : Nat :=
  match e with
  | .malformedTlp => 18
  | .flowControl => 13
  | .dataLink => 4
  | .receiverOverflow => 17
  | .uncorrectableInternal => 22

/-- LINK_DOWN: R138 applies to every function; after a fatal error training starts again at once (R150, R151). -/
def execLinkDown (err : Option FatalErr) (s : State) : Answer :=
  if s.host.dlActive then
    let s := match err with
      | some e => logUnc s 0 (FatalErr.code e)
      | none => s
    let fns := (0 :: vfList s).filter (busMaster s)
    let s := { s with host.dlActive := false, host.training := err.isSome }
    .next (settle (fns.foldl hostLost s))
  else .next s

end Sys2Proof.Machine
end

