-- ==== Sys2Proof/Machine/Contexts.lean ====
section
/-! DEFINITION. Contexts: descriptors, CREATE_CONTEXT, MODIFY_CONTEXT, DELETE_CONTEXT and GET_CONTEXT_STATUS
(R88 to R106). -/

namespace Sys2Proof.Machine

/-! ### Descriptors (Table 2-1) -/

/-- The descriptor that 128 bytes spell. -/
def readDesc (b : BitVec 1024) : Desc :=
  let f := fieldOf b
  { ownerFn := f 0 1, weight := f 1 1, rate := f 2 2, gust := f 4 2, staging := f 6 2, pasid := f 8 4 % 2 ^ 20,
    pasidEn := bitOf (f 8 4) 31, keySlot := f 0xC 2 % 4096, keySlotEn := bitOf (f 0xC 2) 15, cipher := f 0xE 1,
    flags := f 0xF 1 % 16, tag := f 0x10 8, wrMask := f 0x18 8, rdMask := f 0x20 8, volQuota := f 0x28 4,
    maxStreams := f 0x2C 1, maxLabel := f 0x2D 1, xpMask := f 0x2E 2 % 16 }

/-- FLAGS of a descriptor: COMPRESS_EN, HISTORY, CHECKBACK, SESSION_OK. -/
def Desc.compressEn (d : Desc) : Bool := bitOf d.flags 0
def Desc.history (d : Desc) : Bool := bitOf d.flags 1
def Desc.checkback (d : Desc) : Bool := bitOf d.flags 2
def Desc.sessionOk (d : Desc) : Bool := bitOf d.flags 3

/-- Is field bit `i` of FIELD_MASK set? -/
def sel (mask i : Nat) : Bool := bitOf mask i

/-- The reserved bits of the selected fields and of bytes 0x30..0x7F are zero (R12). -/
def descReservedOk (b : BitVec 1024) (mask : Nat) : Bool :=
  let f := fieldOf b
  (!sel mask 5 || bitsOf (f 8 4) 20 11 == 0) && (!sel mask 6 || bitsOf (f 0xC 2) 12 3 == 0) &&
  (!sel mask 7 || bitsOf (f 0xF 1) 4 4 == 0) && (!sel mask 15 || bitsOf (f 0x2E 2) 4 12 == 0) && f 0x30 80 == 0

/-- The descriptor with the selected fields taken from `n` (Table 2-3, in FIELD_MASK order). -/
def mergeDesc (o n : Desc) (mask : Nat) : Desc :=
  { ownerFn := if sel mask 0 then n.ownerFn else o.ownerFn,
    weight := if sel mask 1 then n.weight else o.weight,
    rate := if sel mask 2 then n.rate else o.rate,
    gust := if sel mask 3 then n.gust else o.gust,
    staging := if sel mask 4 then n.staging else o.staging,
    pasid := if sel mask 5 then n.pasid else o.pasid,
    pasidEn := if sel mask 5 then n.pasidEn else o.pasidEn,
    keySlot := if sel mask 6 then n.keySlot else o.keySlot,
    keySlotEn := if sel mask 6 then n.keySlotEn else o.keySlotEn,
    cipher := if sel mask 6 then n.cipher else o.cipher,
    flags := if sel mask 7 then n.flags else o.flags,
    tag := if sel mask 8 then n.tag else o.tag,
    wrMask := if sel mask 9 then n.wrMask else o.wrMask,
    rdMask := if sel mask 10 then n.rdMask else o.rdMask,
    volQuota := if sel mask 11 then n.volQuota else o.volQuota,
    maxStreams := if sel mask 13 then n.maxStreams else o.maxStreams,
    maxLabel := if sel mask 14 then n.maxLabel else o.maxLabel,
    xpMask := if sel mask 15 then n.xpMask else o.xpMask }

/-- Contexts other than `k`. -/
def otherCtx (s : State) (k : Nat) : Tbl Ctx := Tbl.keep s.ten.ctx fun n _ => n != k

/-- The descriptor's values are valid for context `k` (R45, R47, R53, R88, R105). -/
def descOk (s : State) (k : Nat) (d : Desc) (naming : Bool) : Bool :=
  (!naming || fnEnabled s d.ownerFn) && decide (1 ≤ d.weight ∧ d.weight ≤ 255) && decide (1 ≤ d.gust ∧ d.gust ≤ 4096) &&
  decide (1 ≤ d.staging ∧ d.staging ≤ 4096) && decide (d.cipher ≤ 2) && (d.cipher == 0 || d.keySlotEn || d.sessionOk) &&
  d.tag != 0 && !((otherCtx s k).any fun p => p.2.d.tag == d.tag) &&
  decide (1 ≤ d.maxStreams ∧ d.maxStreams ≤ 64) && decide (d.maxLabel ≤ 224) &&
  (!d.keySlotEn || !((otherCtx s k).any fun p => p.2.d.keySlotEn && p.2.d.keySlot == d.keySlot)) &&
  decide (sumOf ((otherCtx s k).map fun p => p.2.d.staging) + d.staging ≤ stagingMib s)

/-- A context as it becomes ACTIVE: bucket full, CLEAR, nothing used (R68, R91). -/
def Ctx.fresh (d : Desc) : Ctx :=
  { st := .active, d := d, bucket := d.gust * 1048576, fin := 0, staged := 0, volUsed := 0, hwUs := 0, hwCount := 0,
    orphanAborts := 0, doms := [] }

/-! ### Streams and commands in flight of a context -/

/-- The commands in flight of a context (R876). One whose completion is fixed and held back from posting counts as completed: R167
gives that meaning for its own purpose, and R876 says nothing of it (log entry 134). -/
def inFlight (s : State) (k : Nat) : List Cmd :=
  s.rings.cmds.filter fun c => namesCtx c.opcode && c.ctx == k && !(0x08 ≤ c.opcode && c.opcode ≤ 0x0B) && c.done.isNone

/-- The open streams of a context. -/
def ctxStreams (s : State) (k : Nat) : Tbl Stream := Tbl.keep s.strm fun _ st => st.ctx == k

/-- A mask bit that the new descriptor withdraws is in use by an open stream (R95). -/
def withdraws (s : State) (k : Nat) (o n : Desc) : Bool :=
  (ctxStreams s k).any fun p =>
    (bitOf o.xpMask p.2.xp && !bitOf n.xpMask p.2.xp) ||
    (if p.2.read then bitOf o.rdMask p.2.part && !bitOf n.rdMask p.2.part
     else bitOf o.wrMask p.2.part && !bitOf n.wrMask p.2.part)

/-- Does FIELD_MASK select OWNER_FN, PASID, KEY_SLOT and CIPHER, or TENANT_TAG (R95)? -/
def identityMask (mask : Nat) : Bool := sel mask 0 || sel mask 5 || sel mask 6 || sel mask 8

/-! ### Commands -/

/-- CREATE_CONTEXT (R91, R104, R105). A descriptor that is wrong gives INVALID_FIELD also while an FLR of the function it names is in
progress: no rule orders the two (log entry 135). -/
def execCreateContext (id : Nat) (desc : BitVec 1024) (s : State) : Answer :=
  .next (withCmd s id 0x08 fun c =>
    if (ctxOf s c.ctx).isSome then complete s id (Compl.of 4)
    else if !dataOk s c then complete s id (Compl.of 7)
    else
      let s := cmdRead s c (c.fld 0x10 8) 128
      let b := cmdBlock s c (c.fld 0x10 8) desc
      let d := readDesc b
      if !descReservedOk b 0xFFFF || !descOk s c.ctx d true then complete s id (Compl.field 0xFF)
      else if inFlr s d.ownerFn then complete s id (Compl.of 4)
      else complete { s with ten.ctx := Tbl.put s.ten.ctx c.ctx (Ctx.fresh d) } id (Compl.ok 0 0))

/-- A context after MODIFY_CONTEXT: the bucket is clipped to a lower gust, VOLUME_RESET zeroes the volume, and an
ORPHANED context given an owner becomes ACTIVE with a full bucket (R68, R86, R93, R94). -/
def modified (x : Ctx) (d : Desc) (mask : Nat) : Ctx :=
  let wakes := x.st == .orphaned && sel mask 0
  { x with
    d := d,
    st := if wakes then .active else x.st,
    bucket := if wakes then d.gust * 1048576
      else if d.gust < x.d.gust then min x.bucket (d.gust * 1048576) else x.bucket,
    volUsed := if sel mask 12 then 0 else x.volUsed }

/-- MODIFY_CONTEXT (R86, R92 to R95, R103 to R105). On a FREE or DELETING context, which no rule names, it completes with CONTEXT_STATE,
the status that Table 4-7 has for it (log entry 136). A lookahead entry of the old owner is lost, as when the context leaves
ACTIVE. -/
def execModifyContext (id : Nat) (desc : BitVec 1024) (s : State) : Answer :=
  .next (withCmd s id 0x09 fun c =>
    match ctxOf s c.ctx with
    | none => complete s id (Compl.of 4)
    | some x =>
      let mask := c.fld 0x18 4
      if x.st = .deleting then complete s id (Compl.of 4)
      else if !dataOk s c then complete s id (Compl.of 7)
      else
        let s := cmdRead s c (c.fld 0x10 8) 128
        let b := cmdBlock s c (c.fld 0x10 8) desc
        let d := mergeDesc x.d (readDesc b) mask
        if !descReservedOk b mask || !descOk s c.ctx d (sel mask 0) then complete s id (Compl.field 0xFF)
        else if sel mask 0 && inFlr s d.ownerFn then complete s id (Compl.of 4)
        else if (identityMask mask || withdraws s c.ctx x.d d) &&
            (!(ctxStreams s c.ctx).isEmpty || !(inFlight s c.ctx).isEmpty) then complete s id (Compl.of 4)
        else
          let s' := updCtx s c.ctx fun x => modified x d mask
          let s' := if x.d.ownerFn = d.ownerFn then s' else loseLooks s' c.ctx
          complete (countHw s s' c.ctx) id (Compl.ok 0 0))

/-- DELETE_CONTEXT starts: DELETING, its lookahead entries are lost, and with FORCE every command in flight is aborted (R96 to R98,
R103). -/
def startDelete (s : State) (c : Cmd) : State :=
  let l := inFlight s c.ctx
  let s := loseLooks (updCtx s c.ctx fun x => { x with st := .deleting }) c.ctx
  let s := l.foldl (abortOne 0x47 c.id) s
  postAll (setProg s c.id (.waiting l.length))

/-- DELETE_CONTEXT continues: once nothing is in flight, the acknowledged records are flushed, the streams close and
the context becomes FREE (R97 to R99). -/
def continueDelete (s : State) (c : Cmd) (n : Nat) : State :=
  let k := c.ctx
  if !(inFlight s k).isEmpty then s
  else
    let wr := (ctxStreams s k).filter fun p => !p.2.read && endsOpen s p.2
    if !wr.isEmpty then wr.foldl (fun s p => openWindow s p.2.xp) s
    else
      let s := dropStreams s fun st => st.ctx == k
      complete { s with ten.ctx := Tbl.del s.ten.ctx k } c.id (Compl.ok n 0)

/-- DELETE_CONTEXT (R96 to R99). On a FREE or DELETING context it completes with CONTEXT_STATE (log entry 136). -/
def execDeleteContext (id : Nat) (s : State) : Answer :=
  .next (withCmdW s id 0x0A fun c =>
    match c.prog with
    | .waiting n => continueDelete s c n
    | _ =>
      match ctxOf s c.ctx with
      | none => complete s id (Compl.of 4)
      | some x =>
        if x.st = .deleting then complete s id (Compl.of 4)
        else if !bitOf (c.fld 0x10 4) 0 && (!(ctxStreams s c.ctx).isEmpty || !(inFlight s c.ctx).isEmpty) then
          complete s id (Compl.of 4)
        else
          let s := startDelete s c
          match cmdOf s id with
          | some c' => match c'.prog with
            | .waiting n => continueDelete s c' n
            | _ => s
          | none => s)

/-- Numeric code of a context state (Table 2-2). -/
def ctxCode (s : State) (k : Nat) : Nat :=
  match ctxOf s k with
  | none => 0
  | some x => match x.st with
    | .active => 1
    | .orphaned => 2
    | .deleting => 3

/-- Inserts a number into a rising list. -/
def insertUp (k : Nat) (l : List Nat) : List Nat :=
  match l with
  | [] => [k]
  | j :: r => if k ≤ j then k :: j :: r else j :: insertUp k r

/-- The 99.9th percentile of a list of latencies (R77). -/
def p999 (l : List Nat) : Nat :=
  let a := l.foldr insertUp []
  (a[(l.length * 999 + 999) / 1000 - 1]?).getD 0

/-- HW_REASON as published: that of HEADWIND (R69), or STAGING while the staged bytes are not below a lowered quota (R101). -/
def shownReason (s : State) (k : Nat) (x : Ctx) : Nat :=
  if hwState s k == 1 then hwReason s k else if x.d.staging * 1048576 ≤ x.staged then 4 else 0

/-- The context status page (Table 2-2); a context not backlogged in a domain, or only on a throttled transport, has
no guarantee there (R109). -/
def ctxPage (s : State) (k : Nat) : Bytes :=
  match ctxOf s k with
  | none => pageOf 256 ((List.range 5).map fun d => (0x4C + 16 * d, 4, 0xFFFFFFFF))
  | some x =>
    pageOf 256 ([(0, 1, ctxCode s k), (1, 1, hwState s k), (2, 1, shownReason s k x),
      (3, 1, (ctxStreams s k).length), (4, 4, (inFlight s k).length), (8, 8, twos 64 x.bucket), (0x10, 8, x.staged),
      (0x18, 8, x.volUsed), (0x20, 8, x.hwUs), (0x28, 4, x.hwCount), (0x2C, 4, x.orphanAborts)] ++
      ((List.range 5).map fun d =>
        let m := (Tbl.get? x.doms d).getD CtxDom.zero
        let on := backlogged s k d && !((xpOf s d).elim false (·.throttled))
        let adm := sumOf ((m.admits.filter fun a => decide (now s < a.1 + secTicks)).map (·.2))
        [(0x40 + 16 * d, 4, if on then m.guar else 0), (0x44 + 16 * d, 4, adm / 1000), (0x48 + 16 * d, 4, p999 m.lats),
         (0x4C + 16 * d, 4, if on then m.bound else 0xFFFFFFFF)]).flatten)

/-- GET_CONTEXT_STATUS: writes the status page (R43, R89, R100). -/
def execGetContextStatus (id : Nat) (s : State) : Answer :=
  .next (withCmd s id 0x0B fun c =>
    answer s c 0x10 (ctxPage s c.ctx) (Compl.ok (ctxCode s c.ctx + 256 * hwState s c.ctx) 0))

end Sys2Proof.Machine
end

