-- ==== Sys2Proof/Machine/Faults.lean ====
section
/-! DEFINITION. Faults and the doldrums watchdog: SET_WATCHDOG, GET_FAULT_LOG, RETIRE_BUFFER_PAGE, LANE_DISABLE and
the 10 ms examination (R800 to R821). -/

namespace Sys2Proof.Machine

/-! ### Fault commands -/

/-- SET_WATCHDOG: the new period, 0 meaning 2,000 ms; RESULT is the previous one (R814). -/
def execSetWatchdog (id : Nat) (s : State) : Answer :=
  .next (withCmd s id 0x2A fun c =>
    let p := c.fld 0x10 4
    complete { s with flt.period := if p = 0 then 2000 else p } id (Compl.ok s.flt.period 0))

/-- A fault log entry's 64 bytes (Table 16-5). -/
def fltEntry (e : FltLog) : Bytes :=
  pageOf 64 [(0, 4, e.seq), (4, 1, e.cls), (5, 1, e.status), (6, 2, e.event), (8, 4, e.ns), (0xC, 2, e.tries),
    (0xE, 1, e.flags), (0x10, 8, e.sec), (0x18, 2, e.ctx), (0x1A, 1, e.xp), (0x1B, 1, e.lane), (0x1C, 2, e.ring),
    (0x1E, 2, e.cid), (0x20, 8, e.ds), (0x28, 8, e.recSeq), (0x30, 8, e.buf), (0x38, 8, e.detail)]

/-- The entries that GET_FAULT_LOG writes: in SEQ order, from the oldest held one whose SEQ is at least `from_` (R815). -/
def fltPick (s : State) (from_ n : Nat) : List FltLog :=
  ((s.flt.log.filter fun e => decide (from_ ≤ e.seq)).reverse).take n

/-- GET_FAULT_LOG: header, entries, MORE and CONSUME (R815, R821). -/
def execGetFaultLog (id : Nat) (s : State) : Answer :=
  .next (withCmd s id 0x2B fun c =>
    let l := fltPick s (c.fld 0x18 4) (c.fld 0x1C 2)
    let oldest := (s.flt.log.getLast?).elim 0 (·.seq)
    let next := (l.getLast?).elim s.flt.next fun e => e.seq + 1
    let b := pageOf 64 [(0, 4, l.length), (4, 4, oldest), (8, 4, next), (0xC, 4, s.flt.overwritten)] ++
      (l.map fltEntry).flatten
    let k := { Compl.ok l.length next with more := s.flt.log.any fun e => decide (next ≤ e.seq) }
    if !dataOk s c then complete s id (Compl.of 7)
    else
      let seqs := l.map (·.seq)
      let s := if bitOf (c.fld 0x1E 1) 0 then { s with flt.log := s.flt.log.filter fun e => !seqs.elem e.seq } else s
      answer s c 0x10 b k)

/-- Remaps a page to a new spare (R800, R802). -/
def retirePage (s : State) (page : Nat) : State :=
  let f := s.pmu.flash
  let s := { s with pmu.flash := { f with retired := Tbl.put f.retired page f.spareUsed, spareUsed := f.spareUsed + 1 } }
  raise s evPageRetired subjNone 0 (page * 65536)

/-- The bursts that the copy of a page corrects, and those that it passes on poisoned (R423, R800). -/
def noteCopy (s : State) (k : Seen) : State := noteSeen s { k with good := true, corr := 0, pois := false } 0 subjNone 0

/-- RETIRE_BUFFER_PAGE: the page's contents are copied to a new spare, which stands for it from now on (R800, R802, R816). -/
def execRetireBufferPage (id : Nat) (copy : Seen) (s : State) : Answer :=
  .next (withCmd s id 0x2C fun c =>
    let addr := c.fld 0x10 8
    let query := bitOf (c.fld 0x18 1) 0
    let spare := bitOf (c.fld 0x18 1) 1
    let page := addr / 65536
    let held := Tbl.has s.pmu.flash.retired page
    let report (s : State) : Compl := Compl.ok (1024 - s.pmu.flash.spareUsed) s.pmu.flash.spareUsed
    if s.pmu.bufBytes ≤ addr then complete s id (Compl.field 0x10)
    else if query then complete s id (report s)
    else if spare && !held then complete s id (Compl.field 0x18)
    else if !spare && held then complete s id (report s)
    else if 1024 ≤ s.pmu.flash.spareUsed then complete s id { Compl.field 0x10 with result2 := 2 }
    else
      let s := retirePage (noteCopy s copy) page
      complete s id (report s))

/-- Lanes of transport `t` that are disabled once waiting changes have taken effect: the calibration record's list (R801). -/
def disabledOf (s : State) (t : Nat) : List Nat := s.pmu.flash.disabled.filter fun l => l / 32 == t

/-- LANE_DISABLE: recorded at once, in force from the transport's next dataset boundary (R803, R804, R816, R820). -/
def execLaneDisable (id : Nat) (s : State) : Answer :=
  .next (withCmd s id 0x2D fun c =>
    let lane := c.fld 0x10 1
    let t := lane / 32
    let off := c.fld 0x11 1 == 0
    if off && !s.pmu.flash.disabled.elem lane && decide (3 ≤ (disabledOf s t).length) then
      complete s id (Compl.field 0x10)
    else
      let l := if off then setIns s.pmu.flash.disabled lane else setDel s.pmu.flash.disabled lane
      let s := updXp { s with pmu.flash.disabled := l } t fun x => { x with lanesNext := x.lanesNext ++ [(lane, off)] }
      complete s id (Compl.ok (maskOf ((disabledOf s t).map (· % 32))) 0))

/-! ### The watchdog (R808 to R813) -/

/-- The transport of a command's stream. -/
def cmdXp (s : State) (c : Cmd) : Option Nat := (c.stream.bind (Tbl.get? s.strm)).map (·.xp)

/-- Does the command use the transport for reading? -/
def readsTape (c : Cmd) : Bool := c.opcode == 0x48 || c.opcode == 0x49 || c.opcode == 0x4A

/-- Engines of a class that may take work: those in RUN (R751). -/
def runEngines (s : State) (cls : Nat) : List Nat :=
  (List.range (engineCount cls)).filter fun i => (engOf s cls i).st == .run

/-- Service class of an opcode: compressor lanes for COMPRESS, else decompressor lanes. -/
def jobClass (s : State) (c : Cmd) : Nat :=
  if c.opcode == 0x80 then 0
  else if c.opcode == 0x82 then (if (Tbl.get? s.svc c.id).elim false (·.compress) then 0 else 1) else 1

/-- Does the command write records to the transport now: a WRITE or WRITE_BATCH that is being executed? -/
def writesTape (c : Cmd) : Bool :=
  match c.prog with
  | .writing _ _ _ => true
  | _ => false

/-- Is the transport's tape at the write position, or on its way there (R269 to R272)? -/
def atWrite (s : State) (t : Nat) : Bool := ((xpOf s t).bind (·.mount)).elim false fun m => m.wrPart.isSome && !m.away

/-- Has the command a record that waits for write assembly space? -/
def waitsSpace (s : State) (c : Cmd) (t : Nat) : Bool :=
  asmFull s t && writesTape c && c.recs.any fun r => r.idx == c.acked && r.stage == 3

/-- The commands that hold what command `c` waits for: the mount session of the transport that it is to read from, or whose write
assembly space a read keeps from draining, or an engine (R293, R808 to R810). -/
def holders (s : State) (c : Cmd) : List Cmd :=
  let on (t : Nat) (p : Cmd → Bool) : List Cmd := s.rings.cmds.filter fun k => p k && k.done.isNone && cmdXp s k == some t
  if c.done.isSome then []
  else match cmdXp s c with
    | some t =>
      if readsTape c then
        ((before s c.id).filter fun k => (readsTape k || (atWrite s t && writesTape k)) && k.done.isNone && cmdXp s k == some t)
      else if waitsSpace s c t && !atWrite s t then on t readsTape
      else []
    | none =>
      if (0x80 ≤ c.opcode && c.opcode ≤ 0x82) && c.prog == .fresh then
        let cls := jobClass s c
        let jobs := s.svc.filter fun p => p.2.compress == (cls == 0) && p.2.lane != noLane
        if (runEngines s cls).length ≤ jobs.length && !jobs.isEmpty then
          s.rings.cmds.filter fun k => jobs.any fun p => p.1 == k.id
        else []
      else []

/-- The waits that never count (R810). -/
def waitExcused (s : State) (c : Cmd) : Bool :=
  s.pmu.lull.isSome || s.host.updatePause || s.pmu.pfail || (!c.mailbox && !mayIssue s (cmdFn s c)) ||
  s.pmu.th.level == .writeStop ||
  ((cmdXp s c).bind (xpOf s)).elim false (fun x => x.throttled || x.calibrating) ||
  (s.pmu.engines.any fun p => p.2.st == .drain)

/-- The wait chain of a command: itself and every holder, through at most `fuel` links. -/
def chain (s : State) (front : List Cmd) (fuel : Nat) : List Cmd :=
  match fuel with
  | 0 => front
  | n + 1 =>
    let more := (front.map (holders s)).flatten.filter fun k => !front.any fun c => c.id == k.id
    match more with
    | [] => front
    | k :: _ => chain s (front ++ [k]) n

/-- Has the chain made no progress for PERIOD_MS? -/
def stalled (s : State) (l : List Cmd) : Bool :=
  !(l.any (waitExcused s)) && l.all fun c => decide (s.flt.period * msTicks ≤ now s - c.moved)

/-- Breaks one stalled chain: its youngest abortable command ends with DEADLOCK_BROKEN (R811, R812). -/
def breakChain (s : State) (l : List Cmd) : State :=
  let restart (s : State) : State := l.foldl (fun s c => updCmd s c.id fun c => { c with moved := now s }) s
  let s := { s with flt.fires := satAdd 32 s.flt.fires 1 }
  match (s.rings.cmds.filter fun c => l.any (·.id == c.id) && c.done.isNone && !pastLimit c && !abortedAlready s c).getLast? with
  | none =>
    restart (raise { s with flt.noVictim := satAdd 32 s.flt.noVictim 1 } evDoldrums subjNone 0 0)
  | some v =>
    let s := abortOne 0x44 noCmd s v
    let s := { s with flt.aborts := satAdd 32 s.flt.aborts 1 }
    let s := raise s evDoldrums subjRing v.ring 0
    -- Table 16-5 names no class for the watchdog's entry: a free value.
    let (i, s) := drawFree s
    let s := logFault s { FltLog.blank with
      cls := Config.freeValue i, status := 0x44, event := evDoldrums, ring := v.ring, cid := v.cid,
      ctx := if namesCtx v.opcode then v.ctx else 0xFFFF, tries := 1 }
    restart s

/-- Examines one waiting command. -/
def examineOne (s : State) (id : Nat) : State :=
  match cmdOf s id with
  | none => s
  | some c =>
    if (holders s c).isEmpty then s
    else
      let l := chain s [c] 256
      if stalled s l then breakChain s l else s

/-- WATCHDOG_EXAMINE: every 10 ms, stalled wait chains are broken (R810 to R813, R818). -/
def execWatchdogExamine (dt : Nat) (s : State) : Answer :=
  let s := advance s dt
  .next (postAll ((s.rings.cmds.map (·.id)).foldl examineOne s))

end Sys2Proof.Machine
end

