-- ==== Sys2Proof/Machine/Power.lean ====
section
/-! DEFINITION. Lull states, fabric gates, engine fencing, thermal levels and PFAIL_N (chapter 15). -/

namespace Sys2Proof.Machine

/-! ### Thermal levels (R755 to R762) -/

/-- Entry value of a level in 1/16 degree, as THERMAL_CONFIG lowers it (Table 15-11). -/
def entryT (h : Thermal) (l : ThLevel) : Int :=
  match l with
  | .normal => -100000
  | .warn => 16 * (110 - h.lowWarn)
  | .throttle => 16 * (118 - h.lowThr)
  | .writeStop => 16 * (125 - h.lowWs)
  | .shutdown => 16 * 132

/-- Exit value of a level in 1/16 degree; Shutdown is latched. -/
def exitT (h : Thermal) (l : ThLevel) : Int :=
  match l with
  | .normal => -100000
  | .warn => 16 * (105 - h.lowWarn)
  | .throttle => 16 * (113 - h.lowThr)
  | .writeStop => 16 * (118 - h.lowWs)
  | .shutdown => -100000

/-- The sensors that govern: 0..5, and 6 while the external diode is enabled and reads. -/
def sensorsUsed (h : Thermal) : List Nat := if h.extEn && !h.extFault then List.range 7 else List.range 6

/-- The hottest average and its sensor (R755). -/
def governing (h : Thermal) : Nat × Int :=
  (sensorsUsed h).foldl (fun b n => if b.2 < sensorAvg h n then (n, sensorAvg h n) else b) (0, sensorAvg h 0)

/-- The highest level that a temperature enters. -/
def riseLevel (h : Thermal) (t : Int) : ThLevel :=
  if entryT h .shutdown ≤ t then .shutdown else if entryT h .writeStop ≤ t then .writeStop
  else if entryT h .throttle ≤ t then .throttle else if entryT h .warn ≤ t then .warn else .normal

/-- The level one below. -/
def ThLevel.below (l : ThLevel) : ThLevel :=
  match l with
  | .normal => .normal
  | .warn => .normal
  | .throttle => .warn
  | .writeStop => .throttle
  | .shutdown => .shutdown

/-- The higher of two levels. -/
def maxLevel (a b : ThLevel) : ThLevel := if a.code < b.code then b else a

/-- The level that a temperature falls to: down while it is below the level's exit value, never below the latch. -/
def fallLevel (h : Thermal) (t : Int) (l : ThLevel) (n : Nat) : ThLevel :=
  match n with
  | 0 => l
  | m + 1 => if (h.latched.elim 0 (·.code)) < l.code ∧ t < exitT h l then fallLevel h t l.below m else l

/-- Transports that stay active under Throttle: those of KEEP_MASK that hold a mount session, filled up to two (R758). -/
def keptXports (s : State) : List Nat :=
  let mounted := (s.xp.filter fun p => p.2.mount.isSome).map (·.1)
  let k := mounted.filter fun t => bitOf s.pmu.th.keep t
  k ++ ((mounted.filter fun t => !k.elem t).take (2 - k.length))

/-- Applies the level in force to the transports: inactive ones, the writing stop, and what ends with the level
(R758, R759); during a Lull entry or in a Lull state this waits for the exit (R781). -/
def applyThermal (s : State) : State :=
  if s.pmu.lull.isSome then s
  else
    let hot := decide (2 ≤ s.pmu.th.level.code)
    let stop := decide (3 ≤ s.pmu.th.level.code)
    let keep := keptXports s
    (s.xp.map (·.1)).foldl (fun s t =>
      match xpOf s t with
      | none => s
      | some x =>
        let off := hot && x.mount.isSome && !keep.elem t
        let s := updXp s t fun x => { x with
          throttled := off, stopReq := x.stopReq || off,
          haltReq := if stop && x.motion == .writing && x.haltReq == 0 then 1 else x.haltReq }
        if off != x.throttled then raise s (evXp t 12) subjXp t 0 else s) s

/-- Shutdown is reached: every gate is inhibited, the tape stops, an update is abandoned and its pause ends (R152, R760, R785). -/
def shutDown (s : State) : State :=
  let s := (s.xp.map (·.1)).foldl (fun s t => updXp (setForce s t true) t fun x => stopTape x .stopped) s
  endPause { s with pmu.th := { s.pmu.th with offAt := some (now s + secTicks) }, pmu.upd := none }

/-- Changes the level: one transition, the entry counters, the event and the flap detector (R756, R761). -/
def changeLevel (s : State) (l : ThLevel) : State :=
  let h := s.pmu.th
  let recent := now s :: (h.recent.filter fun t => decide (now s ≤ t + 60 * secTicks))
  let flap := decide (9 ≤ recent.length)
  let lat := maxLevel h.level l
  let l' := if flap then lat else l
  let moved := l' != h.level
  let bump (k : ThLevel) (n : Nat) : Nat := if moved && l' == k then satAdd 32 n 1 else n
  let h' := { h with
    level := l', dwell := if moved then 0 else h.dwell, transitions := satAdd 32 h.transitions 1,
    recent := if flap then [] else recent,
    latched := if flap then some lat else h.latched, latches := if flap then satAdd 32 h.latches 1 else h.latches,
    entWarn := bump .warn h.entWarn, entThr := bump .throttle h.entThr, entWs := bump .writeStop h.entWs }
  let s := { s with pmu.th := h' }
  let s := if flap then raise s evFlap subjNone 0 0 else s
  let s := if moved then raise s evThermal subjNone 0 0 else s
  if l' == .shutdown then shutDown s else s

/-- New parameters take effect at the sample (R776). -/
def takeParams (h : Thermal) : Thermal :=
  match h.next with
  | some (w, t, ws, e, o, k) =>
    { h with lowWarn := w, lowThr := t, lowWs := ws, extEn := e, extOff := o, keep := k, next := none }
  | none => h

/-- A sensor's last 8 samples with a new one in front. -/
def pushSample (h : Thermal) (n : Nat) (t : Int) : Thermal :=
  { h with hist := Tbl.put h.hist n ((t :: (Tbl.get? h.hist n).getD []).take 8) }

/-- The external diode's reading: its offset is in quarter degrees; open or shorted sets EXT_FAULT (R762). -/
def takeExt (h : Thermal) (e : ExtReading) : Thermal :=
  if !h.extEn then { h with extFault := false }
  else match e with
    | .temp t => { pushSample h 6 (t + 4 * h.extOff) with extFault := false }
    | _ => { h with extFault := true }

/-- The unit after a sample: waiting parameters in force, six readings and the diode's taken in, the hottest average noted, the
latch released 10 degrees below its level's entry (R755, R761, R762, R776). -/
def takeSamples (h : Thermal) (temps : List Int) (e : ExtReading) : Thermal :=
  let h := takeExt ((numbered temps 0).foldl (fun h p => pushSample h p.1 p.2) (takeParams h)) e
  let g := governing h
  { h with
    hottest := g.1, dwell := h.dwell + 1,
    latched := if h.latched.elim false (fun l => decide (g.2 ≤ entryT h l - 160)) then none else h.latched }

/-- The level that a sample leads to: up at once, down after 250 samples in the level (R756, R757). -/
def sampleLevel (h : Thermal) : ThLevel :=
  let t := (governing h).2
  if h.level.code < (riseLevel h t).code then riseLevel h t
  else if (fallLevel h t h.level 4).code < h.level.code ∧ 250 ≤ h.dwell then fallLevel h t h.level 4
  else h.level

/-- THERMAL_SAMPLE: samples, averages, and the level raised, lowered or latched (R755 to R762, R776, R781). -/
def execThermalSample (dt : Nat) (temps : List Int) (ext : ExtReading) (s : State) : Answer :=
  let s := advance s dt
  if temps.length ≠ 6 ∨ s.pmu.ps = .off ∨ !s.host.sysRst then .next s
  else
    let h := takeSamples s.pmu.th temps ext
    let fault := h.extFault && !s.pmu.th.extFault
    let s := { s with pmu.th := h }
    let s := if fault then raise s evExtFault subjNone 0 0 else s
    .next (settle (applyThermal (if sampleLevel h = h.level then s else changeLevel s (sampleLevel h))))

/-- SHUTDOWN_POWER_OFF: one second after Shutdown every domain except AON powers off; THERMAL_RECORD is written (R760). -/
def execShutdownPowerOff (dt : Nat) (s : State) : Answer :=
  let s := advance s dt
  match s.pmu.th.offAt with
  | some t =>
    if t ≤ now s then
      let fl := { s.pmu.flash with thermal := some (s.tbu.sec, (governing s.pmu.th).2) }
      let z := State.afterReset fl (fun t => (xpOf s t).bind (·.cart)) s.host.perst s.clk.free
      .next { z with
        pending := s.pending, clk := s.clk, out := s.out, smp := s.smp, tbu := s.tbu,
        host := { z.host with sysRst := true },
        xp := Tbl.mapVal z.xp fun t x => { x with wi := ((xpOf s t).elim x.wi (·.wi)) },
        evr := { Evr.reset with log := s.evr.log, logSeq := s.evr.logSeq, overwritten := s.evr.overwritten }, flt := s.flt,
        pmu := { z.pmu with ps := .off, th := { s.pmu.th with offAt := none }, gates := s.pmu.gates, gateEvt := s.pmu.gateEvt,
                            log := s.pmu.log, logTotal := s.pmu.logTotal, entrySeq := s.pmu.entrySeq } }
    else .next s
  | none => .next s

/-- THERMAL_CONFIG: accepted when the resulting entry values keep their order; in force at the next sample (R776). -/
def execThermalConfig (id : Nat) (s : State) : Answer :=
  .next (withCmd s id 0x27 fun c =>
    let w := c.fld 0x10 1
    let t := c.fld 0x11 1
    let ws := c.fld 0x12 1
    if 118 + w ≤ 110 + t then complete s id (Compl.field 0x10)
    else if 125 + t ≤ 118 + ws then complete s id (Compl.field 0x11)
    else
      let p := (w, t, ws, bitOf (c.fld 0x13 1) 0, signed 8 (c.fld 0x14 1), c.fld 0x15 1)
      complete { s with pmu.th.next := some p } id (Compl.ok 0 0))

/-! ### Fabric gates and Lull (R735 to R749) -/

/-- Does the domain behind gate `k` hold a request? All commands have completed when gates close; an ACE channel may
still be running its iteration (R623, R745). -/
def gateBusy (s : State) (k : Nat) : Bool :=
  if k == 13 then s.ace.ch.any fun p => p.2.st == .running
  else if k < 4 then (xpOf s k).elim false fun x => x.motion != .stopped
  else if k == 8 then !s.rc.decs.isEmpty
  else false

/-- Gate `k` starts to close (R744). -/
def startClose (s : State) (k : Nat) : State :=
  let g := gateOf s k
  setGate s k { g with st := 1, forced := false, since := now s, closes := satAdd 32 g.closes 1 }

/-- LULL_COMMIT: the PMU latches the commit; ENTER_LULL posts its completion, and gate 14 starts to close (R735 steps 5
to 7, R692, R743). -/
def commitLull (s : State) (e : LullEntry) : State :=
  let s := { s with pmu.lull := some { e with phase := 2, sec := s.tbu.sec, ns := s.tbu.ns } }
  let k := Compl.ok e.target e.seq
  let s := match cmdOf s e.cmd with
    | some c =>
      if c.mailbox then
        deliverMbx { s with rings.cmds := s.rings.cmds.filter fun k => k.id != e.cmd } c.cid k
      else complete s e.cmd k
    | none => s
  startClose s 14

/-- Gate `k` is CLOSED: its drain time is kept, and the next gate of the entry starts, or the entry commits (R735). -/
def gateDone (s : State) (k : Nat) (forced : Bool) : State :=
  let g := gateOf s k
  let drain := min ((now s - g.since) / 4) 65535
  let s := setGate s k { g with st := 2, forced := forced, drain := drain }
  match s.pmu.lull with
  | some e =>
    let e := { e with gateMax := max e.gateMax drain, forced := if forced then satAdd 8 e.forced 1 else e.forced }
    let s := { s with pmu.lull := some e }
    if e.phase = 1 then
      (if (lullGates e.target).elem (k + 1) then startClose s (k + 1) else commitLull s e)
    else s
  | none => s

/-- GATE_CLOSED: gate `k` is closing and its domain holds no request (R745). -/
def execGateClosed (dt k : Nat) (s : State) : Answer :=
  let s := advance s dt
  .next (if (gateOf s k).st = 1 ∧ !gateBusy s k then gateDone s k false else s)

/-- A force-close ends what waits behind the gate: commands get DOMAIN_CLOSED with LOST, running ACE channels halt, an
indirect access to ACE is lost (R661, R745, R746). -/
def forceLose (s : State) (k : Nat) (waiting : List Nat) : State :=
  let s := waiting.foldl (fun s id => match cmdOf s id with
    | some c => if c.done.isNone then fixDone s id { Compl.of 0x43 with lost := true } else s
    | none => s) s
  let s := if k = 13 then
      (s.ace.ch.filter fun p => p.2.st == .running).foldl (fun s p => haltAce s p.1 2 true) s
    else s
  let toAce := decide (0x110000 ≤ s.smp.indAddr.toNat ∧ s.smp.indAddr.toNat < 0x120000)
  let s := if k = 13 && s.smp.indBusy && toAce then { s with smp.indLost := true } else s
  postAll s

/-- GATE_FORCE_CLOSE: 10 µs of CLOSING have passed (R745, R780). -/
def execGateForceClose (dt k : Nat) (waiting : List Nat) (s : State) : Answer :=
  let s := advance s dt
  let g := gateOf s k
  if g.st = 1 ∧ g.since + 10 * usTicks ≤ now s then
    let s := forceLose s k waiting
    let s := raiseGate s k
    let s := setGate s k { gateOf s k with refused := satAdd 32 (gateOf s k).refused waiting.length }
    .next (gateDone s k true)
  else .next s

/-- Is a firmware activation or rollback in progress? -/
def updating (s : State) : Bool := s.pmu.upd.isSome

/-- ENTER_LULL: the checks of Table 15-5, then quiescing (R733 to R735). -/
def execEnterLull (id : Nat) (s : State) : Answer :=
  .next (withCmd s id 0x24 fun c =>
    let target := c.fld 0x10 1
    let q := c.fld 0x12 2
    if s.pmu.lull.isSome || updating s then complete s id (Compl.of 0x67)
    else if 2 ≤ target ∧ (s.xp.any fun p => p.2.mount.isSome) then complete s id (Compl.of 5)
    else
      let seq := (s.pmu.entrySeq + 1) % 2 ^ 32
      let e : LullEntry := {
        cmd := id, seq := seq, target := target, deadline := now s + (if q = 0 then 1000 else q) * msTicks, phase := 0,
        wake := 0, after := false, wakeAt := 0, sec := 0, ns := 0, gateMax := 0, forced := 0 }
      setProg { s with pmu.lull := some e, pmu.entrySeq := seq } id (.waiting 0))

/-- Has every acknowledged record been written and verified? -/
def allWritten (s : State) : Bool :=
  s.xp.all fun p => p.2.mount.elim true fun m => m.openDs.isNone && m.closed.isEmpty && m.cur.isNone

/-- Closes every open dataset so that its records can be written (R735 step 2). -/
def closeAllOpen (s : State) : State :=
  (s.xp.map (·.1)).foldl (fun s t =>
    if ((xpOf s t).bind (·.mount)).elim false (·.openDs.isSome) then closeDataset s t false else s) s

/-- LULL_QUIESCED: the other commands have completed and, for Lull-1, the acknowledged records are verified on tape; the
transports stop and the gates begin closing in order (R735). -/
def execLullQuiesced (s : State) : Answer :=
  match s.pmu.lull with
  | some e =>
    if e.phase ≠ 0 ∨ (s.rings.cmds.any fun c => c.id != e.cmd && c.done.isNone && !(c.mailbox && c.prog == .ordered)) then .next s
    else if e.target = 1 ∧ !allWritten s then .next (settle (closeAllOpen s))
    else
      let s := { s with
        pmu.lull := some { e with phase := 1 },
        xp := Tbl.mapVal s.xp fun _ x => { stopTape x .stopped with target := 0, goal := none } }
      .next (startClose s 0)
  | none => .next s

/-- QUIESCE_TIMEOUT: QUIESCE_MS has passed before quiescence; the entry is undone (R735 step 3). -/
def execQuiesceTimeout (dt : Nat) (s : State) : Answer :=
  let s := advance s dt
  match s.pmu.lull with
  | some e => if e.phase = 0 ∧ e.deadline ≤ now s then .next (applyThermal (undoLull s e 0 0x67)) else .next s
  | none => .next s

/-- PSTATE of a Lull state. -/
def lullPs (n : Nat) : PState :=
  match n with
  | 1 => .lull1
  | 2 => .lull2
  | _ => .lull3

/-- The domains of Table 15-1 change state: ACE stops in Lull-2 and Lull-3 (R623); in Lull-3 the KSU is zeroed (R368) and
the link and firmware are off. -/
def enterState (s : State) (target : Nat) : State :=
  let s := { s with pmu.ps := lullPs target, ace.stopped := decide (2 ≤ target) }
  if target = 3 then
    { s with
      keys.tenant := [], keys.oper := [],
      rings.tbl := Tbl.mapVal s.rings.tbl fun _ r => { r with sk := SkWindow.empty },
      host.dlActive := false, host.training := false, host.crs := false, host.fwReady := false }
  else s

/-- LULL_STATE_SAVED: gate 14 is closed, the state is saved and the Lull state reached; a latched wake starts the exit at
once (R735 step 7, R737, R779). -/
def execLullStateSaved (s : State) : Answer :=
  match s.pmu.lull with
  | some e =>
    if e.phase ≠ 2 then .next s
    else
      let s := if (gateOf s 14).st = 1 then gateDone s 14 false else s
      let e := s.pmu.lull.getD e
      let s := enterState s e.target
      let e := { e with phase := 3 }
      .next (if e.wake ≠ 0 then beginExit s e e.wake else { s with pmu.lull := some e })
  | none => .next s

/-- HOST_LINK_WAKE: CLKREQ_N asserted, or a TLP addressed to the formatter (Table 15-6). -/
def execHostLinkWake (s : State) : Answer := .next (if s.host.perst then wake s 2 else s)

/-! ### Firmware start -/

/-- Values of one counter block (R355). -/
def blockLen : Nat := 2 ^ 24

/-- A nonce journal entry (Table 7-2). -/
def journalEntry (fid b : Nat) : Bytes :=
  let e := leBytes 4 fid ++ leBytes 8 b
  e ++ leBytes 4 (crc32c e)

/-- CC3 writes a journal entry at the next erased position; with the sector full, it erases the other one first (R362, R679). -/
def journalOps (f : Flash) (fid b : Nat) : List Out :=
  if f.nonceCur.length < 4096 then flashProgram (regionAt f (5 + f.nonceAt) + 16 * f.nonceCur.length) (journalEntry fid b)
  else eraseRegion f (6 - f.nonceAt) ++ flashProgram (regionAt f (6 - f.nonceAt)) (journalEntry fid b)

/-- The journal write for block `b` starts (R356, R362). -/
def startJournal (s : State) (b : Nat) : State :=
  pspQueue { s with keys.resv := some b } 1 (journalOps s.pmu.flash s.keys.fid b)

/-- Requests the reservation of block `b`; the last block is 2^40 − 1 (R357, R361). -/
def requestReserve (s : State) (b : Nat) : State :=
  if b < 2 ^ 40 ∧ s.keys.resv.isNone then startJournal s b else s

/-- The highest journalled block plus one; 0 for an empty journal (R360). -/
def nextBlock (f : Flash) : Nat := ((f.nonceCur ++ f.nonceOld).map fun e => e.2 + 1).foldl max 0

/-- start(H) of R357, run at every start of firmware (R360). -/
def startNonce (s : State) : State :=
  let b := nextBlock s.pmu.flash
  requestReserve { s with keys.ctr := b * blockLen, keys.pend := b * blockLen, keys.resv := none, keys.retry := none } b

/-- The peripheral k of Table 11-9 that a type may be. -/
def typeFits (typ k : Nat) : Bool :=
  match typ with
  | 1 => k == 0
  | 2 => k == 1 || k == 2
  | 3 => k == 3
  | 4 => k == 4
  | 5 => k == 5
  | _ => false

/-- Is a peripheral table entry accepted at select `sel` of port `port` (R587, R677, R681, R683, Table 13-6)? -/
def periphOk (port sel : Nat) (p : Periph) : Bool :=
  let ranges := decide (p.typ ≤ 7) && decide (p.proto < 16) && decide (8 ≤ p.frame ∧ p.frame ≤ 32) && decide (p.clk ≤ 1) &&
    (if p.clk = 0 then p.div % 2 == 0 && decide (10 ≤ p.div ∧ p.div ≤ 250) else decide (1 ≤ p.div ∧ p.div ≤ 16)) &&
    decide (5 ≤ p.lead ∧ p.lead ≤ 255) && decide (5 ≤ p.setup ∧ p.setup ≤ 255) && decide (20 ≤ p.gap ∧ p.gap ≤ 255)
  let place := if 1 ≤ p.typ ∧ p.typ ≤ 5 then
      decide (p.xp ≤ 3) && decide (port = p.xp / 2) && decide (6 * (p.xp % 2) ≤ sel) && typeFits p.typ (sel - 6 * (p.xp % 2))
    else p.xp == 0xFF
  let mode := p.proto / 2 % 4
  let kearad := p.proto % 2 == 0 || ((mode == 0 || mode == 3) && p.frame == 8 && (p.clk == 1 || decide (20 ≤ p.div)))
  p.typ == 0 || (ranges && place && kearad)

/-- Loads the peripheral tables: a bad entry is disabled and raises PERIPHERAL; PSP1 select 15 is the boot flash (R680, R681). -/
def loadPeriph (s : State) : State :=
  let good := s.pmu.flash.board.filter fun e => e.1 != 31 && periphOk (e.1 / 16) (e.1 % 16) e.2
  let bad := s.pmu.flash.board.filter fun e => e.1 != 31 && !periphOk (e.1 / 16) (e.1 % 16) e.2
  bad.foldl (fun s e => raise s evPeripheral subjNone 0 e.1) { s with smp.periph := good }

/-- What every start of firmware sets anew: engines RUN, parameter blocks at their defaults, the lanes of the calibration record,
thermal parameters at theirs, transports yet to calibrate, the nonce counter, the peripheral tables (R11, R360, R524, R589, R591,
R680, R750, R776, R801). -/
def firmwareStarts (s : State) : State :=
  let fenced := (s.pmu.engines.filter fun e => e.2.st != .run).map (·.1)
  let s := { s with
    pmu.engines := [], rc.disabled := s.pmu.flash.disabled, rc.blk := PoolBlock.default, rc.blkNext := none,
    pmu.th := { s.pmu.th with
      lowWarn := 0, lowThr := 0, lowWs := 0, extEn := false, extOff := 0, keep := 3, next := none },
    xp := Tbl.mapVal s.xp fun _ x => { x with
      startup := false, blk := XpBlock.default, blkNext := none, rc := RcBlock.default, rcNext := none, lanesNext := [] } }
  loadPeriph (startNonce (fenced.foldl (fun s k => raise s evEngine subjEngine k 0) s))

/-- The exit from Lull-3 leaves the host side as PERST_N does: contexts ORPHANED, tenant keys EMPTY, telemetry
unconfigured, ACE at its reset values, operator slot 0 restored (R368, R623, R726). -/
def leaveLull3 (s : State) : State :=
  let l := 0 :: vfList s
  let s := hostSideReset s
  let held := s.ace.tele.map fun p => 8 + p.1
  let s := { s with
    tbu.timers := Tbl.mapVal s.tbu.timers fun k x => if held.elem k then { x with en := false } else x,
    host.flrOwed := l.foldl setIns s.host.flrOwed, ace := AceEng.reset,
    keys.tenant := [], keys.oper := (s.pmu.flash.domain).elim [] fun d => [(0, d.2.2)] }
  s

/-- The steps of Table 3-9 and of R120 that waited for Run (R148, R778). -/
def runOwed (s : State) : State :=
  let l := s.host.flrOwed
  hostBack (l.foldl flrSteps { s with host.flrOwed := [] })

/-- Raises the device events that occurred in Lull-2 or Lull-3 (R793). -/
def raiseHeld (s : State) : State :=
  let l := s.pmu.held
  l.foldl (fun s h => raiseNow s h.1 h.2.1 h.2.2.1 h.2.2.2) { s with pmu.held := [] }

/-- LULL_EXIT_COMPLETE: the gates reopen, the saved state returns and Run is entered; from Lull-3 firmware has started again (R740 to
R742, R148, R778, R793, Example 13.1). -/
def execLullExitComplete (dt : Nat) (digestOk : Bool) (s : State) : Answer :=
  let s := advance s dt
  match s.pmu.lull with
  | some e =>
    if e.phase ≠ 4 then .next s
    else
      let bad := e.target == 3 && !digestOk
      let s := if e.target = 3 then leaveLull3 s else s
      let s := openGates { s with
        pmu.lull := none, pmu.ps := .run, ace.stopped := false,
        ace.ch := Tbl.mapVal s.ace.ch fun _ a => { a with parked := false } }
      let s := runOwed s
      let s := raiseHeld s
      let s := if bad then { s with pmu.booted := false, host.fwReady := false }
        else if e.target = 3 then firmwareStarts s else s
      let s := if s.host.perst && !s.host.dlActive then openWindow900 s else if s.host.dlActive then fwUp s else s
      let s := applyAll s
      let s := logPower s {
        seq := e.seq, target := e.target, entered := true, wake := e.wake, flags := b2n e.after + 2 * b2n bad, sec := e.sec,
        ns := e.ns, exitUs := min ((now s - e.wakeAt) / usTicks) (satMax 32), gateMax := e.gateMax, forced := e.forced }
      let s := raiseAttn s 8
      .next (startMbx (settle (applyThermal s)))
  | none => .next s

/-! ### Engines (R750 to R754, R774, R775, R782) -/

/-- Stores an engine; a change of state raises ENGINE_STATE (Table 16-1). -/
def setEng (s : State) (cls idx : Nat) (e : Engine) : State :=
  let old := engOf s cls idx
  let s := { s with pmu.engines := Tbl.put s.pmu.engines (engKey cls idx) e }
  if old.st = e.st then s else raise s evEngine subjEngine (engKey cls idx) 0

/-- Does the engine hold work? -/
def engBusy (s : State) (cls idx : Nat) : Bool :=
  match cls with
  | 0 => s.svc.any fun p => p.2.compress && p.2.lane == idx
  | 1 => s.svc.any fun p => !p.2.compress && p.2.lane == idx
  | 3 => Tbl.has s.rc.decs idx
  | 4 => (xpOf s idx).elim false (·.calibrating)
  | _ => false

/-- The engine becomes FENCED, or OFF if asked; the FENCE_ENGINE commands that wait complete (R752, R774, R782). -/
def fenceDone (s : State) (cls idx : Nat) : State :=
  let e := engOf s cls idx
  let s := setEng s cls idx { e with st := if e.offReq then .off else .fenced, deadline := 0, offReq := false, stopped := 0 }
  let l := s.rings.cmds.filter fun c => c.opcode == 0x28 && c.done.isNone && c.prog == .engine (engKey cls idx)
  postAll (l.foldl (fun s c => fixDone s c.id (Compl.ok e.stopped 0)) s)

/-- FENCE_ENGINE (R754, R774, R782). -/
def execFenceEngine (id : Nat) (s : State) : Answer :=
  .next (withCmd s id 0x28 fun c =>
    let cls := c.fld 0x10 1
    let idx := c.fld 0x11 1
    let ms := c.fld 0x12 2
    let off := bitOf (c.fld 0x14 1) 0
    let e := engOf s cls idx
    if cls = 4 ∧ (xpOf s idx).elim false (·.mount.isSome) then complete s id (Compl.of 5)
    else match e.st with
      | .off => complete s id (Compl.ok 0 0)
      | .fenced => complete (if off then setEng s cls idx { e with st := .off } else s) id (Compl.ok 0 0)
      | .drain => setProg (setEng s cls idx { e with offReq := e.offReq || off }) id (.engine (engKey cls idx))
      | .run =>
        let e := { e with
          st := .drain, deadline := now s + (if ms = 0 then 100 else ms) * msTicks, offReq := off, stopped := 0 }
        let s := setProg (setEng s cls idx e) id (.engine (engKey cls idx))
        if engBusy s cls idx then s else fenceDone s cls idx)

/-- ENGINE_DRAINED: the engine has finished the work it held (R752, R412). -/
def execEngineDrained (cls idx : Nat) (s : State) : Answer :=
  .next (if (engOf s cls idx).st = .drain ∧ !engBusy s cls idx then fenceDone s cls idx else s)

/-- Stops what an engine in DRAIN still holds: service jobs as ABORT would stop them; other work goes back to where it
restarts (R433, R752). Answers the number of jobs stopped. -/
def stopWork (s : State) (cls idx : Nat) : State × Nat :=
  match cls with
  | 0 | 1 =>
    let js := s.svc.filter fun p => p.2.compress == (cls == 0) && p.2.lane == idx && p.2.stopBy == 0
    let by_ := ((s.rings.cmds.find? fun c => c.opcode == 0x28 && c.done.isNone && c.prog == .engine (engKey cls idx)).map (·.id)).getD noCmd
    ({ s with svc := Tbl.mapVal s.svc fun _ j =>
        if j.compress == (cls == 0) && j.lane == idx && j.stopBy == 0 then { j with stopBy := 0x47, stopFor := by_ } else j }, js.length)
  | 3 =>
    match Tbl.get? s.rc.decs idx with
    | some (lane, ticket) =>
      let back (x : Lane) : Lane := { x with store := x.store.map fun c =>
        if c.ticket == ticket then { c with decoder := none } else c }
      ({ s with rc.decs := Tbl.del s.rc.decs idx, rc.lanes := Tbl.upd s.rc.lanes lane back }, 1)
    | none => (s, 0)
  | _ => (s, 0)

/-- ENGINE_DRAIN_TIMEOUT: DRAIN_MS has passed; the remaining jobs are stopped (R752). -/
def execEngineDrainTimeout (dt cls idx : Nat) (s : State) : Answer :=
  let s := advance s dt
  let e := engOf s cls idx
  if e.st = .drain ∧ e.deadline ≤ now s then
    let p := stopWork s cls idx
    let s := { p.1 with pmu.engines := Tbl.put p.1.pmu.engines (engKey cls idx) { e with stopped := e.stopped + p.2 } }
    .next (if engBusy s cls idx then s else fenceDone s cls idx)
  else .next s

/-- RESET_ENGINE: powers, resets and self-tests a FENCED or OFF engine; a transport repeats its start-up calibration (R775). -/
def execResetEngine (id : Nat) (pass : Bool) (s : State) : Answer :=
  .next (withCmd s id 0x29 fun c =>
    let cls := c.fld 0x10 1
    let idx := c.fld 0x11 1
    let e := engOf s cls idx
    if e.st = .run ∨ e.st = .drain then complete s id (Compl.field 0x11)
    else
      let s := setEng s cls idx { e with st := if pass then .run else .fenced, failed := !pass }
      let s := if cls = 4 then updXp s idx fun x => { x with startup := false } else s
      complete s id (Compl.ok (b2n pass) 0))

/-! ### PFAIL_N (R763 to R765, R784) -/

/-- PFAIL_QUALIFIED: writing stops, fetch stops, no flash or cartridge-memory write starts (R252, R763). -/
def execPfailQualified (s : State) : Answer :=
  if s.pmu.pfail ∨ !s.host.sysRst then .next s
  else
    .next { s with
      pmu.pfail := true,
      xp := Tbl.mapVal s.xp fun _ x => if x.motion == .writing then { x with haltReq := 2, haltAt := now s + 20 * usTicks } else x }

/-- PFAIL_RELEASE: PFAIL_N rises, a wake source; after a qualified low fetch resumes, writing may (R295), and PFAIL is raised. A stop
that R252 has begun still ends writing at its segment boundary (R765, Table 15-6). -/
def execPfailRelease (s : State) : Answer :=
  if s.pmu.pfail then
    let s := { s with pmu.pfail := false }
    let s := raise s evPfail subjNone 0 0
    .next (startMbx (wake s 8))
  else .next (if s.host.sysRst then wake s 8 else s)

end Sys2Proof.Machine
end

