-- ==== Sys2Proof/Machine/Keys.lean ====
section
/-! DEFINITION. Keys and nonces: the IV procedure and its journal, key slots, session keys, the key domain, and
CRYPT_BLOCK (chapter 7). -/

namespace Sys2Proof.Machine

/-! ### Key material -/

/-- A key as a byte string of 16 or 32 bytes. -/
def KeyVal.bytes (k : KeyVal) : Bytes := leBytes (if k.bits256 then 32 else 16) k.key.toNat

/-- The key that a byte string of 16 or 32 bytes spells. -/
def keyOf (b : Bytes) (keyId : Nat) : KeyVal := ⟨b.length == 32, BitVec.ofNat 256 (leNat b), keyId⟩

/-! ### Nonces (R354 to R361) -/

/-- NSTATE of Table 7-10 (R411). -/
def nstate (k : Keys) : Nat :=
  if k.fid = 0 then 0
  else if k.ctr = k.pend ∧ (k.retry.isSome ∨ k.resv.isNone) then 3
  else if k.resv.isSome || k.retry.isSome then 2
  else 1

/-- Raises NONCE_FAILED when NSTATE has become FAILED (Table 16-1). -/
def noteNstate (before_ s : State) : State :=
  if nstate s.keys = 3 ∧ nstate before_.keys ≠ 3 then raise s evNonceFailed subjNone 0 0 else s

/-- next_iv of R357: the counter value of the IV, or none; the next block is requested at half use. -/
def nextIv (s : State) : Option Nat × State :=
  let k := s.keys
  if k.fid = 0 ∨ k.ctr = k.pend then (none, s)
  else
    let c := k.ctr + 1
    let s' := { s with keys.ctr := c }
    let s' := if c % blockLen = blockLen / 2 ∧ k.pend = (c / blockLen + 1) * blockLen then requestReserve s' (c / blockLen + 1)
      else s'
    (some k.ctr, noteNstate s s')

/-- The 12 bytes of an IV (R354). -/
def ivBytes (fid ctr : Nat) : Bytes := leBytes 4 fid ++ leBytes 8 ctr

/-- A command that found no persisted value (FAIL_REJECTS of Table 7-10). -/
def countReject (s : State) : State := { s with keys.rejects := satAdd 64 s.keys.rejects 1 }

/-- A journal entry is written at the next erased position; a full sector hands over to the other, freshly erased (R362). -/
def journal (f : Flash) (fid b : Nat) : Flash :=
  if f.nonceCur.length < 4096 then { f with nonceCur := (fid, b) :: f.nonceCur }
  else { f with nonceCur := [(fid, b)], nonceOld := f.nonceCur, nonceAt := 1 - f.nonceAt }

/-- NONCE_RESERVED: the entry for the requested block is written and read back (R357, R358). -/
def execNonceReserved (s : State) : Answer :=
  match s.keys.resv with
  | some b =>
    .next { s with
      pmu.flash := journal s.pmu.flash s.keys.fid b,
      keys.pend := (b + 1) * blockLen, keys.resv := none, keys.retry := none, keys.ok := satAdd 32 s.keys.ok 1 }
  | none => .next s

/-- NONCE_JOURNAL_FAIL: the write failed; it is retried after 10 ms, doubling to at most 1 s (R359). -/
def execNonceJournalFail (s : State) : Answer :=
  match s.keys.resv with
  | some b =>
    let ms := match s.keys.retry with
      | some (b', m, _) => if b' = b then min (2 * m) 1000 else 10
      | none => 10
    let s' := { s with
      keys.resv := none, keys.retry := some (b, ms, now s + ms * msTicks), keys.fails := satAdd 32 s.keys.fails 1 }
    .next (noteNstate s (raise s' evNonceFail subjNone 0 0))
  | none => .next s

/-- NONCE_RETRY: the interval ends and the journal write is tried again (R359); none starts while PFAIL_N is qualified (R763). -/
def execNonceRetry (dt : Nat) (s : State) : Answer :=
  let s := advance s dt
  match s.keys.retry, s.keys.resv with
  | some (b, _, t), none => if t ≤ now s ∧ !s.pmu.pfail then .next (startJournal s b) else .next s
  | _, _ => .next s

/-- NONCE_STATUS: the page of Table 7-10. -/
def execNonceStatus (id : Nat) (s : State) : Answer :=
  .next (withCmd s id 0x14 fun c =>
    let k := s.keys
    let b := pageOf 64 [(0, 4, k.fid), (4, 1, nstate k), (8, 8, k.ctr), (0x10, 8, k.pend), (0x18, 4, k.ok), (0x1C, 4, k.fails),
      (0x20, 8, k.rejects), (0x28, 4, 4096 - s.pmu.flash.nonceCur.length), (0x30, 8, k.did)]
    answer s c 0x10 b (Compl.ok (nstate k) k.ctr))

/-! ### Key selection (R353) -/

/-- KEY_SEL of a command. -/
def keySel (c : Cmd) : Nat :=
  match c.opcode with
  | 0x41 => c.fld 0x13 1
  | 0x48 => c.fld 0x13 1
  | 0x42 => c.fld 0x14 1
  | 0x84 => c.fld 0x11 1
  | _ => 0

/-- The offset of KEY_SEL (Table 7-1). -/
def keySelOff (op : Nat) : Nat :=
  match op with
  | 0x42 => 0x14
  | 0x84 => 0x11
  | _ => 0x13

/-- A selected key: a ring's session key, or the context's slot key. -/
def keyFor (s : State) (c : Cmd) (d : Desc) : Option KeyVal :=
  if keySel c = 0 then (if d.keySlotEn then Tbl.get? s.keys.tenant d.keySlot else none)
  else (Tbl.get? s.rings.tbl c.ring).bind fun r => Tbl.get? r.sk.keys (keySel c - 1)

/-- Key selection: no key for CIPHER NONE, or the key, or the completion of the first check that fails (Table 7-1).
CRYPT_BLOCK needs a key, so CIPHER NONE counts as an EMPTY selection there. -/
def selectKey (s : State) (c : Cmd) (d : Desc) : Except Compl (Option KeyVal) :=
  let k := keySel c
  if 4 < k ∨ (k ≠ 0 ∧ d.cipher = 0) then .error (Compl.field (keySelOff c.opcode))
  else if (k = 0 ∧ !d.keySlotEn ∧ d.cipher ≠ 0) ∨ (k ≠ 0 ∧ !d.sessionOk) then .error (Compl.of 4)
  else if d.cipher = 0 then (if c.opcode = 0x84 then .error (Compl.of 4) else .ok none)
  else match keyFor s c d with
    | none => .error (Compl.of 4)
    | some v => if v.bits256 = (d.cipher == 2) then .ok (some v) else .error (Compl.of 4)

/-- Does a command in flight use keys at all (R399, R404)? -/
def usesKey (s : State) (c : Cmd) : Bool :=
  c.done.isNone && (ctxOf s c.ctx).elim false (fun x => x.d.cipher != 0) &&
  (c.opcode == 0x41 || c.opcode == 0x42 || c.opcode == 0x48 || c.opcode == 0x84 ||
   (c.opcode == 0x4A && bitOf (c.fld 0x12 1) 0))

/-- Commands in flight that use a tenant slot. -/
def slotUsers (s : State) (slot : Nat) : List Cmd :=
  s.rings.cmds.filter fun c => usesKey s c && keySel c == 0 &&
    (ctxOf s c.ctx).elim false fun x => x.d.keySlotEn && x.d.keySlot == slot

/-- Is session key `i` of a ring used by a command in flight (R372, R404)? -/
def skUsed (s : State) (ring i : Nat) : Bool :=
  s.rings.cmds.any fun c => c.ring == ring && !c.mailbox && usesKey s c && keySel c == i + 1

/-! ### Key slots -/

/-- A wrapped blob that is rejected (R381). -/
def rejectBlob (reason : Nat) : Compl := { Compl.field 0xFF with result2 := reason }

/-- The header of a wrapped blob is valid (Table 7-7 reason 1). -/
def blobOk (b : BitVec 512) : Bool :=
  let f := fieldOf b
  f 0 4 == 0x424B574B && f 4 1 == 1 && (f 5 1 == 1 || f 5 1 == 2) && (f 6 1 == 1 || f 6 1 == 2) && decide (f 7 1 ≤ 62) &&
  f 8 4 != 0 && f 0xC 4 == 0 && (f 6 1 == 2 || f 0x30 16 == 0)

/-- Unwraps a valid blob under its KEK: the key, or the rejection reason (R380, Table 7-7). -/
def unwrapBlob (s : State) (b : BitVec 512) : Except Nat KeyVal :=
  let f := fieldOf b
  match Tbl.get? s.keys.oper (f 7 1) with
  | none => .error 2
  | some kek =>
    if s.keys.fid = 0 then .error 2
    else
      let n := if f 6 1 = 2 then 32 else 16
      match keyUnwrap kek.bytes (leBytes (n + 16) (f 0x10 48)) with
      | none => .error 3
      | some p =>
        if p.drop n = leBytes 4 (f 8 4) ++ [BitVec.ofNat 8 (f 5 1), BitVec.ofNat 8 (f 6 1), 0, 0] then
          .ok (keyOf (p.take n) (f 8 4))
        else .error 4

/-- Commands in flight of the context that a tenant slot is bound to (R397). -/
def slotBusy (s : State) (slot : Nat) : Bool :=
  s.ten.ctx.any fun p => p.2.d.keySlotEn && p.2.d.keySlot == slot && !(inFlight s p.1).isEmpty

/-- KEY_LOAD_WRAPPED (R380, R381, R396 to R398). -/
def execKeyLoadWrapped (id : Nat) (blob : BitVec 512) (s : State) : Answer :=
  .next (withCmd s id 0x10 fun c =>
    let target := c.fld 0x18 2
    let replace := bitOf (c.fld 0x1A 1) 0
    if !dataOk s c then complete s id (Compl.of 7)
    else
      let s := cmdRead s c (c.fld 0x10 8) 64
      let b := cmdBlock s c (c.fld 0x10 8) blob
      let kind := fieldOf b 5 1
      if !blobOk b then complete s id (rejectBlob 1)
      else if kind = 2 ∧ (target = 0 ∨ 62 < target) then complete s id (Compl.field 0x18)
      else if kind = 2 ∧ fieldOf b 7 1 = target then complete s id (rejectBlob 1)
      else
        let slots := if kind = 1 then s.keys.tenant else s.keys.oper
        if Tbl.has slots target ∧ !replace then complete s id (Compl.of 4)
        else if kind = 1 ∧ replace ∧ slotBusy s target then complete s id (Compl.of 4)
        else match unwrapBlob s b with
          | .error r => complete s id (rejectBlob r)
          | .ok k =>
            let s := if kind = 1 then { s with keys.tenant := Tbl.put s.keys.tenant target k }
              else { s with keys.oper := Tbl.put s.keys.oper target k }
            complete s id (Compl.ok k.keyId 0))

/-- Zeroes a key slot (R369, R400). -/
def eraseSlot (s : State) (kind slot : Nat) : State :=
  if kind = 1 then { s with keys.tenant := Tbl.del s.keys.tenant slot } else { s with keys.oper := Tbl.del s.keys.oper slot }

/-- KEY_ERASE: the users of the slot, none for an operator slot (R402). -/
def eraseUsers (s : State) (c : Cmd) : List Cmd := if c.fld 0x10 1 = 1 then slotUsers s (c.fld 0x12 2) else []

/-- KEY_ERASE: waits until no command uses the slot, aborting with FORCE, then zeroes it (R399 to R402). -/
def execKeyErase (id : Nat) (s : State) : Answer :=
  .next (withCmdW s id 0x11 fun c =>
    let finish (s : State) (n : Nat) : State :=
      if (eraseUsers s c).isEmpty then complete (eraseSlot s (c.fld 0x10 1) (c.fld 0x12 2)) id (Compl.ok n 0) else s
    match c.prog with
    | .waiting n => finish s n
    | _ =>
      let us := eraseUsers s c
      if !bitOf (c.fld 0x14 1) 0 && !us.isEmpty then complete s id (Compl.of 4)
      else
        let n := (abortTargets s us).1.length
        finish (postAll (setProg (abortList s 0x47 id us) id (.waiting n))) n)

/-! ### The key domain (R375 to R379) -/

/-- Encrypting commands and CRYPT_BLOCK in flight (R377). -/
def encrypting (s : State) : Bool :=
  s.rings.cmds.any fun c => c.done.isNone &&
    (c.opcode == 0x84 || ((c.opcode == 0x41 || c.opcode == 0x42) && (ctxOf s c.ctx).elim false fun x => x.d.cipher != 0))

/-- A join block is checked and its domain key unwrapped (R375 steps 1 to 5, Table 7-7). -/
def openJoin (b : BitVec 1536) : Except Nat KeyVal :=
  let f := fieldOf b
  if f 0 4 = 0 ∨ f 4 4 ≠ 0 ∨ f 8 8 = 0 ∨ f 0x71 15 ≠ 0 ∨ f 0xA8 24 ≠ 0 then .error 1
  else match readPoint (leBytes 97 (f 0x10 97)) with
    | none => .error 5
    | some q =>
      match keyUnwrap (joinKek q (f 0 4) (f 8 8)) (leBytes 40 (f 0x80 40)) with
      | none => .error 3
      | some dk => .ok (keyOf dk 0)

/-- DOMAIN_JOIN, or LEAVE; it waits for a journal write in progress, and while PFAIL_N bars flash writes (R375 to R379, R410, R763). -/
def execDomainJoin (id : Nat) (blk : BitVec 1536) (s : State) : Answer :=
  .next (withCmd s id 0x12 fun c =>
    if s.keys.resv.isSome || s.pmu.pfail then s
    else if (s.strm.any fun p => !p.2.read) || encrypting s then complete s id (Compl.of 5)
    else if bitOf (c.fld 0x18 1) 0 then
      complete { s with pmu.flash.domain := none, keys.oper := [], keys.fid := 0, keys.did := 0 } id (Compl.ok 0 0)
    else if !dataOk s c then complete s id (Compl.of 7)
    else
      let s := cmdRead s c (c.fld 0x10 8) 192
      let b := cmdBlock s c (c.fld 0x10 8) blk
      match openJoin b with
      | .error r => complete s id (rejectBlob r)
      | .ok dk =>
        let fid := fieldOf b 0 4
        let did := fieldOf b 8 8
        complete (noteNstate s { s with
          pmu.flash.domain := some (fid, did, dk), keys.oper := [(0, dk)], keys.fid := fid, keys.did := did }) id (Compl.ok 0 0))

/-- GET_DEVICE_CERT (R403). -/
def execGetDeviceCert (id : Nat) (s : State) : Answer :=
  .next (withCmd s id 0x13 fun c =>
    let der := (Config.certDer (c.fld 0x1C 1)).take 2048
    if c.fld 0x18 4 < der.length then complete s id { Compl.field 0x18 with result2 := der.length }
    else answer s c 0x10 der (Compl.ok der.length 0))

/-! ### Session keys (R370 to R374, R404 to R406) -/

/-- Changes the window and session keys of a ring. -/
def updSk (s : State) (n : Nat) (f : SkWindow → SkWindow) : State :=
  { s with rings.tbl := Tbl.upd s.rings.tbl n fun r => { r with sk := f r.sk } }

/-- A write of SK_COMMIT on ring `n`: loads or clears key INDEX, or records LOAD_ERR; the staging area is zeroed
(R371, R372), SK_KEY_ID at a load or an error (Table 7-5). -/
def skCommit (s : State) (n : Nat) (r : Ring) (v : Word) : State :=
  let w := v.toNat
  let i := bitsOf w 0 2
  let go := bitOf w 3
  let clear := bitOf w 4
  if go == clear || decide (32 ≤ w) || (go && r.sk.keyId == 0) || skUsed s n i then
    raise (updSk s n fun k => { k with stage := 0, keyId := 0, loadErr := setIns k.loadErr i }) evSessionLoad subjRing n 0
  else if go then
    updSk s n fun k => { k with
      stage := 0, keyId := 0,
      keys := Tbl.put k.keys i (keyOf (leBytes (if bitOf w 2 then 32 else 16) k.stage.toNat) k.keyId),
      gens := Tbl.put k.gens i (((Tbl.get? k.gens i).getD 0 + 1) % 65536) }
  else updSk s n fun k => { k with stage := 0, keys := Tbl.del k.keys i }

/-- A write of SK_COMMIT through a function's window. -/
def windowCommit (s : State) (fn slot : Nat) (v : Word) : State :=
  match ringAt s fn slot with
  | some (n, r) => skCommit s n r v
  | none => s

/-- SK_COMMIT_GO: SK_COMMIT written with GO (R370, R372). -/
def execSkCommitGo (fn slot : Nat) (v : Word) (s : State) : Answer :=
  .next (if windowReach s fn then (if bitOf v.toNat 3 then windowCommit s fn slot v else s)
    else if barOff s fn then logUnc s fn aerUnsupported else s)

/-- SK_COMMIT_CLEAR: SK_COMMIT written with CLEAR (R370, R372). -/
def execSkCommitClear (fn slot : Nat) (v : Word) (s : State) : Answer :=
  .next (if windowReach s fn then (if bitOf v.toNat 4 then windowCommit s fn slot v else s)
    else if barOff s fn then logUnc s fn aerUnsupported else s)

/-- SESSION_KEY_CLEAR: waits until the selected keys are unused, clears them, and reports (R404, R405). -/
def execSessionKeyClear (id : Nat) (s : State) : Answer :=
  .next (withCmd s id 0x85 fun c =>
    let m := c.fld 0x10 1
    let is := (List.range 4).filter fun i => bitOf m i
    match Tbl.get? s.rings.tbl c.ring with
    | none => complete s id (Compl.of 4)
    | some r =>
      if is.any fun i => skUsed s c.ring i then s
      else
        let k := r.sk
        let res := maskOf (k.keys.map (·.1)) + 16 * maskOf ((k.keys.filter fun p => p.2.bits256).map (·.1)) +
          256 * maskOf k.loadErr
        let gens := sumOf ((List.range 4).map fun i => (Tbl.get? k.gens i).getD 0 * 2 ^ (16 * i))
        let s := updSk s c.ring fun k => { k with keys := Tbl.keep k.keys fun i _ => !is.elem i, loadErr := [] }
        complete s id (Compl.ok res gens))

/-! ### CRYPT_BLOCK (R390 to R392) -/

/-- Does a sealing or check-back job wait for an engine: class 1 of R346? -/
def sealWaits (s : State) : Bool :=
  s.rings.cmds.any fun c => c.done.isNone && (c.recs.any fun r => r.stage == 1 || r.stage == 2) &&
    (ctxOf s c.ctx).elim false fun x => x.d.cipher != 0

/-- Does a restored record wait to be opened or verified: class 2 of R346? -/
def openWaits (s : State) : Bool :=
  s.rings.cmds.any fun c => c.done.isNone && match c.prog with
    | .reading _ _ _ _ h _ _ => h == 1
    | _ => false

/-- Does a CRYPT_BLOCK consumed before this one wait for an engine (R346)? -/
def blockWaits (s : State) (id : Nat) : Bool :=
  (s.rings.cmds.takeWhile fun c => c.id != id).any fun c => c.opcode == 0x84 && c.done.isNone && c.prog == .waiting 0

/-- The output of a CRYPT_BLOCK: the data, the IV/tag block if it is written, and the completion. -/
def cryptRun (key input aad : Bytes) (mode : Nat) (iv tag : Bytes) : Bytes × Bytes × Nat :=
  if mode = 0 then
    let r := gcmSeal key iv aad input
    (r.1, iv ++ List.replicate 4 0 ++ r.2, 0)
  else
    let good := gcmTag key iv aad input == tag
    if mode = 1 then (gcmCtr key iv input, [], if good then 0 else 0x21) else ([], [], if good then 0 else 0x22)

/-- The reads of a CRYPT_BLOCK: its input, its AAD, and for OPEN and VERIFY the IV/tag block. -/
def cryptReads (s : State) (c : Cmd) (inSgl : List SglElem) : State :=
  let s := (pieces (c.fld 0x18 8) (c.fld 0x14 4) (c.fld 0x12 2) inSgl).foldl (fun s p => cmdRead s c p.1 p.2) s
  let s := cmdRead s c (c.fld 0x30 8) (c.fld 0x2A 2)
  if c.fld 0x10 1 = 0 then s else cmdRead s c (c.fld 0x38 8) 32

/-- CRYPT_BLOCK: one GCM operation on an AES engine (R345, R346, R353, R390 to R392, R408). It waits for its turn; the row's next
occurrence tries again. -/
def execCryptBlock (id engine : Nat) (inSgl outSgl : List SglElem) (input aad : Bytes) (ivt : BitVec 256) (s : State) : Answer :=
  .next (withCmdW s id 0x84 fun c =>
    match ctxOf s c.ctx with
    | none => complete s id (Compl.of 3)
    | some x =>
      let mode := c.fld 0x10 1
      let len := c.fld 0x14 4
      match selectKey s c x.d with
      | .error k => complete s id k
      | .ok none => complete s id (Compl.of 4)
      | .ok (some key) =>
        if !dataOk s c then complete s id (Compl.of 7)
        else if !sglOk (c.fld 0x12 2) len inSgl || (mode != 2 && len != 0 && !sglOk (c.fld 0x28 2) len outSgl) then
          complete s id (Compl.of 6)
        else if mode ≠ 0 ∧ fieldOf ivt 12 4 ≠ 0 then complete s id (Compl.field 0xFF)
        else if (runEngines s 2).isEmpty then complete s id (Compl.of 0x42)
        else if !(runEngines s 2).elem engine || sealWaits s || openWaits s || blockWaits s id || input.length != len ||
            aad.length != c.fld 0x2A 2 then
          updCmd s id fun c => { c with prog := .waiting 0 }
        else
          let p := if mode = 0 then nextIv s else (some 0, s)
          match p.1 with
          | none => complete (countReject p.2) id (Compl.of 0x48)
          | some ctr =>
            let s := cryptReads p.2 c inSgl
            let iv := if mode = 0 then ivBytes s.keys.fid ctr else leBytes 12 (fieldOf ivt 0 12)
            let r := cryptRun key.bytes input aad mode iv (leBytes 16 (fieldOf ivt 16 16))
            let s := cmdScatter s c (pieces (c.fld 0x20 8) len (c.fld 0x28 2) outSgl) 0 r.1 false
            let s := cmdWrite s c (c.fld 0x38 8) r.2.1 false
            complete s id { Compl.ok r.1.length (if mode = 0 then ctr else 0) with status := r.2.2 })

end Sys2Proof.Machine
end

