-- ==== Sys2Proof/Machine/Packing.lean ====
section
/-! DEFINITION. Records on their way to tape: WRITE and WRITE_BATCH, ingest, compression, sealing, check-back and
packing (R22, R190 to R195, R253 to R261, R305 to R313, R348 to R353, R387, R388, R408 to R432, R460 to R466). -/

namespace Sys2Proof.Machine

/-! ### What a WRITE or WRITE_BATCH asks for -/

/-- Descriptor `i` of a WRITE_BATCH's list (Table 5-10). -/
def descOf (c : Cmd) (i : Nat) : BitVec 256 := (c.descs[i]?).getD 0

/-- ORIG_LEN, LABEL_LEN, WFLAGS and HOST_CRC of record `i` (Tables 5-9, 5-10). -/
def recLen (c : Cmd) (i : Nat) : Nat := if c.opcode == 0x41 then c.fld 0x14 4 else fieldOf (descOf c i) 8 4
def recLab (c : Cmd) (i : Nat) : Nat := if c.opcode == 0x41 then c.fld 0x22 1 else fieldOf (descOf c i) 0xE 1
def recFlags (c : Cmd) (i : Nat) : Nat := if c.opcode == 0x41 then c.fld 0x12 1 else fieldOf (descOf c i) 0xF 1
def recCrc (c : Cmd) (i : Nat) : Nat := if c.opcode == 0x41 then c.fld 0x24 4 else fieldOf (descOf c i) 0x18 4

/-- Address of record `i`'s label. -/
def recLabAddr (c : Cmd) (i : Nat) : Nat := if c.opcode == 0x41 then c.fld 0x28 8 else fieldOf (descOf c i) 0x10 8

/-- The pieces of host memory behind the data of record `i`. -/
def recBuf (c : Cmd) (i : Nat) : List (Nat × Nat) := (c.bufs[i]?).getD []

/-- Reads the array of a scatter list, if there is one (R280). -/
def readSgl (s : State) (c : Cmd) (addr n : Nat) : State := cmdRead s c addr (16 * n)

/-- Reads the first `n` bytes of a buffer, piece by piece (R280). -/
def readBuf (s : State) (c : Cmd) (ps : List (Nat × Nat)) (n : Nat) : State :=
  match ps with
  | [] => s
  | (a, k) :: r => readBuf (cmdRead s c a (min k n)) c r (n - k)

/-- Is a batch descriptor well formed (Table 5-10, R172, R877)? -/
def descGood (maxLabel : Nat) (d : BitVec 256) : Bool :=
  let f := fieldOf d
  let n := f 0xC 2
  decide (1 ≤ f 8 4 ∧ f 8 4 ≤ 16777215) && decide (n ≤ 256) && decide (f 0xE 1 ≤ maxLabel) && decide (f 0xF 1 < 4) &&
  f 0x1C 4 == 0 && (f 0xE 1 != 0 || f 0x10 8 == 0) && addrFine false (f 0x10 8) (f 0xE 1) 1 &&
  (if n == 0 then addrFine false (f 0 8) (f 8 4) 1 else addrFine false (f 0 8) (16 * n) 16)

/-- The first record of a batch whose descriptor or scatter list is bad, and its completion (R256, R281). -/
def firstBad (maxLabel i : Nat) (ds : List (BitVec 256)) (sgls : List (List SglElem)) : Option (Nat × Compl) :=
  match ds with
  | [] => none
  | d :: r =>
    if !descGood maxLabel d then some (i, Compl.field 0xFF)
    else if !sglOk (fieldOf d 0xC 2) (fieldOf d 8 4) (sgls.headD []) then some (i, Compl.of 6)
    else firstBad maxLabel (i + 1) r sgls.tail

/-- Is engine `idx` of a class in RUN (R751)? -/
def engRun (s : State) (cls idx : Nat) : Bool := (engOf s cls idx).st == .run

/-- The open stream of a command consumed before the stream's CLOSE_STREAM, if it is a read stream exactly when `read` says so (R246
to R248). -/
def streamFor (s : State) (c : Cmd) (read : Bool) : Option (Nat × Stream) :=
  match c.stream.filter fun _ => !c.late with
  | some k => match Tbl.get? s.strm k with
    | some st => if st.read = read then some (k, st) else none
    | none => none
  | none => none

/-- What stops a writing command on transport `t`: thermal write-stop when it was consumed, a spent budget, the end of the partition, or an
engine bound to the transport that is not in RUN (R24, R258, R267, R482, R751). -/
def writeBarred (s : State) (c : Cmd) (t : Nat) : Option Compl :=
  if c.hot then some (Compl.of 0x65)
  else if (xpOf s t).elim false (·.faulted) then some (Compl.of 0x64)
  else if ((xpOf s t).bind (·.mount)).elim false (·.eopRaised) then some (Compl.of 0x61)
  else if !engRun s 0 t || !engRun s 4 t || !engRun s 5 t then some (Compl.of 0x42)
  else none

/-- Completes a writing command that ends: its unacknowledged records are discarded, and a WRITE_BATCH reports its acknowledged
records, or the place of the invalid field (R55, R172, R256, R877, Table 5-13). -/
def endWrite (s : State) (c : Cmd) (k : Compl) : State :=
  complete (dropRecords s c) c.id (if c.opcode = 0x42 ∧ k.status ≠ 2 then { k with result := c.acked } else k)

/-- Completes a WRITE or WRITE_BATCH that is due: its first bad record is reached, or every record is acknowledged (R256). -/
def finishWrite (s : State) (id : Nat) : State :=
  match cmdOf s id with
  | some c =>
    match c.prog, c.done with
    | .writing total stored bad, none =>
      match bad with
      | some (i, k) => if c.acked = i then endWrite s c k else s
      | none => if c.acked = total then endWrite s c (Compl.ok (if c.opcode = 0x41 then stored else total) c.firstSeq) else s
    | _, _ => s
  | none => s

/-- Record `i` fails: it and the later records are discarded at once; the command completes once the earlier ones are
acknowledged (R55, R256). -/
def failRec (s : State) (c : Cmd) (i : Nat) (k : Compl) : State :=
  let s := discardFrom s c i (c.charge - c.voided - sumOf ((List.range i).map (recLen c)))
  let s := updCmd s c.id fun c => { c with
    moved := now s,
    prog := match c.prog with
      | .writing total stored _ => .writing total stored (some (i, k))
      | p => p }
  finishWrite s c.id

/-- The checks that every WRITE and WRITE_BATCH passes before it ingests (R102, R246, R247, R258, R267, R353). -/
def writeChecks (s : State) (c : Cmd) : Except Compl (Stream × Desc) :=
  match streamFor s c false, ctxOf s c.ctx with
  | some (_, st), some x =>
    match selectKey s c x.d with
    | .error k => .error k
    | .ok _ => match writeBarred s c st.xp with
      | some k => .error k
      | none => .ok (st, x.d)
  | _, _ => .error (Compl.of 5)

/-- WRITE: the checks, then its record is ingested (R254, R258, R280, R353). -/
def execWrite (id : Nat) (sgl : List SglElem) (s : State) : Answer :=
  .next (withCmd s id 0x41 fun c =>
    match writeChecks s c with
    | .error k => endWrite s c k
    | .ok _ =>
      if !dataOk s c then endWrite s c (Compl.of 7)
      else
        let s := readSgl s c (c.fld 0x18 8) (c.fld 0x20 2)
        if !sglOk (c.fld 0x20 2) (c.fld 0x14 4) sgl then endWrite s c (Compl.of 6)
        else
          let b := pieces (c.fld 0x18 8) (c.fld 0x14 4) (c.fld 0x20 2) sgl
          updCmd s id fun c => { c with bufs := [b], moved := now s, prog := .writing 1 0 none })

/-- The pieces behind each record of a batch. -/
def batchBufs (descs : List (BitVec 256)) (sgls : List (List SglElem)) : List (List (Nat × Nat)) :=
  match descs with
  | [] => []
  | d :: r => pieces (fieldOf d 0 8) (fieldOf d 8 4) (fieldOf d 0xC 2) (sgls.headD []) :: batchBufs r sgls.tail

/-- WRITE_BATCH: the checks, the total length, then its records are ingested in list order (R256, R285). -/
def execWriteBatch (id : Nat) (descs : List (BitVec 256)) (sgls : List (List SglElem)) (s : State) : Answer :=
  .next (withCmd s id 0x42 fun c =>
    match writeChecks s c with
    | .error k => endWrite s c k
    | .ok (_, d) =>
      if !dataOk s c then endWrite s c (Compl.of 7)
      else if descs.length ≠ c.fld 0x12 2 then s
      else
        let s := cmdRead s c (c.fld 0x18 8) (32 * c.fld 0x12 2)
        if d.staging * 1048576 < sumOf (descs.map fun k => fieldOf k 8 4) then endWrite s c (Compl.field 0x12)
        else
          let s := descs.foldl (fun s k => readSgl s c (fieldOf k 0 8) (fieldOf k 0xC 2)) s
          let s := updCmd s id fun c => { c with
            descs := descs, bufs := batchBufs descs sgls, moved := now s,
            prog := .writing descs.length 0 (firstBad d.maxLabel 0 descs sgls) }
          finishWrite s id)

/-! ### Ingest -/

/-- A WRITE or WRITE_BATCH that is being executed, with its stream and context. -/
def writeWork (s : State) (id : Nat) : Option (Cmd × Stream × Ctx) :=
  match cmdOf s id with
  | some c => match c.prog, c.done, streamFor s c false, ctxOf s c.ctx with
    | .writing _ _ _, none, some (_, st), some x => some (c, st, x)
    | _, _, _, _ => none
  | none => none

/-- May the command ingest record `i`? -/
def wantsRec (c : Cmd) (i : Nat) : Bool :=
  match c.prog with
  | .writing total _ bad => decide (i < total) && bad.elim true (fun b => decide (i < b.1))
  | _ => false

/-- A record as ingested, with its checks and its stamp (R415, R710). -/
def RecWork.ingest (i : Nat) (label data : Bytes) (sec ns : Nat) : RecWork :=
  { idx := i, stage := 0, label := label, data := data, ing := crc32c data, lbl := crc32c label, sec := sec, ns := ns,
    raw := false, payload := [], sealCrc := 0, runStart := false, iv := [], ctr := 0, enc := false, keyId := 0, body := [],
    gtag := [], engine := 0, banned := [], retries := 0, reseals := 0 }

/-- Changes record `i` of a command; it counts as progress (R809). -/
def updRec (s : State) (id i : Nat) (f : RecWork → RecWork) : State :=
  updCmd s id fun c => { c with recs := c.recs.map (fun r => if r.idx == i then f r else r), moved := now s }

/-- RECORD_INGEST: the command's next record, or one that is read again, enters tenant staging under its ingest CRC and
stamp; HOST_CRC is compared (R52, R116, R254, R415). -/
def execRecordIngest (id : Nat) (label data : Bytes) (s : State) : Answer :=
  match writeWork s id with
  | some (c, _, _) =>
    let old := c.recs.find? fun r => r.stage == 4
    let i := old.elim c.recs.length (·.idx)
    if !wantsRec c i || label.length != recLab c i || data.length != recLen c i then .next s
    else if !dataOk s c then .next (failRec s c i (Compl.of 7))
    else
      let s := readBuf (cmdRead s c (recLabAddr c i) (recLab c i)) c (recBuf c i) (recLen c i)
      if bitOf (recFlags c i) 0 && crc32c data != recCrc c i then .next (failRec s c i (Compl.of 0x20)) else
      let r := RecWork.ingest i label data s.tbu.sec s.tbu.ns
      match old with
      | some o => .next (updRec s id i fun _ => { r with retries := o.retries, reseals := o.reseals, banned := o.banned })
      | none =>
        let s' := updCmd s id fun c => { c with recs := c.recs ++ [r], moved := now s }
        let s' := updCtx s' c.ctx fun x => { x with staged := x.staged + data.length }
        .next (countHw s s' c.ctx)
  | none => .next s

/-! ### Host data that cannot be read (R150) -/

/-- Does a command of the opcode read host data for itself? -/
def readsHost (op : Nat) : Bool :=
  op == 0x08 || op == 0x09 || op == 0x10 || op == 0x12 || op == 0x1A || op == 0x1B || op == 0x25 || op == 0x41 ||
  op == 0x42 || op == 0x48 || (0x80 ≤ op && op ≤ 0x82) || op == 0x84

/-- HOST_READ_ERROR: a host data read fails; its record, or its command, ends with HOST_ACCESS_ERROR, and records before it go on
(R150, R256, Table 16-4 class 0). -/
def execHostReadError (id : Nat) (cause : ReadErr) (s : State) : Answer :=
  match cmdOf s id with
  | some c =>
    if readsHost c.opcode && !c.mailbox && c.done.isNone && c.prog != .ordered then
      let s := countFault (logReadErr s (cmdFn s c) cause) 0 1 0 0 0
      let s := faultSpent s { FltLog.blank with
        cls := 0, status := 7, ring := c.ring, cid := c.cid, ctx := if namesCtx c.opcode then c.ctx else 0xFFFF,
        tries := 1 } subjNone 0
      match c.prog with
      | .writing total _ _ =>
        let i := (c.recs.find? fun r => r.stage == 4).elim c.recs.length (·.idx)
        .next (if i < total then failRec s c i (Compl.of 7) else s)
      | _ =>
        let s := (Tbl.get? s.svc id).elim s fun j => if j.stopBy = 0 then s else uncount s j.stopFor
        .next (complete (dropRecords { s with svc := Tbl.del s.svc id } c) id { Compl.of 7 with result := partResult c })
    else .next s
  | none => .next s

/-! ### Compression and sealing -/

/-- A class 1 fault on a record: a restart from staging, or from host memory first for ING and LBL, while the budget
lasts; else RECORD_CRC_MISMATCH (R417, R425, Table 16-4). -/
def ingestFault (s : State) (c : Cmd) (r : RecWork) (k : Seen) (reread : Bool) (ev : Nat) : State :=
  let s := countFault s 1 1 0 0 (if r.retries < 2 then 1 else 0)
  if r.retries < 2 then
    updRec s c.id r.idx fun r => { r with stage := if reread && r.retries == 0 then 4 else 0, retries := r.retries + 1 }
  else
    let s := faultSpent s { FltLog.blank with
      cls := 1, status := 0x20, event := ev, ctx := c.ctx, ring := c.ring, cid := c.cid, tries := 3, flags := seenFlag k,
      detail := seenDetail k } subjCtx c.ctx
    failRec s c r.idx (Compl.of 0x20)

/-- The most that a record can take in the packed stream: its size stored raw (R34, R460). -/
def rawSize (r : RecWork) (enc : Bool) : Nat := alignUp (48 + r.label.length + r.data.length + 4 + if enc then 16 else 0) 16

/-- Records of transport `t` that are coded and not yet packed. -/
def inQueue (s : State) (t : Nat) : List RecWork :=
  ((s.rings.cmds.filter fun c => cmdXp s c == some t && (c.opcode == 0x41 || c.opcode == 0x42) && c.done.isNone).map fun c =>
    c.recs.filter fun r => decide (1 ≤ r.stage ∧ r.stage ≤ 3 ∧ c.acked ≤ r.idx)).flatten

/-- Packed-stream bytes reserved in the write assembly region of transport `t`: the rest of the open dataset, which filler may
take, and the stored-raw size of every record that is coded and not yet packed (R34). -/
def reserved (s : State) (t : Nat) : Nat :=
  (((xpOf s t).bind (·.mount)).bind (·.openDs)).elim 0 (fun o => packBytes - o.used) + sumOf ((inQueue s t).map fun r => rawSize r true)

/-- May one more record be coded: a place in the on-die queues, and space in the write assembly region for its stored-raw size and
the filler of the dataset that it ends in (R23, R34, log entry 138)? -/
def mayCode (s : State) (t : Nat) (r : RecWork) : Bool :=
  decide ((inQueue s t).length < max Config.queueRecords 1) &&
  (s.pmu.bufBytes == 0 || (xpOf s t).elim false fun x =>
    decide (x.occ + reserved s t + rawSize r true + packBytes ≤ writeAsmMib s * 1048576))

/-- Does an earlier FLUSH or SYNC of the stream still have to open its window (R261)? -/
def flushAhead (s : State) (c : Cmd) : Bool :=
  (before s c.id).any fun k => k.stream == c.stream && (k.opcode == 0x43 || k.opcode == 0x44) && k.done.isNone &&
    (match k.prog with
     | .flushWait _ _ => false
     | _ => true)

/-- Does the next record of the stream begin a history run (R305, R306)? -/
def beginsRun (d : Desc) (st : Stream) (key : Nat) : Bool :=
  !d.history || !st.runOpen || st.runKey != key || decide (268435456 ≤ st.runBytes)

/-- RECORD_COMPRESS: lane `t` codes the record or stores it raw, makes the sealed CRC and verifies ING, while the packed stream has
its stored-raw size to spare (R23, R24, R34, R255, R300, R305 to R313, R415, R424). `coded` is the payload that the lane's encoder chose. -/
def execRecordCompress (id : Nat) (ing : Seen) (coded : Bytes) (s : State) : Answer :=
  match writeWork s id with
  | some (c, st, x) =>
    match c.recs.find? fun r => r.stage == 0 with
    | some r =>
      let run := beginsRun x.d st (keySel c)
      let head := r.idx == c.acked && !packsBefore s c && !flushAhead s c
      let off := bitOf (recFlags c r.idx) 1 || !x.d.compressEn
      if (x.d.history && !head) || !mayCode s st.xp r then .next s
      else if !engRun s 0 st.xp then .next (failRec s c r.idx (Compl.of 0x42))
      else
      let s := noteSeen s ing evIng subjCtx c.ctx
      if !seenOk ing then .next (ingestFault s c r ing true evIng)
      else if !off && !ktcCodes st.runData run r.data coded then .next s
      else
        let raw := off || decide (r.data.length ≤ coded.length)
        let p := if raw then r.data else coded
        .next (updRec s id r.idx fun r => { r with
          stage := 1, raw := raw, payload := p, sealCrc := crc32c p, runStart := run })
    | none => .next s
  | none => .next s

/-- The record header with RECORD_SEQ, HIST_BASE and HDR_CRC zero, as the AAD has it (Table 9-2, R349). -/
def aadHeader (tag : Nat) (iv : Bytes) (keyId orig pay lab : Nat) (raw enc : Bool) (sec ns : Nat) : Bytes :=
  leBytes 8 tag ++ iv ++ leBytes 4 keyId ++ leBytes 3 orig ++ leBytes 3 pay ++ leBytes 1 lab ++
  leBytes 1 (b2n raw + 2 * b2n enc) ++ leBytes 7 (ns / 4 + 2 ^ 28 * (sec % 2 ^ 28)) ++ List.replicate 9 0

/-- P: the stored payload followed by the sealed CRC (R348). -/
def RecWork.plain (r : RecWork) : Bytes := r.payload ++ leBytes 4 r.sealCrc

/-- The sealed record: header, AAD, ciphertext and tag under the next IV (R348 to R351). -/
def sealWith (r : RecWork) (d : Desc) (k : KeyVal) (fid ctr engine : Nat) : RecWork :=
  let iv := ivBytes fid ctr
  let aad := aadHeader d.tag iv k.keyId r.data.length r.payload.length r.label.length r.raw true r.sec r.ns ++ r.label
  let g := gcmSeal k.bytes iv aad r.plain
  { r with
    stage := if d.checkback then 2 else 3, iv := iv, ctr := ctr, enc := true, keyId := k.keyId, body := g.1, gtag := g.2,
    engine := engine }

/-- RECORD_SEAL: an engine in RUN seals the record under a fresh IV, or the record passes it by in the clear (R257, R348,
R352, R408, R432, R751). -/
def execRecordSeal (id engine : Nat) (s : State) : Answer :=
  match writeWork s id with
  | some (c, _, x) =>
    match c.recs.find? fun r => r.stage == 1 with
    | some r =>
      let run := runEngines s 2
      if x.d.cipher = 0 then
        .next (updRec s id r.idx fun r => { r with
          stage := 3, iv := List.replicate 12 0, ctr := 0, enc := false, keyId := 0, body := r.plain, gtag := [] })
      else if run.isEmpty || (x.d.checkback && decide (run.length ≤ 1)) then .next (failRec s c r.idx (Compl.of 0x42))
      else if !run.elem engine || (decide (2 < run.length) && r.banned.elem engine) then .next s
      else match keyFor s c x.d with
        | none => .next (failRec s c r.idx (Compl.of 4))
        | some k =>
          let p := nextIv s
          match p.1 with
          | none => .next (failRec (countReject p.2) c r.idx (Compl.of 0x48))
          | some ctr => .next (updRec p.2 id r.idx fun r => sealWith r x.d k p.2.keys.fid ctr engine)
    | none => .next s
  | none => .next s

/-- CHECK_BACK: a second engine decrypts the sealed record and compares its sealed CRC and tag; a difference reseals from
staging twice, then fails the record (R387, R388, R408, R425, R432). -/
def execCheckBack (id engine : Nat) (chk : Seen) (s : State) : Answer :=
  match writeWork s id with
  | some (c, _, _) =>
    match c.recs.find? fun r => r.stage == 2 with
    | some r =>
      let run := runEngines s 2
      if run.length ≤ 1 then .next (failRec s c r.idx (Compl.of 0x42))
      else if !run.elem engine || engine == r.engine then .next s
      else
      let s := noteSeen s chk evCheckback subjCtx c.ctx
      if seenOk chk then .next (updRec s id r.idx fun r => { r with stage := 3 })
      else
        let s := countFault s 2 1 0 0 (if r.reseals < 2 then 1 else 0)
        if r.reseals < 2 then
          .next (updRec s id r.idx fun r => { r with stage := 0, reseals := r.reseals + 1, banned := [r.engine, engine] })
        else
          let s := faultSpent s { FltLog.blank with
            cls := 2, status := 0x20, event := evCheckback, ctx := c.ctx, ring := c.ring, cid := c.cid, tries := 3,
            flags := seenFlag chk, detail := seenDetail chk } subjCtx c.ctx
          .next (failRec s c r.idx (Compl.of 0x20))
    | none => .next s
  | none => .next s

/-! ### Packing (R38, R231, R460 to R466) -/

/-- Bytes of a record from its header to the end of its tag (R464). -/
def storedLen (r : RecWork) : Nat := 48 + r.label.length + r.payload.length + 4 + if r.enc then 16 else 0

/-- Do ingest seconds lie outside the window of R465 around a dataset's INGEST_BASE_SEC? -/
def outWindow (base sec : Nat) : Bool := decide (2 ^ 28 ≤ (sec + 2 ^ 48 - base % 2 ^ 48 + 2 ^ 27) % 2 ^ 48)

/-- Opens the next dataset, if it begins before the end-of-partition point (R231, R267, R471). -/
def openNext (m : Mount) (spanIn : Bool) : Option Mount :=
  if mayOpen m then
    some { m with
      openDs := some ⟨m.nextNum, 0, 0, 0, 0xFFFFFFFF, 0, spanIn, 0⟩, nextNum := m.nextNum + 1,
      c3First := if m.c3Count = 0 then m.nextNum else m.c3First }
  else none

/-- An open dataset that can take a record header now (R461, R466). -/
def openFor48 (s : State) (m : Mount) (sec : Nat) : Option Mount :=
  match m.openDs with
  | some o =>
    if packBytes < o.used + 48 ∨ (o.hdrCount ≠ 0 ∧ outWindow o.ibase sec) then openNext (closeOpen s m false) false else some m
  | none => openNext m false

/-- The record header goes into the open dataset (Table 9-3). The host bytes of a record that spans datasets all count on the dataset
that holds its header: the spec does not say how R29's window shares them (log entry 139). -/
def putHeader (o : OpenDs) (seq sec host : Nat) : OpenDs :=
  if o.hdrCount = 0 then
    { o with firstSeq := seq, hdrCount := 1, firstHdr := o.used, ibase := sec, hostBytes := o.hostBytes + host }
  else { o with hdrCount := o.hdrCount + 1, hostBytes := o.hostBytes + host }

/-- Packs `n` more bytes, into the open dataset and then into the next ones; a dataset without room for another header
closes (R38, R461). Answers the mount session and the dataset that holds the last byte. -/
def fillBytes (s : State) (fuel : Nat) (m : Mount) (n : Nat) : Option (Mount × Nat) :=
  match fuel, m.openDs with
  | k + 1, some o =>
    if n ≤ packBytes - o.used then
      let m := { m with openDs := some { o with used := o.used + n } }
      some (if packBytes < o.used + n + 48 then closeOpen s m false else m, o.num)
    else
      match openNext (closeOpen s { m with openDs := some { o with used := packBytes } } true) true with
      | some m' => fillBytes s k m' (n - (packBytes - o.used))
      | none => none
  | _, _ => none

/-- Where a record was packed. -/
def packInto (s : State) (m : Mount) (size seq sec host : Nat) : Option (Mount × Nat × Nat × Nat) :=
  match openFor48 s m sec with
  | some m1 => match m1.openDs with
    | some o =>
      match fillBytes s 8 { m1 with openDs := some (putHeader o seq sec host) } size with
      | some (m2, last) => some (m2, o.num, o.used, last)
      | none => none
    | none => none
  | none => none

/-- Data datasets that a mount session holds closed. -/
def dataClosed (m : Mount) : Nat := (m.closed.filter fun d => !d.hdr.parity).length

/-- Packed-stream bytes added between two states of a mount session, filler of closed datasets included. -/
def packedBytes (m m' : Mount) : Nat :=
  (dataClosed m' - dataClosed m) * packBytes + m'.openDs.elim 0 (·.used) - m.openDs.elim 0 (·.used)

/-- The return block of an acknowledged record (Table 4-4). -/
def returnBlock (r : RecWork) (stored seq xp part ds off : Nat) (spans : Bool) : Bytes :=
  let b := (if r.enc then r.iv else List.replicate 12 0) ++
    (pageOf 0x3C [(0x0C, 4, stored), (0x10, 8, seq), (0x18, 6, r.sec), (0x20, 4, r.ns), (0x24, 1, xp), (0x25, 1, part),
      (0x26, 1, b2n r.raw + 2 * b2n r.enc + 4 * b2n spans), (0x28, 8, ds), (0x30, 4, off), (0x34, 4, r.data.length)]).drop 12
  b ++ leBytes 4 (crc32c b)

/-- The record as it goes to tape. -/
def tapeRec (r : RecWork) (tag seq hist ds off last : Nat) : TapeRec :=
  { seq := seq, tag := tag, iv := r.iv, keyId := r.keyId, origLen := r.data.length, label := r.label, raw := r.raw, enc := r.enc,
    sec := r.sec, ns := r.ns, histBase := hist, body := r.body, gtag := r.gtag, ds := ds, off := off, dsLast := last }

/-- The stream after a record of it is acknowledged (R232, R306, Table 5-12). -/
def ackStream (r : RecWork) (key seq ds last : Nat) (st : Stream) : Stream :=
  { st with
    lastAck := seq, acked := st.acked + 1, lastDs := last, unsynced := st.unsynced ++ [(seq, ds, last)],
    runBase := if r.runStart then seq else st.runBase,
    runBytes := (if r.runStart then 0 else st.runBytes) + r.data.length,
    runKey := key, runOpen := true,
    runData := let h := (if r.runStart then [] else st.runData) ++ r.data
               h.drop (h.length - 65536) }

/-! ### Damage after acknowledgement (R429 to R431) -/

/-- The header fields of dataset `n` of the partition being written: its final attempt (R471). -/
def dsFields (x : Xport) (m : Mount) (n : Nat) : Option TapeDs :=
  match closedOf m n, x.cart, m.wrPart with
  | some d, _, _ => some d.hdr
  | none, some c, some p => ((c.parts[p]?).elim [] (·.ds)).foldl (fun b d =>
      if d.num = n ∧ d.gen = m.gen ∧ b.elim true (fun (k : TapeDs) => decide (k.attempt ≤ d.attempt)) then some d else b) none
  | none, _, _ => none

/-- Data datasets strictly between two numbers (R471). -/
def dataBetween (x : Xport) (m : Mount) (a b : Nat) : Nat :=
  ((List.range (b - a - 1)).filter fun i => !(dsFields x m (a + 1 + i)).elim false (·.parity)).length

/-- The records of the partition being written, on tape or on the way. -/
def partRecs (x : Xport) (m : Mount) : List TapeRec :=
  (match x.cart, m.wrPart with
   | some c, some p => (c.parts[p]?).elim [] (·.recs)
   | _, _ => []) ++ m.recs

/-- Bytes that a record on tape takes in the packed stream (R460). -/
def tapeSize (r : TapeRec) : Nat := alignUp (48 + r.label.length + r.body.length + if r.enc then 16 else 0) 16

/-- The packed-stream span of a record in dataset `n` (R461). -/
def spanIn (x : Xport) (m : Mount) (r : TapeRec) (n : Nat) : Nat × Nat :=
  if n = r.ds then (r.off, min (r.off + tapeSize r) packBytes)
  else (0, min (r.off + tapeSize r - packBytes * (dataBetween x m r.ds n + 1)) packBytes)

/-- Has the record a byte in one of the data rows (R457)? -/
def hitBy (x : Xport) (m : Mount) (r : TapeRec) (n : Nat) (rows : List Nat) : Bool :=
  let p := spanIn x m r n
  decide (r.ds ≤ n ∧ n ≤ r.dsLast) && rows.any fun a => decide (p.1 < 1008 * (a + 1) - 512 ∧ 1008 * a < p.2 + 512)

/-- One acknowledged record is damaged: its bytes are read as they are, it is noted on its stream and logged (R429 to R431).
What it then reads as is a free value. -/
def damageOne (s : State) (t : Nat) (r : TapeRec) (n : Nat) (k : Seen) : State :=
  let (i, s) := drawFree s
  let ctx := ((s.ten.ctx.find? fun p => p.2.d.tag == r.tag).map (·.1)).getD 0xFFFF
  let hit (k : TapeRec) : TapeRec :=
    if k.seq == r.seq then { k with body := (Config.freeBytes i ++ List.replicate k.body.length 0).take k.body.length } else k
  let s := updXp s t fun x => { x with
    mount := x.mount.map fun m => { m with recs := m.recs.map hit },
    cart := x.cart.map fun c => { c with
      parts := (numbered c.parts 0).map fun e =>
        if x.mount.elim false (fun m => m.wrPart == some e.1) then { e.2 with recs := e.2.recs.map hit } else e.2 } }
  let s := { s with strm := Tbl.mapVal s.strm fun _ st =>
    if st.xp == t && st.unsynced.any (fun u => u.1 == r.seq) then
      { st with damaged := some ((st.damaged).elim r.seq fun q => min q r.seq) }
    else st }
  faultSpent s { FltLog.blank with
    cls := 3, status := 0x20, event := evRow, ctx := ctx, xp := t, ds := n, recSeq := r.seq, tries := 4, flags := 1 ||| seenFlag k,
    detail := seenDetail k } subjCtx ctx

/-- Reads of a row that its budget allows: a data row is read again three times, a parity row recomputed once (R425, Table 16-4). -/
def rowReads (r : RowSeen) : List Seen := r.tries.take (if r.row < 4096 then 4 else 2)

/-- Does the row still fail ROW after its budget? -/
def rowBad (r : RowSeen) : Bool := !(rowReads r).isEmpty && (rowReads r).all fun k => !seenOk k

/-- One row's checks: what its memory showed, and the class's counters (R422 to R424, R797, Table 16-7). -/
def noteRow (s : State) (r : RowSeen) : State :=
  let s := (rowReads r).foldl (fun s k => noteSeen s k evRow subjNone 0) s
  let fails := ((rowReads r).takeWhile fun k => !seenOk k).length
  if fails = 0 then s else countFault s 3 1 (b2n !rowBad r) 0 (min fails (if r.row < 4096 then 3 else 1))

/-- The rows of dataset `n` that were read: every record with a byte in a data row that still fails ROW after its budget is damaged;
a row that holds none is logged alone (R415, R416, R429, R434). -/
def damageRows (s : State) (t n : Nat) (rows : List RowSeen) : State :=
  let s := rows.foldl noteRow s
  (rows.filter rowBad).foldl (fun s q =>
    let k := (rowReads q).getLast?.getD seenFine
    match (xpOf s t).bind fun x => x.mount.map fun m => (partRecs x m).filter fun r => hitBy x m r n [q.row] with
    | some (r :: l) => (r :: l).foldl (fun s r => damageOne s t r n k) s
    | _ => faultSpent s { FltLog.blank with
        cls := 3, status := 0x20, event := evRow, xp := t, ds := n, tries := (rowReads q).length, flags := seenFlag k,
        detail := seenDetail k } subjNone 0) s

/-! ### Acknowledgement -/

/-- The partition at its end: the event once, and END_OF_PARTITION for the record (R267). -/
def atEop (s : State) (c : Cmd) (t i : Nat) : State :=
  let first := ((xpOf s t).bind (·.mount)).elim false fun m => !m.eopRaised
  let s := updMount s t fun m => { m with eopRaised := true }
  let s := if first then raise s (evXp t 8) subjXp t 0 else s
  failRec s c i (Compl.of 0x61)

/-- The record is packed and acknowledged: RECORD_SEQ, header, return block, staging released (R52, R141, R194, R232, R414). -/
def ackRecord (s : State) (c : Cmd) (x : Ctx) (k : Nat) (st : Stream) (r : RecWork) (m m' : Mount) (seq ds off last : Nat) : State :=
  let hist := if r.runStart then seq else st.runBase
  let m' := { m' with
    recs := m'.recs ++ [tapeRec r x.d.tag seq hist ds off last],
    parts := updPart m'.parts st.part fun e => { e with nextSeq := seq + 1 } }
  let s := addOcc (updMount s st.xp fun _ => m') st.xp (packedBytes m m')
  let s := cmdWrite s c (c.fld 8 8 + 64 * r.idx)
    (returnBlock r (storedLen r) seq st.xp st.part ds off (ds != last)) false
  let s := updStrm s k (ackStream r (keySel c) seq ds last)
  let s := updCmd s c.id fun c => { c with
    acked := c.acked + 1, firstSeq := if c.acked = 0 then seq else c.firstSeq, moved := now s,
    prog := match c.prog with
      | .writing total _ bad => .writing total (storedLen r) bad
      | p => p }
  let s' := updCtx s c.ctx fun x => { x with staged := x.staged - r.data.length }
  let s' := countHw s s' c.ctx
  let s' := if r.retries = 0 then s' else countFault s' 1 0 1 0 0
  if r.reseals = 0 then s' else countFault s' 2 0 1 0 0

/-- RECORD_PACK: DSA verifies XFR and LBL, packs the command's next record and acknowledges it; `rows` are rows of the dataset that
closes here whose ROW checks did not all agree (R34, R141, R190, R267, R415, R424, R429, R460 to R466, R751). -/
def execRecordPack (id : Nat) (xfr lbl : Seen) (rows : List RowSeen) (s : State) : Answer :=
  match writeWork s id with
  | some (c, st, x) =>
    match c.recs.find? fun r => r.idx == c.acked, c.stream, (xpOf s st.xp).bind (·.mount) with
    | some r, some k, some m =>
      if r.stage ≠ 3 ∨ packsBefore s c ∨ !dataOk s c ∨ asmFull s st.xp then .next s
      else if !engRun s 5 st.xp then .next (failRec s c r.idx (Compl.of 0x42))
      else if (xpOf s st.xp).elim false (·.faulted) then .next (failRec s c r.idx (Compl.of 0x64))
      else
      let s := noteSeen (noteSeen s xfr evXfr subjCtx c.ctx) lbl evChain subjCtx c.ctx
      if !seenOk xfr then .next (ingestFault s c r xfr false evXfr)
      else if !seenOk lbl then .next (ingestFault s c r lbl true evChain)
      else if m.eopRaised then .next (failRec s c r.idx (Compl.of 0x61))
      else
        let seq := (partOf m st.part).elim 1 (·.nextSeq)
        match packInto s m (alignUp (storedLen r) 16) seq r.sec r.data.length with
        | none => .next (atEop s c st.xp r.idx)
        | some (m', ds, off, last) =>
          let s := ackRecord s c x k st r m m' seq ds off last
          let s := if dataClosed m < dataClosed m' then
              damageRows s st.xp (m.openDs.elim ds (·.num)) rows
            else s
          .next (settle (finishWrite s id))
    | _, _, _ => .next s
  | none => .next s

/-- FLUSH_WINDOW_EXPIRE: FLUSH_WINDOW_MS after the window opened, the open dataset closes with filler (R259, R429). -/
def execFlushWindowExpire (dt t : Nat) (rows : List RowSeen) (s : State) : Answer :=
  let s := advance s dt
  match (xpOf s t).bind (·.mount) with
  | some m =>
    match m.flushAt, m.openDs with
    | some at_, some o =>
      if at_ ≤ now s then .next (settle (damageRows (closeDataset s t false) t o.num rows)) else .next s
    | _, _ => .next s
  | none => .next s

end Sys2Proof.Machine
end

