-- ==== Sys2Proof/Machine/Format.lean ====
section
/-! DEFINITION. The bytes of GRF-3 as the write lanes send them and as cartridge memory holds them: bit order, segments,
separators, the scrambler, C1, C2 and C3, codeword, record and dataset headers (R443 to R478, R483). -/

namespace Sys2Proof.Machine

/-! ### Scrambler (R449 to R451) -/

/-- The scrambler seed of subset `s`, row `r` of dataset `n` (R449). -/
def scramSeed (n s r : Nat) : BitVec 15 :=
  let v := 0x7FFF#15 ^^^ BitVec.ofNat 15 ((4608 * n + 144 * s + r) % 32768)
  if v = 0 then 1 else v

/-- One byte, most significant bit first: the state after `k` bits and the bits sent (R450). -/
def scramBits (st : BitVec 15) (x : Byte) (k : Nat) : BitVec 15 × Byte :=
  match k with
  | 0 => (st, x)
  | j + 1 =>
    let p := scramBits st x j
    let fb := p.1.msb != p.1.getMsbD 1
    ((p.1 <<< 1) ||| (if fb then 1 else 0), p.2 ^^^ (if fb then 0x80#8 >>> j else 0))

/-- A payload scrambled from a state; descrambling is the same (R450). -/
def scramble (st : BitVec 15) (b : Bytes) : Bytes :=
  match b with
  | [] => []
  | x :: r =>
    let p := scramBits st x 8
    p.2 :: scramble p.1 r

/-! ### C1 (R444, R452, R453) -/

/-- The shift of block (i, j) for information columns, none where it is empty (R452). -/
def c1Shift (i j : Nat) : Option Nat := if (j + 2 * i) % 5 = 0 then none else some ((23 * i * j + 7 * i + 3 * j) % 128)

/-- λ of block row `i` over the information blocks from column `j` on (R453). A block's bit `b` is its `b`-th most significant. -/
def c1Lambda (i j : Nat) (u : List (BitVec 128)) : BitVec 128 :=
  match u with
  | [] => 0
  | x :: r => (match c1Shift i j with
    | some k => x.rotateLeft k
    | none => 0) ^^^ c1Lambda i (j + 1) r

/-- The five parity blocks (R453). -/
def c1Parity (u : List (BitVec 128)) : List (BitVec 128) :=
  let l0 := c1Lambda 0 0 u
  let l1 := c1Lambda 1 0 u
  let l2 := c1Lambda 2 0 u
  let l3 := c1Lambda 3 0 u
  let p64 := l0 ^^^ l1 ^^^ l2 ^^^ l3 ^^^ c1Lambda 4 0 u
  let p65 := l0 ^^^ p64.rotateLeft 1
  let p66 := l1 ^^^ p65
  let p67 := l2 ^^^ p64 ^^^ p66
  [p64, p65, p66, p67, l3 ^^^ p67]

/-- The 1,104 bytes of a codeword: header, scrambled payload, parity (R444). -/
def codeword (info : Bytes) : Bytes :=
  info ++ ((c1Parity ((chunks 16 64 info).map fun b => BitVec.ofNat 128 (beNat b))).map fun p => beBytes 16 p.toNat).flatten

/-! ### Codeword header and segment (R445, R454, Table 9-1) -/

/-- A codeword header: CFLAGS is REWRITE, DEFERRED, C3_PARITY and FILLER (Table 9-1). -/
def cwHeader (n s r wrap part flags attempt c3Pos : Nat) : Bytes :=
  let b := pageOf 14 [(0, 6, n), (6, 1, s), (7, 1, r), (8, 1, wrap), (9, 1, part), (10, 1, flags), (11, 1, attempt), (12, 1, c3Pos)]
  b ++ leBytes 2 (crc16 b).toNat

/-- A segment of 8,944 bits: preamble, sync mark, codeword, pad (R445). -/
def segment (cw : Bytes) : Bytes := List.replicate 8 0xCC ++ [0xB4, 0x6F, 0x0E, 0x53] ++ cw ++ [0x33, 0x33]

/-- A separator of `bits` bits: 512 at the end of a position, 2,048 as a lead-in (R446, R447). -/
def separator (bits : Nat) : Bytes := List.replicate (bits / 8) 0xF0

/-! ### C2 (R458) -/

/-- Product in GF(2^8) with 0x11D, over `n` bits of the second factor (R458). -/
def rsMul (a b : Byte) (n : Nat) : Byte :=
  match n with
  | 0 => 0
  | m + 1 => (if b.getLsbD 0 then a else 0) ^^^ rsMul (if a.msb then (a <<< 1) ^^^ 0x1D else a <<< 1) (b >>> 1) m

/-- Coefficients below x^n of the product of (x + α^i) for i below n, constant last; `a` is α^0, α^1, … (R458). -/
def rsGen (n : Nat) : List Byte × Byte :=
  match n with
  | 0 => ([], 1)
  | m + 1 =>
    let p := rsGen m
    (List.zipWith (· ^^^ ·) (p.1 ++ [0]) ((1 :: p.1).map fun c => rsMul c p.2 8), rsMul p.2 2 8)

/-- One more row goes through the division by the generator; the state is the remainder's rows, x^15 first (R458). -/
def rsStep (regs : List Bytes) (row : Bytes) : List Bytes :=
  let f := xorBytes row (regs.headD [])
  List.zipWith (fun reg g => xorBytes reg (f.map fun x => rsMul x g 8)) (regs.tail ++ [List.replicate 1008 0]) (rsGen 16).1

/-- The sixteen parity rows of a subset's 128 data rows (R458). -/
def rsParity (rows : List Bytes) : List Bytes := rows.foldl rsStep (List.replicate 16 (List.replicate 1008 0))

/-! ### Record and dataset headers (R460 to R470) -/

/-- The record header as it goes to tape (Table 9-2). -/
def recHeader (r : TapeRec) : Bytes :=
  let b := (aadHeader r.tag r.iv r.keyId r.origLen (r.body.length - 4) r.label.length r.raw r.enc r.sec r.ns).take 0x27 ++
    leBytes 1 r.seq ++ leBytes 4 r.histBase
  b ++ leBytes 4 (crc32c (b ++ List.replicate 4 0 ++ r.label))

/-- A record in the packed stream, padded to a multiple of 16 (R460). -/
def recBytes (r : TapeRec) : Bytes :=
  let b := recHeader r ++ r.label ++ r.body ++ r.gtag
  b ++ List.replicate (alignUp b.length 16 - b.length) 0

/-- The dataset header of a data dataset in partition `p` (Table 9-3). -/
def dsHeader (p : Nat) (d : TapeDs) : Bytes :=
  let skip := d.skipCause != 0
  let b := pageOf 0x1FC ([(0x000, 4, 0x33465247), (0x004, 1, 1),
    (0x005, 1, b2n (d.c3Pos != 0xFF) + 2 * b2n d.spanIn + 4 * b2n d.spanOut + 8 * b2n (decide (d.fillOff < packBytes)) + 16 * b2n skip),
    (0x006, 1, p), (0x007, 1, d.attempt), (0x008, 8, d.num), (0x010, 4, d.gen), (0x014, 4, d.fid), (0x018, 6, d.sec),
    (0x020, 4, d.ns), (0x024, 2, d.wrap), (0x026, 1, d.c3Pos), (0x028, 8, d.c3First), (0x030, 8, d.firstSeq),
    (0x038, 4, d.hdrCount), (0x03C, 4, d.firstHdr), (0x040, 4, d.fillOff), (0x048, 6, d.ibase)] ++
    (if skip then [(0x080, 2, d.skipWrap), (0x082, 1, d.skipCause), (0x084, 4, d.skipStart), (0x088, 4, d.skipEnd),
      (0x08C, 4, d.squallLanes)] else []))
  b ++ leBytes 4 (crc32c b)

/-! ### The dataset array (R456, R457, R471, R474) -/

/-- The packed stream of dataset `n`: the end of the record that spans in, the records that begin there, filler (R460 to R462). -/
def packedStream (x : Xport) (m : Mount) (n : Nat) : Bytes :=
  let rs := partRecs x m
  let into := (rs.filter fun r => decide (r.ds < n ∧ n ≤ r.dsLast)).map fun r =>
    (recBytes r).drop (packBytes - r.off + packBytes * dataBetween x m r.ds n)
  let own := (rs.filter fun r => r.ds == n).map recBytes
  let b := ((into ++ own).flatten).take packBytes
  b ++ List.replicate (packBytes - b.length) 0

/-- Row `r` of subset `s` of a data dataset: a data row, or a C2 parity row (R456 to R458). -/
def dataRow (x : Xport) (m : Mount) (d : TapeDs) (s r : Nat) : Bytes :=
  let a := dsHeader (m.wrPart.getD 0) d ++ packedStream x m d.num
  let rows := chunks 1008 128 (a.drop (129024 * s))
  if r < 128 then (rows[r]?).getD [] else ((rsParity rows)[r - 128]?).getD []

/-- Row `r` of subset `s` of dataset `d`; that of a C3 parity dataset is the exclusive or of its members' (R471, R474). -/
def arrayRow (x : Xport) (m : Mount) (d : TapeDs) (s r : Nat) : Bytes :=
  if d.parity then
    (List.range (d.num - d.c3First)).foldl (fun b i =>
      (dsFields x m (d.c3First + i)).elim b fun k => xorBytes b (dataRow x m k s r)) (List.replicate 1008 0)
  else dataRow x m d s r

/-- The segment of codeword `cw` (144·s + r) of dataset `d`, in place or as a rewrite (R451, R459, R478). -/
def dsSegment (x : Xport) (m : Mount) (d : TapeDs) (cw : Nat) (rewrite deferred : Bool) : Bytes :=
  let s := cw / 144
  let r := cw % 144
  segment (codeword (cwHeader d.num s r d.wrap (m.wrPart.getD 0) (b2n rewrite + 2 * b2n deferred + 4 * b2n d.parity) d.attempt d.c3Pos ++
    scramble (scramSeed d.num s r) (arrayRow x m d s r)))

/-- A filler segment in the position of dataset `d` (R451, R455). -/
def fillerSegment (m : Mount) (d : TapeDs) : Bytes :=
  segment (codeword (cwHeader d.num 0 0 d.wrap (m.wrPart.getD 0) (8 + 4 * b2n d.parity) d.attempt d.c3Pos ++
    scramble (scramSeed d.num 0 0) (List.replicate 1008 0)))

/-- What write lane `l` of transport `t` sends. -/
def sendLane (s : State) (t l : Nat) (b : Bytes) : State := { s with out := .lane (32 * t + l) b :: s.out }

/-- All 32 write lanes send the same bytes. -/
def sendAll (s : State) (t : Nat) (b : Bytes) : State := (List.range 32).foldl (fun s l => sendLane s t l b) s

/-! ### Cartridge memory (R483, Table 9-4) -/

/-- The 3,140 bytes of a copy of the table (Table 9-4). -/
def cmBytes (serial : Bytes) (k : CmCopy) : Bytes :=
  let b := pageOf 0xC40 ([(0x000, 4, 0x4D433347), (0x004, 1, 1), (0x005, 1, k.parts.length), (0x008, 4, k.seq), (0x00C, 4, k.gen),
      (0x010, 16, leNat ((serial ++ List.replicate 16 0x20).take 16))] ++
    ((numbered k.parts 0).map fun q =>
      let e := q.2
      shiftFields (0x40 + 48 * q.1) [(0, 1, e.policy), (1, 1, b2n e.c3 + 2 * b2n e.wp + 4 * b2n e.dirty), (2, 2, e.wraps),
        (4, 1, e.firstWrap), (8, 8, e.tag), (0x10, 8, e.eod), (0x18, 8, e.nextSeq), (0x20, 1, e.eodWrap), (0x24, 4, e.eodLpos)]).flatten)
  b ++ leBytes 4 (crc32c b)

/-- The copies that an update of cartridge memory on transport `t` has written between two states, in pieces on the transport's port
(R483, R484, R588). -/
def sendCm (old s : State) (t : Nat) : State :=
  match (xpOf old t).bind (·.cart), (xpOf s t).bind (·.cart) with
  | some a, some b =>
    let put (s : State) (x y : Option CmCopy) (off : Nat) : State := match y with
      | some k => if x = y then s else pspQueue s (t / 2) ((piecesOf off (cmBytes b.serial k) 64).map fun p => .cartMem t p.1 p.2)
      | none => s
    put (put s a.cmA b.cmA 0) a.cmB b.cmB 0x1000
  | _, _ => s

/-- Changes transport `t` and its cartridge memory. -/
def storeCm (s : State) (t : Nat) (f : Xport → Xport) : State := sendCm s (updXp s t f) t

end Sys2Proof.Machine
end

