-- ==== Sys2Proof/Machine/Writer.lean ====
section
/-! DEFINITION. Writing datasets to tape: positions, segments, rewrite areas, abandoned and interrupted attempts, speed
matching, restart, turnaround and what CC2 recomputes at a dataset boundary (R27 to R36, R75, R76, R442 to R447,
R473 to R482, R570, R580 to R586). -/

namespace Sys2Proof.Machine

/-! ### Faults of the write path -/

/-- Fails the WRITEs and WRITE_BATCHes of transport `t`; FLUSH, SYNC and CLOSE_STREAM settle with TRANSPORT_FAULT (R482, R572). -/
def failWriters (s : State) (t : Nat) : State :=
  let l := s.rings.cmds.filter fun c => c.done.isNone && cmdXp s c == some t &&
    (match c.prog with
     | .writing _ _ _ => true
     | _ => false)
  settle (l.foldl (fun s c => failRec s c c.acked (Compl.of 0x64)) s)

/-- A retry budget of the transport's writing is spent: the transport faults and stops (R482, R572, R573). -/
def faultXport (s : State) (t cls tries ds : Nat) : State :=
  let s := updXp s t fun x => { stopTape x .stopped with
    faulted := true, mount := x.mount.map fun m => { m with cur := none } }
  let s := faultSpent s { FltLog.blank with
    cls := cls, status := 0x64, event := evXp t 2, xp := t, ds := ds, tries := tries } subjXp t
  failWriters s t

/-! ### Positions -/

/-- Bits of a segment and of a separator on one lane (R445, R446). -/
def segBits : Nat := 8944
def sepBits : Nat := 512

/-- Bits that a dataset position may need with its largest rewrite area (R442, R476). -/
def needBits : Nat := dsBits + 48 * segBits

/-- Does the next position fit on the current wrap (R442)? -/
def fitsWrap (m : Mount) : Bool := decide (m.wrBits + needBits ≤ wrapBits m.wrWrap)

/-- Is the current wrap the last of the partition? -/
def lastWrap (m : Mount) : Bool :=
  (m.wrPart.bind (partOf m)).elim true fun e => decide (e.firstWrap + e.wraps ≤ m.wrWrap + 1)

/-- The velocity ceiling of a wrap's zone in mm/s (R35, Table 11-10). -/
def ceilOf (x : Xport) (w : Nat) : Nat := 10 * if zoneA w then x.blk.vCeilA else x.blk.vCeilB

/-- Linear density of a wrap in bits per metre (R439). -/
def density (w : Nat) : Nat := if zoneA w then 30000000 else 26000000

/-- The next dataset's position starts (R447, R473). -/
def beginPos (m : Mount) (gate lead : Bool) : Mount :=
  match nextToWrite m with
  | some d =>
    { m with
      cur := some ⟨d.hdr.num, d.hdr.attempt, 0, !gate && !lead, lead, false⟩,
      closed := m.closed.map fun k => if k.hdr.num == d.hdr.num then { k with hdr := { k.hdr with wrap := m.wrWrap } } else k }
  | none => { m with cur := none }

/-! ### Cartridge memory (R483, R484) -/

/-- Is sequence `a` newer than `b` (R484)? -/
def newerSeq (a b : Nat) : Bool := decide (1 ≤ (a + 2 ^ 32 - b % 2 ^ 32) % 2 ^ 32 ∧ (a + 2 ^ 32 - b % 2 ^ 32) % 2 ^ 32 ≤ 2 ^ 31 - 1)

/-- The copy that a reader uses: true for the one at offset 0x1000 (R484). -/
def usesB (c : Cart) : Bool :=
  match c.cmA, c.cmB with
  | some a, some b => newerSeq b.seq a.seq
  | none, some _ => true
  | _, none => false

/-- The table in use (R484). -/
def cmTable (c : Cart) : Option CmCopy := if usesB c then c.cmB else c.cmA

/-- Writes a table over the copy that a reader would not use (R484). -/
def cmPut (c : Cart) (gen : Nat) (parts : List PartEntry) : Cart :=
  match cmTable c with
  | none => { c with cmA := some ⟨1, gen, parts⟩ }
  | some k =>
    let n : CmCopy := ⟨(k.seq + 1) % 2 ^ 32, gen, parts⟩
    if usesB c then { c with cmA := some n } else { c with cmB := some n }

/-- DIRTY of the partition being written is set in cartridge memory, unless it is set already (R233). -/
def markDirty (x : Xport) : Xport :=
  match x.cart, x.mount.bind (·.wrPart) with
  | some c, some p => match cmTable c with
    | some k =>
      if (k.parts[p]?).elim true (·.dirty) then x
      else { x with cart := some (cmPut c k.gen (updPart k.parts p fun e => { e with dirty := true })) }
    | none => x
  | _, _ => x

/-- Linear density of the wrap that transport `x` reads or writes; a GRF-2 tape has one zone (Table 9-5). -/
def densityOf (x : Xport) (w : Nat) : Nat := if x.cart.elim 1 (·.format) == 2 then 21000000 else density w

/-- The dataset that the position being written holds. -/
def curDs (m : Mount) : Option ClosedDs := m.cur.bind fun c => closedOf m c.num

/-- The dataset at the previous position while not all its codewords have passed: its rewrites are deferred here (R476, R479). -/
def prevDs (m : Mount) (n : Nat) : Option ClosedDs := m.closed.find? fun d => d.written && !d.synced && d.hdr.num != n

/-- Have all codewords of enabled lanes passed verify (R415, R803)? -/
def allPassed (s : State) (t : Nat) (d : ClosedDs) : Bool :=
  decide (cwNeeded s t ≤ (d.passed.filter fun w => !s.rc.disabled.elem (32 * t + laneOf w)).length)

/-- May rewrites of dataset `n` go into the next position: does that hold the next data dataset, already closed (R473, R479)? -/
def canDefer (m : Mount) (n : Nat) : Bool :=
  match m.closed.find? fun d => !d.written && d.hdr.num != n with
  | some d => decide (n < d.hdr.num) && !d.hdr.parity
  | none => false

/-- Does a SYNC, or a CLOSE_STREAM with SYNC, wait on transport `t` (R263, R580, R582)? -/
def syncWaits (s : State) (t : Nat) : Bool :=
  s.rings.cmds.any fun c => c.done.isNone && wantsSync c && c.prog != .ordered && cmdXp s c == some t

/-- Does a SYNC wait on dataset `n` (R263)? -/
def syncWaitsOn (s : State) (t n : Nat) : Bool :=
  s.rings.cmds.any fun c => c.done.isNone && cmdXp s c == some t &&
    (match c.prog with
     | .flushWait true ds => decide (n ≤ ds)
     | _ => false)

/-! ### Rewrites and abandoned attempts -/

/-- Abandons the attempt of dataset `n`: cause 1 squall, 2 budget or area, 3 interrupted (R480, R481), which raises no
event. An attempt whose position has already ended is due again at once; after the fourth the transport faults (R482). -/
def abandon (s : State) (t n cause : Nat) : State :=
  match ((xpOf s t).bind (·.mount)).bind (closedOf · n) with
  | some d =>
    if d.abandon ≠ 0 then s
    else
      let s := updXp s t fun x => { x with rw := { x.rw with
        abandon := Tbl.put x.rw.abandon cause (satAdd 32 ((Tbl.get? x.rw.abandon cause).getD 0) 1) } }
      let s := if cause = 3 then s else raise s (evXp t 4) subjXp t n
      if d.written then
        let s := updMount s t fun m => updClosed m n (nextAttempt d.hdr.wrap d.hdr.begAt d.hdr.endAt cause)
        if lastAttempt d then faultXport s t 4 4 n else s
      else updMount s t fun m => updClosed m n fun d => { d with abandon := cause }
  | none => s

/-- What is left of the previous position's dataset cannot be deferred any further: its attempt is abandoned (R479, R480). -/
def dropPrev (s : State) (t n cause : Nat) : State :=
  match ((xpOf s t).bind (·.mount)).bind (prevDs · n) with
  | some d => abandon s t d.hdr.num cause
  | none => s

/-- The earliest rewrite pending for lane `l` of one dataset. -/
def firstPending (d : Option ClosedDs) (l : Nat) : Option (Nat × Nat × Nat) :=
  (d.bind fun d => if d.abandon = 0 then some d.pending else none).bind fun p => p.find? fun e => e.2.1 == l

/-- What lane `l` writes in the rewrite area: the rewrite decided first among its own and the deferred ones, or filler
(R476, R477). Answers the dataset and attempt, the codeword, and whether it is deferred. -/
def areaPick (m : Mount) (own : ClosedDs) (l : Nat) : Option (Nat × Nat × Nat × Bool) :=
  let prev := prevDs m own.hdr.num
  match firstPending (some own) l, firstPending prev l, prev with
  | some a, some b, some p =>
    if b.1 < a.1 then some (p.hdr.num, p.hdr.attempt, b.2.2, true) else some (own.hdr.num, own.hdr.attempt, a.2.2, false)
  | some a, _, _ => some (own.hdr.num, own.hdr.attempt, a.2.2, false)
  | none, some b, some p => some (p.hdr.num, p.hdr.attempt, b.2.2, true)
  | none, _, _ => none

/-- A rewrite leaves the pending list and counts against its lane's budget (R528). -/
def takeRewrite (cw l : Nat) (deferred : Bool) (d : ClosedDs) : ClosedDs :=
  { d with
    pending := d.pending.filter fun e => !(e.2.1 == l && e.2.2 == cw),
    rewrites := Tbl.put d.rewrites l (((Tbl.get? d.rewrites l).getD 0) + 1),
    rewSegs := d.rewSegs + 1, defSegs := d.defSegs + b2n deferred }

/-- The write lane sends codeword `cw` of dataset `n`, in place or as a rewrite (R451, R478). -/
def sendCodeword (s : State) (t l n cw : Nat) (rewrite deferred : Bool) : State :=
  match xpOf s t with
  | some x => match x.mount with
    | some m => (dsFields x m n).elim s fun d => sendLane s t l (dsSegment x m d cw rewrite deferred)
    | none => s
  | none => s

/-- A segment's codeword goes onto its way to the read element of lane `l`; a disabled lane's read channel is idle (R803). -/
def fly (s : State) (t l : Nat) (w : CwId) : State :=
  let g := 32 * t + l
  if s.rc.disabled.elem g then s
  else
    let x := laneAt s g
    { s with rc.lanes := Tbl.put s.rc.lanes g { x with flight := x.flight ++ [w], active := true } }

/-- Lane `l` writes its segment of the position `c` (R455, R459, R476 to R478). -/
def laneSegment (t : Nat) (c : CurPos) (s : State) (l : Nat) : State :=
  match ((xpOf s t).bind (·.mount)) with
  | none => s
  | some m =>
    match closedOf m c.num with
    | none => s
    | some d =>
      let filler : CwId := ⟨c.num, c.attempt, 0, false, false, true, c.cut⟩
      if c.seg < 144 then
        fly (sendCodeword s t l c.num (cwAt l c.seg) false false) t l { filler with cw := cwAt l c.seg, filler := false }
      else match areaPick m d l with
        | none => fly (sendLane s t l (fillerSegment m d.hdr)) t l filler
        | some (n, a, cw, df) =>
          let s := sendCodeword s t l n cw true df
          let s := updMount s t fun m => updClosed m n (takeRewrite cw l df)
          let s := updXp s t fun x => { x with rw := { x.rw with rewSeg := satAdd 64 x.rw.rewSeg 1, defSeg := satAdd 64 x.rw.defSeg (b2n df) } }
          let g := 32 * t + l
          let s := { s with rc.lanes := Tbl.upd s.rc.lanes g fun y => { y with rewrites := satAdd 32 y.rewrites 1 } }
          fly s t l ⟨n, a, cw, true, df, false, c.cut⟩

/-- May the position being written end: abandoned, or all its rewrites verified or deferrable, and nothing left of the
previous position's dataset (R263, R473, R479, R480)? -/
def mayEnd (s : State) (t : Nat) (m : Mount) (c : CurPos) (d : ClosedDs) : Bool :=
  let clear := (prevDs m c.num).isNone
  if d.abandon ≠ 0 then clear || decide (c.seg < 144) || decide (192 ≤ c.seg)
  else decide (144 ≤ c.seg) && clear && (allPassed s t d || (canDefer m c.num && !c.own))

/-! ### Interrupted writing -/

/-- The segments that the lanes were sending are cut short (R252, R502). -/
def cutFlight (s : State) (t : Nat) : State :=
  (List.range 32).foldl (fun s l => { s with rc.lanes := Tbl.upd s.rc.lanes (32 * t + l) fun x =>
    { x with flight := (x.flight.take (x.flight.length - 1)) ++ (x.flight.drop (x.flight.length - 1)).map fun w => { w with cut := true } } }) s

/-- Writing stops where it stands. A dataset whose codewords have all passed is done; the attempt of any other ends, and the dataset
is to be written whole again with SKIP_CAUSE 3; the fourth attempt was the last (R250, R252, R295, R481, R482, R759). -/
def interrupt (s : State) (t : Nat) : State :=
  match (xpOf s t).bind (·.mount) with
  | none => s
  | some m =>
    let s := updXp s t fun x => { stopTape x .stopped with haltReq := 0 }
    match m.cur with
    | none => s
    | some c =>
      let e := m.wrBits + c.seg * segBits
      match closedOf m c.num with
      | none => updMount s t fun m => { m with cur := none, wrBits := e }
      | some d =>
        let h := { d.hdr with complete := d.synced, begAt := m.wrBits, endAt := e }
        let s := updXp s t fun x => if c.seg = 0 then x else landDs x h
        let s := updMount s t fun m => { updClosed m c.num (fun d => { d with written := true, hdr := { d.hdr with begAt := m.wrBits, endAt := e } }) with
          cur := none, wrBits := e }
        if d.synced then settle (updMount s t releaseDone)
        else
          let s := abandon s t c.num 3
          settle (if (xpOf s t).elim true (·.faulted) then s else dropPrev s t c.num 3)

/-- WRITE_SEGMENT_BOUNDARY: every lane ends a segment; writing stops here for PFAIL_N or Write-stop, resumes here after the
gate rises, and starts after the lead-in, once the tape has run BH_MARGIN_MM past 1.2 m/s (R579); `rows` are rows sent here whose ROW checks did not all agree (R252, R416, R424, R429,
R447, R476, R570, R578, R579, R597, R759). -/
def execWriteSegmentBoundary (dt t : Nat) (rows : List RowSeen) (s : State) : Answer :=
  let s := advance s dt
  match xpOf s t with
  | some x =>
    match x.motion, x.mount.bind (·.cur), x.mount.bind curDs with
    | .writing, some c, some d =>
      if x.haltReq ≠ 0 then .next (interrupt (if x.haltReq = 2 ∧ x.haltAt < now s then cutFlight s t else s) t)
      else if c.lead then
        (if wgHigh x.wi && decide (x.blk.bhMm * 1000 ≤ x.run) then
          .next (updMount (sendAll s t (separator 2048)) t fun m => { m with cur := some { c with lead := false, cut := false }, wrBits := m.wrBits + 2304 })
         else .next s)
      else if 192 ≤ c.seg then
        .next (if x.mount.elim true (fun m => mayEnd s t m c d) then s else abandon s t c.num 2)
      else
        let s := if c.seg = 0 then updXp s t fun x => landDs x { d.hdr with complete := false, begAt := x.mount.elim 0 (·.wrBits) } else s
        let s := (List.range 32).foldl (laneSegment t c) s
        let own := c.own || (c.seg == 143 && syncWaitsOn s t c.num && !(x.mount.elim false fun m => canDefer m c.num))
        let low := !wgHigh x.wi
        let s := updMount s t fun m =>
          { updClosed m c.num (fun d => if c.seg < 144 then { d with dataSegs := d.dataSegs + 32 } else d) with
            cur := some { c with seg := c.seg + 1, cut := low, own := own } }
        .next (damageRows s t c.num rows)
    | _, _, _ => .next s
  | none => .next s

/-! ### Rates (R27 to R30, R71, R75, R76, R109) -/

/-- Host bytes and tape bytes over the window of R30; 1 to 1 before the first dataset. -/
def hostRatio (m : Mount) : Nat × Nat :=
  let h := sumOf (m.window.map fun w => w.2.2.1)
  let b := sumOf (m.window.map fun w => w.2.2.2)
  if b = 0 then (1, 1) else (h, b)

/-- Fifteen or sixteen sixteenths (R28). -/
def c3Share (m : Mount) : Nat := if hasC3 m then 15 else 16

/-- User bytes for `bits` lane bits, as numerator and denominator (R28): per second with a lane rate, per metre with a density. -/
def userShare (m : Mount) (bits : Nat) : Nat × Nat :=
  let r := rewriteShare m
  (4 * bits * 8064 * 128 * (r.2 - r.1) * c3Share m, 8944 * 144 * r.2 * 16)

/-- User bytes for `bits` lane bits, whole bytes (R28). -/
def userBytes (m : Mount) (bits : Nat) : Nat := (userShare m bits).1 / (userShare m bits).2

/-- The sustainable rate in bytes per second (R29), rounded down at the end only (log entry 36). -/
def sustainable (x : Xport) (m : Mount) : Nat :=
  let u := userShare m (ceilOf x m.wrWrap * density m.wrWrap / 1000)
  let r := hostRatio m
  min (u.1 * r.1 / (u.2 * r.2)) 1600000000

/-- The device's sustainable rate in kB/s: the sum over its writing transports, only the active ones under Throttle (R29, R37). -/
def deviceRate (s : State) : Nat :=
  sumOf ((s.xp.filter fun p => !p.2.throttled && p.2.mount.elim false fun m => m.wrPart.isSome).map fun p => p.2.sust)

/-- Guarantee and latency bound of a context with share `w / W` of `rate` bytes per second; `tds` is the time of one dataset
in µs, rounded (R71, R76, R109). -/
def bounds (x : Ctx) (m : CtxDom) (w tot rate tds2 : Nat) : Nat × Nat :=
  let g := w * rate / tot
  let g := if x.d.rate = 0 then g else min g (x.d.rate * 1000000)
  let l := m.maxs.foldl max 0
  (g / 1000, if g = 0 then 0xFFFFFFFF else min ((1000000 * (x.staged + 2 * l) + g - 1) / g + tds2) 0xFFFFFFFF)

/-- Recomputes the guarantees and bounds of the contexts backlogged in domain `d`; `rate` may depend on the context (R73, R75). -/
def recompute (s : State) (d : Nat) (rate : Nat → Nat) (tds2 : Nat) : State :=
  let l := (s.ten.ctx.map (·.1)).filter fun k => backlogged s k d
  let tot := sumOf (l.map fun k => (ctxOf s k).elim 0 (·.d.weight))
  l.foldl (fun s k => updCtx s k fun x =>
    let m := (Tbl.get? x.doms d).getD CtxDom.zero
    let b := bounds x m x.d.weight (max tot 1) (rate k) tds2
    { x with doms := Tbl.put x.doms d { m with guar := b.1, bound := b.2 } }) s

/-- Twice T_ds in µs, rounded, at the transport's current lane rate (R76). -/
def tds2Us (x : Xport) (m : Mount) : Nat :=
  let lane := x.velocity * density m.wrWrap / 1000
  if lane = 0 then 0xFFFFFFFF else (2 * dsBits * 1000000 * 2 + lane) / (2 * lane)

/-- A new dataset begins in the list of largest charges (R76). -/
def pushMax (s : State) (d : Nat) : State :=
  { s with ten.ctx := Tbl.mapVal s.ten.ctx fun _ x =>
      { x with doms := Tbl.upd x.doms d fun m => { m with maxs := (0 :: m.maxs).take 65 } } }

/-- CC2's recomputation for transport `t` (R29, R30, R75, R109). -/
def recomputeXport (s : State) (t : Nat) : State :=
  match xpOf s t with
  | some x =>
    match x.mount with
    | some m =>
      let r := sustainable x m
      let s := updXp s t fun x => { x with sust := r / 1000 }
      recompute s t (fun _ => if x.throttled then 0 else r) (tds2Us x m)
    | none => s
  | none => s

/-- AES engines in use by recording: one for every record that waits for its seal or its check-back, as far as engines are in RUN
(R73, log entry 141). -/
def recordingEngines (s : State) : Nat :=
  min (runEngines s 2).length (sumOf (s.rings.cmds.map fun c => (c.recs.filter fun r => r.stage == 1 || r.stage == 2).length))

/-- SERVICE_DOMAIN_TICK: the guarantees of the service domain, every 10 ms (R73, R75): 6.4 GB/s for COMPRESS and RESUME,
8.0 GB/s for DECOMPRESS, and the engines in RUN that recording leaves for CRYPT_BLOCK. The service domain has no datasets to count
64 of: L_i is the largest charge since the context was created (R76, log entry 142). -/
def execServiceDomainTick (dt : Nat) (s : State) : Answer :=
  let s := advance s dt
  let rate (k : Nat) : Nat :=
    let ops := (s.rings.tbl.filter fun p => p.2.look.elim false fun l => fieldOf l.entry 4 2 % 4096 == k).map fun p =>
      p.2.look.elim 0 fun l => fieldOf l.entry 0 1
    if ops.elem 0x81 then 8000000000
    else if ops.elem 0x84 then
      ((runEngines s 2).length - recordingEngines s) * ((ctxOf s k).elim 0 fun x => if x.d.cipher = 1 then 1600000000 else 16000000000 / 14)
    else 6400000000
  .next (recompute s 4 rate 0)

/-! ### Dataset boundary -/

/-- New parameter blocks and lane changes take effect (R539, R551, R589, R803). -/
def takeBlocks (s : State) (t : Nat) : State :=
  match xpOf s t with
  | some x =>
    let dis := x.lanesNext.foldl (fun l p => if p.2 then setIns l p.1 else setDel l p.1) s.rc.disabled
    let s := { s with rc.disabled := dis }
    updXp s t fun x => { x with
      blk := x.blkNext.getD x.blk, blkNext := none, rc := x.rcNext.getD x.rc, rcNext := none, lanesNext := [] }
  | none => s

/-- The write position passes early warning: EW from here on, and its event (R266, Table 16-1). -/
def noteEw (s : State) (t : Nat) : State :=
  match (xpOf s t).bind (·.mount) with
  | some m =>
    if !m.ewRaised && dsToEw m == 0 then
      raise (updMount s t fun m => { m with ewRaised := true }) (evXp t 7) subjXp t 0
    else s
  | none => s

/-- The reserve of R237 is used up: what is not verified is incomplete on tape, and the SYNCs that wait for it end (R268). -/
def exhaust (s : State) (t : Nat) : State :=
  let s := updXp s t fun x => (x.mount.elim [] (·.closed)).foldl (fun x d =>
    if d.written && !d.synced then landDs x { d.hdr with complete := false } else x) x
  settle (updMount s t fun m => { m with cur := none, reserveOut := true })

/-- The LPOS to which a backhitch reverses: v²/(2·ACCEL) + BH_MARGIN_MM before the restart position, 256 bits past the last separator,
with v = 1.2 m/s (R447, R584 step 3). -/
def backTo (x : Xport) (m : Mount) : Nat :=
  let d := (7200 / max x.blk.accel 1 + x.blk.bhMm) * 1000 / 120
  let p := lposIn (x.cart.elim 1 (·.format)) m.wrWrap (m.wrBits + 256)
  if m.wrWrap % 2 = 0 then p - d else p + d

/-- What the transport does after a boundary: stop and back up, turn round, or write the next position (R442, R580, R584). -/
def afterBoundary (s : State) (t : Nat) : State :=
  match xpOf s t with
  | some x =>
    match x.mount with
    | none => s
    | some m =>
      if x.stopReq || (nextToWrite m).isNone then
        updXp s t fun x => { stopTape x (if x.throttled then .stopped else .backhitch) with
          stopReq := false, goal := if x.throttled then none else some (m.wrWrap, backTo x m),
          reverse := if x.throttled then x.reverse else !x.reverse,
          backhitches := if x.throttled then x.backhitches else satAdd 64 x.backhitches 1,
          mount := x.mount.map fun m => { m with cur := none } }
      else if fitsWrap m then updMount s t fun m => beginPos m (wgHigh x.wi) false
      else if lastWrap m then
        exhaust (updXp s t fun x => stopTape x .stopped) t
      else updXp s t fun x => { stopTape x .turnaround with mount := x.mount.map fun m => { m with cur := none } }
  | none => s

/-- The position of dataset `d` ends with its separator (R446, R480, R485): it is on tape, or its next attempt is due. -/
def endPosition (s : State) (t : Nat) (m : Mount) (c : CurPos) (d : ClosedDs) : State :=
  let e := m.wrBits + c.seg * segBits + sepBits
  let done := decide (144 ≤ c.seg)
  let s := updXp (sendAll s t (separator 512)) t fun x =>
    let x := landDs x { d.hdr with complete := done, begAt := m.wrBits, endAt := e }
    if done then landRecs x c.num else x
  if d.abandon ≠ 0 then
    let s := updMount s t fun m => { updClosed m c.num (nextAttempt m.wrWrap m.wrBits e d.abandon) with cur := none, wrBits := e }
    if lastAttempt d then faultXport s t 4 4 c.num else dropPrev s t c.num 2
  else
    let s := updMount s t fun m =>
      { updClosed m c.num (fun d => { d with written := true, hdr := { d.hdr with begAt := m.wrBits, endAt := e }, runs := [] }) with cur := none, wrBits := e }
    let s := updXp s t fun x => { x with rw := { x.rw with datasets := satAdd 64 x.rw.datasets 1 } }
    settle (updMount s t releaseDone)

/-- DATASET_BOUNDARY: the position on transport `t` may end; CC2 recomputes the rates, new blocks take effect, and the
transport goes on, turns, or stops (R28, R29, R75, R233, R442, R476 to R480, R539, R580, R584, R589, R803). -/
def execDatasetBoundary (t : Nat) (s : State) : Answer :=
  match xpOf s t with
  | some x =>
    match x.motion, x.mount, x.mount.bind (·.cur), x.mount.bind curDs with
    | .writing, some m, some c, some d =>
      if mayEnd s t m c d then
        let s := endPosition s t m c d
        if (xpOf s t).elim true (·.faulted) then .next s
        else .next (afterBoundary (recomputeXport (pushMax (noteEw (takeBlocks s t) t) t) t) t)
      else .next s
    | _, _, _, _ => .next s
  | none => .next s

/-! ### Motion -/

/-- May writing start or go on here: not hot, not failing power, not faulted, not inactive, not held (R602, R751, R758, R759, R763)? -/
def mayWrite (s : State) (t : Nat) (x : Xport) : Bool :=
  !writeStop s && !s.pmu.pfail && !x.faulted && !x.throttled && !x.calibrating && engRun s 4 t && engRun s 5 t &&
  x.startup && s.pmu.booted && s.pmu.ps == .run

/-- A command that the transport must write for: SYNC, CLOSE_STREAM with SYNC, UNMOUNT, a read preemption, or a Lull-1
entry that waits for verified records (R582, R735). -/
def mustWrite (s : State) (t : Nat) : Bool :=
  syncWaits s t || unmounting s t ||
  (s.rings.cmds.any fun c => c.done.isNone && c.opcode != 0x19 && c.prog == .waiting 0 &&
    ((readsTape c && cmdXp s c == some t) || (c.opcode == 0x40 && c.fld 0x10 1 == t))) ||
  s.pmu.lull.isSome

/-- Has the read command that holds the tape of transport `t` begun to read (R271)? -/
def readsNow (s : State) (t : Nat) : Bool :=
  s.rings.cmds.any fun c => c.done.isNone && readsTape c && cmdXp s c == some t &&
    (match c.prog with
     | .reading _ _ _ _ _ _ _ | .scanning _ _ _ => true
     | _ => false)

/-- Does an interrupted dataset wait to be written whole again (R295, R481, R759)? -/
def interrupted (m : Mount) : Bool := (nextToWrite m).elim false fun d => d.hdr.skipCause == 3

/-- A transport starts to write at its write position, a dataset boundary: new blocks are in force, the gate is requested, the
lead-in comes first, and CC2 has its rate (R30, R447, R539, R579, R582). -/
def startWriting (s : State) (t : Nat) : State :=
  recomputeXport (storeCm (takeBlocks s t) t fun x =>
    let x := setReq (markDirty x) true
    { x with
      motion := .writing, stopReq := false, reverse := (x.mount.elim x.wrap (·.wrWrap)) % 2 == 1,
      wrap := x.mount.elim x.wrap (·.wrWrap), target := max x.target 1200,
      mount := x.mount.map fun m => beginPos { m with away := false } (wgHigh x.wi) true }) t

/-- TRANSPORT_RESTART: a stopped transport writes on, on RESTART_WM or for a waiting command, or its restore goes on
(R579, R582, R583, R602). -/
def execTransportRestart (t : Nat) (s : State) : Answer :=
  match xpOf s t with
  | some x =>
    match x.mount with
    | some m =>
      if x.motion != .stopped then .next s
      else if readsNow s t then
        -- a restore stopped at HIGH_WM, or made inactive, goes on at SET_WM (R583, R758)
        (if x.rsOcc * 1000 ≤ x.blk.setWm * restoreMib s * 1048576 && !x.throttled && engRun s 4 t && !x.calibrating then
          .next (updXp s t fun x => { x with motion := .reading })
         else .next s)
      else if m.away then .next s
      else if (nextToWrite m).isSome && mayWrite s t x && !m.reserveOut &&
          (decide (x.blk.restWm * writeAsmMib s * 1048576 ≤ x.occ * 1000) || mustWrite s t || interrupted m) then
        .next (if fitsWrap m then startWriting s t
          else if lastWrap m then exhaust s t
          else updXp s t fun x => { x with motion := .turnaround })
      else .next s
    | none => .next s
  | none => .next s

/-- WRAP_TURNAROUND: the head moves to the partition's next wrap, direction reverses, the zone's ceiling applies, a waiting
real-time core is replaced, and reading, or writing behind a lead-in, goes on (R35, R447, R585, R586, R598, R770). -/
def execWrapTurnaround (t : Nat) (s : State) : Answer :=
  match xpOf s t with
  | some x =>
    match x.motion, x.mount with
    | .turnaround, some m =>
      if readsNow s t then
        .next (updXp { s with pmu.rtOwed := setDel s.pmu.rtOwed t } t fun x => { x with
          wrap := x.wrap + 1, reverse := (x.wrap + 1) % 2 == 1, turnarounds := satAdd 64 x.turnarounds 1, motion := .reading,
          target := min x.target (ceilOf x (x.wrap + 1)) })
      else
      let w := m.wrWrap + 1
      let s := { s with pmu.rtOwed := setDel s.pmu.rtOwed t }
      let s := updXp s t fun x => { x with
        wrap := w, reverse := w % 2 == 1, turnarounds := satAdd 64 x.turnarounds 1,
        target := min x.target (ceilOf x w), mount := some { m with wrWrap := w, wrBits := 0 } }
      .next (if mayWrite s t x && !x.stopReq then startWriting s t
        else updXp s t fun x => { x with motion := .stopped, stopReq := false })
    | _, _ => .next s
  | none => .next s

/-- WRITE_POSITION_RETURN: no read command waits, and acknowledged records are not yet written: the tape goes back (R272). -/
def execWritePositionReturn (t : Nat) (s : State) : Answer :=
  match xpOf s t with
  | some x =>
    match x.mount with
    | some m =>
      if m.away && !(s.rings.cmds.any fun c => c.done.isNone && readsTape c && cmdXp s c == some t) &&
          (!m.closed.isEmpty || m.openDs.isSome) && !x.calibrating then
        .next (updXp s t fun x => { x with
          motion := .stopped, wrap := m.wrWrap, reverse := m.wrWrap % 2 == 1, restored := [], rsOcc := 0, cws := [], goal := none,
          mount := some { m with away := false, sincePre := 0 } })
      else .next s
    | none => .next s
  | none => .next s

/-! ### Speed matching (R580, R583) -/

/-- Bytes per second of a list of arrivals over the last 250 ms. -/
def rateOver (s : State) (l : List (Nat × Nat)) : Nat :=
  4 * sumOf ((l.filter fun a => decide (now s < a.1 + 250 * msTicks)).map (·.2))

/-- v_raw in mm/s: `rate` and the pull of `level` toward the set point, over the bytes per metre (R580). -/
def vRaw (x : Xport) (m : Mount) (rate level reg w : Nat) : Int :=
  let pull := ((level : Int) - (x.blk.setWm * reg / 1000 : Nat)) * 1000 / (x.blk.tauMs : Int)
  ((rate : Int) + pull) * 1000 / ((max (userBytes m (densityOf x w)) 1 : Nat) : Int)

/-- The law of R580 for a level of a region: the new target and whether v_raw is below the floor. -/
def speedLaw (x : Xport) (m : Mount) (rate level reg w : Nat) : Nat × Bool :=
  let ceil := ceilOf x w
  let v := if x.blk.highWm * reg / 1000 ≤ level then (ceil : Int) else vRaw x m rate level reg w
  (min (max v 1200).toNat ceil, decide (v < 1200))

/-- SPEED_MATCH_TICK: every 10 ms the target velocity of a writing transport, or of a restore by the mirror law (R580, R583, R598). -/
def execSpeedMatchTick (dt t : Nat) (s : State) : Answer :=
  let s := advance s dt
  match xpOf s t with
  | some x =>
    match x.mount with
    | some m =>
      if x.motion == .reading then
        let reg := restoreMib s * 1048576
        let p := speedLaw x m (rateOver s x.drains) (reg - x.rsOcc) reg x.wrap
        .next (updXp s t fun x => { x with target := p.1 })
      else if x.motion == .writing || x.motion == .turnaround || x.motion == .backhitch then
        let reg := writeAsmMib s * 1048576
        let p := speedLaw x m (rateOver s x.arrivals) x.occ reg m.wrWrap
        let stop := x.motion == .writing && x.target == 1200 && p.2 && decide (x.occ ≤ x.blk.lowWm * reg / 1000) && !syncWaits s t
        .next (updXp s t fun x => { x with target := p.1, stopReq := x.stopReq || stop })
      else .next s
    | none => .next s
  | none => .next s

end Sys2Proof.Machine
end

