-- ==== Sys2Proof/Machine/Decoder.lean ====
section
/-! DEFINITION. The soft detector, the LDPC decoder of C1 and the erasure decoder of C2 (R452, R458, R508, R515 to R517, R533, R534).
What the spec leaves open of them, the metric's scale, the normalisation, which sign stands for 1, is in Config and log entry 143. -/

namespace Sys2Proof.Machine

/-- `x` held within ±`n`. -/
def clampInt (n : Nat) (x : Int) : Int := max (-(n : Int)) (min x n)

/-! ### Detector (R515) -/

/-- TARGET_0 to TARGET_4 as signed values (Table 10-5). -/
def targetsOf (k : RcBlock) : List Int := k.targets.map fun v => if v < 128 then (v : Int) else v - 256

/-- A bit as a symbol. -/
def symOf (b : Bool) : Int := if b then 1 else -1

/-- The target's output in 1/32 for the new bit `b` after state `p`, which holds the last four bits, newest in bit 0. -/
def targetOut (h : List Int) (p : Nat) (b : Bool) : Int :=
  (h[0]?).getD 0 * symOf b + (List.range 4).foldl (fun z k => z + (h[k + 1]?).getD 0 * symOf (bitOf p k)) 0

/-- The metric of a branch: how well the equaliser's output fits, and the prior when the bit is 1. -/
def branchOf (h : List Int) (y la : Int) (p : Nat) (b : Bool) : Int := Config.metric y (targetOut h p b) + if b then la else 0

/-- Metric of state `n` in a list of sixteen. -/
def metricAt (a : List Int) (n : Nat) : Int := (a[n % 16]?).getD 0

/-- The largest of a list. -/
def maxOf (l : List Int) : Int := l.foldl max (l.headD 0)

/-- The sixteen forward metrics after one more bit. -/
def fwdStep (h : List Int) (y la : Int) (a : List Int) : List Int :=
  (List.range 16).map fun n =>
    let f (p : Nat) : Int := metricAt a p + branchOf h y la p (n % 2 == 1)
    max (f (n / 2)) (f (n / 2 + 8))

/-- The sixteen backward metrics before one more bit. -/
def bwdStep (h : List Int) (y la : Int) (b : List Int) : List Int :=
  (List.range 16).map fun p =>
    max (branchOf h y la p false + metricAt b (2 * p)) (branchOf h y la p true + metricAt b (2 * p + 1))

/-- Max-log-MAP over the outputs and priors from forward metrics `a`: an LLR of 6 bits for each bit, positive for 1, without its
prior; and the backward metrics (R515). -/
def detectFrom (h : List Int) (l : List (Int × Int)) (a : List Int) : List Int × List Int :=
  match l with
  | [] => ([], List.replicate 16 0)
  | (y, la) :: r =>
    let q := detectFrom h r (fwdStep h y la a)
    let f (b : Bool) : Int := maxOf ((List.range 16).map fun p => metricAt a p + branchOf h y la p b + metricAt q.2 (2 * p + b2n b))
    (clampInt 31 (f true - f false - la) :: q.1, bwdStep h y la q.2)

/-- Codeword bits (R444). -/
def cwBits : Nat := 8832

/-- Does a DROPOUT span, or the 32 bits before it, cover bit `i` (R508)? -/
def inGap (gaps : List (Nat × Nat)) (i : Nat) : Bool := gaps.any fun g => decide (g.1 ≤ i + 32 ∧ i < g.2)

/-- The LLRs of a codeword: the detector starts in the state that the sync mark's last four bits `mark` leave; bits of a dropout, and
bits that never arrived, have LLR 0 (R502, R508, R515). -/
def detect (k : RcBlock) (mark : Nat) (y prior : List Int) (gaps : List (Nat × Nat)) : List Int :=
  let a := (List.range 16).map fun n => if n = mark then (0 : Int) else -1000000
  let l := (detectFrom (targetsOf k) (y.zip (prior ++ List.replicate cwBits 0)) a).1
  (List.range cwBits).map fun i => if inGap gaps i then 0 else (l[i]?).getD 0

/-! ### LDPC decoder (R452, R516) -/

/-- The codeword bits of check `c`, row 128·i + r of H (R452). -/
def c1Cols (c : Nat) : List Nat :=
  let i := c / 128
  let r := c % 128
  ((List.range 64).filterMap fun j => (c1Shift i j).map fun k => 128 * j + (r + k) % 128) ++
  (if i % 2 = 0 then [128 * 64 + (r + (if i = 2 then 0 else 1)) % 128] else []) ++
  (if 1 ≤ i then [128 * (64 + i) + r] else []) ++ (if i ≤ 3 then [128 * (65 + i) + r] else [])

/-- The messages of a check to its bits: normalised minimum of the other magnitudes, product of the other signs (R516). -/
def checkNode (t : List Int) : List Int :=
  (numbered t 0).map fun p =>
    let o := t.eraseIdx p.1
    let m : Int := Config.minSum ((o.map Int.natAbs).foldl min ((o.headD 0).natAbs))
    if (o.filter fun x => decide (x < 0)).length % 2 = 1 then -m else m

/-- One check of a layered iteration: posterior LLRs and messages after it (R516). -/
def checkStep (q : List Int × List (List Int)) (c : Nat) : List Int × List (List Int) :=
  let cols := c1Cols c
  let old := (q.2[c]?).getD []
  let t := (numbered cols 0).map fun p => (q.1[p.2]?).getD 0 - (old[p.1]?).getD 0
  let new := checkNode t
  (((cols.zip (List.zipWith (· + ·) t new))).foldl (fun l p => l.set p.1 p.2) q.1, q.2.set c new)

/-- One iteration: all five layers (R516). -/
def ldpcIter (q : List Int × List (List Int)) : List Int × List (List Int) := (List.range 640).foldl checkStep q

/-- Hard decisions: 1 where the LLR is positive. -/
def hardBit (post : List Int) (i : Nat) : Bool := decide (0 < (post[i]?).getD 0)

/-- The 16-byte header and 1,008-byte payload that the decisions spell (R444). -/
def infoBytes (post : List Int) : Bytes :=
  (List.range 1024).map fun n => BitVec.ofNat 8 ((List.range 8).foldl (fun v k => 2 * v + b2n (hardBit post (8 * n + k))) 0)

/-- Does the CRC16 of a codeword header pass (R454)? -/
def crcGood (h : Bytes) : Bool := h.length == 16 && leNat (h.drop 14) == (crc16 (h.take 14)).toNat

/-- A codeword converges when its syndrome is zero and its CRC16 passes (R516). -/
def cwGood (post : List Int) : Bool :=
  ((List.range 640).all fun c => ((c1Cols c).filter (hardBit post)).length % 2 == 0) && crcGood ((infoBytes post).take 16)

/-- Up to `n` iterations, ending at the first that converges: posterior LLRs, iterations used, converged. -/
def ldpcFrom (n : Nat) (q : List Int × List (List Int)) : List Int × Nat × Bool :=
  match n with
  | 0 => (q.1, 0, false)
  | k + 1 =>
    let q := ldpcIter q
    if cwGood q.1 then (q.1, 1, true)
    else
      let r := ldpcFrom k q
      (r.1, r.2.1 + 1, r.2.2)

/-- A decoder grant of at most `n` iterations on LLRs (R516, R517). -/
def ldpcRun (n : Nat) (llr : List Int) : List Int × Nat × Bool := ldpcFrom n (llr, List.replicate 640 [])

/-! ### C2 decoder (R458, R533) -/

/-- α to the power `n` in GF(2^8) (R458). -/
def rsPow (n : Nat) : Byte :=
  match n with
  | 0 => 1
  | m + 1 => rsMul (rsPow m) 2 8

/-- The inverse of a field element: its 254th power. -/
def rsInv (x : Byte) : Byte := (List.range 254).foldl (fun p _ => rsMul p x 8) 1

/-- The sum of some bytes in GF(2^8). -/
def rsSum (l : List Byte) : Byte := l.foldl (· ^^^ ·) 0

/-- The sixteen syndromes of a column of 144 bytes: its polynomial at α^0 to α^15 (R458). -/
def rsSyndromes (col : Bytes) : List Byte :=
  (List.range 16).map fun i => col.foldl (fun s c => rsMul s (rsPow i) 8 ^^^ c) 0

/-- (x + a)·p for a polynomial with its constant first. -/
def polyTimes (p : List Byte) (a : Byte) : List Byte :=
  List.zipWith (· ^^^ ·) (0 :: p) ((p.map fun c => rsMul c a 8) ++ [0])

/-- What the byte at locator `x` lacks, given the locators of all the unknown bytes and the syndromes: the polynomial that is 1 at `x`
and 0 at the others picks it out of the power sums. -/
def rsLacks (syn xs : List Byte) (x : Byte) : Byte :=
  let o := xs.filter fun a => a != x
  let p := o.foldl polyTimes [1]
  let d := o.foldl (fun d a => rsMul d (x ^^^ a) 8) 1
  rsMul (rsInv d) (rsSum (List.zipWith (fun c s => rsMul c s 8) p syn)) 8

/-- The codeword of RS(144,128) that agrees with a column outside the places `u`, if there is one. -/
def rsFill (col : Bytes) (u : List Nat) : Option Bytes :=
  let syn := rsSyndromes col
  let xs := u.map fun r => rsPow (143 - r)
  let c := u.foldl (fun c r => c.set r (c.getD r 0 ^^^ rsLacks syn xs (rsPow (143 - r)))) col
  if (rsSyndromes c).all (· == 0) then some c else none

/-- The sets of `e` places of a list. -/
def placesOf (e : Nat) (l : List Nat) : List (List Nat) :=
  match e, l with
  | 0, _ => [[]]
  | _ + 1, [] => []
  | k + 1, x :: r => ((placesOf k r).map (x :: ·)) ++ placesOf (k + 1) r

/-- C2 on a column whose erasures are `none`: the codeword within e errors and E erasures for 2e + E ≤ 16, fewest errors first (R533). -/
def c2Column (col : List (Option Byte)) : Option Bytes :=
  let un := ((numbered col 0).filter fun p => p.2.isNone).map (·.1)
  let kn := ((numbered col 0).filter fun p => p.2.isSome).map (·.1)
  if 16 < un.length then none
  else ((List.range ((16 - un.length) / 2 + 1)).map fun e => placesOf e kn).flatten.findSome? fun u =>
    rsFill (col.map fun b => b.getD 0) (un ++ u)

/-- C2 on every column of a subset of 144 rows: each column's bytes, if it decodes. -/
def c2Subset (rows : List (Option Bytes)) : List (Option Bytes) :=
  (List.range 1008).map fun c => c2Column (rows.map fun r => r.bind fun b => b[c]?)

end Sys2Proof.Machine
end

