-- ==== Sys2Proof/Machine/Channel.lean ====
section
/-! DEFINITION. The read channel: sync search, the sample store, the decoder pool and its load levels, write verify,
dropouts (R503 to R532, R546 to R554). -/

namespace Sys2Proof.Machine

/-- Changes a read lane. -/
def setLane (s : State) (l : Nat) (x : Lane) : State := { s with rc.lanes := Tbl.put s.rc.lanes l x }

/-- The read channel block of a lane's transport. -/
def laneBlk (s : State) (l : Nat) : RcBlock := (xpOf s (l / 32)).elim RcBlock.default (·.rc)

/-- Does the lane's read channel work at all: enabled and active (R538, R803)? -/
def laneOn (s : State) (l : Nat) : Bool := decide (l < 128) && !s.rc.disabled.elem l && (laneAt s l).active

/-! ### Sync marks (R509 to R514, R546, R549, R553) -/

/-- The better of two matching positions: fewer bit errors, then nearer to nominal, then earlier (R511). -/
def betterMark (a b : Int × Nat) : Int × Nat :=
  if a.2 < b.2 then a
  else if b.2 < a.2 then b
  else if a.1.natAbs < b.1.natAbs then a
  else if b.1.natAbs < a.1.natAbs then b
  else if a.1 ≤ b.1 then a else b

/-- The mark that the window's search takes, as an offset from nominal and its bit errors (R509, R511). -/
def markOf (k : RcBlock) (found : List (Int × Nat)) : Option (Int × Nat) :=
  (found.filter fun f => decide (f.1.natAbs ≤ k.syncWin ∧ f.2 ≤ k.maxErr)).foldl (fun b f => match b with
    | none => some f
    | some g => some (betterMark g f)) none

/-- SYNC_WINDOW_END: a mark found, or a flywheel; four in a row return the lane to acquisition (R511 to R514, R546). -/
def execSyncWindowEnd (l : Nat) (found : List (Int × Nat)) (s : State) : Answer :=
  let x := laneAt s l
  let k := laneBlk s l
  if !laneOn s l || x.search == .acquisition then .next s
  else match (if x.dropout then none else markOf k found) with
    | some f =>
      let out := decide (k.syncWin < 2 * f.1.natAbs)
      .next (setLane s l { x with
        search := .tracking, missed := false, margin := out, fly := 0,
        markMargin := if out then satAdd 32 x.markMargin 1 else x.markMargin })
    | none =>
      .next (setLane s l { x with
        search := if 3 ≤ x.fly then .acquisition else .tracking, missed := true, margin := false,
        place := if 3 ≤ x.fly then none else x.place,
        fly := if 3 ≤ x.fly then 0 else x.fly + 1, markMissed := satAdd 32 x.markMissed 1 })

/-- SYNC_ACQUIRED: in acquisition, the first match behind at least 32 bits of preamble with at most 2 errors (R510). -/
def execSyncAcquired (l matched preErrs markErrs : Nat) (s : State) : Answer :=
  let x := laneAt s l
  if laneOn s l && x.search == .acquisition && decide (32 ≤ matched ∧ preErrs ≤ 2 ∧ markErrs ≤ (laneBlk s l).maxErr) then
    .next (setLane s l { x with search := .tracking, missed := false, margin := false, fly := 0 })
  else .next s

/-- SEPARATOR_DETECTED: 256 bits of the pattern with at most 8 errors set the nominal position of the first mark (R510); the lane
counts its place in the position from here, and a lead-in's pattern counts once (R447, R487). -/
def execSeparatorDetected (l errs : Nat) (s : State) : Answer :=
  if laneOn s l && decide (errs ≤ 8) then
    .next (setLane s l { laneAt s l with
      search := .positionStart, place := some 0,
      ord := if (laneAt s l).place = some 0 then (laneAt s l).ord else (laneAt s l).ord + 1 })
  else .next s

/-! ### Adaptation and dropouts (R504 to R508) -/

/-- The lane's loops after more signal: values that the spec does not give (R505); the equaliser and the asymmetry loop
learn only when enabled (Table 10-5). -/
def adapt (s : State) (l : Nat) : State :=
  let x := laneAt s l
  let i := s.clk.free
  let k := laneBlk s l
  let s := { s with clk.free := i + 16 }
  setLane s l { x with
    gain := Config.freeValue i % 241, snr := Config.freeInt i, base := Config.freeInt (i + 1),
    asym := if bitOf k.rcFlags 1 then Config.freeInt (i + 2) else x.asym,
    fir := if bitOf k.rcFlags 0 then (List.range 10).map fun j => Config.freeInt (i + 4 + j) else x.fir,
    freq := Config.freeInt (i + 3) }

/-- DROPOUT_ENTRY: the loops go back to their values of 32 bits before and freeze (R506). -/
def execDropoutEntry (l : Nat) (s : State) : Answer :=
  if laneOn s l && !(laneAt s l).dropout then
    let s := adapt s l
    let x := laneAt s l
    .next (setLane s l { x with dropout := true, dropouts := satAdd 32 x.dropouts 1 })
  else .next s

/-- DROPOUT_EXIT: the loops resume (R507). -/
def execDropoutExit (l : Nat) (s : State) : Answer :=
  if laneOn s l && (laneAt s l).dropout then .next (setLane s l { laneAt s l with dropout := false }) else .next s

/-! ### Write verify (R525 to R532) -/

/-- The verify cause of Table 10-4, 0 when the codeword passes. -/
def verifyCause (a : Sample) (converged headerOk : Bool) : Nat :=
  if a.missed then 1
  else if a.margin then 2
  else if a.what.cut then 3
  else if a.evicted && !converged then 4
  else if !converged then 5
  else if !headerOk then 6
  else 0

/-- A lane squalls: its counter, its bit, the event, and the attempt is abandoned (R529, R530). -/
def squall (s : State) (t l n : Nat) : State :=
  let g := 32 * t + l
  let s := setLane s g { laneAt s g with squalls := satAdd 32 (laneAt s g).squalls 1 }
  let s := updMount s t fun m => updClosed m n fun d => { d with squalled := setIns d.squalled l }
  abandon (raise s (evXp t 3) subjLane g n) t n 1

/-- A codeword failed verify: a rewrite is pending, or the lane's budget or its run of failures ends the attempt (R526 to
R531, Table 10-4). -/
def failCodeword (s : State) (t l : Nat) (w : CwId) (cause : Nat) (d : ClosedDs) : State :=
  let x := xpOf s t
  let n := w.num
  let used := (Tbl.get? d.rewrites l).getD 0 + (d.pending.filter fun e => e.2.1 == l).length
  let run := if cause = 3 then (Tbl.get? d.runs l).getD 0 else (Tbl.get? d.runs l).getD 0 + 1
  let s := { s with rc.ticket := s.rc.ticket + 1 }
  let s := updMount s t fun m => updClosed m n fun d => { d with
    runs := Tbl.put d.runs l run, pending := d.pending ++ [(s.rc.ticket, l, w.cw)] }
  if x.elim false (fun x => decide (x.rc.squall ≤ run)) && cause != 3 then squall s t l n
  else if x.elim false (fun x => decide (x.rc.budget ≤ used)) then abandon s t n 2
  else s

/-- The verdict on a written codeword of lane `l` of transport `t` (R525 to R532, R416, R502). -/
def judge (s : State) (t l : Nat) (w : CwId) (cause : Nat) : State :=
  if w.filler then s
  else
    let g := 32 * t + l
    let s := if cause = 0 then s
      else setLane s g { laneAt s g with
        vf := Tbl.put (laneAt s g).vf cause (satAdd 32 ((Tbl.get? (laneAt s g).vf cause).getD 0) 1) }
    match ((xpOf s t).bind (·.mount)).bind (closedOf · w.num) with
    | some d =>
      if d.hdr.attempt ≠ w.attempt ∨ d.abandon ≠ 0 then s
      else if cause ≠ 0 ∨ d.squalled.elem l then failCodeword s t l w cause d
      else
        let s := updMount s t fun m => updClosed m w.num fun d => { d with
          passed := setIns d.passed w.cw, runs := Tbl.put d.runs l 0 }
        match ((xpOf s t).bind (·.mount)).bind (closedOf · w.num) with
        | some d => if !d.synced && allPassed s t d then updXp (dsSynced s t w.num) t fun x => { x with reacqRun := 0 } else s
        | none => s
    | none => s

/-! ### Sample store and pool (R515 to R523, R547, R550) -/

/-- The samples that occupy slots: those not evicted (R519). -/
def held (x : Lane) : List Sample := x.store.filter fun a => !a.evicted

/-- A lane of transport `l / 32` brings in a codeword for the dataset assembler. -/
def bring (s : State) (l : Nat) (w : ReadCw) : State :=
  updXp s (l / 32) fun x => { x with
    cws := x.cws ++ [w], rsOcc := x.rsOcc + if w.llr.isEmpty then 0 else cwBits }

/-- The end of a restore or scan codeword that did not converge: its last posterior LLRs, one byte a bit, go to the restore region,
and it is an erasure for C2 (R520, Table 10-7). -/
def endUnconverged (s : State) (l : Nat) (a : Sample) : State :=
  let s := setLane s l { laneAt s l with unconv := satAdd 32 (laneAt s l).unconv 1 }
  if a.post.isEmpty then s else bring s l ⟨l % 32, a.ord, a.place, [], [], a.post.map (clampInt 127)⟩

/-- Are the reserved bits of a codeword header zero, and its fields no reserved encoding (R487, Table 9-1)? -/
def hdrGood (h : Bytes) : Bool :=
  let f (o : Nat) : Nat := leNat ((h.drop o).take 1)
  decide (f 6 < 32 ∧ f 7 < 144 ∧ f 8 < 192 ∧ f 9 < 64 ∧ f 10 < 16 ∧ (f 12 ≤ 15 ∨ f 12 = 255)) && f 13 == 0

/-- A restore or scan codeword converged: its payload is descrambled, if its header may be used; else it is an erasure (R418, R487). -/
def endConverged (s : State) (l : Nat) (a : Sample) (post : List Int) : State :=
  let b := infoBytes post
  let h := b.take 16
  if hdrGood h then
    bring s l ⟨l % 32, a.ord, a.place, h, scramble (scramSeed (leNat (h.take 6)) (leNat ((h.drop 6).take 1)) (leNat ((h.drop 7).take 1))) (b.drop 16), []⟩
  else s

/-- Evicts the oldest codeword of a full store: a decoder that holds it stops after its iteration; otherwise it ends here
with cause DEADLINE (R519). -/
def evictOldest (s : State) (l : Nat) : State :=
  let x := laneAt s l
  match held x with
  | a :: _ =>
    let x := { x with evictions := satAdd 32 x.evictions 1 }
    if a.decoder.isSome then
      setLane s l { x with store := x.store.map fun b => if b.ticket == a.ticket then { b with evicted := true } else b }
    else
      let s := setLane s l { x with store := x.store.filter fun b => b.ticket != a.ticket }
      if a.cls = .verify then judge s (l / 32) (l % 32) a.what (verifyCause { a with evicted := true } false false)
      else endUnconverged s l a
  | [] => s

/-- A codeword enters the sample store of a lane (R519). -/
def arrive (s : State) (l : Nat) (cls : CwClass) (w : CwId) (y : List Int) (gaps : List (Nat × Nat)) : State :=
  let s := if (held (laneAt s l)).length < 4 then s else evictOldest s l
  let x := laneAt s l
  let a : Sample :=
    { ticket := s.rc.ticket, cls := cls, what := w, missed := x.missed, margin := x.margin, passes := 0, iters := 0,
      decoder := none, evicted := false, atTick := now s, y := y, gaps := gaps, prior := [], post := [], ord := x.ord,
      place := x.place, limit := 0 }
  let s := setLane { s with rc.ticket := s.rc.ticket + 1 } l { x with
    store := x.store ++ [a], place := x.place.map (· + 1), missed := true, margin := false, cwDecoded := satAdd 64 x.cwDecoded 1 }
  if x.dropout then s else adapt s l

/-- The class of read that transport `t` runs now: that of its oldest unfinished READ or VERIFY_SCAN (R271, R287). -/
def readClass (s : State) (t : Nat) : Option CwClass :=
  if (xpOf s t).elim true (fun x => x.motion != .reading) then none
  else (s.rings.cmds.find? fun c => c.done.isNone && readsTape c && cmdXp s c == some t).map fun c =>
    if c.opcode == 0x4A then CwClass.scan else .restore

/-- CODEWORD_ARRIVAL: a segment completes in the sample store of lane `l`, as the equaliser gave it; in acquisition it yields no
codeword, which is SYNC_MISSED on verify (R514, R515, R519, R553, R554, R803). -/
def execCodewordArrival (l : Nat) (cls : CwClass) (y : List Int) (gaps : List (Nat × Nat)) (s : State) : Answer :=
  let x := laneAt s l
  if !laneOn s l then .next s
  else if cls = .verify then
    match x.flight with
    | w :: r =>
      let s := setLane s l { x with flight := r }
      if x.search = .acquisition then .next (judge s (l / 32) (l % 32) w 1) else .next (arrive s l .verify w y gaps)
    | [] => .next s
  else if readClass s (l / 32) = some cls ∧ x.search ≠ .acquisition then
    .next (arrive s l cls ⟨0, 0, 0, false, false, true, false⟩ y gaps)
  else .next s

/-- The budgets in force (R523). -/
def poolLevel (s : State) : PoolLevel :=
  match s.rc.level with
  | 0 => s.rc.blk.l0
  | 1 => s.rc.blk.l1
  | _ => s.rc.blk.l2

/-- VERIFY_LIMIT in force for a lane (R523). -/
def verifyLimit (s : State) (l : Nat) : Nat :=
  let v := (laneBlk s l).verIter
  if s.rc.blk.shrink then min (poolLevel s).verify v else v

/-- Rank of a class in the pool (R32). -/
def clsRank (c : CwClass) : Nat :=
  match c with
  | .verify => 0
  | .restore => 1
  | .scan => 2

/-- The oldest waiting codeword of the highest class, over all lanes: its lane and sample (R32, R518). -/
def nextCodeword (s : State) : Option (Nat × Sample) :=
  let l := (s.rc.lanes.map fun p => (p.2.store.filter fun a => a.decoder.isNone && !a.evicted).map fun a => (p.1, a)).flatten
  l.foldl (fun b e => match b with
    | none => some e
    | some c =>
      if clsRank e.2.cls < clsRank c.2.cls ∨ (clsRank e.2.cls = clsRank c.2.cls ∧ e.2.ticket < c.2.ticket) then some e else some c) none

/-- Changes a sample of a lane. -/
def updSample (s : State) (l k : Nat) (f : Sample → Sample) : State :=
  let x := laneAt s l
  setLane s l { x with store := x.store.map fun a => if a.ticket == k then f a else a }

/-- Removes a sample of a lane. -/
def dropSample (s : State) (l k : Nat) : State :=
  let x := laneAt s l
  setLane s l { x with store := x.store.filter fun a => a.ticket != k }

/-- DECODER_GRANT: a free decoder in RUN starts a pass of the codeword that is due, under the budget in force; a codeword
that has used up a new budget ends unconverged (R517, R518, R523, R547, R751). -/
def execDecoderGrant (d : Nat) (s : State) : Answer :=
  if 40 ≤ d ∨ !engRun s 3 d ∨ Tbl.has s.rc.decs d then .next s
  else match nextCodeword s with
    | none => .next s
    | some (l, a) =>
      let p := poolLevel s
      if a.cls ≠ .verify ∧ (p.total ≤ a.iters ∨ p.passes ≤ a.passes) then .next (endUnconverged (dropSample s l a.ticket) l a)
      else
        let lim := if a.cls = .verify then verifyLimit s l else min p.perPass (p.total - a.iters)
        let s := { s with rc.waitMax := if a.cls = CwClass.verify then min (max s.rc.waitMax (4 * (now s - a.atTick))) (satMax 32) else s.rc.waitMax }
        .next (updSample { s with rc.decs := Tbl.put s.rc.decs d (l, a.ticket) } l a.ticket fun a =>
          { a with decoder := some d, limit := lim })

/-- Iterations are counted for the lane and the class (Tables 10-7, 10-8). -/
def countIters (s : State) (l n : Nat) (c : CwClass) : State :=
  let s := setLane s l { laneAt s l with iterSum := satAdd 64 (laneAt s l).iterSum n }
  match c with
  | .verify => { s with rc.iterVerify := satAdd 64 s.rc.iterVerify n }
  | .restore => { s with rc.iterRestore := satAdd 64 s.rc.iterRestore n }
  | .scan => { s with rc.iterScan := satAdd 64 s.rc.iterScan n }

/-- The largest iteration count of a running scan's report (Table 5-11). -/
def noteScanIters (s : State) (t n : Nat) : State :=
  { s with rings.cmds := s.rings.cmds.map fun c =>
      match c.prog with
      | .scanning ds left rep =>
        if c.done.isNone && cmdXp s c == some t then
          { c with prog := .scanning ds left ((numbered rep 0).map fun p => if p.1 = 5 then max p.2 n else p.2) }
        else c
      | _ => c }

/-- A restore or scan codeword after a pass: converged, evicted or out of budget it ends; otherwise it waits for its next
pass, for which the decoder's extrinsic information becomes the prior (R515, R517, R520, R547). -/
def endPass (s : State) (l : Nat) (a : Sample) (llr post : List Int) (iters : Nat) (converged : Bool) : State :=
  let n := a.iters + iters
  let s := if a.cls = .scan then noteScanIters s (l / 32) n else s
  let a := { a with decoder := none, passes := a.passes + 1, iters := n, post := post, prior := List.zipWith (· - ·) post llr }
  if converged then endConverged (dropSample s l a.ticket) l a post
  else
    let p := poolLevel s
    if a.evicted ∨ p.passes ≤ a.passes ∨ p.total ≤ n then endUnconverged (dropSample s l a.ticket) l a
    else updSample s l a.ticket fun _ => a

/-- The last four bits of the sync mark of the cartridge that transport `t` holds (R445, Table 9-5). -/
def markNibble (s : State) (t : Nat) : Nat := if ((xpOf s t).bind (·.cart)).elim 1 (·.format) = 2 then 9 else 3

/-- The codeword header that the write lane wrote (R478, R525). -/
def writtenHeader (s : State) (t : Nat) (w : CwId) : Bytes :=
  match (xpOf s t).bind (·.mount) with
  | some m => (closedOf m w.num).elim [] fun d =>
      cwHeader w.num (w.cw / 144) (w.cw % 144) d.hdr.wrap (m.wrPart.getD 0)
        (b2n w.rewrite + 2 * b2n w.deferred + 4 * b2n d.hdr.parity) w.attempt d.hdr.c3Pos
  | none => []

/-- DECODE_END: a grant ends after `iters` iterations by convergence, with its budget spent, or by eviction; a written codeword gets
its verdict, in which the decoded header counts, all 16 bytes of it (R515 to R517, R520, R525, R526, R548, R550). -/
def execDecodeEnd (d iters : Nat) (s : State) : Answer :=
  match Tbl.get? s.rc.decs d with
  | none => .next s
  | some (l, k) =>
    match (laneAt s l).store.find? fun a => a.ticket == k with
    | none => .next { s with rc.decs := Tbl.del s.rc.decs d }
    | some a =>
      let llr := detect (laneBlk s l) (markNibble s (l / 32)) a.y a.prior a.gaps
      let q := ldpcRun iters llr
      if iters = 0 ∨ a.limit < iters ∨ q.2.1 ≠ iters ∨ (!q.2.2 ∧ !a.evicted ∧ iters ≠ a.limit) then .next s
      else
        let s := countIters { s with rc.decs := Tbl.del s.rc.decs d } l iters a.cls
        if a.cls = .verify then
          let same := (infoBytes q.1).take 16 == writtenHeader s (l / 32) a.what
          .next (judge (dropSample s l k) (l / 32) (l % 32) a.what (verifyCause a q.2.2 same))
        else .next (endPass s l a llr q.1 iters q.2.2)

/-- The level after an evaluation at `busy` ns of decoder time (R521, R522). -/
def nextLevel (b : PoolBlock) (level evals busy : Nat) : Nat :=
  let ge (p : Nat) : Bool := decide (p * (40 * 256000) ≤ busy * 100)
  let dwelt := decide (b.dwell * 1000 ≤ evals * 256)
  if level < 2 ∧ ge b.enter2 then 2
  else if level < 1 ∧ ge b.enter1 then 1
  else if level = 2 ∧ !ge b.exit2 ∧ dwelt then 1
  else if level = 1 ∧ !ge b.exit1 ∧ dwelt then 0
  else level

/-- POOL_EVALUATION: every 256 µs the pool takes a new block, computes U and moves its level (R521 to R524, R541). U_PERMILLE
is rounded to nearest, as Example 10.1 shows it. -/
def execPoolEvaluation (dt : Nat) (s : State) : Answer :=
  let s := advance s dt
  let b := s.rc.blkNext.getD s.rc.blk
  let evals := s.rc.evals + 1
  let n := nextLevel b s.rc.level evals s.rc.busyNs
  let moved := n != s.rc.level
  let s := { s with rc := { s.rc with
    blk := b, blkNext := none, level := n, evals := if moved then 0 else evals,
    uPermille := (s.rc.busyNs * 1000 + 20 * 256000) / (40 * 256000), busyNs := 0,
    changes := if moved then satAdd 32 s.rc.changes 1 else s.rc.changes } }
  .next (if moved then raise s evPoolLevel subjNone 0 n else s)

end Sys2Proof.Machine
end

