-- ==== Sys2Proof/Machine/Streams.lean ====
section
/-! DEFINITION. Streams: OPEN_STREAM, FLUSH, SYNC, CLOSE_STREAM and GET_POSITION (R244 to R249, R258 to R265, R289,
R472, Tables 5-1, 5-9, 5-12, 5-13). -/

namespace Sys2Proof.Machine

/-! ### End of data of a partition -/

/-- Bits from the start of wrap `w`'s data area to an LPOS value, on a tape of the given format (R437, R440). -/
def bitsAt (fmt w lpos : Nat) : Nat := (if w % 2 == 0 then lpos - 250000 else 9025000 - lpos) * frameBitsIn fmt w

/-- End of data of the partition being written: the first dataset that is not synced, or the next one (R234, R249). -/
def eodNow (m : Mount) : Nat :=
  match m.closed.find? fun d => !d.synced with
  | some d => d.hdr.num
  | none => m.openDs.elim m.nextNum (·.num)

/-- Where that dataset begins, or is to begin: wrap and bits. -/
def eodPlace (m : Mount) : Nat × Nat :=
  match m.closed.find? fun d => !d.synced with
  | some d => if d.written then (d.hdr.wrap, d.hdr.begAt) else (m.wrWrap, m.wrBits)
  | none => (m.wrWrap, m.wrBits)

/-- The next RECORD_SEQ behind that end of data: that of the first record whose header lies past it (R234, R235). -/
def seqNow (m : Mount) (e : PartEntry) : Nat :=
  (m.recs.filter fun r => decide (eodNow m ≤ r.ds)).foldl (fun a r => min a r.seq) e.nextSeq

/-- The partition table with the end-of-data pointer of the partition being written (R234). -/
def withEod (m : Mount) : List PartEntry :=
  match m.wrPart with
  | some p => updPart m.parts p fun e =>
      { e with eod := eodNow m, nextSeq := seqNow m e, eodWrap := (eodPlace m).1, eodLpos := lposAt (eodPlace m).1 (eodPlace m).2 }
  | none => m.parts

/-- End of data of partition `p`. -/
def partEod (m : Mount) (p : Nat) : Nat := if m.wrPart = some p then eodNow m else (partOf m p).elim 0 (·.eod)

/-- Is the end of data of partition `p` at or past its end-of-partition point (R237, R244)? -/
def pastEop (m : Mount) (p : Nat) (e : PartEntry) : Bool :=
  if m.wrPart = some p then atPoint 1 e (eodPlace m).1 (eodPlace m).2 else atPoint 1 e e.eodWrap (bitsAt 1 e.eodWrap e.eodLpos)

/-- Dataset positions from the end of data of partition `p` to its end-of-partition point (R237). -/
def partRoom (fmt : Nat) (m : Mount) (p : Nat) : Nat :=
  if m.wrPart = some p then roomLeft m
  else (partOf m p).elim 0 fun e => roomFrom fmt e e.eodWrap (bitsAt fmt e.eodWrap e.eodLpos)

/-! ### Records that a read stream resolves (R51, R249) -/

/-- Has every codeword of dataset `n` of partition `p` passed verify (R249, R486)? Parity datasets hold no record. -/
def dsReadable (m : Mount) (tp : TapePart) (p n : Nat) : Bool :=
  let here := m.wrPart == some p
  match (if here then m.closed.find? (fun d => d.hdr.num == n) else none) with
  | some d => d.hdr.parity || d.synced
  | none => decide (n < partEod m p) && tp.ds.any fun d => d.num == n && d.gen == m.gen && (d.complete || d.parity)

/-- The datasets that hold a record. -/
def recSpan (r : TapeRec) : List Nat := (List.range (r.dsLast + 1 - r.ds)).map (r.ds + ·)

/-- The records of tenant tag `tag` in partition `p` that a read stream resolves, in RECORD_SEQ order. -/
def visible (x : Xport) (p tag : Nat) : List TapeRec :=
  match x.mount, x.cart with
  | some m, some c => match c.parts[p]? with
    | some tp => tp.recs.filter fun r => r.tag == tag && (recSpan r).all (dsReadable m tp p)
    | none => []
  | _, _ => []

/-- The records that the context of a read stream sees. -/
def streamRecs (s : State) (st : Stream) : List TapeRec :=
  match xpOf s st.xp, ctxOf s st.ctx with
  | some x, some k => visible x st.part k.d.tag
  | _, _ => []

/-- The record at a read stream's position. -/
def nextRec (s : State) (st : Stream) : Option TapeRec := (streamRecs s st).find? fun r => decide (st.pos ≤ r.seq)

/-! ### OPEN_STREAM -/

/-- The checks of Table 5-1, in order. -/
def openChecks (s : State) (c : Cmd) (d : Desc) : Option Compl :=
  let t := c.fld 0x10 1
  let p := c.fld 0x11 1
  let read := bitOf (c.fld 0x12 1) 0
  match (xpOf s t).bind (·.mount) with
  | none => some (Compl.of 0x62)
  | some m => match (partOf m p).filter fun e => e.policy != 0 with
    | none => some (Compl.field 0x11)
    | some e =>
      if !bitOf d.xpMask t || !bitOf (if read then d.rdMask else d.wrMask) p then some (Compl.of 3)
      else if e.policy == 2 && e.tag != d.tag then some (Compl.of 3)
      else if !read && e.policy == 1 && d.cipher == 0 then some (Compl.of 4)
      else if !read && (m.readOnly || e.wp) then some (Compl.of 0x63)
      else if !read && pastEop m p e then some (Compl.of 0x61)
      else if !read && s.strm.any (fun q => q.2.xp == t && !q.2.read && q.2.part != p) then some (Compl.of 5)
      else if d.maxStreams ≤ (ctxStreams s c.ctx).length ∨ 16384 ≤ s.strm.length then some (Compl.of 4)
      else none

/-- A stream as it opens; a read stream starts at its context's first record (R245). -/
def Stream.opened (ctx ring xp part : Nat) (read : Bool) : Stream :=
  { ctx := ctx, ring := ring, xp := xp, part := part, read := read, closing := false, dying := false, pos := 1, lastAck := 0, synced := 0,
    acked := 0, syncedN := 0, lastDs := 0, runBase := 0, runBytes := 0, runKey := 0, runOpen := false, runData := [],
    unsynced := [], damaged := none }

/-- What lies past end of data is overwritten (R236). -/
def cutTape (p eod : Nat) (c : Cart) : Cart :=
  { c with parts := (numbered c.parts 0).map fun e =>
      if e.1 = p then ⟨e.2.ds.filter fun d => decide (d.num < eod), e.2.recs.filter fun r => decide (r.ds < eod)⟩ else e.2 }

/-- The session writes partition `p` from its end of data on (R231, R234). -/
def startPart (x : Xport) (m : Mount) (p : Nat) (e : PartEntry) : Xport :=
  let m := { m with
    parts := withEod m, wrPart := some p, nextNum := e.eod, wrWrap := e.eodWrap, wrBits := bitsAt 1 e.eodWrap e.eodLpos,
    c3Count := 0, c3First := e.eod, eopRaised := false, reserveOut := false, cur := none, openDs := none, flushAt := none,
    closed := [], recs := [] }
  { x with mount := some { m with ewRaised := dsToEw m == 0 }, cart := x.cart.map (cutTape p e.eod) }

/-- Is there nothing of another partition left to write? -/
def partIdle (m : Mount) : Bool := m.openDs.isNone && m.closed.isEmpty && m.c3Count == 0

/-- Closes what is left open in the partition written before: the open dataset and its C3 group (R472). -/
def closePart (s : State) (t : Nat) : State :=
  let s := closeDataset s t false
  updMount s t fun m => closeGroup s m

/-- Opens the stream and completes with its identifier, the lowest free one. -/
def openNow (s : State) (c : Cmd) : State :=
  match leastFree (s.strm.map (·.1)) 0 16384 with
  | some k =>
    let st := Stream.opened c.ctx c.ring (c.fld 0x10 1) (c.fld 0x11 1) (bitOf (c.fld 0x12 1) 0)
    complete { s with strm := Tbl.put s.strm k st } c.id (Compl.ok k 0)
  | none => complete s c.id (Compl.of 4)

/-- OPEN_STREAM: the checks of Table 5-1, then a stream; a write to another partition first lets the one written before
finish, with its C3 group (R244, R245, R472). -/
def execOpenStream (id : Nat) (s : State) : Answer :=
  .next (withCmdW s id 0x40 fun c =>
    match ctxOf s c.ctx with
    | none => complete s id (Compl.of 3)
    | some x => match openChecks s c x.d with
      | some k => complete s id k
      | none =>
        let t := c.fld 0x10 1
        let p := c.fld 0x11 1
        match (xpOf s t).bind (·.mount) with
        | none => s
        | some m =>
          if bitOf (c.fld 0x12 1) 0 || m.wrPart == some p then openNow s c
          else if m.wrPart.isNone || partIdle m || m.reserveOut then
            openNow (updXp s t fun x => (partOf m p).elim x (startPart x m p)) c
          else if (xpOf s t).elim false (·.faulted) then complete s id (Compl.of 0x64)
          else if c.prog = .waiting 0 then s
          else setProg (closePart s t) id (.waiting 0))

/-! ### FLUSH, SYNC and CLOSE_STREAM -/

/-- A FLUSH or SYNC is accepted on its write stream unless write-stop is in force (R246, R247, R258). -/
def startFlush (s : State) (c : Cmd) : State :=
  match streamFor s c false with
  | none => complete s c.id (Compl.of 5)
  | some _ =>
    if c.hot then complete s c.id (Compl.of 0x65)
    else settle (setProg s c.id (.waiting 0))

/-- FLUSH: its window opens once its records are packed, and it completes when their dataset is closed (R259, R260, R289). -/
def execFlush (id : Nat) (s : State) : Answer := .next (withCmd s id 0x43 (startFlush s))

/-- SYNC: acts as FLUSH, and completes when its records are verified on tape (R262, R264, R289). -/
def execSync (id : Nat) (s : State) : Answer := .next (withCmd s id 0x44 (startFlush s))

/-- CLOSE_STREAM: acts as FLUSH or SYNC on a write stream, then frees the identifier (R246, R265). -/
def execCloseStream (id : Nat) (s : State) : Answer :=
  .next (withCmd s id 0x45 fun c =>
    if c.late || (c.stream.bind (Tbl.get? s.strm)).isNone then complete s id (Compl.of 5) else settle (setProg s id (.waiting 0)))

/-! ### GET_POSITION -/

/-- LPOS of the head: that of the upper servo channel, or of the lower one when only it reads (R560, R561). -/
def headLpos (x : Xport) : Nat :=
  match Tbl.get? x.servo 0, Tbl.get? x.servo 1 with
  | some a, some b => if !a.lposOk && b.lposOk then b.lpos else a.lpos
  | some a, none => a.lpos
  | none, some b => b.lpos
  | none, none => 0

/-- Number of the next dataset to write (Table 5-12). -/
def nextDs (m : Mount) : Nat :=
  match m.closed.find? fun d => !d.written with
  | some d => d.hdr.num
  | none => m.openDs.elim m.nextNum (·.num)

/-- The position block (Table 5-12). -/
def positionBlock (s : State) (st : Stream) (x : Xport) (m : Mount) : Bytes :=
  let nx := nextRec s st
  let room := partRoom (x.cart.elim 1 (·.format)) m st.part
  let ew := if m.wrPart == some st.part then m.ewRaised else decide (room ≤ m.ew)
  let eop := (m.wrPart == some st.part && m.eopRaised) || room == 0 || (partOf m st.part).elim false (pastEop m st.part)
  let atEod := !st.read || nx.isNone
  pageOf 64 [(0x00, 1, st.xp), (0x01, 1, st.part), (0x02, 1, b2n st.read), (0x03, 1, b2n ew + 2 * b2n atEod + 4 * b2n eop),
    (0x04, 2, x.wrap), (0x08, 4, headLpos x), (0x0C, 4, room - m.ew),
    (0x10, 8, if st.read then nx.elim (partEod m st.part) (·.ds) else nextDs m),
    (0x18, 8, if st.read then nx.elim 0 (·.seq) else st.lastAck), (0x20, 8, if st.read then 0 else st.synced),
    (0x28, 8, partEod m st.part), (0x30, 8, st.acked), (0x38, 8, st.syncedN)]

/-- GET_POSITION: writes the position block of a stream (R246, R284). -/
def execGetPosition (id : Nat) (s : State) : Answer :=
  .next (withCmd s id 0x4B fun c =>
    match (c.stream.filter fun _ => !c.late).bind (Tbl.get? s.strm) with
    | none => complete s id (Compl.of 5)
    | some st => match xpOf s st.xp with
      | some x => match x.mount with
        | some m => answer s c 0x18 (positionBlock s st x m) (Compl.ok 0 0)
        | none => complete s id (Compl.of 5)
      | none => complete s id (Compl.of 5))

end Sys2Proof.Machine
end

