-- ==== Sys2Proof/Machine/Mount.lean ====
section
/-! DEFINITION. Mount sessions: MOUNT, UNMOUNT, FORMAT_PARTITIONS, CM_UPDATE and CM_ACCESS_RETRY (R227 to R243, R282, R283,
R292, R483, R484, R501, R505, Tables 5-5 to 5-8, 9-4). -/

namespace Sys2Proof.Machine

/-! ### The end-of-data scan (R235, R236, R486, R491) -/

/-- The position of dataset `n` with the highest attempt, among those of generation `gen`. -/
def topAttempt (tp : TapePart) (gen n : Nat) : Option TapeDs :=
  tp.ds.foldl (fun b d => if d.num = n ∧ d.gen = gen ∧ b.elim true (fun k => decide (k.attempt ≤ d.attempt)) then some d else b) none

/-- Scans dataset headers from number `n` on: the number at which it stops, the incomplete dataset found there, and the
datasets read. -/
def scanFrom (tp : TapePart) (gen n fuel : Nat) : Nat × Option TapeDs × Nat :=
  match fuel with
  | 0 => (n, none, 0)
  | k + 1 =>
    match topAttempt tp gen n with
    | none => (n, none, 0)
    | some d =>
      if d.complete then
        let r := scanFrom tp gen (n + 1) k
        (r.1, r.2.1, r.2.2 + 1)
      else (n, some d, 1)

/-- A partition entry after the scan, with the datasets read and whether an incomplete one was found: end of data goes after the last
complete dataset, and the next RECORD_SEQ after the highest in a header that the scan found (R235, R236). -/
def scanPart (fmt : Nat) (tp : TapePart) (gen : Nat) (e : PartEntry) : PartEntry × Nat × Bool :=
  let r := scanFrom tp gen e.eod (tp.ds.length + 1)
  let place := match r.2.1 with
    | some d => (d.wrap, d.begAt)
    | none => if r.1 = e.eod then (e.eodWrap, bitsAt fmt e.eodWrap e.eodLpos)
      else (topAttempt tp gen (r.1 - 1)).elim (e.eodWrap, bitsAt fmt e.eodWrap e.eodLpos) fun d => (d.wrap, d.endAt)
  let top := (tp.recs.filter fun k => decide (e.eod ≤ k.ds ∧ k.ds < r.1)).foldl (fun a k => max a (k.seq + 1)) e.nextSeq
  ({ e with eod := r.1, eodWrap := place.1, eodLpos := lposIn fmt place.1 place.2, nextSeq := top }, r.2.2, r.2.1.isSome)

/-- What MOUNT found in one partition: its entry, datasets read, whether it was dirty, whether an incomplete dataset ended it. -/
def mountPart (c : Cart) (gen : Nat) (p : Nat × PartEntry) : PartEntry × Nat × Bool × Bool :=
  if p.2.dirty then
    let r := scanPart c.format ((c.parts[p.1]?).getD ⟨[], []⟩) gen p.2
    (r.1, r.2.1, true, r.2.2)
  else (p.2, 0, false, false)

/-! ### MOUNT -/

/-- Sixteen ASCII characters, padded with spaces. -/
def serial16 (b : Bytes) : Nat := leNat ((b ++ List.replicate 16 0x20).take 16)

/-- The mount information page (Table 5-6). -/
def mountPage (c : Cart) (readOnly : Bool) (l : List (PartEntry × Nat × Bool × Bool)) : Bytes :=
  let scanned := sumOf (l.map (·.2.1))
  pageOf 4096 ([(0, 1, c.format), (1, 1, l.length), (2, 1, b2n c.wp + 2 * b2n readOnly + 4 * b2n (l.any (·.2.2.1))),
      (8, 16, serial16 c.serial), (0x18, 4, scanned)] ++
    ((numbered l 0).map fun q =>
      let e := q.2.1
      shiftFields (0x40 + 32 * q.1) [(0, 1, e.policy),
        (1, 1, b2n e.wp + 2 * b2n q.2.2.2.1 + 4 * b2n q.2.2.2.2 + 8 * b2n e.c3), (2, 2, e.wraps), (4, 4, capacityDs c.format e),
        (8, 8, e.tag), (0x10, 8, e.eod), (0x18, 8, e.nextSeq)]).flatten)

/-- A lane at the start of a mount session: the built-in loop values, or those that CALIBRATE stored for
it (R505, R865). -/
def startLane (s : State) (l : Nat) : State :=
  let x := laneAt s l
  let x := { x with
    search := .acquisition, active := false, dropout := false, missed := true, margin := false, fly := 0, flight := [],
    store := [], ord := 0, place := none, gain := 120, snr := 0, asym := 0, base := 0, fir := Lane.reset.fir, freq := 0 }
  setLane s l ((Tbl.get? s.pmu.flash.calLoops l).elim x fun k => { x with
    gain := k.gain, asym := k.asym, base := k.base, fir := k.fir, freq := k.freq })

/-- The lanes of a transport. -/
def lanesOf (t : Nat) : List Nat := (List.range 32).map (32 * t + ·)

/-- A new mount session (R30, R230, Table 5-5). -/
def Mount.start (c : Cmd) (readOnly : Bool) (gen : Nat) (parts : List PartEntry) : Mount :=
  let or (v d : Nat) : Nat := if v = 0 then d else v
  { readOnly := readOnly, ew := or (c.fld 0x12 2) 512, flushMs := or (c.fld 0x14 2) 20, preMin := or (c.fld 0x16 2) 64,
    gen := gen, parts := parts, wrPart := none, window := [], dsSinceCm := 0, openDs := none, closed := [], cur := none,
    flushAt := none, c3Count := 0, c3First := 0, wrWrap := 0, wrBits := 0, sincePre := or (c.fld 0x16 2) 64, away := false, recs := [],
    nextNum := 0, reserveOut := false, ewRaised := false, eopRaised := false }

/-- Mounts the cartridge once its memory has been read: scan, session, lanes, information page; the session has its sustainable rate
from the start, and under Throttle its transport may be inactive at once (R30, R37, R230, R235, R282, R283, R758). -/
def mountGo (s : State) (t : Nat) (c : Cmd) : State :=
  match (xpOf s t).bind (·.cart) with
  | none => complete s c.id (Compl.of 0x62)
  | some k =>
    let tab : Option CmCopy := if k.format = 0 then some ⟨0, 0, []⟩ else cmTable k
    match tab with
    | none => complete s c.id (Compl.of 0x28)
    | some tb =>
      let ro := bitOf (c.fld 0x11 1) 0 || k.wp || k.format == 2
      let l := (numbered tb.parts 0).map (mountPart k tb.gen)
      let m := Mount.start c ro tb.gen (l.map (·.1))
      let s := updXp s t fun x => { stopTape x .stopped with
        mount := some m, faulted := false, cmTry := none, occ := 0, rsOcc := 0, restored := [], cws := [], reread := (0, 0),
        goal := none, arrivals := [], drains := [] }
      let s := recomputeXport (applyThermal ((lanesOf t).foldl startLane s)) t
      answer s c 0x18 (mountPage k ro l) (Compl.ok (k.format + 256 * l.length) (sumOf (l.map (·.2.1))))

/-- A cartridge-memory access has failed for the first time: it is tried again after 100 ms (R243, R283, Table 16-4). -/
def cmFail (s : State) (t id : Nat) : State :=
  countFault (updXp s t fun x => { x with cmTry := some (1, now s + 100 * msTicks, id) }) 9 1 0 0 1

/-- MOUNT: the checks, the reading of cartridge memory, then the session (R228 to R230, R235, R282, R283). -/
def execMount (id : Nat) (cmOk : Bool) (s : State) : Answer :=
  .next (withCmd s id 0x18 fun c =>
    let t := c.fld 0x10 1
    match xpOf s t with
    | none => complete s id (Compl.field 0x10)
    | some x =>
      if x.mount.isSome then complete s id (Compl.field 0x10)
      else if x.cart.isNone then complete s id (Compl.of 0x62)
      else if !x.startup then complete s id (Compl.of 0x67)
      else if !engRun s 4 t then complete s id (Compl.of 0x42)
      else if !dataOk s c then complete s id (Compl.of 7)
      else if x.calibrating || x.cmTry.isSome then s
      else if cmOk then mountGo s t c
      else cmFail (setProg s id (.waiting 0)) t id)

/-! ### UNMOUNT -/

/-- Ends the FLUSH, SYNC and CLOSE_STREAM of a transport's streams that still wait as their session ends, with OK or `st` (R292). -/
def endSettling (s : State) (t st : Nat) : State :=
  let l := s.rings.cmds.filter fun c => c.done.isNone && (c.opcode == 0x43 || c.opcode == 0x44 || c.opcode == 0x45) && cmdXp s c == some t
  l.foldl (fun s c =>
    let q := (c.stream.bind (Tbl.get? s.strm)).elim 0 (·.synced)
    let r2 := if wantsSync c then q else match c.prog with
      | .flushWait _ ds => if c.opcode == 0x43 then ds else 0
      | _ => 0
    fixDone s c.id { Compl.of st with result2 := r2 }) s

/-- The session ends: streams close, the tape is rewound, the lanes go idle, and the cartridge leaves if asked (R242,
Table 16-1). -/
def dismount (s : State) (t : Nat) (eject : Bool) : State :=
  let s := { s with strm := Tbl.keep s.strm fun _ st => st.xp != t }
  let s := if eject && ((xpOf s t).bind (·.cart)).isSome then raise s (evXp t 9) subjXp t 0 else s
  let s := updXp s t fun x => { stopTape x .stopped with
    mount := none, cart := if eject then none else x.cart, wrap := 0, reverse := false, target := 0, occ := 0, rsOcc := 0,
    restored := [], cws := [], reread := (0, 0), goal := none, arrivals := [], drains := [], cmTry := none, stopReq := false,
    haltReq := 0 }
  (lanesOf t).foldl (fun s l => if Tbl.has s.rc.lanes l then
    setLane s l { laneAt s l with active := false, flight := [], ord := 0, place := none } else s) s

/-- The end of an UNMOUNT: cartridge memory gets the table with DIRTY clear, or keeps it set when it could not be written
(R234, R243). -/
def unmountEnd (s : State) (t : Nat) (c : Cmd) (n : Nat) (written : Bool) : State :=
  let s := endSettling s t 0
  let s := storeCm s t fun x => match x.cart, x.mount with
    | some k, some m =>
      if written && !m.readOnly && k.format == 1 then
        { x with cart := some (cmPut k m.gen ((withEod m).map fun e => { e with dirty := false })) }
      else x
    | _, _ => x
  complete (dismount s t (bitOf (c.fld 0x11 1) 1)) c.id { Compl.ok n 0 with status := if written then 0 else 0x64 }

/-- Goes on with an UNMOUNT of which `n` commands were aborted: everything acknowledged is written and verified, with the
parity of the open C3 group; then cartridge memory, rewind and eject (R242). -/
def unmountGo (s : State) (t : Nat) (c : Cmd) (n : Nat) (cmOk : Bool) : State :=
  match xpOf s t with
  | none => s
  | some x => match x.mount with
    | none => complete s c.id (Compl.of 0x62)
    | some m =>
      if x.faulted then
        complete (dismount (endSettling s t 0x64) t (bitOf (c.fld 0x11 1) 1)) c.id { Compl.of 0x64 with result := n }
      else if !partIdle m && !m.reserveOut then
        (if m.openDs.isSome || m.c3Count != 0 then closePart s t else s)
      else if x.cmTry.isSome then s
      else
        let s := if m.reserveOut then endSettling s t 0x61 else s
        if m.readOnly then unmountEnd s t c n true
        else if s.pmu.pfail then s
        else if cmOk then unmountEnd s t c n true
        else cmFail s t c.id

/-- The commands that UNMOUNT with FORCE aborts: those of the transport's streams, but FLUSH, SYNC and CLOSE_STREAM (R242). -/
def forceTargets (s : State) (t : Nat) : List Cmd :=
  s.rings.cmds.filter fun c => cmdXp s c == some t && c.opcode != 0x43 && c.opcode != 0x44 && c.opcode != 0x45

/-- UNMOUNT (R241 to R243, R292). -/
def execUnmount (id : Nat) (cmOk : Bool) (s : State) : Answer :=
  .next (withCmdW s id 0x19 fun c =>
    let t := c.fld 0x10 1
    match c.prog with
    | .waiting n => unmountGo s t c n cmOk
    | _ =>
      if ((xpOf s t).bind (·.mount)).isNone then complete s id (Compl.of 0x62)
      else
        let force := bitOf (c.fld 0x11 1) 0
        if !force && s.strm.any (fun p => p.2.xp == t) then complete s id (Compl.of 5)
        else
          let l := if force then forceTargets s t else []
          let n := (abortTargets s l).1.length
          let s := abortList s 0x47 id l
          let s := { s with strm := Tbl.mapVal s.strm fun _ st => if st.xp = t then { st with closing := true } else st }
          unmountGo (postAll (setProg s id (.waiting n))) t c n cmOk)

/-! ### FORMAT_PARTITIONS -/

/-- A partition specification is valid (R240, Table 5-8). -/
def specOk (b : BitVec 128) : Bool :=
  let f := fieldOf b
  (f 0 1 == 1 || f 0 1 == 2) && decide (f 1 1 < 4) && f 2 2 % 2 == 0 && decide (2 ≤ f 2 2 ∧ f 2 2 ≤ 192) && f 4 4 == 0 &&
  (if f 0 1 == 2 then f 8 8 != 0 else f 8 8 == 0)

/-- The new partition table: consecutive wraps from wrap `w` on, every partition empty (R239, R441). -/
def layOut (w : Nat) (l : List (BitVec 128)) : List PartEntry :=
  match l with
  | [] => []
  | b :: r =>
    let f := fieldOf b
    { policy := f 0 1, c3 := bitOf (f 1 1) 0, wp := bitOf (f 1 1) 1, dirty := false, wraps := f 2 2, firstWrap := w, tag := f 8 8,
      eod := 0, nextSeq := 1, eodWrap := w, eodLpos := lposAt w 0 } :: layOut (w + f 2 2) r

/-- The transport after FORMAT_PARTITIONS: a new generation, every partition empty; the window of R30 belongs to the mount session and
stays (R239, R501). -/
def formatted (x : Xport) (m : Mount) (parts : List PartEntry) : Xport :=
  let gen := (m.gen + 1) % 2 ^ 32
  let m' := { m with
    gen := gen, parts := parts, wrPart := none, openDs := none, closed := [], cur := none, flushAt := none,
    c3Count := 0, c3First := 0, recs := [], nextNum := 0, away := false, reserveOut := false, ewRaised := false,
    eopRaised := false }
  { stopTape x .stopped with
    mount := some m', occ := 0, rsOcc := 0, restored := [], cws := [], reread := (0, 0), goal := none,
    cart := x.cart.map fun k => { cmPut k gen parts with format := 1, parts := parts.map fun _ => ⟨[], []⟩ } }

/-- FORMAT_PARTITIONS (R238 to R240, R501). -/
def execFormatPartitions (id : Nat) (specs : List (BitVec 128)) (s : State) : Answer :=
  .next (withCmd s id 0x1A fun c =>
    let t := c.fld 0x10 1
    match (xpOf s t).bind (·.mount) with
    | none => complete s id (Compl.of 0x62)
    | some m =>
      if s.strm.any fun p => p.2.xp == t then complete s id (Compl.of 5)
      else if m.readOnly then complete s id (Compl.of 0x63)
      else if !dataOk s c then complete s id (Compl.of 7)
      else if specs.length ≠ c.fld 0x11 1 || s.pmu.pfail then s
      else
      let s := cmdRead s c (c.fld 0x18 8) (16 * specs.length)
      if !specs.all specOk || decide (192 < sumOf (specs.map fun b => fieldOf b 2 2)) then
        complete s id (Compl.field 0xFF)
      else complete (storeCm s t fun x => formatted x m (layOut 0 specs)) id (Compl.ok 0 0))

/-! ### Cartridge memory updates and retries -/

/-- The table goes to cartridge memory after 1,024 datasets (R234, R483, R484). -/
def cmWrite (x : Xport) : Xport :=
  match x.cart, x.mount with
  | some k, some m =>
    { x with
      cart := some (cmPut k m.gen ((numbered (withEod m) 0).map fun e =>
        { e.2 with dirty := ((cmTable k).bind fun b => b.parts[e.1]?).elim e.2.dirty (·.dirty) })),
      mount := some { m with dsSinceCm := m.dsSinceCm - 1024 } }
  | _, _ => x

/-- CM_UPDATE: 1,024 datasets have been written; no cartridge-memory write starts while PFAIL_N is qualified (R234, R763). -/
def execCmUpdate (t : Nat) (cmOk : Bool) (s : State) : Answer :=
  match xpOf s t with
  | some x =>
    if x.mount.elim false (fun m => decide (1024 ≤ m.dsSinceCm) && !m.readOnly) && x.cmTry.isNone && !s.pmu.pfail then
      .next (if cmOk then storeCm s t cmWrite else cmFail s t noCmd)
    else .next s
  | none => .next s

/-- What the failed access was for goes on, now that it has succeeded. -/
def cmResume (s : State) (t id : Nat) : State :=
  match cmdOf s id with
  | some c => match c.prog with
    | .waiting n => if c.done.isSome then s else if c.opcode = 0x18 then mountGo s t c else unmountEnd s t c n true
    | _ => s
  | none => if id = noCmd then storeCm s t cmWrite else s

/-- What the access was for ends with its fault: MEDIA_FORMAT, TRANSPORT_FAULT, or a later update (R243, R283). -/
def cmGiveUp (s : State) (t id : Nat) : State :=
  match cmdOf s id with
  | some c => match c.prog with
    | .waiting n => if c.done.isSome then s
      else if c.opcode = 0x18 then complete s id (Compl.of 0x28) else unmountEnd s t c n false
    | _ => s
  | none => updMount s t fun m => { m with dsSinceCm := m.dsSinceCm - 1024 }

/-- CM_ACCESS_RETRY: the next attempt, 100 ms after the last; the third failure spends the budget (R243, R283, Table 16-4). -/
def execCmAccessRetry (dt t : Nat) (ok : Bool) (s : State) : Answer :=
  let s := advance s dt
  match (xpOf s t).bind (·.cmTry) with
  | some (n, at_, id) =>
    let writes := (cmdOf s id).elim true fun c => c.opcode != 0x18
    if now s < at_ ∨ (writes ∧ s.pmu.pfail) then .next s
    else if ok then
      .next (cmResume (countFault (updXp s t fun x => { x with cmTry := none }) 9 0 1 0 0) t id)
    else if n < 2 then
      .next (countFault (updXp s t fun x => { x with cmTry := some (n + 1, now s + 100 * msTicks, id) }) 9 0 0 0 1)
    else
      let s := updXp s t fun x => { x with cmTry := none }
      let st := (cmdOf s id).elim 0 fun c => if c.opcode = 0x18 then 0x28 else 0x64
      let s := faultSpent s { FltLog.blank with
        cls := 9, status := st, event := evXp t 10, xp := t, ring := (cmdOf s id).elim 0xFFFF (·.ring),
        cid := (cmdOf s id).elim 0 (·.cid), tries := 3 } subjXp t
      .next (cmGiveUp s t id)
  | none => .next s

end Sys2Proof.Machine
end

