-- ==== Sys2Proof/Machine/Recover.lean ====
section
/-! DEFINITION. The tape's turn for read commands, and what codewords give on the way back: dataset recovery through C2, pinned
re-decode and C3, dataset and record headers (R25, R269 to R272, R346 to R348, R425, R426, R464 to R469, R471 to R475, R486 to R500,
R533 to R538). -/

namespace Sys2Proof.Machine

/-! ### The tape's turn (R25, R269 to R272) -/

/-- Is the command the oldest unfinished read command of its transport (R271)? -/
def oldestReader (s : State) (t id : Nat) : Bool :=
  !((before s id).any fun c => readsTape c && c.done.isNone && cmdXp s c == some t)

/-- Lane `l` begins to read: it acquires, and counts separators from here (R510). -/
def wakeLane (s : State) (l : Nat) : State :=
  if s.rc.disabled.elem l then s
  else setLane s l { laneAt s l with active := true, search := .acquisition, ord := 0, place := none, store := [] }

/-- The lanes of transport `t` begin to read. -/
def wakeLanes (s : State) (t : Nat) : State := (lanesOf t).foldl wakeLane s

/-- A dataset boundary while transport `t` reads: new blocks and lane changes take effect, CC2 recomputes, and an inactive transport
stops (R37, R75, R539, R758, R803). -/
def readBoundary (s : State) (t : Nat) : State :=
  let s := takeBlocks s t
  let s := (lanesOf t).foldl (fun s l => if (laneAt s l).active then s else wakeLane s l) s
  let s := recomputeXport (pushMax s t) t
  updXp s t fun x => if x.throttled || x.stopReq then { x with motion := .stopped, stopReq := false } else x

/-- Bytes that the saved LLRs of codewords take in the restore region (R520). -/
def llrBytes (l : List ReadCw) : Nat := cwBits * (l.filter fun w => !w.llr.isEmpty).length

/-- Keeps only the codewords that satisfy `f`; the saved LLRs of the others leave the restore region. -/
def keepCws (f : ReadCw → Bool) (x : Xport) : Xport :=
  { x with cws := x.cws.filter f, rsOcc := x.rsOcc - llrBytes (x.cws.filter fun w => !f w) }

/-- The start of dataset `n` of partition `p`, or end of data: wrap and LPOS. -/
def placeOf (x : Xport) (p n : Nat) : Option (Nat × Nat) :=
  match x.mount, x.cart.bind fun c => c.parts[p]? with
  | some m, some tp =>
    let fmt := x.cart.elim 1 (·.format)
    match topAttempt tp m.gen n with
    | some d => some (d.wrap, lposIn fmt d.wrap d.begAt)
    | none =>
      if m.wrPart = some p then some ((eodPlace m).1, lposIn fmt (eodPlace m).1 (eodPlace m).2)
      else (partOf m p).map fun e => (e.eodWrap, e.eodLpos)
  | _, _ => none

/-- The TCU takes the head to dataset `n` of partition `p` (R25 step 2). -/
def seekDs (p n : Nat) (x : Xport) : Xport :=
  let g := placeOf x p n
  { stopTape x .locating with
    stopReq := false, goal := g, wrap := g.elim x.wrap (·.1), reverse := (g.elim x.wrap (·.1)) % 2 == 1 }

/-- Transport `t` leaves for dataset `n`; what its lanes had brought in is dropped, and new blocks take effect (R539). -/
def moveTape (s : State) (t p n : Nat) : State :=
  updXp (takeBlocks s t) t fun x =>
    { seekDs p n (keepCws (fun _ => false) x) with
      reread := (0, 0), mount := x.mount.map fun m => { m with away := m.wrPart.isSome } }

/-- LPOS frames in BH_MARGIN_MM: how far before its goal the tape may begin to read (log entry 144). -/
def runUp (x : Xport) : Nat := x.blk.bhMm * 1000 / 120

/-- Has the tape come up to its goal, by LPOS, at speed (R25 step 2, R561, R578)? -/
def atGoal (x : Xport) : Bool :=
  x.goal.elim true fun g =>
    let h := headLpos x
    decide (1200 ≤ x.velocity) && x.servo.any (fun c => c.2.lposOk) &&
    (if g.1 % 2 = 0 then decide (h ≤ g.2 ∧ g.2 ≤ h + runUp x) else decide (g.2 ≤ h ∧ h ≤ g.2 + runUp x))

/-- Has the head run off the wrap's data area (R440, R585)? -/
def offWrap (x : Xport) : Bool :=
  x.servo.any (fun c => c.2.lposOk) && (if x.wrap % 2 = 0 then decide (9025000 < headLpos x) else decide (headLpos x < 250000))

/-- Has a backhitch come back to its point (R584 step 3)? -/
def backAt (x : Xport) : Bool :=
  x.goal.elim true fun g =>
    x.servo.any (fun c => c.2.lposOk) && (if g.1 % 2 = 0 then decide (headLpos x ≤ g.2) else decide (g.2 ≤ headLpos x))

/-- An LPOS word while transport `t` moves: at its goal a seek ends and the lanes begin to read, or a backhitch ends and the tape
waits; past the end of the wrap's data area a reading tape turns round (R25 step 2, R584, R585). -/
def followTape (s : State) (t : Nat) : State :=
  match xpOf s t with
  | some x =>
    if x.motion == .locating && x.goal.isSome && atGoal x then
      wakeLanes (updXp s t fun x => { x with motion := .reading, goal := none }) t
    else if x.motion == .backhitch && backAt x then
      updXp s t fun x => { x with motion := .stopped, goal := none, reverse := x.wrap % 2 == 1, run := 0 }
    else if x.motion == .reading && !x.calibrating && offWrap x then updXp s t fun x => { x with motion := .turnaround }
    else s
  | none => s

/-- Makes the tape of transport `t` free for the read command `id`, or brings that nearer: true when it may move (R269, R271,
R272, R601). -/
def takeTape (s : State) (t id : Nat) : Bool × State :=
  match (xpOf s t), (xpOf s t).bind (·.mount) with
  | some x, some m =>
    if x.throttled || x.calibrating || !oldestReader s t id then (false, s)
    else if m.away || m.wrPart.isNone || (m.closed.isEmpty && m.openDs.isNone && m.cur.isNone) then (true, s)
    else if m.openDs.isSome && (decide (m.preMin ≤ m.sincePre) || m.closed.isEmpty) then (false, closeDataset s t false)
    else (false, s)
  | _, _ => (false, s)

/-- A read command waits for the tape. -/
def waitTape (s : State) (c : Cmd) : State :=
  match c.prog with
  | .fresh => setProg s c.id (.waiting 0)
  | _ => s

/-- No read command is left: the tape stops where it is. -/
def restTape (s : State) (t : Nat) : State :=
  if s.rings.cmds.any fun c => c.done.isNone && readsTape c && cmdXp s c == some t then s
  else updXp s t fun x => if x.motion == .reading || x.motion == .locating then
    { keepCws (fun _ => false) x with motion := .stopped, goal := none } else x

/-- What stops a read command on transport `t`: a fault, or an engine bound to the transport that is not in RUN (R24, R572, R751). -/
def readBarred (s : State) (t : Nat) : Option Compl :=
  if (xpOf s t).elim false (·.faulted) then some (Compl.of 0x64)
  else if !engRun s 1 t || !engRun s 4 t || !engRun s 5 t then some (Compl.of 0x42)
  else none

/-! ### The codewords of a dataset (R487 to R490, R502, R538) -/

/-- A field of a codeword's header (Table 9-1). -/
def cwFld (w : ReadCw) (o n : Nat) : Nat := leNat ((w.hdr.drop o).take n)

/-- The attempt of dataset `n` that a reader follows: its highest complete one (R490). -/
def authAttempt (tp : TapePart) (gen n : Nat) : Option TapeDs :=
  tp.ds.foldl (fun b d => if d.num = n ∧ d.gen = gen ∧ d.complete ∧ b.elim true (fun k => decide (k.attempt ≤ d.attempt)) then some d else b) none

/-- May the codeword serve for dataset `n` of partition `p`, attempt `a`? An earlier attempt's may, but for the rows that ATTEMPT and
the skip note change (R487, R490); it counts wherever on the lane it stood, in its own position or deferred into one that was
abandoned (R488, R499). -/
def servesDs (p n a : Nat) (w : ReadCw) : Bool :=
  let u := cwFld w 0xB 1
  !w.hdr.isEmpty && cwFld w 0 6 == n && cwFld w 9 1 == p && !bitOf (cwFld w 0xA 1) 3 &&
  (u == a || (decide (u < a) && !(cwFld w 6 1 == 0 && (cwFld w 7 1 == 0 || decide (128 ≤ cwFld w 7 1)))))

/-- Row `r` of subset `s` from a dataset's codewords: a copy of attempt `a` if there is one, else of an earlier attempt; copies that
disagree make an erasure (R489, R490). -/
def rowOf (l : List ReadCw) (a s r : Nat) : Option Bytes :=
  let c := l.filter fun w => cwFld w 6 1 == s && cwFld w 7 1 == r
  let b := c.filter fun w => cwFld w 0xB 1 == a
  match (if b.isEmpty then c else b) with
  | [] => none
  | w :: k => if k.all fun v => v.data == w.data then some w.data else none

/-- The dataset position, counted in separators, in which lane `l` brought attempt `a` of dataset `n`. -/
def ordOf (cws : List ReadCw) (l n a : Nat) : Option Nat :=
  (cws.find? fun w => w.lane == l && !w.hdr.isEmpty && cwFld w 0 6 == n && cwFld w 0xB 1 == a && !bitOf (cwFld w 0xA 1) 1).map (·.ord)

/-- The saved LLRs of a codeword that did not converge, known by its place on its lane (R459, R487, R535, log entry 145). -/
def llrOf (cws : List ReadCw) (n a s r : Nat) : Option (List Int) :=
  let l := laneOf (144 * s + r)
  (ordOf cws l n a).bind fun o =>
    (cws.find? fun w => w.lane == l && w.ord == o && w.place == some r && !w.llr.isEmpty).map (·.llr)

/-- The codewords of lanes that are not disabled (R538). -/
def liveCws (s : State) (t : Nat) (x : Xport) : List ReadCw := x.cws.filter fun w => !s.rc.disabled.elem (32 * t + w.lane)

/-- Has the head passed `b` bits of wrap `w`? -/
def headPast (x : Xport) (w b : Nat) : Bool :=
  let l := lposIn (x.cart.elim 1 (·.format)) w b
  x.wrap == w && x.servo.any (fun c => c.2.lposOk) && (if w % 2 = 0 then decide (l < headLpos x) else decide (headLpos x < l))

/-- Has everything that the tape holds of attempt `d` passed the read elements? A dataset stays open until the rewrite area of the next
position has passed, on GRF-2 and before end of data only until its own has (R476, R488, R496, R499). -/
def dsPassed (s : State) (t : Nat) (x : Xport) (last : Bool) (d : TapeDs) : Bool :=
  let own := last || x.cart.elim 1 (·.format) == 2
  let more := if own then 1 else 2
  headPast x d.wrap (d.endAt + if own then 0 else needBits) ||
  ((List.range 32).any (fun l => (ordOf x.cws l d.num d.attempt).isSome) &&
   (List.range 32).all fun l => s.rc.disabled.elem (32 * t + l) ||
     match ordOf x.cws l d.num d.attempt with
     | some o => decide (o + more ≤ (laneAt s (32 * t + l)).ord)
     | none => (laneAt s (32 * t + l)).search == .acquisition)

/-! ### C2 and pinned re-decode (R533 to R535) -/

/-- The rows of a dataset and the columns that C2 has decoded, per subset. -/
structure Decoded where
  rows : List (List (Option Bytes))
  cols : List (List (Option Bytes))
  deriving DecidableEq, Repr

/-- C2 over the rows that codewords gave (R533 step 1). -/
def decodeC2 (l : List ReadCw) (a : Nat) : Decoded :=
  let rows := (List.range 32).map fun s => (List.range 144).map (rowOf l a s)
  ⟨rows, rows.map c2Subset⟩

/-- Does every column decode? -/
def dsDone (d : Decoded) : Bool := d.cols.all fun c => c.all (·.isSome)

/-- Did C2 correct a byte: one that was an erasure, or came otherwise (Table 5-11)? -/
def c2Fixed (d : Decoded) : Bool :=
  (d.rows.zip d.cols).any fun q => (numbered q.2 0).any fun c => c.2.elim false fun col =>
    (q.1.zip col).any fun e => e.1.elim true fun b => b[c.1]? != some e.2

/-- The saved LLRs with every known payload byte pinned: scrambled with the codeword's seed, ±PIN_LLR by bit (R534). -/
def pinLlrs (k : RcBlock) (seed : BitVec 15) (known : List (Option Byte)) (llr : List Int) : List Int :=
  let key := scramble seed (List.replicate 1008 0)
  (numbered llr 0).map fun p =>
    if p.1 < 128 ∨ 8192 ≤ p.1 then p.2
    else match (known[(p.1 - 128) / 8]?).join with
      | some b => if (b ^^^ (key[(p.1 - 128) / 8]?).getD 0).getMsbD (p.1 % 8) then (k.pinLlr : Int) else -(k.pinLlr : Int)
      | none => p.2

/-- One pinned re-decode: the row, if its codeword converges, and the iterations it took (R534). -/
def pinOne (k : RcBlock) (total n s r : Nat) (cols : List (Option Bytes)) (llr : List Int) : Option Bytes × Nat :=
  let seed := scramSeed n s r
  let q := ldpcRun total (pinLlrs k seed (cols.map fun c => c.bind (·[r]?)) llr)
  let b := infoBytes q.1
  let w : ReadCw := ⟨0, 0, none, b.take 16, [], []⟩
  (if q.2.2 && hdrGood w.hdr && cwFld w 0 6 == n && cwFld w 6 1 == s && cwFld w 7 1 == r then some (scramble seed (b.drop 16)) else none,
   q.2.1)

/-- A round over subset `s`: its rows, the iterations, and the lanes whose codewords converged (R533 step 2). -/
def pinSubset (k : RcBlock) (total n a : Nat) (cws : List ReadCw) (s : Nat) (rows cols : List (Option Bytes)) :
    List (Option Bytes) × Nat × List Nat :=
  (numbered rows 0).foldl (fun q p => match p.2, llrOf cws n a s p.1 with
    | none, some l =>
      let v := pinOne k total n s p.1 cols l
      (q.1 ++ [v.1], q.2.1 + v.2, if v.1.isSome then laneOf (144 * s + p.1) :: q.2.2 else q.2.2)
    | v, _ => (q.1 ++ [v], q.2)) ([], 0, [])

/-- C2 again on the columns that failed. -/
def redoCols (rows cols : List (Option Bytes)) : List (Option Bytes) :=
  (numbered cols 0).map fun p => match p.2 with
    | some b => some b
    | none => c2Column (rows.map fun r => r.bind fun b => b[p.1]?)

/-- One pinned round over the subsets that have a failing column (R533 step 2). -/
def pinRound (k : RcBlock) (total n a : Nat) (cws : List ReadCw) (d : Decoded) : Decoded × Nat × List Nat :=
  (numbered (d.rows.zip d.cols) 0).foldl (fun q p =>
    if p.2.2.all (·.isSome) then (⟨q.1.rows ++ [p.2.1], q.1.cols ++ [p.2.2]⟩, q.2)
    else
      let v := pinSubset k total n a cws p.1 p.2.1 p.2.2
      (⟨q.1.rows ++ [v.1], q.1.cols ++ [redoCols v.1 p.2.2]⟩, q.2.1 + v.2.1, v.2.2 ++ q.2.2)) (⟨[], []⟩, 0, [])

/-- Up to `rounds` rounds, until every column decodes (R533 step 2). -/
def pinRounds (k : RcBlock) (total n a : Nat) (cws : List ReadCw) (rounds : Nat) (d : Decoded) : Decoded × Nat × List Nat :=
  match rounds with
  | 0 => (d, 0, [])
  | m + 1 =>
    if dsDone d then (d, 0, [])
    else
      let q := pinRound k total n a cws d
      let r := pinRounds k total n a cws m q.1
      (r.1, q.2.1 + r.2.1, q.2.2 ++ r.2.2)

/-- The data rows of a subset, from its columns. -/
def subsetBytes (cols : List (Option Bytes)) : Bytes :=
  ((List.range 128).map fun r => cols.map fun c => (c.bind fun b => b[r]?).getD 0).flatten

/-- The data rows of a decoded dataset: its header and its packed stream (R456, R457). -/
def dsArray (d : Decoded) : Bytes := (d.cols.map subsetBytes).flatten

/-- Is the dataset header valid for dataset `n` of partition `p` (R468, R486)? -/
def dsHdrOk (gen p n : Nat) (b : Bytes) : Bool :=
  let f (o k : Nat) : Nat := leNat ((b.drop o).take k)
  decide (512 ≤ b.length) && f 0 4 == 0x33465247 && f 0x1FC 4 == crc32c (b.take 0x1FC) && f 6 1 == p && f 8 8 == n && f 0x10 4 == gen

/-! ### Recovery of a dataset (R471 to R475, R498, R500, R533, R536) -/

/-- The restored copy of a dataset. -/
def restoredOf (x : Xport) (p n : Nat) : Option Restored := x.restored.find? fun k => k.part == p && k.num == n

/-- What one recovery gave: outcome, array, whether C2 corrected a byte, iterations of pinned re-decodes and the lanes on which they
converged, and the datasets of its group that have to be read first. -/
structure Recovered where
  out   : RecoverOut
  data  : Bytes
  fixed : Bool
  iters : Nat
  pins  : List Nat
  wait  : List Nat
  deriving DecidableEq, Repr

/-- Steps 1 and 2 for a dataset: its decode with C2, then pinned rounds (R533). -/
def decodeDs (s : State) (t : Nat) (x : Xport) (p : Nat) (d : TapeDs) : Decoded × Decoded × Nat × List Nat :=
  let cws := liveCws s t x
  let a := decodeC2 (cws.filter (servesDs p d.num d.attempt)) d.attempt
  (a, pinRounds x.rc (poolLevel s).total d.num d.attempt cws x.rc.pinRounds a)

/-- The array of another dataset of a group, if it is in the restore region or its codewords decode. -/
def memberArray (s : State) (t : Nat) (x : Xport) (m : Mount) (tp : TapePart) (p n : Nat) : Option Bytes :=
  match (restoredOf x p n).filter (·.ok) with
  | some k => some k.data
  | none => (authAttempt tp m.gen n).bind fun d =>
    let q := decodeDs s t x p d
    if dsDone q.2.1 then some (dsArray q.2.1) else none

/-- The other datasets of the group of `d`, its parity dataset among them, when the group has one (R471, R475). -/
def groupOf (m : Mount) (tp : TapePart) (d : TapeDs) : List Nat :=
  if d.parity || d.c3Pos == 0xFF then []
  else match tp.ds.find? fun k => k.parity && k.complete && k.gen == m.gen && k.c3First == d.c3First with
    | some k => ((List.range (k.num + 1 - d.c3First)).map (d.c3First + ·)).filter fun n => n != d.num
    | none => []

/-- Datasets of a group that are neither at hand nor read to the end. -/
def unread (s : State) (t : Nat) (x : Xport) (m : Mount) (tp : TapePart) (p : Nat) (l : List Nat) : List Nat :=
  l.filter fun n => (memberArray s t x m tp p n).isNone &&
    (authAttempt tp m.gen n).elim false fun d => !dsPassed s t x (n + 1 == partEod m p) d

/-- Recovery of dataset `d` of partition `p` from what the lanes have brought in, in the order of R533; a dataset whose header fails is
reached through C3 only (R486, R498, R500). -/
def recoverDs (s : State) (t : Nat) (x : Xport) (m : Mount) (tp : TapePart) (p : Nat) (d : TapeDs) : Recovered :=
  let q := decodeDs s t x p d
  let b := dsArray q.2.1
  let fixed := c2Fixed q.1 || c2Fixed q.2.1
  if dsDone q.2.1 && (d.parity || dsHdrOk m.gen p d.num b) then
    ⟨if dsDone q.1 then .c2 fixed else .pinned, b, fixed, q.2.2.1, q.2.2.2, []⟩
  else
    let g := groupOf m tp d
    let bs := g.filterMap (memberArray s t x m tp p)
    let c := bs.foldl xorBytes (List.replicate 4128768 0)
    if !g.isEmpty && bs.length == g.length && dsHdrOk m.gen p d.num c then ⟨.c3, c, fixed, q.2.2.1, q.2.2.2, []⟩
    else ⟨.failed, [], fixed, q.2.2.1, q.2.2.2, unread s t x m tp p g⟩

/-- Counts what pinned re-decodes took, at restore priority, and the codewords that they brought to converge (R534, Tables 10-7,
10-8). -/
def notePins (s : State) (t : Nat) (r : Recovered) : State :=
  r.pins.foldl (fun s l => setLane s (32 * t + l) { laneAt s (32 * t + l) with pinnedOk := satAdd 32 (laneAt s (32 * t + l)).pinnedOk 1 })
    { s with rc.iterRestore := satAdd 64 s.rc.iterRestore r.iters }

/-- Counts what a dataset took in RW_SUMMARY, and a lost one as a spent restore budget (R536, R537, Table 16-4). -/
def countRecover (s : State) (t n : Nat) (r : RecoverOut) : State :=
  match r with
  | .c2 _ => s
  | .pinned => updXp s t fun x => { x with rw := { x.rw with pinned := satAdd 32 x.rw.pinned 1 } }
  | .c3 => updXp s t fun x => { x with rw := { x.rw with c3 := satAdd 32 x.rw.c3 1 } }
  | .failed =>
    let s := updXp s t fun x => { x with rw := { x.rw with unrec := satAdd 32 x.rw.unrec 1 } }
    faultSpent s { FltLog.blank with cls := 5, status := 0x27, event := evXp t 5, xp := t, ds := n, tries := 4 } subjXp t

/-- Retries that dataset `n` has had (R533 step 4). -/
def triesOf (x : Xport) (n : Nat) : Nat := if x.reread.1 = n then x.reread.2 % 8 else 0

/-- Dataset `n` did not come back: the stage is repeated once, then the tape goes back and reads it again, twice; false when that budget
is spent (R425, R533 step 4, Table 16-4 class 5). -/
def retryDs (s : State) (t p n : Nat) : Bool × State :=
  match xpOf s t with
  | some x =>
    let k := triesOf x n
    let s := countFault s 5 (b2n (k == 0)) 0 0 (b2n (decide (k < 3)))
    if k = 0 then (true, updXp s t fun x => { x with reread := (n, 1) })
    else if k < 3 then (true, updXp s t fun x => { seekDs p n (keepCws (fun _ => false) x) with reread := (n, k + 1) })
    else (false, s)
  | none => (false, s)

/-- Dataset `n` is settled: a retry that brought it back is a recovered fault, and its codewords, earlier ones and those it left
unconverged are dropped. -/
def settleDs (s : State) (t n : Nat) (good : Bool) : State :=
  match xpOf s t with
  | some x =>
    let s := if good && triesOf x n != 0 then countFault s 5 0 1 0 0 else s
    updXp s t fun x =>
      let gone (w : ReadCw) : Bool := if w.hdr.isEmpty then
          (List.range 32).any fun l => w.lane == l && x.cws.any fun v => v.lane == l && v.ord == w.ord && !v.hdr.isEmpty && cwFld v 0 6 == n
        else decide (cwFld w 0 6 ≤ n)
      { keepCws (fun w => !gone w) x with reread := (0, 0) }
  | none => s

/-! ### Records in restored datasets (R460 to R469, R497) -/

/-- A field of a restored dataset's header (Table 9-3). -/
def dsFld (k : Restored) (o n : Nat) : Nat := leNat ((k.data.drop o).take n)

/-- The packed stream of a restored dataset. -/
def dsStream (k : Restored) : Bytes := k.data.drop 512

/-- A field of a record header at the front of `b` (Table 9-2). -/
def recFld (b : Bytes) (o n : Nat) : Nat := leNat ((b.drop o).take n)

/-- Bytes from a record's header to the end of its padding (R460, R464). -/
def recSize (b : Bytes) : Nat :=
  alignUp (48 + recFld b 0x1E 1 + recFld b 0x1B 3 + 4 + if bitOf (recFld b 0x1F 1) 1 then 16 else 0) 16

/-- Does the record header at the front of `b` pass HDR, with RECORD_SEQ `seq` (R463, R465, R467)? A label that goes on in a dataset
that is not at hand is not judged. -/
def recHdrOk (b : Bytes) (seq : Nat) : Bool :=
  let n := recFld b 0x1E 1
  decide (48 ≤ b.length) && recFld b 0x27 1 == seq % 256 &&
  (decide (b.length < 48 + n) || recFld b 0x2C 4 == crc32c (b.take 0x2C ++ List.replicate 4 0 ++ (b.drop 48).take n))

/-- The record headers that a reader finds from offset `off` on, with their RECORD_SEQs, until one fails HDR (R465, R469). -/
def walkRecs (fuel : Nat) (b : Bytes) (off seq : Nat) : List (Nat × Nat) × Bool :=
  match fuel with
  | 0 => ([], false)
  | k + 1 =>
    if recHdrOk (b.drop off) seq then
      let q := walkRecs k b (off + recSize (b.drop off)) (seq + 1)
      ((off, seq) :: q.1, q.2)
    else ([], true)

/-- The packed stream of data dataset `n` and of those after it that are restored, as far as they follow one another. -/
def streamFrom (x : Xport) (tp : TapePart) (p n fuel : Nat) : Bytes :=
  match fuel with
  | 0 => []
  | k + 1 =>
    if tp.ds.any fun d => d.num == n && d.parity then streamFrom x tp p (n + 1) k
    else match (restoredOf x p n).filter (·.ok) with
      | some d => dsStream d ++ streamFrom x tp p (n + 1) k
      | none => []

/-- The headers that start in restored dataset `n`. -/
def headersOf (x : Xport) (tp : TapePart) (p n : Nat) : List (Nat × Nat) × Bool :=
  match (restoredOf x p n).filter (·.ok) with
  | some d => walkRecs (dsFld d 0x38 4) (streamFrom x tp p n 3) (dsFld d 0x3C 4) (dsFld d 0x30 8)
  | none => ([], false)

/-- The full ingest seconds for a field of 28 bits around a base (R465). -/
def fullSec (base f : Nat) : Nat :=
  let lo := (base + 2 ^ 48 - 2 ^ 27) % 2 ^ 48
  (lo + (f + 2 ^ 28 - lo % 2 ^ 28) % 2 ^ 28) % 2 ^ 48

/-- The full HIST_BASE for a field of 32 bits (R465). -/
def fullHist (seq f : Nat) : Nat := seq - (seq + 2 ^ 32 - f) % 2 ^ 32

/-- The record at offset `r.off` of dataset `r.ds`, from the restored bytes: its header as R465 completes it, label, body and tag. On
GRF-2 every record is an access point, and DS_SEC is the base of its ingest time (Table 9-5). -/
def readRec (x : Xport) (tp : TapePart) (p : Nat) (r : TapeRec) : TapeRec :=
  let b := (streamFrom x tp p r.ds 6).drop r.off
  let base := (restoredOf x p r.ds).elim 0 fun d => if x.cart.elim 1 (·.format) = 2 then dsFld d 0x18 6 else dsFld d 0x48 6
  let lab := recFld b 0x1E 1
  let pay := recFld b 0x1B 3
  let enc := bitOf (recFld b 0x1F 1) 1
  let u := recFld b 0x20 7
  { r with
    tag := recFld b 0 8, iv := (b.drop 8).take 12, keyId := recFld b 0x14 4, origLen := recFld b 0x18 3, label := (b.drop 48).take lab,
    raw := bitOf (recFld b 0x1F 1) 0, enc := enc, sec := fullSec base (u / 2 ^ 28), ns := 4 * (u % 2 ^ 28),
    histBase := if x.cart.elim 1 (·.format) = 2 then r.seq else fullHist r.seq (recFld b 0x28 4),
    body := (b.drop (48 + lab)).take (pay + 4), gtag := if enc then (b.drop (48 + lab + pay + 4)).take 16 else [] }

/-- Do FIRST_HDR, FILL_OFFSET, SPAN_OUT and SPAN_IN agree with the length of the record, in every dataset that holds it (R469, R497)? -/
def spanOk (x : Xport) (tp : TapePart) (p : Nat) (r : TapeRec) : Bool :=
  let size := tapeSize r
  let span := (recSpan r).filter fun n => !(tp.ds.any fun d => d.num == n && d.parity)
  (numbered span 0).all fun q => match restoredOf x p q.2 with
    | some d =>
      let fill := dsFld d 0x40 4
      let outs := bitOf (dsFld d 5 1) 2
      let beg := if q.1 = 0 then r.off else 0
      let left := size - (if q.1 = 0 then 0 else packBytes - r.off + packBytes * (q.1 - 1))
      let final := q.1 + 1 == span.length
      let only := dsFld d 0x3C 4 == 0xFFFFFFFF
      (q.1 == 0 || (bitOf (dsFld d 5 1) 1 && (if only then decide (min left packBytes ≤ fill) else dsFld d 0x3C 4 == left))) &&
      (if final then decide (beg + left ≤ fill) && !(outs && (if q.1 = 0 then r.seq + 1 == dsFld d 0x30 8 + dsFld d 0x38 4 else only))
       else outs && decide (packBytes < beg + left))
    | none => true

end Sys2Proof.Machine
end

