-- ==== Sys2Proof/Machine/Restore.lean ====
section
/-! DEFINITION. Restore: READ, LOCATE, VERIFY_SCAN, read preemption, DATASET_RECOVER, RECORD_OPEN and RECORD_DECOMPRESS
(R25, R51, R269 to R279, R286 to R288, R294, R303, R310, R311, R331 to R336, R343, R346, R382 to R386, R418 to R428, R497,
R533 to R537, R583, Tables 5-3, 5-11, 5-13, 8-3, 8-4, 16-4). -/

namespace Sys2Proof.Machine

/-! ### Records as read -/

/-- The AAD of a record on tape: its header as sealed, and its label (R349). -/
def recAad (r : TapeRec) : Bytes :=
  aadHeader r.tag r.iv r.keyId r.origLen (r.body.length - 4) r.label.length r.raw r.enc r.sec r.ns ++ r.label

/-- P of a record: its body, deciphered when it is encrypted (R348). -/
def plainOf (k : Option KeyVal) (r : TapeRec) : Bytes :=
  if r.enc then k.elim r.body fun k => gcmCtr k.bytes r.iv r.body else r.body

/-- Does the record's tag verify under the key? -/
def tagGood (k : KeyVal) (r : TapeRec) : Bool := gcmTag k.bytes r.iv (recAad r) r.body == r.gtag

/-- The original data behind P: the sealed CRC, then the units after the run's history; an error is the record's status, with the bytes up
to the last good token boundary (R303, R331, R332, R335, R343). -/
def expand (hist : Bytes) (r : TapeRec) (p : Bytes) : Except (Nat × Bytes) Bytes :=
  let pay := p.take (p.length - 4)
  if crc32c pay ≠ leNat (p.drop (p.length - 4)) then .error (0x20, [])
  else if r.raw then (if pay.length = r.origLen then .ok pay else .error (0x28, []))
  else if bitOf (leNat (pay.take 4)) 24 ≠ (r.histBase == r.seq) then .error (0x28, [])
  else match ktcDecode (if r.histBase = r.seq then [] else hist) pay r.origLen with
    | .ok (_, d) => .ok d
    | .error e => .error e

/-- The partition's tape. -/
def tapeOf (s : State) (t p : Nat) : TapePart := (((xpOf s t).bind (·.cart)).bind fun c => c.parts[p]?).getD ⟨[], []⟩

/-- The earlier records of a record's history run, stored raw or coded (R308 to R310); on GRF-2 every record is an access point
(Table 9-5). -/
def runBefore (s : State) (st : Stream) (r : TapeRec) : List TapeRec :=
  if ((xpOf s st.xp).bind (·.cart)).elim 1 (·.format) = 2 then []
  else (streamRecs s st).filter fun k => k.histBase == r.histBase && decide (r.histBase ≤ k.seq ∧ k.seq < r.seq)

/-- The history that the run's earlier records leave: their last 65,536 original bytes. -/
def runHistory (k : Option KeyVal) (l : List TapeRec) (h : Bytes) : Except Nat Bytes :=
  match l with
  | [] => .ok h
  | r :: t => match expand h r (plainOf k r) with
    | .ok d => let w := h ++ d; runHistory k t (w.drop (w.length - 65536))
    | .error e => .error e.1

/-! ### READ -/

/-- Data datasets among some numbers. -/
def dataOnly (tp : TapePart) (l : List Nat) : List Nat := l.filter fun n => !(tp.ds.any fun d => d.num == n && d.parity)

/-- The datasets that the next record needs: its own, and in RELEASE mode those of its run (R310). -/
def needed (s : State) (st : Stream) (verifyOnly : Bool) (r : TapeRec) : List Nat :=
  let l := if verifyOnly then [r] else runBefore s st r ++ [r]
  dataOnly (tapeOf s st.xp st.part) ((l.map recSpan).flatten.foldl setIns [])

/-- The dataset that could not be recovered and stops this record: one of its own, of its run, or one passed on the way to it
(R279, R311, R426). -/
def lostFor (x : Xport) (st : Stream) (r : TapeRec) (need : List Nat) : Option Nat :=
  (x.restored.find? fun k => k.part == st.part && !k.ok &&
    (need.elem k.num || decide (st.lastDs ≤ k.num ∧ k.num ≤ r.ds))).map (·.num)

/-- The dataset in which a header fails HDR that lies before the record, or is its own or one of its run's; a header that names another
tenant's tag fails too (R51, R425, R426, R467). -/
def hdrFail (s : State) (x : Xport) (tp : TapePart) (st : Stream) (verifyOnly : Bool) (r : TapeRec) : Option Nat :=
  let way := (x.restored.filter fun k => k.part == st.part && k.ok && decide (st.lastDs ≤ k.num ∧ k.num < r.ds)).map (·.num)
  match way.find? fun n => (headersOf x tp st.part n).2 with
  | some n => some n
  | none =>
    let own := (ctxOf s st.ctx).elim 0 (·.d.tag)
    ((if verifyOnly then [r] else runBefore s st r ++ [r]).find? fun k =>
      !(headersOf x tp st.part k.ds).1.elem (k.off, k.seq) || (readRec x tp st.part k).tag != own).map (·.ds)

/-- Datasets before `lo` leave the restore region of transport `t` (R583). -/
def releaseRestored (s : State) (t part lo : Nat) : State :=
  updXp s t fun x =>
    let keep := x.restored.filter fun k => k.part == part && decide (lo ≤ k.num)
    let n := (x.restored.length - keep.length) * packBytes
    { x with
      restored := keep, rsOcc := x.rsOcc - n,
      drains := [(now s, n)] ++ (x.drains.filter fun a => decide (now s < a.1 + 250 * msTicks)) }

/-- A READ ends; failed datasets are forgotten, so that a later READ tries them again. -/
def endRead (s : State) (c : Cmd) (t : Nat) (k : Compl) : State :=
  let s := updXp s t fun x =>
    let bad := (x.restored.filter fun r => !r.ok).length
    { x with restored := x.restored.filter (·.ok), rsOcc := x.rsOcc - bad * packBytes }
  restTape (complete s c.id k) t

/-- Bytes of a record in the data buffer (R273). -/
def bufLen (r : TapeRec) : Nat := r.label.length + r.origLen

/-- Datasets that are still to be restored before the record can be read: those it needs, and those on the way to it. -/
def missing (x : Xport) (tp : TapePart) (st : Stream) (need : List Nat) (r : TapeRec) : List Nat :=
  (dataOnly tp ((List.range (r.ds + 1 - st.lastDs)).map (st.lastDs + ·)) ++ need).filter fun n => (restoredOf x st.part n).isNone

/-- A restore-class fault of a READ: the stage is repeated once, then the tape goes back and the datasets are read again, twice; none when
that budget is spent (R425, Table 16-4 class 5). -/
def restoreRetry (s : State) (c : Cmd) (st : Stream) (need : List Nat) : Option State :=
  match c.prog with
  | .reading n off bytes bad h p rt =>
    let k := rt % 4
    let s := countFault s 5 (b2n (k == 0)) 0 0 (b2n (decide (k < 3)))
    if k = 0 then some (setProg s c.id (.reading n off bytes bad h p (rt + 1)))
    else if k < 3 then
      let s := updXp s st.xp fun x => { x with restored := [], rsOcc := llrBytes x.cws }
      let s := moveTape s st.xp st.part (need.foldl min (need.headD st.lastDs))
      some (setProg s c.id (.reading n off bytes bad 0 [] (rt + 1)))
    else none
  | _ => none

/-- A record header failed HDR: its dataset is decoded and read again within the restore budget, and is then unrecovered for the READ
(R425, R426, R467, Table 8-4). -/
def hdrFault (s : State) (c : Cmd) (st : Stream) (need : List Nat) (d n : Nat) : State :=
  match restoreRetry s c st need with
  | some s => s
  | none =>
    let s := faultSpent s { FltLog.blank with
      cls := 5, status := 0x27, event := evXp st.xp 6, ctx := c.ctx, xp := st.xp, ring := c.ring, cid := c.cid, ds := d,
      tries := 4 } subjXp st.xp
    endRead s c st.xp ⟨0x27, false, false, false, false, n, d⟩

/-- Below SET_WM a transport whose lanes hold nothing sets out for the datasets that a READ still needs (R25, R583). -/
def setOut (s : State) (t p : Nat) (l : List Nat) : State :=
  if (xpOf s t).elim false fun x => x.motion == .stopped && x.cws.isEmpty && !x.throttled && !x.calibrating &&
      decide (x.rsOcc * 1000 ≤ x.blk.setWm * restoreMib s * 1048576) then moveTape s t p (l.foldl min (l.headD 0)) else s

/-- Goes on with a READ between two records: it ends (R274 to R276, R278, R279), or its next record comes into hand once all
its datasets are restored and their headers pass HDR. -/
def readStep (s : State) (c : Cmd) (st : Stream) : State :=
  match c.prog, xpOf s st.xp with
  | .reading n off bytes bad 0 _ rt, some x =>
    let vo := bitOf (c.fld 0x12 1) 0
    let fin (more : Bool) : Compl := { Compl.ok n bytes with status := if vo && bad then 0x22 else 0, more := more }
    match nextRec s st with
    | none => endRead s c st.xp (if n = 0 then Compl.of 0x60 else fin false)
    | some r =>
      if c.fld 0x22 2 ≤ n then endRead s c st.xp (fin true)
      else if !vo && decide (c.fld 0x14 4 / 16 * 16 < alignUp off 16 + bufLen r) then
        endRead s c st.xp (if n = 0 then { Compl.field 0x14 with result2 := bufLen r } else fin true)
      else
        let tp := tapeOf s st.xp st.part
        let need := needed s st vo r
        match lostFor x st r need with
        | some d => endRead s c st.xp ⟨0x27, false, false, false, false, n, d⟩
        | none =>
          let s := releaseRestored s st.xp st.part (need.foldl min (min r.ds st.lastDs))
          match xpOf s st.xp with
          | some x =>
            let gone := missing x tp st need r
            if !gone.isEmpty then setOut s st.xp st.part gone
            else match hdrFail s x tp st vo r with
              | some d => hdrFault s c st (need ++ [st.lastDs]) d n
              | none => setProg s c.id (.reading n off bytes bad 1 [] rt)
          | none => s
  | _, _ => s

/-- READ: the checks, the tape's turn, then record after record (R246, R247, R269, R271, R273 to R279, R281, R353). -/
def execRead (id : Nat) (sgl : List SglElem) (s : State) : Answer :=
  .next (withCmdW s id 0x48 fun c =>
    match streamFor s c true, ctxOf s c.ctx with
    | some (_, st), some x =>
      match c.prog with
      | .reading _ _ _ _ _ _ _ => readStep s c st
      | _ =>
        let vo := bitOf (c.fld 0x12 1) 0
        match selectKey s c x.d with
        | .error k => complete s id k
        | .ok _ => match readBarred s st.xp with
          | some k => complete s id k
          | none =>
            if !dataOk s c then complete s id (Compl.of 7)
            else if !vo && !sglOk (c.fld 0x20 2) (c.fld 0x14 4) sgl then complete (readSgl s c (c.fld 0x18 8) (c.fld 0x20 2)) id (Compl.of 6)
            else
              let p := takeTape s st.xp id
              if p.1 then
                let s := if vo then p.2 else readSgl p.2 c (c.fld 0x18 8) (c.fld 0x20 2)
                let gone := (nextRec s st).elim [] fun r =>
                  (xpOf s st.xp).elim [] fun y => missing y (tapeOf s st.xp st.part) st (needed s st vo r) r
                let s := if gone.isEmpty then s else moveTape s st.xp st.part (gone.foldl min (gone.headD 0))
                let s := updCmd s id fun c => { c with
                  descs := (pieces (c.fld 0x18 8) (c.fld 0x14 4) (c.fld 0x20 2) sgl).map fun q =>
                    BitVec.ofNat 256 (q.1 + 2 ^ 64 * q.2) }
                let s := setProg s id (.reading 0 0 0 false 0 [] 0)
                (cmdOf s id).elim s fun c => readStep s c st
              else waitTape p.2 c
    | _, _ => complete s id (Compl.of 5))

/-- The pieces of the data buffer of a READ, as its scatter list gave them. -/
def readPieces (c : Cmd) : List (Nat × Nat) := c.descs.map fun d => (d.toNat % 2 ^ 64, d.toNat / 2 ^ 64)

/-- The record information entry (Table 5-3). -/
def infoEntry (x : Xport) (part : Nat) (r : TapeRec) (off status : Nat) : Bytes :=
  let flag (f : Restored → Bool) : Bool := x.restored.any fun k => k.part == part && (recSpan r).elem k.num && f k
  pageOf 64 [(0x00, 8, r.seq), (0x08, 4, r.origLen), (0x0C, 4, off), (0x10, 1, r.label.length), (0x11, 1, status),
    (0x12, 1, b2n r.raw + 2 * b2n r.enc + 4 * b2n (flag (·.pinned)) + 8 * b2n (flag (·.c3))), (0x14, 4, r.ns), (0x18, 8, r.sec),
    (0x20, 8, r.ds), (0x28, 4, r.off)]

/-- A record is returned with its status; `data` is what reaches the data buffer behind its label. The READ goes on, or ends with the
record's error; in VERIFY_ONLY a tag failure does not end it (R273, R274, R277, R278, R332, R336). -/
def returnRec (s : State) (c : Cmd) (k : Nat) (st : Stream) (r : TapeRec) (status : Nat) (data : Option Bytes) : State :=
  match c.prog, xpOf s st.xp with
  | .reading n off bytes bad _ _ rt, some x =>
    let vo := bitOf (c.fld 0x12 1) 0
    let at_ := if vo then 0 else alignUp off 16
    let b := if vo then [] else data.elim [] fun d => r.label ++ d
    let s := if status = 0 ∧ rt % 4 ≠ 0 then countFault s 5 0 1 0 0 else s
    let s := if status = 0 ∧ 4 ≤ rt then countFault s 6 0 1 0 0 else s
    let s := if vo then s else cmdScatter s c (readPieces c) at_ b true
    let s := cmdWrite s c (c.fld 0x28 8 + 64 * n) (infoEntry x st.part r at_ status) false
    let s := updStrm s k fun st => { st with pos := r.seq + 1, lastDs := r.dsLast }
    let off' := if vo then off else at_ + bufLen r
    let bad' := bad || (vo && status != 0)
    let s := setProg s c.id (.reading (n + 1) off' (bytes + b.length) bad' 0 [] 0)
    if status ≠ 0 ∧ (!vo ∨ status ≠ 0x22) then endRead s c st.xp ⟨status, false, false, false, false, n + 1, bytes + b.length⟩
    else match cmdOf s c.id, Tbl.get? s.strm k with
      | some c, some st => readStep s c st
      | _, _ => s
  | _, _ => s

/-- A TAG, SEAL or UNIT failure on a record whose re-open is spent: the class's event and a fault log entry (R797, Table 16-1). -/
def openSpent (s : State) (c : Cmd) (st : Stream) (r : TapeRec) (status ev : Nat) : State :=
  faultSpent s { FltLog.blank with
    cls := 6, status := status, event := ev, ctx := c.ctx, xp := st.xp, ring := c.ring, cid := c.cid, ds := r.ds, recSeq := r.seq,
    tries := 2 } subjCtx c.ctx

/-- The event of a record error (Table 16-1). -/
def recEvent (status : Nat) : Nat := if status == 0x21 || status == 0x22 then evTagFail else if status == 0x20 then evSeal else evUnit

/-- ROW, XFR or EGR fails on restore: the restore budget, then the record fails and READ stops after it (R425, R427, Table 16-4 class 5). -/
def restoreFault (s : State) (c : Cmd) (k : Nat) (st : Stream) (r : TapeRec) (seen : Seen) (ev : Nat) : State :=
  match restoreRetry s c st (needed s st (bitOf (c.fld 0x12 1) 0) r) with
  | some s => s
  | none =>
    let s := faultSpent s { FltLog.blank with
      cls := 5, status := 0x20, event := ev, ctx := c.ctx, xp := st.xp, ring := c.ring, cid := c.cid, ds := r.ds,
      recSeq := r.seq, tries := 4, flags := seenFlag seen, detail := seenDetail seen } subjCtx c.ctx
    returnRec s c k st r 0x20 none

/-- A READ with a record in hand, as the restored bytes spell it. -/
def readWork (s : State) (id : Nat) : Option (Cmd × Nat × Stream × Ctx × TapeRec) :=
  match cmdOf s id with
  | some c => match c.prog, c.done, streamFor s c true, ctxOf s c.ctx with
    | .reading _ _ _ _ _ _ _, none, some (k, st), some x => match xpOf s st.xp with
      | some y => (nextRec s st).map fun r => (c, k, st, x, readRec y (tapeOf s st.xp st.part) st.part r)
      | none => none
    | _, _, _, _ => none
  | none => none

/-- The status that stops an opened record: tag failure first (R384, R428). -/
def opened (s : State) (c : Cmd) (x : Ctx) (r : TapeRec) : Except Nat (Bool × Bytes) :=
  let vo := bitOf (c.fld 0x12 1) 0
  if !r.enc then .ok (true, r.body)
  else match (if x.d.cipher = 0 then none else keyFor s c x.d) with
    | none => .error (if vo then 0x22 else 0x21)
    | some k =>
      if k.keyId ≠ r.keyId then .error (if vo then 0x22 else 0x21)
      else .ok (tagGood k r, plainOf (some k) r)

/-- RECORD_OPEN: ROW and XFR are verified, KEY_ID compared, and an engine in RUN that no seal waits for checks the tag; in VERIFY_ONLY
the record ends here. A record whose dataset marks disagree is MEDIA_FORMAT (R277, R278, R345, R346, R382 to R385, R418, R419, R424,
R497, R751). -/
def execRecordOpen (id engine : Nat) (row xfr : Seen) (s : State) : Answer :=
  match readWork s id with
  | some (c, k, st, x, r) =>
    match c.prog with
    | .reading n off bytes bad 1 _ rt =>
      let vo := bitOf (c.fld 0x12 1) 0
      if r.enc && (runEngines s 2).isEmpty then .next (endRead s c st.xp ⟨0x42, false, false, false, false, n, bytes⟩)
      else if r.enc && (!(runEngines s 2).elem engine || sealWaits s) then .next s
      else if !((xpOf s st.xp).elim true fun y => spanOk y (tapeOf s st.xp st.part) st.part r) then
        .next (returnRec s c k st r 0x28 none)
      else
        let s := noteSeen s row evRow subjCtx c.ctx
        if !seenOk row then .next (restoreFault s c k st r row evRow)
        else
        let s := noteSeen s xfr evChain subjCtx c.ctx
        if !seenOk xfr then .next (restoreFault s c k st r xfr evChain)
        else match opened s c x r with
          | .error e => .next (returnRec s c k st r e none)
          | .ok (good, p) =>
            if vo then
              (if good then .next (returnRec s c k st r 0 none)
               else if rt < 4 then .next (setProg (countFault s 6 1 0 0 1) id (.reading n off bytes bad 1 [] (rt + 4)))
               else .next (returnRec (openSpent s c st r 0x22 evTagFail) c k st r 0x22 none))
            else .next (setProg s id (.reading n off bytes bad (if good then 2 else 3) p rt))
    | _ => .next s
  | none => .next s

/-- What expanding the record in hand gives: its data, or its status and what came before the error; a raw record does not depend on the
history of its run (R309, R332, R384, R428). -/
def expanded (s : State) (c : Cmd) (st : Stream) (x : Ctx) (r : TapeRec) (p : Bytes) : Except (Nat × Bytes) Bytes :=
  let k := if x.d.cipher = 0 then none else keyFor s c x.d
  if r.raw then expand [] r p
  else
    let run := (xpOf s st.xp).elim [] fun y => (runBefore s st r).map (readRec y (tapeOf s st.xp st.part) st.part)
    match runHistory k run [] with
    | .error e => .error (e, [])
    | .ok h => expand h r p

/-- RECORD_DECOMPRESS: decompressor lane `t` checks the sealed CRC and expands the record, EGR is verified at egress, and the
record reaches the data buffer, as far as it could be expanded; a failed record is opened once more first (R24, R303, R331, R332, R335,
R336, R384, R418, R424 to R428). -/
def execRecordDecompress (id : Nat) (egr : Seen) (s : State) : Answer :=
  match readWork s id with
  | some (c, k, st, x, r) =>
    match c.prog with
    | .reading n off bytes bad h p rt =>
      if h ≠ 2 ∧ h ≠ 3 then .next s
      else if !engRun s 1 st.xp then .next (endRead s c st.xp ⟨0x42, false, false, false, false, n, bytes⟩)
      else
        let e := expanded s c st x r p
        let data : Option Bytes := match e with
          | .ok d => some d
          | .error (_, d) => if d.isEmpty then none else some d
        let status := if h = 3 then 0x21 else match e with
          | .ok _ => 0
          | .error q => q.1
        let s := noteSeen s egr evChain subjCtx c.ctx
        if status = 0 ∧ !seenOk egr then .next (restoreFault s c k st r egr evChain)
        else if status = 0 then .next (returnRec s c k st r 0 data)
        else if rt < 4 ∧ status ≠ 0x28 then .next (setProg (countFault s 6 1 0 0 1) id (.reading n off bytes bad 1 [] (rt + 4)))
        else .next (returnRec (if status = 0x28 then s else openSpent s c st r status (recEvent status)) c k st r status data)
    | _ => .next s
  | none => .next s

/-! ### LOCATE -/

/-- Does a record meet the mode of a LOCATE (R286)? -/
def meets (c : Cmd) (r : TapeRec) : Bool :=
  match c.fld 0x12 1 with
  | 0 => decide (c.fld 0x18 8 ≤ r.seq)
  | 1 => true
  | 2 => false
  | _ => decide (c.fld 0x18 6 < r.sec ∨ (c.fld 0x18 6 = r.sec ∧ c.fld 0x20 4 % 2 ^ 30 ≤ r.ns))

/-- The stream at end of data: past every record that it resolves. -/
def pastAll (l : List TapeRec) (st : Stream) : Stream :=
  match l.getLast? with
  | some r => { st with pos := r.seq + 1, lastDs := r.dsLast }
  | none => st

/-- The number of the dataset at which a stream's partition ends. -/
def endOf (s : State) (st : Stream) : Nat := ((xpOf s st.xp).bind (·.mount)).elim 0 (partEod · st.part)

/-- LOCATE: the tape's turn, its way to the dataset of the first record of the context that meets the mode, or to end of data; once it
is there the stream is placed (R25, R269, R271, R286, R294). -/
def execLocate (id : Nat) (s : State) : Answer :=
  .next (withCmdW s id 0x49 fun c =>
    match streamFor s c true with
    | none => complete s id (Compl.of 5)
    | some (k, st) => match readBarred s st.xp with
      | some q => complete s id q
      | none =>
        let l := streamRecs s st
        let r := l.find? (meets c)
        match c.prog with
        | .waiting 1 =>
          if !(xpOf s st.xp).elim true (fun x => x.goal.isNone) then s
          else match r with
            | some r => restTape (complete (updStrm s k fun st => { st with pos := r.seq, lastDs := r.ds }) id (Compl.ok 0 r.seq)) st.xp
            | none => restTape (complete (updStrm s k (pastAll l)) id (Compl.ok 0 0)) st.xp
        | _ =>
          let p := takeTape s st.xp id
          if p.1 then setProg (moveTape p.2 st.xp st.part (r.elim (endOf s st) (·.ds))) id (.waiting 1) else waitTape p.2 c)

/-! ### VERIFY_SCAN -/

/-- A scan report before any dataset: the counters of Table 5-11 with FIRST_BAD_DS all ones; the first dataset scanned and the numbers of
lost datasets follow. -/
def scanZero (lo : Nat) : List Nat := [0, 0, 0, 0, 0, 0, 0, 0, 2 ^ 64 - 1, lo]

/-- Entry `i` of a report. -/
def repAt (rep : List Nat) (i : Nat) : Nat := (rep[i]?).getD 0

/-- The dataset after the last one scanned. -/
def scanHi (rep : List Nat) : Nat := repAt rep 9 + repAt rep 0

/-- Report entry `i` plus one. -/
def bump (l : List Nat) (i : Nat) : List Nat := (numbered l 0).map fun p => if p.1 = i then p.2 + 1 else p.2

/-- The report after dataset `ds` was decoded with outcome `r`, in which C2 corrected a byte or not (Table 5-11). -/
def scanNote (rep : List Nat) (ds : Nat) (r : RecoverOut) (fixed : Bool) : List Nat :=
  let rep := bump rep 0
  let rep := if fixed then bump rep 1 else rep
  match r with
  | .c2 _ => rep
  | .pinned => bump rep 2
  | .c3 => bump rep 3
  | .failed => ((numbered (bump rep 4) 0).map fun p => if p.1 = 8 then min p.2 ds else p.2) ++ [ds]

/-- The records that a scan with TAGS checks: header in the datasets scanned, KEY_ID of the slot key, nothing lost (R287, R386). -/
def scanRecs (s : State) (st : Stream) (key : KeyVal) (rep : List Nat) : List TapeRec :=
  (streamRecs s st).filter fun r => r.enc && r.keyId == key.keyId && decide (repAt rep 9 ≤ r.ds ∧ r.ds < scanHi rep) &&
    !((recSpan r).any (rep.drop 10).elem)

/-- The slot key of a scan with TAGS. -/
def scanKey (s : State) (c : Cmd) (x : Ctx) : Option KeyVal :=
  if bitOf (c.fld 0x12 1) 0 && x.d.keySlotEn then Tbl.get? s.keys.tenant x.d.keySlot else none

/-- Does a record that begins in the datasets scanned go on in dataset `ds` or later: its tag is still to be checked (R287)? -/
def scanOwes (s : State) (c : Cmd) (st : Stream) (x : Ctx) (ds : Nat) (rep : List Nat) : Bool :=
  (scanKey s c x).elim false fun k => (scanRecs s st k rep).any fun r => decide (ds ≤ r.dsLast)

/-- The records that end in dataset `ds` and whose tags the scan can check now (R287, R386). -/
def scanDue (s : State) (c : Cmd) (st : Stream) (x : Ctx) (ds : Nat) (rep : List Nat) : List TapeRec :=
  match scanKey s c x, xpOf s st.xp with
  | some k, some y =>
    let tp := tapeOf s st.xp st.part
    (scanRecs s st k rep).filter fun r =>
      r.dsLast == ds && (headersOf y tp st.part r.ds).1.elem (r.off, r.seq) && (recSpan r).all fun n =>
        (tp.ds.any fun d => d.num == n && d.parity) || (restoredOf y st.part n).isSome
  | _, _ => []

/-- The tags of the records that end in dataset `ds`, from the restored bytes, and the report after them; a failed one is opened once
more (R287, R385, R386, Table 16-4 class 6). -/
def scanTags (s : State) (c : Cmd) (st : Stream) (x : Ctx) (ds : Nat) (rep : List Nat) : State × List Nat :=
  match scanKey s c x, xpOf s st.xp with
  | some k, some y =>
    let tp := tapeOf s st.xp st.part
    (scanDue s c st x ds rep).foldl (fun q r =>
      if tagGood k (readRec y tp st.part r) then (q.1, bump q.2 6)
      else (openSpent (countFault q.1 6 1 0 0 1) c st r 0x22 evTagFail, bump (bump q.2 6) 7)) (s, rep)
  | _, _ => (s, rep)

/-- A VERIFY_SCAN ends: its report, and the position at the first record after the last dataset scanned (R287, R288). -/
def endScan (s : State) (c : Cmd) (k : Nat) (st : Stream) (rep : List Nat) : State :=
  let l := streamRecs s st
  let s := updStrm s k fun st => match l.find? fun r => decide (scanHi rep ≤ r.ds) with
    | some r => { st with pos := r.seq, lastDs := r.ds }
    | none => pastAll l st
  let b := pageOf 64 [(0x00, 4, repAt rep 0), (0x04, 4, repAt rep 1), (0x08, 4, repAt rep 2), (0x0C, 4, repAt rep 3),
    (0x10, 4, repAt rep 4), (0x14, 4, repAt rep 5), (0x18, 4, repAt rep 6), (0x1C, 4, repAt rep 7), (0x20, 8, repAt rep 8)]
  restTape (answer s c 0x18 b (Compl.ok 0 0)) st.xp

/-- Is there a dataset `n` before end of data? -/
def scanMore (s : State) (st : Stream) (n : Nat) : Bool := decide (n < endOf s st)

/-- Has the scan gone through its datasets, and every tag that it owes (R287)? -/
def scanOver (s : State) (c : Cmd) (st : Stream) (x : Ctx) (ds left : Nat) (rep : List Nat) : Bool :=
  !scanMore s st ds || (left == 0 && !scanOwes s c st x ds rep)

/-- VERIFY_SCAN: the checks, the tape's turn, then dataset after dataset from the one that holds the position (R246, R247, R269,
R271, R287, R288). -/
def execVerifyScan (id : Nat) (s : State) : Answer :=
  .next (withCmdW s id 0x4A fun c =>
    match streamFor s c true, ctxOf s c.ctx with
    | some (k, st), some x =>
      match c.prog with
      | .scanning ds left rep => if scanOver s c st x ds left rep then endScan s c k st rep else s
      | _ => match readBarred s st.xp with
        | some q => complete s id q
        | none =>
          if !dataOk s c then complete s id (Compl.of 7)
          else
            let p := takeTape s st.xp id
            if p.1 then
              let ds := (nextRec s st).elim (endOf s st) (·.ds)
              if scanMore s st ds then
                setProg (moveTape p.2 st.xp st.part ds) id (.scanning ds (c.fld 0x14 4) (scanZero ds))
              else endScan p.2 c k st (scanZero ds)
            else waitTape p.2 c
    | _, _ => complete s id (Compl.of 5))

/-! ### DATASET_RECOVER (R533 to R537) -/

/-- A dataset enters the restore region. The restore stops when the region reaches HIGH_WM, unless the record that the READ waits for
needs all that is held (R23, R54, R583, log entry 138). -/
def addRestored (s : State) (t part n : Nat) (r : Recovered) (need : List Nat) : State :=
  updXp s t fun x =>
    let held := x.restored ++ [⟨part, n, r.out == .pinned, r.out == .c3, r.out != .failed, r.data⟩]
    let occ := x.rsOcc + packBytes
    let full := s.pmu.bufBytes != 0 && decide (x.blk.highWm * restoreMib s * 1048576 ≤ occ * 1000) &&
      held.any fun k => !(k.part == part && need.elem k.num)
    { x with restored := held, rsOcc := occ, motion := if full then .stopped else x.motion }

/-- Is dataset `n` one that a READ restores now: one it needs, one on the way to its record, or the next in order? -/
def readWants (s : State) (c : Cmd) (st : Stream) (x : Xport) (n : Nat) : Bool :=
  let tp := tapeOf s st.xp st.part
  (restoredOf x st.part n).isNone && !(dataOnly tp [n]).isEmpty && match nextRec s st with
    | some r => (missing x tp st (needed s st (bitOf (c.fld 0x12 1) 0) r) r).elem n ||
        x.restored.any fun k => k.part == st.part && decide (k.num < n) &&
          (dataOnly tp ((List.range (n - k.num - 1)).map (k.num + 1 + ·))).isEmpty
    | none => false

/-- A dataset that has to wait for others of its group, or has to be tried again: the new state, or none when it is settled (R533 steps 3
and 4). -/
def recoverLater (s : State) (t p n : Nat) (r : Recovered) : Option State :=
  if r.out ≠ .failed then none
  else if !r.wait.isEmpty then
    let lo := r.wait.foldl min (r.wait.headD n)
    some (if lo < n then updXp s t fun x => seekDs p lo (keepCws (fun _ => false) x) else s)
  else
    let q := retryDs s t p n
    if q.1 then some q.2 else none

/-- DATASET_RECOVER: dataset `ds`, whose codewords have all passed, goes through C2, pinned re-decode and C3, and is read again within
its budget; a scan whose tags no AES engine can check ends (R25, R287, R471 to R475, R486 to R500, R533 to R537, R751); new blocks and lane changes take effect (R539, R803). -/
def execDatasetRecover (t ds : Nat) (s : State) : Answer :=
  match xpOf s t, (xpOf s t).bind (·.mount) with
  | some x, some m =>
    match s.rings.cmds.find? fun c => readsTape c && c.done.isNone && cmdXp s c == some t with
    | some c =>
      match streamFor s c true, ctxOf s c.ctx with
      | some (k, st), some cx =>
        let tp := tapeOf s t st.part
        let wanted := match c.prog with
          | .scanning n left rep => n == ds && !scanOver s c st cx n left rep
          | .reading _ _ _ _ _ _ _ => readWants s c st x ds
          | _ => false
        match authAttempt tp m.gen ds with
        | none => .next s
        | some d =>
          if !wanted || !dsPassed s t x (ds + 1 == partEod m st.part) d then .next s
          else
            let r := recoverDs s t x m tp st.part d
            let s := notePins s t r
            match recoverLater s t st.part ds r with
            | some s => .next s
            | none =>
              let s := readBoundary (countRecover s t ds r.out) t
              match c.prog with
              | .scanning _ left rep =>
                let s := settleDs s t ds (r.out != .failed)
                let rep := if left = 0 then (if r.out = .failed then rep ++ [ds] else rep) else scanNote rep ds r.out r.fixed
                let s := if (scanKey s c cx).isSome then addRestored s t st.part ds r [] else s
                if !(scanDue s c st cx ds rep).isEmpty && (runEngines s 2).isEmpty then
                  .next (restTape (complete s c.id (Compl.of 0x42)) t)
                else
                let q := scanTags s c st cx ds rep
                let s := if scanOwes q.1 c st cx (ds + 1) q.2 then q.1 else releaseRestored q.1 t st.part (ds + 1)
                let s := setProg s c.id (.scanning (ds + 1) (left - 1) q.2)
                .next (if scanOver s c st cx (ds + 1) (left - 1) q.2 then endScan s c k st q.2 else s)
              | .reading _ _ _ _ h _ _ =>
                let need := (nextRec s st).elim [] (needed s st (bitOf (c.fld 0x12 1) 0))
                let s := settleDs s t ds (r.out != .failed)
                let s := addRestored s t st.part ds r need
                let s := updCmd s c.id fun c => { c with moved := now s }
                .next (if h = 0 then (cmdOf s c.id).elim s fun c => readStep s c st else s)
              | _ => .next s
      | _, _ => .next s
    | none => .next s
  | _, _ => .next s

end Sys2Proof.Machine
end

