-- ==== Sys2Proof/Machine/Update.lean ====
section
/-! DEFINITION. Live update of firmware: the pause, the switch to another image and the rollback (R224, R342, R769 to R773). -/

namespace Sys2Proof.Machine

/-- The image region that is not ACTIVE (R766, R731). -/
def stageRegion (f : Flash) : Nat := if f.active = 0 then 1 else 0

/-- Version of the image in a region, 0 when there is none. -/
def regionVersion (f : Flash) (r : Nat) : Nat := (Tbl.get? f.images r).elim 0 (·.version)

/-- Logs the end of an update and raises FW_UPDATE (Table 15-15, Table 16-1). -/
def logUpdate (s : State) (u : Update) (outcome rtMask : Nat) : State :=
  let e : UpdLog := {
    seq := s.pmu.updLog.length + 1, from_ := u.fromVer, to_ := s.pmu.runImg.version, outcome := outcome, rtMask := rtMask,
    pauseUs := u.pauseUs, carried := u.carried, aborted := u.aborted }
  raise { s with pmu.updLog := e :: s.pmu.updLog } evFwUpdate subjNone 0 outcome

/-- One command that the update cannot carry over: it completes with ABORTED_BY_UPDATE; a service job first writes its context
(R224, R342, R671). What it has begun on a ring, a context or a stream stays as it is: the ring of a DELETE_RING stays DELETING
(log entry 137). -/
def updateAbortOne (s : State) (c : Cmd) : State :=
  let s := if c.opcode = 0x1D then
      updXp s (c.fld 0x10 1) fun x => if x.calibrating then { x with calibrating := false, motion := .stopped } else x
    else s
  let s := match c.prog with
    | .tagWait n => { s with rings.resv := Tbl.del s.rings.resv n }
    | _ => s
  let s := { s with
    xp := Tbl.mapVal s.xp fun _ x => { x with cmTry := x.cmTry.filter fun p => p.2.2 != c.id },
    tbu.atPps := s.tbu.atPps.filter fun p => p.1 != c.id,
    pmu.flashOp := s.pmu.flashOp.map fun o => if o.cmd = c.id then { o with cmd := noCmd } else o }
  abortOne 0x45 noCmd s c

/-- Is the command a service job that runs on a lane? -/
def jobRuns (c : Cmd) : Bool :=
  c.done.isNone && (c.opcode == 0x80 || c.opcode == 0x81 || c.opcode == 0x82) && match c.prog with
    | .engine _ => true
    | _ => false

/-- The new control cores run image `img` of region `r`: commands are carried over when `carry` says so, and aborted otherwise;
UPDATE_PAUSE ends and fetch resumes (R769 steps 3 to 5, R771). -/
def switchImage (s : State) (u : Update) (carry : Bool) (img : Image) (r : Nat) : State × Update :=
  let live := s.rings.cmds.filter fun c => c.done.isNone && c.id != u.cmd
  let s := if carry then s else live.foldl updateAbortOne s
  let s := { s with pmu.runImg := img, pmu.runReg := r, host.golden := r == 2 }
  let u := { u with
    pauseUs := u.pauseUs + (now s - u.deadline) / usTicks,
    carried := u.carried + (if carry then live.length else 0), aborted := u.aborted + (if carry then 0 else live.length) }
  (startMbx (settle (endPause s)), u)

/-- The update ends: its command completes with the version then running (R773). -/
def endUpdate (s : State) (u : Update) (outcome rtMask : Nat) (back : Bool) : State :=
  let s := logUpdate { s with pmu.upd := none } u outcome rtMask
  complete s u.cmd (Compl.ok (rtMask + 256 * b2n back) s.pmu.runImg.version)

/-- Does the image in region `r` verify? -/
def regionOk (f : Flash) (r : Nat) : Bool := (Tbl.get? f.images r).elim false fun i => i.verdict == 0

/-- The region whose image the switch starts: the staged one; in a rollback the one that a LIVE activation replaced, and for a trial
boot the other image region or GOLDEN (R771, R772). -/
def nextRegion (s : State) (u : Update) : Nat :=
  if u.back.isNone then stageRegion s.pmu.flash
  else if !u.trial then u.from_
  else if regionOk s.pmu.flash (1 - s.pmu.runReg) then 1 - s.pmu.runReg
  else 2

/-- The image that the switch starts. -/
def nextImage (s : State) (u : Update) : Image := (Tbl.get? s.pmu.flash.images (nextRegion s u)).getD s.pmu.runImg

/-- Are the commands in flight carried over (R769 step 4)? -/
def carries (s : State) (u : Update) : Bool := (nextImage s u).ckpt == s.pmu.runImg.ckpt

/-- The pause ends with the other image running: its self-test has 5 s, or the rollback is over (R769 to R771). -/
def doSwitch (s : State) (u : Update) : State :=
  let r := nextRegion s u
  let p := switchImage s u (carries s u) (nextImage s u) r
  match u.back with
  | none => { p.1 with pmu.upd := some { p.2 with phase := 2, deadline := now p.1 + 5 * secTicks } }
  | some o => endUpdate p.1 p.2 (if u.trial ∧ r = 2 then 4 else o) 0 true

/-- Step 3 of R769: service jobs that cannot be carried over first stop at their checkpoints, which write their contexts (R342). -/
def trySwitch (s : State) (u : Update) : State :=
  if carries s u || !(s.rings.cmds.any jobRuns) then doSwitch s u
  else
    let s := (s.rings.cmds.filter jobRuns).foldl (abortOne 0x45 noCmd) s
    { s with pmu.upd := some { u with phase := 3 } }

/-- A switch that waited for service jobs goes on once none runs. -/
def resumeSwitch (s : State) : State :=
  match s.pmu.upd with
  | some u => if u.phase = 3 ∧ !(s.rings.cmds.any jobRuns) then doSwitch s u else s
  | none => s

/-- A LIVE activation begins: an entry to Lull that is quiescing ends first, then UPDATE_PAUSE sets (R769 step 2, R783). -/
def startPause (s : State) (id : Nat) : State :=
  let s := match s.pmu.lull with
    | some e => if e.phase < 2 then undoLull s e 0 0x67 else s
    | none => s
  setProg { s with
    host.updatePause := true,
    pmu.upd := some {
      cmd := id, from_ := s.pmu.runReg, fromVer := s.pmu.runImg.version, phase := 1, deadline := now s, pauseUs := 0,
      carried := 0, aborted := 0, trial := false, back := none } } id (.waiting 1)

/-- Rolls back, with a pause of its own: a LIVE activation to the image it replaced, a trial boot to the other image region or to
GOLDEN; BOOT_STATE stays as it is (R771, R772). -/
def rollBack (s : State) (u : Update) (outcome : Nat) : State :=
  trySwitch { s with host.updatePause := true } { u with back := some outcome, deadline := now s }

end Sys2Proof.Machine
end

