-- ==== Sys2Proof/Machine/Service.lean ====
section
/-! DEFINITION. The offload service: COMPRESS, DECOMPRESS, RESUME and the end of a job (R24, R314 to R330, R334, R337 to R342,
Table 6-4). -/

namespace Sys2Proof.Machine

/-- The class of a job's lanes: compressor or decompressor (Table 15-10). -/
def laneClass (compress : Bool) : Nat := if compress then 0 else 1

/-- The service lanes of a kind: 4 to 7 (R24). -/
def svcLanes : List Nat := [4, 5, 6, 7]

/-- Are all four lanes of the kind FENCED or OFF (R330)? -/
def lanesShut (s : State) (compress : Bool) : Bool :=
  svcLanes.all fun i => let e := engOf s (laneClass compress) i; e.st == .fenced || e.st == .off

/-- A lane in RUN that holds no job. -/
def freeLane (s : State) (compress : Bool) : Option Nat :=
  svcLanes.find? fun i => engRun s (laneClass compress) i && !(s.svc.any fun p => p.2.compress == compress && p.2.lane == i)

/-- Is it a decompressor's error (Table 6-5)? -/
def decoderError (st : Nat) : Bool := decide (0x23 ≤ st ∧ st ≤ 0x26) || st == 0x29

/-- Starts a job once its lists are good and a lane is free (R280, R281, R330). -/
def startJob (s : State) (c : Cmd) (inSgl outSgl : List SglElem) (j : Job) : State :=
  if !sglOk (c.fld 0x12 2) (c.fld 0x14 4) inSgl || !sglOk (c.fld 0x2C 2) (c.fld 0x28 4) outSgl then complete s c.id (Compl.of 6)
  else if lanesShut s j.compress then complete s c.id (Compl.of 0x42)
  else match freeLane s j.compress with
    | none => s
    | some i =>
      let j := { j with lane := i, outTo := pieces (c.fld 0x20 8) (c.fld 0x28 4) (c.fld 0x2C 2) outSgl }
      let s := (pieces (c.fld 0x18 8) (c.fld 0x14 4) (c.fld 0x12 2) inSgl).foldl (fun s p => cmdRead s c p.1 p.2) s
      setProg { s with svc := Tbl.put s.svc c.id j } c.id (.engine i)

/-- COMPRESS (R24, R281, R319, R330). -/
def execCompress (id : Nat) (inSgl outSgl : List SglElem) (s : State) : Answer :=
  .next (withCmd s id 0x80 fun c =>
    if !dataOk s c then complete s id (Compl.of 7) else startJob s c inSgl outSgl (Job.begin c true))

/-- DECOMPRESS (R24, R281, R319, R330). -/
def execDecompress (id : Nat) (inSgl outSgl : List SglElem) (s : State) : Answer :=
  .next (withCmd s id 0x81 fun c =>
    if !dataOk s c then complete s id (Compl.of 7) else startJob s c inSgl outSgl (Job.begin c false))

/-- RESUME: continues the job that its context records (R326, R327, R330). -/
def execResume (id : Nat) (ctx : Bytes) (inSgl outSgl : List SglElem) (s : State) : Answer :=
  .next (withCmd s id 0x82 fun c =>
    let s := cmdRead s c (c.fld 0x30 8) 66560
    if !dataOk s c then complete s id (Compl.of 7)
    else if !ctxOk c ctx then complete s id (Compl.field 0xFF)
    else startJob s c inSgl outSgl (Job.resume c ctx))

/-! ### The end of a job -/

/-- A decompressor error: the input is read and decoded once more (R334). It goes away, which counts as recovered, or it is
returned with the budget of class 7 spent (Table 16-4). Answers the state and what the job leaves. -/
def secondDecode (s : State) (c : Cmd) (j : Job) (r : JobEnd) (o : JobOut) : State × JobOut :=
  if decoderError o.status then
    let s := countFault s 7 1 0 0 1
    let p := runJob j r.again r.steps
    if decoderError p.status then
      (faultSpent s { FltLog.blank with
        cls := 7, status := p.status, ctx := c.ctx, ring := c.ring, cid := c.cid, tries := 2 } subjNone 0, p)
    else (countFault s 7 0 1 0 0, p)
  else (s, o)

/-- A job whose command has ended and waits to be posted: it holds no lane and stands where it stopped (Table 4-5). -/
def Job.rest (j : Job) (o : JobOut) : Job :=
  { j with lane := noLane, totalIn := j.totalIn + o.inUsed, totalOut := o.totalOut, bitPos := o.bitPos, at_ := o.at_,
           check := o.check, hist := o.hist, blockIn := o.blockIn, pend := o.pend, pendMatch := o.pendMatch }

/-- The job leaves its lane; while its completion is held back it is kept for an ABORT. A job that was to stop for a command and
ended otherwise is not counted by it (R199); one that stopped for a live update is counted there, and the update goes on after the
last (R342). -/
def leaveLane (s : State) (id : Nat) (j : Job) (o : JobOut) : State :=
  let s := if (cmdOf s id).isSome then { s with svc := Tbl.put s.svc id (j.rest o) } else { s with svc := Tbl.del s.svc id }
  let s := if j.stopBy ≠ 0 ∧ o.status ≠ j.stopBy then uncount s j.stopFor else s
  let s := if o.status = 0x45 then { s with pmu.upd := s.pmu.upd.map fun u => { u with aborted := u.aborted + 1 } } else s
  resumeSwitch s

/-- SERVICE_JOB_END: the lane stops, its output has been written, the context is written if the status carries one, and the
command completes (R318, R320 to R325, R332 to R334, R337 to R342). While XFR over the input or EGR over the output does not verify, or
their data come poisoned, the lane does the job over: Table 8-4 names no result for a service job (R420, R424, log entry 146). -/
def execServiceJobEnd (id : Nat) (r : JobEnd) (s : State) : Answer :=
  match cmdOf s id, Tbl.get? s.svc id with
  | some c, some j =>
    if c.done.isSome || j.lane == noLane || r.input.length != j.inLen || r.again.length != j.inLen then .next s
    else
      let s := noteSeen s r.chk evChain subjCtx c.ctx
      if !seenOk r.chk then .next s else
      let (s, o) := secondDecode s c j r (runJob j r.input r.steps)
      let s := cmdScatter s c j.outTo 0 o.out false
      let wr := writesCtx j o.status
      let s := if wr && r.ctxWriteOk then cmdWrite s c (c.fld 0x30 8) (ctxBytes c j o) false else s
      let k := if wr && !r.ctxWriteOk then { Compl.ok o.inUsed o.out.length with status := 7 }
        else { Compl.ok o.inUsed o.out.length with status := o.status, more := o.more, resumable := wr }
      .next (leaveLane (complete s id k) id j o)
  | _, _ => .next s

end Sys2Proof.Machine
end

