-- ==== Sys2Proof/Machine/Blocks.lean ====
section
/-! DEFINITION. The parameter blocks of TRANSPORT_CONFIG and GET_TRANSPORT_STATUS, and the status page (Tables 10-5, 10-6,
11-10, 11-12). -/

namespace Sys2Proof.Machine

/-! ### The transport block (Table 11-10) -/

/-- Fields (offset, size, least, most) of the transport block. -/
def xpBlockRanges : List (Nat × Nat × Nat × Nat) :=
  [(0x00, 2, 120, 600), (0x02, 2, 120, 600), (0x04, 1, 10, 100), (0x05, 1, 12, 60), (0x06, 2, 500, 1200), (0x08, 2, 50, 900),
   (0x0A, 2, 100, 950), (0x0C, 2, 150, 990), (0x0E, 2, 100, 990), (0x10, 2, 200, 10000), (0x12, 2, 0, 4000),
   (0x14, 2, 200, 2000), (0x16, 2, 5, 200)]

/-- Does every field of a block lie in its range? -/
def rangesOk (b : BitVec 256) (l : List (Nat × Nat × Nat × Nat)) : Bool :=
  l.all fun r => decide (r.2.2.1 ≤ fieldOf b r.1 r.2.1 ∧ fieldOf b r.1 r.2.1 ≤ r.2.2.2)

/-- The transport block that 32 bytes spell, if R589 accepts it (reserved bytes zero, R12). -/
def readXpBlock (b : BitVec 256) : Option XpBlock :=
  let f := fieldOf b
  let k : XpBlock :=
    { vCeilA := f 0 2, vCeilB := f 2 2, accel := f 4 1, locVel := f 5 1, tension := f 6 2, lowWm := f 8 2, setWm := f 0xA 2,
      highWm := f 0xC 2, restWm := f 0xE 2, tauMs := f 0x10 2, leadNs := f 0x12 2, xover := f 0x14 2, bhMm := f 0x16 2 }
  if rangesOk b xpBlockRanges && f 0x18 8 == 0 && decide (k.lowWm < k.setWm) && decide (k.setWm < k.highWm) &&
     decide (k.lowWm < k.restWm) && decide (k.restWm ≤ k.highWm) then some k else none

/-- The bytes of a transport block. -/
def xpBlockBytes (k : XpBlock) : Bytes :=
  pageOf 32 [(0, 2, k.vCeilA), (2, 2, k.vCeilB), (4, 1, k.accel), (5, 1, k.locVel), (6, 2, k.tension), (8, 2, k.lowWm),
    (0xA, 2, k.setWm), (0xC, 2, k.highWm), (0xE, 2, k.restWm), (0x10, 2, k.tauMs), (0x12, 2, k.leadNs), (0x14, 2, k.xover),
    (0x16, 2, k.bhMm)]

/-! ### The read channel block (Table 10-5) -/

/-- Fields of the read channel block. -/
def rcBlockRanges : List (Nat × Nat × Nat × Nat) :=
  [(0, 1, 8, 48), (1, 1, 0, 6), (2, 1, 1, 10), (3, 1, 8, 64), (4, 1, 1, 48), (5, 1, 25, 75), (6, 1, 4, 64), (7, 1, 0, 15),
   (8, 1, 0, 7), (9, 1, 0, 7), (0xA, 1, 0, 7), (0xB, 1, 0, 7), (0xC, 1, 0, 7), (0xD, 1, 0, 3), (0xE, 1, 16, 31), (0xF, 1, 0, 3)]

/-- The read channel block that 32 bytes spell, if R540 accepts it. -/
def readRcBlock (b : BitVec 256) : Option RcBlock :=
  let f := fieldOf b
  if rangesOk b rcBlockRanges && f 0x15 11 == 0 then
    some { syncWin := f 0 1, maxErr := f 1 1, verIter := f 2 1, squall := f 3 1, budget := f 4 1, dropThr := f 5 1,
           dropBits := f 6 1, ctle := f 7 1, gainMu := f 8 1, baseMu := f 9 1, asymMu := f 0xA 1, firMu := f 0xB 1,
           timBw := f 0xC 1, pinRounds := f 0xD 1, pinLlr := f 0xE 1, rcFlags := f 0xF 1,
           targets := (List.range 5).map fun i => f (0x10 + i) 1 }
  else none

/-- The bytes of a read channel block. -/
def rcBlockBytes (k : RcBlock) : Bytes :=
  pageOf 32 ([(0, 1, k.syncWin), (1, 1, k.maxErr), (2, 1, k.verIter), (3, 1, k.squall), (4, 1, k.budget), (5, 1, k.dropThr),
    (6, 1, k.dropBits), (7, 1, k.ctle), (8, 1, k.gainMu), (9, 1, k.baseMu), (0xA, 1, k.asymMu), (0xB, 1, k.firMu),
    (0xC, 1, k.timBw), (0xD, 1, k.pinRounds), (0xE, 1, k.pinLlr), (0xF, 1, k.rcFlags)] ++
    (numbered k.targets 0x10).map fun p => (p.1, 1, p.2))

/-! ### The pool block (Table 10-6) -/

/-- Fields of the pool block. -/
def poolRanges : List (Nat × Nat × Nat × Nat) :=
  ((List.range 3).map fun l => [(4 * l, 1, 1, 4), (4 * l + 1, 1, 1, 10), (4 * l + 2, 1, 1, 30), (4 * l + 3, 1, 1, 10)]).flatten ++
  [(0xC, 1, 10, 99), (0xD, 1, 5, 98), (0xE, 1, 11, 100), (0xF, 1, 6, 99), (0x10, 2, 1, 1000), (0x12, 1, 0, 1)]

/-- One level as a block spells it. -/
def readLevel (b : BitVec 256) (o : Nat) : PoolLevel :=
  ⟨fieldOf b o 1, fieldOf b (o + 1) 1, fieldOf b (o + 2) 1, fieldOf b (o + 3) 1⟩

/-- A level's passes can spend its total (R542). -/
def PoolLevel.ok (l : PoolLevel) : Bool := decide (l.total ≤ l.passes * l.perPass)

/-- The pool block that 32 bytes spell, if R541 and R542 accept it. -/
def readPoolBlock (b : BitVec 256) : Option PoolBlock :=
  let f := fieldOf b
  let k : PoolBlock := ⟨readLevel b 0, readLevel b 4, readLevel b 8, f 0xC 1, f 0xD 1, f 0xE 1, f 0xF 1, f 0x10 2, f 0x12 1 == 1⟩
  if rangesOk b poolRanges && f 0x13 13 == 0 && k.l0.ok && k.l1.ok && k.l2.ok && decide (k.enter1 < k.enter2) &&
     decide (k.exit1 < k.enter1) && decide (k.exit2 < k.enter2) then some k else none

/-- The fields of a level. -/
def levelFields (o : Nat) (l : PoolLevel) : List (Nat × Nat × Nat) :=
  [(o, 1, l.passes), (o + 1, 1, l.perPass), (o + 2, 1, l.total), (o + 3, 1, l.verify)]

/-- The bytes of a pool block. -/
def poolBlockBytes (k : PoolBlock) : Bytes :=
  pageOf 32 (levelFields 0 k.l0 ++ levelFields 4 k.l1 ++ levelFields 8 k.l2 ++
    [(0xC, 1, k.enter1), (0xD, 1, k.exit1), (0xE, 1, k.enter2), (0xF, 1, k.exit2), (0x10, 2, k.dwell), (0x12, 1, b2n k.shrink)])

/-! ### TRANSPORT_CONFIG -/

/-- Is the transport writing, so that a block waits for the dataset boundary? -/
def writingNow (x : Xport) : Bool := x.motion == .writing

/-- TRANSPORT_CONFIG: a block in its ranges waits for its boundary; a transport block takes effect at once when the
transport is not writing (R539 to R542, R589). -/
def execTransportConfig (id : Nat) (blk : BitVec 256) (s : State) : Answer :=
  .next (withCmd s id 0x1B fun c =>
    let t := c.fld 0x10 1
    let b := cmdBlock s c (c.fld 0x18 8) blk
    if !dataOk s c then complete s id (Compl.of 7)
    else if c.mailbox ∧ 4096 < c.fld 0x18 8 + 32 then complete s id (Compl.field 0x18)
    else
    let s := cmdRead s c (c.fld 0x18 8) 32
    let bad := complete s id (Compl.field 0xFF)
    match c.fld 0x11 1 with
      | 0 => (readXpBlock b).elim bad fun k =>
          complete (updXp s t fun x => if writingNow x then { x with blkNext := some k } else { x with blk := k, blkNext := none })
            id (Compl.ok 0 0)
      | 1 => (readRcBlock b).elim bad fun k => complete (updXp s t fun x => { x with rcNext := some k }) id (Compl.ok 0 0)
      | _ => (readPoolBlock b).elim bad fun k => complete { s with rc.blkNext := some k } id (Compl.ok 0 0))

/-! ### GET_TRANSPORT_STATUS -/

/-- Numeric code of MOTION (Table 11-12). -/
def Motion.code (m : Motion) : Nat :=
  match m with
  | .stopped => 0
  | .writing => 1
  | .reading => 2
  | .locating => 3
  | .backhitch => 4
  | .turnaround => 5
  | .ramp => 6

/-- TSTATE (Table 11-12). -/
def tstate (x : Xport) : Nat :=
  if !x.fitted then 0 else if x.calibrating || !x.startup then 1 else if x.faulted then 5
  else if x.mount.isSome then 4 else if x.cart.isSome then 3 else 2

/-- Integer square root, bit by bit from bit `n - 1`. -/
def isqrt (v r n : Nat) : Nat :=
  match n with
  | 0 => r
  | k + 1 => if (r + 2 ^ k) * (r + 2 ^ k) ≤ v then isqrt v (r + 2 ^ k) k else isqrt v r k

/-- Mean of a list of measurements, 0 when there is none. -/
def meanOf (l : List Int) : Int := if l.isEmpty then 0 else l.foldl (· + ·) 0 / l.length

/-- Root mean square of a list of measurements. -/
def rmsOf (l : List Int) : Nat :=
  if l.isEmpty then 0 else isqrt ((l.foldl (fun a v => a + (v * v).toNat) 0) / l.length) 0 24

/-- One servo channel of a transport. -/
def servoOf (x : Xport) (ch : Nat) : Servo := (Tbl.get? x.servo ch).getD Servo.reset

/-- Signed value held to `w` bits. -/
def heldTo (w : Nat) (v : Int) : Int := max (-(2 ^ (w - 1) : Int)) (min v (2 ^ (w - 1) - 1))

/-- Per mille of a region of `mib` MiB. -/
def permille (n mib : Nat) : Nat := if mib = 0 then 0 else min (n * 1000 / (mib * 1048576)) 65535

/-- A packed-stream rate in kB/s, held to 32 bits. -/
def kbRate (s : State) (l : List (Nat × Nat)) : Nat := min (rateOver s l / 1000) (satMax 32)

/-- SFLAGS (Table 11-12). -/
def sflags (x : Xport) : Nat :=
  b2n x.reverse + 2 * b2n (servoOf x 0).locked + 4 * b2n (servoOf x 1).locked +
  8 * b2n ((servoOf x 0).lposOk || (servoOf x 1).lposOk) + 16 * b2n (!zoneA x.wrap) + 32 * b2n x.throttled +
  64 * b2n (x.cart.elim false fun c => c.format == 2)

/-- The transport status page (Table 11-12). -/
def statusPage (s : State) (t : Nat) (x : Xport) : Bytes :=
  pageOf 128 [(0x00, 1, t), (0x01, 1, tstate x), (0x02, 1, x.motion.code), (0x03, 1, sflags x), (0x04, 2, x.wrap),
    (0x08, 4, headLpos x), (0x0C, 2, x.velocity), (0x0E, 2, x.target), (0x10, 2, permille x.occ (writeAsmMib s)),
    (0x12, 2, permille x.rsOcc (restoreMib s)), (0x14, 4, kbRate s x.arrivals), (0x18, 4, x.sust),
    (0x1C, 2, twos 16 (heldTo 16 (meanOf x.pesHist))), (0x1E, 2, min (rmsOf x.pesHist) 65535), (0x20, 2, x.tensionMn),
    (0x22, 2, twos 16 x.headTemp), (0x24, 2, x.motorMa), (0x28, 4, wiStatus (lateReq s x).wi), (0x2C, 4, x.wi.episodes),
    (0x30, 8, x.backhitches), (0x38, 8, x.turnarounds), (0x40, 4, x.reacqs), (0x44, 4, x.lposErrs),
    (0x48, 1, b2n x.startup + 2 * b2n x.motionOk + 4 * b2n x.rcOk)]

/-- GET_TRANSPORT_STATUS: a block is returned as TRANSPORT_CONFIG last wrote it (R539, R541, R589, R590). -/
def execGetTransportStatus (id : Nat) (s : State) : Answer :=
  .next (withCmd s id 0x1C fun c =>
    let t := c.fld 0x10 1
    match xpOf s t with
    | none => complete s id (Compl.field 0x10)
    | some x =>
      let b := match c.fld 0x11 1 with
        | 0 => statusPage s t x
        | 1 => xpBlockBytes (x.blkNext.getD x.blk)
        | 2 => rcBlockBytes (x.rcNext.getD x.rc)
        | _ => poolBlockBytes (s.rc.blkNext.getD s.rc.blk)
      answer s c 0x18 b (Compl.ok (tstate x + 256 * x.motion.code) 0))

/-! ### Start-up calibration and CALIBRATE -/

/-- The transport's lanes are configured as its record says (R591, R801, R865). -/
def calibrated (s : State) (t : Nat) : State :=
  updXp s t fun x => { x with
    motionOk := s.pmu.flash.calMotion.elem t, rcOk := s.pmu.flash.calRc.elem t }

/-- What a start-up calibration makes of transport `t`: with no answer from the DAC or a motor driver it is ABSENT (R591). -/
def startedUp (s : State) (t : Nat) (responds : Bool) : State :=
  calibrated (updXp s t fun x => { x with
    fitted := responds, startup := responds, faulted := if responds then false else x.faulted }) t

/-- Is the DAC or a motor driver of transport `t` served by a table entry that was disabled (R681)? -/
def drivesDisabled (s : State) (t : Nat) : Bool :=
  (List.range 3).any fun k =>
    let sel := 6 * (t % 2) + k
    (Tbl.get? s.pmu.flash.board (16 * (t / 2) + sel)).elim false fun e => !periphOk (t / 2) sel e

/-- STARTUP_CALIBRATION: after firmware start or RESET_ENGINE, a transport not yet done probes its peripherals (R591, R681,
R775). -/
def execStartupCalibration (t : Nat) (responds : Bool) (s : State) : Answer :=
  match xpOf s t with
  | some x =>
    if s.pmu.booted && !x.startup && engRun s 4 t && s.pmu.ps == .run then
      .next (raise (startedUp s t (responds && !drivesDisabled s t)) (evXp t 11) subjXp t 0)
    else .next s
  | none => .next s

/-- Does partition `p` of a mounted cartridge hold a complete dataset (R593)? -/
def hasComplete (x : Xport) (p : Nat) : Bool :=
  match x.mount, x.cart.bind fun c => c.parts[p]? with
  | some m, some tp => tp.ds.any fun d => d.complete && d.gen == m.gen && decide (d.num < partEod m p)
  | _, _ => false

/-- The loop values that a READ_CHANNEL calibration finds for lane `l`: the spec gives no formula for them (R592). -/
def freeLoops (i : Nat) : Loops :=
  ⟨Config.freeValue i % 241, Config.freeInt (i + 2), Config.freeInt (i + 1),
    (List.range 10).map fun j => Config.freeInt (i + 4 + j), Config.freeInt (i + 3)⟩

/-- Stores the loop values of the lanes of transport `t` in the calibration record (R592, R594). -/
def storeLoops (s : State) (t : Nat) : State :=
  let i := s.clk.free
  { s with
    clk.free := i + 16 * 32,
    pmu.flash.calLoops := (List.range 32).foldl (fun l k => Tbl.put l (32 * t + k) (freeLoops (i + 16 * k))) s.pmu.flash.calLoops }

/-- What a CALIBRATE that passed the parts `p` of CKIND leaves behind (R592, R594). -/
def calibrateDone (s : State) (t : Nat) (p : Nat) (kind : Nat) : State :=
  let s := if bitOf kind 0 then startedUp s t (bitOf p 0) else s
  let s := if bitOf p 2 then storeLoops s t else s
  let s := { s with
    pmu.flash.calMotion := if bitOf p 1 then setIns s.pmu.flash.calMotion t else s.pmu.flash.calMotion,
    pmu.flash.calRc := if bitOf p 2 then setIns s.pmu.flash.calRc t else s.pmu.flash.calRc }
  let s := calibrated (updXp s t fun x => { x with calibrating := false, motion := .stopped }) t
  raise s (evXp t 11) subjXp t 0

/-- CALIBRATE: its checks; it holds the transport once that stands still, and its next occurrence ends it with the parts that
passed (R592 to R594, R602). The calibration record is not written while PFAIL_N is low (R763). -/
def execCalibrate (id : Nat) (passed : BitVec 3) (s : State) : Answer :=
  .next (withCmdW s id 0x1D fun c =>
    let t := c.fld 0x10 1
    let kind := c.fld 0x11 1
    match xpOf s t with
    | none => complete s id (Compl.field 0x10)
    | some x =>
      if c.prog = .waiting 0 then
        (if s.pmu.pfail then s
         else
           let p := passed.toNat &&& kind
           complete (calibrateDone s t p kind) id (Compl.ok p 0))
      else if 2 ≤ kind ∧ x.mount.isNone then complete s id (Compl.of 0x62)
      else if 2 ≤ kind ∧ s.strm.any (fun p => p.2.xp == t) then complete s id (Compl.of 5)
      else if !engRun s 4 t then complete s id (Compl.of 0x42)
      else if bitOf kind 2 ∧ !hasComplete x (c.fld 0x12 1) then complete s id (Compl.of 0x60)
      else if (x.motion ≠ .stopped ∧ x.motion ≠ .backhitch) ∨ x.calibrating ∨ x.cmTry.isSome then s
      else
        let s := updXp s t fun x => { x with
          calibrating := true, goal := none, motion := if bitOf kind 2 then .reading else if bitOf kind 1 then .ramp else .stopped,
          mount := x.mount.map fun m => { m with away := m.away || (bitOf kind 2 && m.wrPart.isSome) } }
        setProg s id (.waiting 0))

end Sys2Proof.Machine
end

