-- ==== Sys2Proof/Machine/Servo.lean ====
section
/-! DEFINITION. Servo frames, LPOS, loss of lock, the control loops, and the pins and registers of the write-inhibit logic
(R555 to R577, R595 to R599). -/

namespace Sys2Proof.Machine

/-! ### One channel's frame -/

/-- Lateral position in nm from a GRF-3 frame (R556), rounded down. -/
def lateral (f : ChanFrame) : Int :=
  (120000 * ((f.tP - f.tM) - (f.tN - f.tM)) + 48000 * (f.tF : Int)) * 100000 / (31677 * (f.tF : Int))

/-- Target lateral position of wrap `w` in nm (R558). -/
def yRef (w : Nat) : Int := 1160 * ((w % 48 : Nat) : Int) - 27260

/-- PES in nm of a GRF-2 frame on wrap `w` (R563). -/
def dualTone (f : ChanFrame) (w : Nat) : Int :=
  let p := if f.tM + f.tP = 0 then 0 else 870 * (f.tM - f.tP) / (f.tM + f.tP)
  if Config.tone2Above w then -p else p

/-- The PES of one channel's frame: y - y_ref, or the dual-tone value (R558, R563). -/
def framePes (grf2 : Bool) (w : Nat) (f : ChanFrame) : Int :=
  if grf2 then dualTone f w else lateral f - yRef w

/-- Velocity of a frame in mm/s: 120 µm over its time (R557, R564). -/
def frameVel (f : ChanFrame) : Nat := if f.tF = 0 then 0 else 120000000 / f.tF

/-- Do two frame times agree within 2 % (R559)? -/
def agrees (prev cur : Nat) : Bool :=
  prev != 0 && decide ((if prev ≤ cur then cur - prev else prev - cur) * 100 ≤ 2 * prev)

/-- The commanded velocity in mm/s: none while the tape stands, LOCATE_VEL in a seek, the floor in a backhitch (R559, R584,
Table 11-10). -/
def commanded (x : Xport) : Nat :=
  match x.motion with
  | .stopped => 0
  | .backhitch => 1200
  | .locating => 100 * x.blk.locVel
  | _ => x.target

/-- The place of a symbol in its word: S starts a word (R560, R561). -/
def nextIndex (grf2 : Bool) (d : Int) (i : Nat) : Nat :=
  if !grf2 && decide (-1000 < d ∧ d < 1000) then 0 else (i + 1) % 36

/-- A channel after a frame: 8 frames that agree lock it while the commanded velocity is 0.5 m/s or more; LPOS goes on by one
frame (R559, R562). -/
def channelFrame (slow grf2 reverse : Bool) (c : Servo) (f : ChanFrame) : Servo :=
  let good := if agrees c.lastTf f.tF then min (c.good + 1) 8 else 0
  { c with
    good := if slow then 0 else good, lastTf := f.tF, yNm := if grf2 then 0 else lateral f,
    locked := !slow && (c.locked || decide (8 ≤ good)),
    lpos := if reverse then c.lpos - 1 else (c.lpos + 1) % 2 ^ 24, index := nextIndex grf2 f.dNm c.index }

/-! ### Inhibit conditions -/

/-- Are both channels unlocked (Table 11-3)? -/
def servoLost (x : Xport) : Bool := !(servoOf x 0).locked && !(servoOf x 1).locked

/-- Has neither channel a valid LPOS (R562, R572)? -/
def lposLost (x : Xport) : Bool := !(servoOf x 0).lposOk && !(servoOf x 1).lposOk

/-- Notes since when servo or LPOS has been lost during a write (R572). -/
def noteLoss (s : State) (t : Nat) : State :=
  updXp s t fun x => { x with
    lossAt := if x.motion == .writing && (servoLost x || lposLost x) then some (x.lossAt.getD (now s)) else none }

/-- The SERVO_LOST condition follows the channels (R565, R599). -/
def judgeServo (s : State) (t : Nat) : State :=
  match xpOf s t with
  | some x => noteLoss (setCause s t causeServo (servoLost x)) t
  | none => s

/-- New WI_CFG values apply from a frame edge (Table 11-6). -/
def takeCfg (w : Inhibit) : Inhibit :=
  match w.cfgNext with
  | some (l, c, f, k) => { w with pesLimit := l, pesCount := c, lostFrames := f, wclkTol := k, cfgNext := none }
  | none => w

/-- The PES that a frame publishes: the mean of the locked channels' values, or the one that is locked (R558). -/
def publishedPes (x : Xport) (pa pb : Option Int) : Option Int :=
  let a := if (servoOf x 0).locked then pa else none
  let b := if (servoOf x 1).locked then pb else none
  match a, b with
  | some p, some q => some ((p + q) / 2)
  | some p, none => some p
  | none, some q => some q
  | none, none => none

/-- The inhibit logic of a frame edge: the PES and WCLK conditions (R565, R566). -/
def frameInhibit (w : Inhibit) (pes : Option Int) (wclkDev : Nat) (lost : Bool) : Inhibit × BitVec 6 :=
  let above := pes.elim false fun p => decide ((w.pesLimit : Int) < |p|)
  let run := match pes with
    | some _ => if above then min (w.pesRun + 1) 15 else 0
    | none => w.pesRun
  let c := match pes with
    | some _ => condWith w.cond causePes (above && (w.cond.getLsbD causePes || decide (w.pesCount ≤ run)))
    | none => w.cond
  let c := condWith c causeWclk (decide (w.wclkTol < wclkDev))
  ({ w with pesRun := run, pes := pes.getD w.pes }, condWith c causeServo lost)

/-- The re-arm count at a frame edge: 64 consecutive good ones while INHIBIT stays 0 (R567). `was` says that INHIBIT was 1 until
this edge. -/
def rearm (w : Inhibit) (pes : Option Int) (was : Bool) : Inhibit :=
  if inhibited w || was || w.armed then w
  else
    let fine := pes.elim false fun p => decide (4 * |p| ≤ 3 * (w.pesLimit : Int))
    let n := if fine then min (w.good + 1) 64 else 0
    { w with good := n, armed := decide (64 ≤ n) }

/-- The new values of the channels, the velocity, the lanes' write clock v × density and read sample clock, two samples a bit, and the
run past 1.2 m/s at a frame edge (R504, R556 to R560, R577, R579). -/
def measured (x : Xport) (a b : Option ChanFrame) : Xport :=
  let slow := decide (commanded x < 500)
  let grf2 := x.cart.elim false fun c => c.format == 2
  let put (ch : Nat) (f : Option ChanFrame) (l : Tbl Servo) : Tbl Servo :=
    f.elim l fun f => Tbl.put l ch (channelFrame slow grf2 x.reverse (servoOf x ch) f)
  let v := match a, b with
    | some f, _ => frameVel f
    | none, some f => frameVel f
    | none, none => x.velocity
  let h := (v :: x.velHist).take 4
  let v := min (sumOf h / h.length) 65535
  let f := v * densityOf x x.wrap / 1000
  { x with servo := put 1 b (put 0 a x.servo), velHist := h, velocity := v, wi := takeCfg x.wi, wclk := f, rclk := 2 * f,
           run := if v < 1200 then 0 else x.run + 120 }

/-- A frame's PES joins the last 1,000 (Table 11-12). -/
def pushPes (x : Xport) (p : Option Int) : Xport :=
  p.elim x fun p => { x with pesHist := (p :: x.pesHist).take 1000 }

/-- The SERVO streams of transport `t` gather what `f` adds (Table 12-8). -/
def gather (s : State) (t : Nat) (f : SrvAcc → SrvAcc) : State :=
  { s with ace.tele := Tbl.mapVal s.ace.tele fun _ x => if x.kind == 1 && x.source == t then { x with acc := f x.acc } else x }

/-- Is a stream's transport missing at this instant: not moving, or inactive under Throttle (R632, R642)? -/
def partialOf (x : Xport) : Bool := x.motion == .stopped || x.throttled

/-- The SERVO and READ_CHANNEL streams of transport `t` note that it is missing. -/
def noteMissing (s : State) (t : Nat) (gone : Bool) : State :=
  { s with ace.tele := Tbl.mapVal s.ace.tele fun _ x =>
      if decide (x.kind ≤ 2) && x.source == t then { x with part := x.part || gone } else x }

/-- One frame of velocity `v`, with the PES it published. -/
def SrvAcc.frame (v : Nat) (pes : Option Int) (a : SrvAcc) : SrvAcc :=
  let a := { a with frames := a.frames + 1, velSum := a.velSum + v }
  match pes with
  | some p => { a with
      pesN := a.pesN + 1, pesSum := a.pesSum + p, pesSq := a.pesSq + (p * p).toNat,
      pesMin := if a.pesN = 0 then p else min a.pesMin p, pesMax := if a.pesN = 0 then p else max a.pesMax p }
  | none => a

/-- One sample of tension and motor current. -/
def SrvAcc.sample (mn ma : Nat) (a : SrvAcc) : SrvAcc :=
  { a with tenN := a.tenN + 1, tenSum := a.tenSum + mn, maSum := a.maSum + ma }

/-- Is the tape path of transport `t` live: power on, tape in? -/
def pathLive (s : State) (x : Xport) : Bool :=
  s.host.sysRst && s.pmu.ps != .off && !s.clk.frozen && x.cart.isSome

/-- SERVO_FRAME: a frame edge. PES and velocity are published, the DAC gets the track-follow output, the write clocks follow, the
inhibit conditions and the re-arm count move on (R556 to R560, R563 to R571, R575, R577, R595 to R597). -/
def execServoFrame (t : Nat) (a b : Option ChanFrame) (wclkDev : Nat) (s : State) : Answer :=
  match xpOf s t with
  | some x =>
    if (a.isNone && b.isNone) || !pathLive s x then .next s
    else
      let grf2 := x.cart.elim false fun c => c.format == 2
      let x := measured x a b
      let pes := publishedPes x (a.map (framePes grf2 x.wrap)) (b.map (framePes grf2 x.wrap))
      let was := inhibited x.wi
      let p := frameInhibit x.wi pes wclkDev (servoLost x)
      -- The DAC code is the controller's: the spec gives no formula for it.
      let (i, s) := drawFree s
      let dac := Config.freeValue i % 2 ^ 24
      let s := { s with xp := Tbl.put s.xp t (pushPes { x with wi := p.1, dac := dac } pes) }
      let s := gather s t (SrvAcc.frame x.velocity pes)
      let s := setCond s t p.2
      let s := if s.pmu.aonOk then updXp s t fun x => { x with wi := rearm x.wi pes was } else s
      .next (pspTurn (sendPsp (noteLoss (updXp s t (lateReq s)) t) t 0 3 dac) (t / 2))
  | none => .next s

/-! ### LPOS -/

/-- One step of the CRC-8 of an LPOS word: polynomial 0x07, most significant bit first (R561). -/
def crc8Step (c : Nat) (b : Nat) : Nat :=
  let x := (c / 128) ^^^ b
  (c * 2 % 256) ^^^ (if x = 1 then 0x07 else 0)

/-- CRC-8 of a bit string (R561). -/
def crc8Bits (l : List Nat) : Nat := l.foldl crc8Step 0

/-- The number that bits spell, most significant first. -/
def msbNat (l : List Nat) : Nat := l.foldl (fun a b => 2 * a + b) 0

/-- The LPOS value of a word of 36 symbols (2 stands for S), if the word is whole and its CRC-8 agrees (Table 11-2). -/
def lposValue (syms : List Nat) : Option Nat :=
  match syms with
  | 2 :: r =>
    if r.length = 35 ∧ (r.all fun b => decide (b ≤ 1)) ∧ crc8Bits (r.take 27) = msbNat (r.drop 27) then some (msbNat (r.take 24))
    else none
  | _ => none

/-- A channel after a word: its LPOS, or the count of failed words; after 8 of them it counts as unlocked (R561, R562). -/
def channelWord (reverse : Bool) (c : Servo) (v : Option Nat) : Servo :=
  match v with
  | some v => { c with lpos := if reverse then v else v + 35, lposOk := true, lposFails := 0 }
  | none =>
    let n := min (c.lposFails + 1) 8
    { c with lposFails := n, lposOk := c.lposOk && decide (n < 8), locked := c.locked && decide (n < 8),
             good := if n < 8 then c.good else 0 }

/-- LPOS_WORD: a channel's word of 36 symbols; the tape's place is known, and a seek, a backhitch or a wrap may end there (R25, R561,
R562, R564, R584, R585). -/
def execLposWord (t ch : Nat) (syms : List Nat) (s : State) : Answer :=
  match xpOf s t with
  | some x =>
    if 1 < ch ∨ !pathLive s x then .next s
    else
      let v := lposValue syms
      let s := updXp s t fun x => { x with
        servo := Tbl.put x.servo ch (channelWord x.reverse (servoOf x ch) v),
        lposErrs := if v.isSome then x.lposErrs else satAdd 32 x.lposErrs 1 }
      .next (followTape (judgeServo s t) t)
  | none => .next s

/-- SERVO_LOCK_LOSS: LOST_FRAMES expected frame times without a valid frame, or a commanded velocity below 0.5 m/s (R559, R599). -/
def execServoLockLoss (t ch : Nat) (s : State) : Answer :=
  match xpOf s t with
  | some x =>
    if 1 < ch ∨ !(servoOf x ch).locked then .next s
    else
      .next (judgeServo (updXp s t fun x => { x with
        servo := Tbl.put x.servo ch { servoOf x ch with locked := false, good := 0 } }) t)
  | none => .next s

/-- SERVO_LOSS_TIMEOUT: 50 ms of loss during a write. The gate request drops, the tape stops and servo is re-acquired; the fourth
time without a verified dataset between faults the transport (R572, Table 16-4). -/
def execServoLossTimeout (dt t : Nat) (s : State) : Answer :=
  let s := advance s dt
  match xpOf s t with
  | some x =>
    match x.lossAt, x.motion with
    | some a, .writing =>
      if now s < a + 50 * msTicks then .next s
      else
        let s := countFault s 8 1 0 0 0
        let s := interrupt s t
        let s := updXp s t fun x => { x with lossAt := none }
        if x.reacqRun < 3 then
          let s := updXp s t fun x => { x with reacqRun := x.reacqRun + 1, reacqs := satAdd 32 x.reacqs 1 }
          .next (raise (countFault s 8 0 0 0 1) (evXp t 1) subjXp t 0)
        else .next (if (xpOf s t).elim true (·.faulted) then s else faultXport s t 8 4 (2 ^ 64 - 1))
    | _, _ => .next s
  | none => .next s

/-! ### Loops -/

/-- The status reads of both motor drivers and the accelerometer read, each 1 ms (Table 11-9, R588). -/
def statusReads (s : State) (t : Nat) : State :=
  let (i, s) := drawFree s
  let frame (k : Nat) : Out := .psp (t / 2) (pspSel t k) (frameBytes 2 (Config.freeValue i))
  pspQueue s (t / 2) [frame 1, frame 2, frame 4]

/-- VELOCITY_LOOP_TICK: at 10 kHz the common-mode torque goes to both motor drivers; below a commanded 0.5 m/s both servo channels
are unlocked; every tenth time the drivers' status and the accelerometer are read. The spec gives no formula for the torque, nor what
is sent in a status read: free values (R559, R575, R587, R588, Table 11-9). -/
def execVelocityLoopTick (t : Nat) (s : State) : Answer :=
  match xpOf s t with
  | some x =>
    if !pathLive s x then .next s
    else
      let (i, s) := drawFree s
      let q := Config.freeInt i
      let slow := decide (commanded x < 500)
      let s := updXp s t fun x => { x with
        torque := q, loopTick := (x.loopTick + 1) % 10,
        servo := if slow then Tbl.mapVal x.servo fun _ c => { c with locked := false, good := 0 } else x.servo }
      let s := judgeServo s t
      let d := x.diffTorque
      let s := sendPsp (sendPsp s t 1 4 (twos 32 (q + d))) t 2 4 (twos 32 (q - d))
      .next (if x.loopTick = 9 then statusReads s t else pspTurn s (t / 2))
  | none => .next s

/-- TENSION_LOOP_TICK: at 5 kHz the tension sense is read and the differential torque follows, by a controller the spec does not
give: a free value; motor current and head temperature are sampled beside it, and streams note a tape that does not move (R575, R576,
R632). -/
def execTensionLoopTick (t mn : Nat) (s : State) : Answer :=
  match xpOf s t with
  | some x =>
    if !pathLive s x then .next s
    else
      let i := s.clk.free
      let s := { s with clk.free := i + 3 }
      let s := noteMissing (gather s t (SrvAcc.sample (min mn 65535) (Config.freeValue (i + 1) % 65536))) t (partialOf x)
      .next (updXp s t fun x => { x with
        tensionMn := min mn 65535, diffTorque := Config.freeInt i, motorMa := Config.freeValue (i + 1) % 65536,
        headTemp := heldTo 16 (Config.freeInt (i + 2)) })
  | none => .next s

/-! ### Pins and registers of the write-inhibit logic -/

/-- Is a low of `w` ns on Tt_SHK_N or Tt_WFLT_N recognised: always from 40 ns, never below 20 ns, and in between a free choice
(Tables 11-3, 17-13)? -/
def recognised (s : State) (w : Nat) : Bool × State :=
  if 40 ≤ w then (true, s)
  else if w < 20 then (false, s)
  else
    let (i, s) := drawFree s
    (Config.freeValue i % 2 == 1, s)

/-- SHOCK_INPUT: Tt_SHK_N low for `w` ns (R565). -/
def execShockInput (t w : Nat) (s : State) : Answer :=
  match xpOf s t with
  | some _ =>
    let (hit, s) := recognised s w
    .next (if hit then setCause (updXp s t fun x => { x with shkLow := true }) t causeShock true else s)
  | none => .next s

/-- SHOCK_CLEARED: Tt_SHK_N is high again (Table 11-3). -/
def execShockCleared (t : Nat) (s : State) : Answer :=
  match xpOf s t with
  | some _ => .next (setCause (updXp s t fun x => { x with shkLow := false }) t causeShock false)
  | none => .next s

/-- WRITE_FAULT_INPUT: Tt_WFLT_N falls and stays low for `w` ns; WFLT_LATCH sets, and firmware is to clear it (R565, R573). -/
def execWriteFaultInput (t w : Nat) (s : State) : Answer :=
  match xpOf s t with
  | some _ =>
    let (hit, s) := recognised s w
    if hit then
      let s := updXp s t fun x => { x with
        wfltHighAt := max x.wfltHighAt (now s + (w + 3) / 4), wi := { x.wi with wfltLatch := true },
        wfltTry := if x.wfltTry.isSome then x.wfltTry else some (0, now s + 10 * msTicks) }
      .next (setCause s t causeWflt true)
    else .next s
  | none => .next s

/-- Is Tt_WFLT_N high? -/
def wfltHigh (s : State) (x : Xport) : Bool := decide (x.wfltHighAt ≤ now s)

/-- WFLT_LATCH and its cause bit clear (Table 11-7). -/
def clearWflt (s : State) (t : Nat) : State :=
  let s := updXp s t fun x => { x with
    wfltTry := none, wi := { x.wi with wfltLatch := false, cause := condWith x.wi.cause causeWflt false } }
  setCause s t causeWflt false

/-- WFLT_CLEAR_RETRY: firmware tries to clear WFLT_LATCH, 10 ms after the fall or after the last try; the third failure faults
the transport (R573, Table 16-4). -/
def execWfltClearRetry (dt t : Nat) (s : State) : Answer :=
  let s := advance s dt
  match xpOf s t with
  | some x =>
    match x.wfltTry with
    | some (n, due) =>
      if now s < due then .next s
      else
        let s := if n = 0 then countFault s 8 1 0 0 0 else countFault s 8 0 0 0 1
        if wfltHigh s x then .next (countFault (clearWflt s t) 8 0 1 0 0)
        else if n < 2 then .next (updXp s t fun x => { x with wfltTry := some (n + 1, now s + 10 * msTicks) })
        else .next (faultXport (updXp s t fun x => { x with wfltTry := none }) t 8 3 (2 ^ 64 - 1))
    | none => .next s
  | none => .next s

/-- A write of WI_CAUSE: each cause bit written 1 clears; bit 4 clears WFLT_LATCH with it while Tt_WFLT_N is high, and otherwise
leaves both (Table 11-7). -/
def writeCause (s : State) (t : Nat) (v : Word) : State :=
  match xpOf s t with
  | some x =>
    let m := v.setWidth 6
    let s := updXp s t fun x => { x with wi := { x.wi with cause := x.wi.cause &&& ~~~(m &&& ~~~(16 : BitVec 6)) } }
    if m.getLsbD 4 && wfltHigh s x then clearWflt s t else s
  | none => s

/-- WI_CAUSE_WRITE: a W1C write of WI_CAUSE by the host or the SMP (R573, R574). -/
def execWiCauseWrite (t : Nat) (v : Word) (s : State) : Answer := .next (whenReached s 0 (writeCause s t v))

/-- FORCE_INHIBIT_WRITE: a write of WI_CTRL (R565, Table 11-5). -/
def execForceInhibitWrite (t : Nat) (v : Bool) (s : State) : Answer := .next (whenReached s 0 (setForce s t v))

end Sys2Proof.Machine
end

