-- ==== Sys2Proof/Machine/Firmware.lean ====
section
/-! DEFINITION. SYS_RST_N, boot, staging and live update of firmware, and the loss of supplies or of SYS_CLK_IN (R727 to R732,
R766 to R773, R783 to R785, R837 to R840, R857 to R867). -/

namespace Sys2Proof.Machine

/-! ### Staging (R766, R767) -/

/-- The flash instructions that write a piece at its OFFSET in the region that is not ACTIVE: FIRST erases the whole region (R679, R766). -/
def stageOps (f : Flash) (c : Cmd) (data : Bytes) : List Out :=
  let k := stageRegion f + 1
  (if bitOf (c.fld 0x20 1) 0 then eraseRegion f k else []) ++ flashProgram (regionAt f k + c.fld 0x18 4) data

/-- The instructions of a retry: a fresh erase of the piece's sectors, and its bytes again (R679, Table 16-4). -/
def restageOps (f : Flash) (c : Cmd) (data : Bytes) : List Out :=
  let a := regionAt f (stageRegion f + 1) + c.fld 0x18 4
  ((List.range ((a % 65536 + data.length + 65535) / 65536)).map fun i => flashErase (a / 65536 * 65536 + 65536 * i)).flatten ++
    flashProgram a data

/-- FW_STAGE: the piece `data` of an image is read from host memory and written to the region that is not ACTIVE; STAGED clears. `img`
is the image as its header describes it once this piece is in place (R679, R766, R767). No flash write starts while PFAIL_N is low
(R763). -/
def execFwStage (id : Nat) (img : Image) (data : Bytes) (s : State) : Answer :=
  .next (withCmd s id 0x25 fun c =>
    if s.pmu.upd.isSome then complete s id (Compl.of 0x67)
    else if !dataOk s c then complete s id (Compl.of 7)
    else if s.pmu.flashOp.isSome || s.pmu.pfail then s
    else
      let f := s.pmu.flash
      let d := data.take (c.fld 0x1C 4)
      let s := cmdRead s c (c.fld 0x10 8) (c.fld 0x1C 4)
      let s := { s with
        pmu.flash := { f with staged := false, images := Tbl.del f.images (stageRegion f) },
        pmu.flashOp := some ⟨id, img, d, 0⟩ }
      setProg (pspQueue s 1 (stageOps f c d)) id (.waiting 0))

/-- The result of a FW_STAGE whose flash operation succeeded: LAST verifies the whole image and marks it STAGED (R729, R766, R767). -/
def stageDone (s : State) (o : FlashOp) : State :=
  let last := (cmdOf s o.cmd).elim false fun c => bitOf (c.fld 0x20 1) 1
  if !last then complete s o.cmd (Compl.ok 0 0)
  else
    let f := s.pmu.flash
    let s := { s with pmu.flash := { f with images := Tbl.put f.images (stageRegion f) o.img, staged := o.img.verdict == 0 } }
    complete s o.cmd (if o.img.verdict = 0 then Compl.ok 0 0 else { Compl.field 0xFF with result2 := o.img.verdict })

/-- FLASH_OPERATION_END: the program or erase of a FW_STAGE completes, or fails and is tried again with a fresh erase; the third
failure ends the command (R767, Table 16-4). -/
def execFlashOperationEnd (ok : Bool) (s : State) : Answer :=
  match s.pmu.flashOp with
  | none => .next s
  | some o =>
    let s := if !ok && o.tries == 0 then countFault s 11 1 0 0 0 else s
    if ok then
      let s := if o.tries = 0 then s else countFault s 11 0 1 0 0
      .next (stageDone { s with pmu.flashOp := none } o)
    else if o.tries < 2 then
      let s := countFault { s with pmu.flashOp := some { o with tries := o.tries + 1 } } 11 0 0 0 1
      .next ((cmdOf s o.cmd).elim s fun c => pspQueue s 1 (restageOps s.pmu.flash c o.data))
    else
      let s := faultSpent { s with pmu.flashOp := none } { FltLog.blank with cls := 11, status := 2, tries := 3 } subjNone 0
      .next (complete s o.cmd { Compl.field 0xFF with result2 := 3 })

/-! ### Live update (R768 to R773) -/

/-- FW_ACTIVATE: AT_RESET names the staged image in BOOT_STATE, in trial; LIVE pauses, and its next occurrence starts the new
cores. `verified` is the second verification (R768, R769). -/
def execFwActivate (id : Nat) (verified : Bool) (s : State) : Answer :=
  .next (withCmdW s id 0x26 fun c =>
    if c.prog = .waiting 1 then
      match s.pmu.upd with
      | some u => if u.cmd = id ∧ u.phase = 1 then trySwitch s u else resumeSwitch s
      | none => s
    else
      let f := s.pmu.flash
      if s.pmu.upd.isSome then complete s id (Compl.of 0x67)
      else match Tbl.get? f.images (stageRegion f) with
        | none => complete s id (Compl.field 0xFE)
        | some img =>
          if !f.staged then complete s id (Compl.field 0xFE)
          else if c.fld 0x10 1 % 2 = 1 then
            (if s.pmu.pfail then s
             else complete { s with pmu.flash := { f with active := stageRegion f, trial := true, staged := false } } id (Compl.ok 0 0))
          else if !verified || img.stfmt != s.pmu.runImg.stfmt then complete s id (Compl.field 0xFE)
          else startPause s id)

/-- A pause whose command an FLR took away ends by itself, and so does one that waited for jobs which are gone. -/
def resumeUpdate (s : State) : State :=
  match s.pmu.upd with
  | some u => if u.phase = 1 ∧ u.cmd = noCmd then trySwitch s u else resumeSwitch s
  | none => s

/-- SELF_TEST_PASS: the image is confirmed and becomes ACTIVE; the real-time cores of stopped transports are replaced at once,
the others at their next turnaround. Confirmation waits for PFAIL_N to rise (R770, R773, R784). -/
def execSelfTestPass (s : State) : Answer :=
  let s := resumeUpdate s
  match s.pmu.upd with
  | some u =>
    if u.phase ≠ 2 ∨ s.pmu.pfail then .next s
    else
      let moving := (s.xp.filter fun p => p.2.motion != .stopped).map (·.1)
      let rt := if u.trial then 15 else maskOf ((s.xp.filter fun p => p.2.motion == .stopped).map (·.1))
      let s := { s with
        pmu.flash := { s.pmu.flash with active := s.pmu.runReg, trial := false, staged := u.trial && s.pmu.flash.staged },
        pmu.rtOwed := if u.trial then s.pmu.rtOwed else moving }
      .next (endUpdate s u 0 rt false)
  | none => .next s

/-- SELF_TEST_FAIL: the formatter rolls back (R771, R772). -/
def execSelfTestFail (s : State) : Answer :=
  let s := resumeUpdate s
  match s.pmu.upd with
  | some u => if u.phase = 2 then .next (rollBack s u 1) else .next s
  | none => .next s

/-- SELF_TEST_TIMEOUT: 5 s without a pass (R771, R772). -/
def execSelfTestTimeout (dt : Nat) (s : State) : Answer :=
  let s := resumeUpdate (advance s dt)
  match s.pmu.upd with
  | some u => if u.phase = 2 ∧ u.deadline ≤ now s then .next (rollBack s u 2) else .next s
  | none => .next s

/-! ### SYS_RST_N and boot -/

/-- SYS_RST_ASSERT: the whole device is reset. The boot flash, the cartridges and the levels of input pins stay (R121, R688, R856). -/
def execSysRstAssert (s : State) : Answer :=
  let z := State.afterReset s.pmu.flash (fun t => (xpOf s t).bind (·.cart)) s.host.perst s.clk.free
  .next { z with
    pending := s.pending, out := s.out,
    xp := Tbl.mapVal z.xp fun t x => (xpOf s t).elim x fun o => { x with shkLow := o.shkLow, wfltHighAt := o.wfltHighAt - now s },
    smp.deaf := s.smp.deaf || s.smp.st != .idle, smp.blind := s.smp.blind }

/-- SYS_RST_RELEASE: the straps are sampled and the boot ROM reads the directory; with PERST_N high the retry window opens; a shock input that is low inhibits again
(R118, R679, R727, R830, R837). -/
def execSysRstRelease (straps : Byte) (s : State) : Answer :=
  if s.host.sysRst then .next s
  else
    let s := { s with host.sysRst := true, smp.straps := straps, smp.blind := false, pmu.aonOk := true }
    let s := pspQueue s 1 [flashRead 0]
    let s := (s.xp.filter fun p => p.2.shkLow).foldl (fun s p => setCause s p.1 causeShock true) s
    .next (if s.host.perst then openWindow900 s else s)

/-- Buffer bytes of one trained channel: two subchannels of four data devices per rank (Table 17-6, R860). -/
def channelBytes (straps : Byte) : Nat :=
  2 * (1 + b2n (bitOf straps.toNat 4)) * 4 * (if bitOf straps.toNat 5 then 4 else 2) * 2 ^ 30

/-- The image regions that the boot ROM tries, in order (R730, R831). -/
def bootOrder (s : State) : List Nat :=
  if bitOf s.smp.straps.toNat 0 then [2] else [s.pmu.flash.active, 1 - s.pmu.flash.active, 2]

/-- The first region that verifies; none with an invalid directory (R730, R866). -/
def bootRegion (s : State) : Option Nat :=
  if s.pmu.flash.dirOk then
    (bootOrder s).find? fun r => (Tbl.get? s.pmu.flash.images r).elim false fun i => i.verdict == 0
  else none

/-- What the boot ROM reads until the image of region `r` starts: BOOT_STATE, and each image tried (R679, R727, R730). -/
def bootReads (s : State) (r : Nat) : List Out :=
  flashRead (regionAt s.pmu.flash 9) ::
    (((bootOrder s).takeWhile fun k => k != r) ++ [r]).map fun k => flashRead (regionAt s.pmu.flash (k + 1))

/-- Firmware starts: domain key restored, nonce block requested, records of the boot flash applied, engines RUN, transports yet to
calibrate; SMP_ATTN.RUN sets, and FW_READY unless PERST_N holds the function registers at reset (R120, R873; R360, R376, R680, R732, R750, R801, Table 15-4). -/
def startFirmware (s : State) (r : Nat) (img : Image) (bytes : Nat) : State :=
  let d := s.pmu.flash.domain
  let s := { s with
    pmu.booted := true, pmu.runImg := img, pmu.runReg := r, pmu.bufBytes := bytes, host.golden := r == 2, host.fwReady := s.host.perst, host.crs := false,
    keys.fid := d.elim 0 (·.1), keys.did := d.elim 0 (·.2.1),
    keys.oper := d.elim s.keys.oper fun k => Tbl.put s.keys.oper 0 k.2.2 }
  raiseAttn (firmwareStarts s) 8

/-- The boot log entry of a start from another image than ACTIVE (Table 15-15, outcomes 3 and 4). -/
def logBoot (s : State) (r : Nat) : State :=
  if r = s.pmu.flash.active ∨ bitOf s.smp.straps.toNat 0 then s
  else
    let u : Update := {
      cmd := noCmd, from_ := s.pmu.flash.active, fromVer := regionVersion s.pmu.flash s.pmu.flash.active, phase := 2, deadline := 0,
      pauseUs := 0, carried := 0, aborted := 0, trial := false, back := none }
    logUpdate s u (if r = 2 then 4 else 3) 15

/-- BOOT_COMPLETE: the first image that verifies starts, if a buffer channel trained; else FW_READY stays 0 (R730, R860, R866).
An image in trial has 5 s for its self-test (R772). -/
def execBootComplete (trainA trainB : Bool) (s : State) : Answer :=
  let bytes := (if trainA then channelBytes s.smp.straps else 0) +
    (if trainB && bitOf s.smp.straps.toNat 6 then channelBytes s.smp.straps else 0)
  if !s.host.sysRst || s.pmu.booted || s.pmu.ps != .run || s.clk.frozen || bytes == 0 then .next s
  else match bootRegion s with
    | none => .next s
    | some r =>
      let s := pspQueue s 1 (bootReads s r)
      match Tbl.get? s.pmu.flash.images r with
      | none => .next s
      | some img =>
        let s := logBoot (startFirmware s r img bytes) r
        let u : Update := {
          cmd := noCmd, from_ := r, fromVer := img.version, phase := 2, deadline := now s + 5 * secTicks, pauseUs := 0, carried := 0,
          aborted := 0, trial := true, back := none }
        .next (if s.pmu.flash.trial ∧ r = s.pmu.flash.active then { s with pmu.upd := some u } else s)

/-! ### Supplies and the clock -/

/-- The formatter drives Tt_WG of every transport low, and no re-arm follows until SYS_RST_N (R840). -/
def dropGates (s : State) : State :=
  { s with
    pmu.aonOk := false,
    xp := Tbl.mapVal s.xp fun _ x =>
      let y := { x with wi := { x.wi with armed := false, good := 0 } }
      if wgHigh x.wi then cutSegment y else y }

/-- SUPPLY_OUT_OF_RANGE: VDD_AON or VDD_CORE drops the gates, VDDIO_MGMT blinds the SMP (R840, R859). -/
def execSupplyOutOfRange (rail : Rail) (s : State) : Answer :=
  .next (match rail with
    | .vddAon | .vddCore => dropGates s
    | .vddioMgmt => { s with smp.blind := true })

/-- SYS_CLK_LOSS: every gate is inhibited, formatter time stands still and PPS_OUT is low until SYS_RST_N (R857). -/
def execSysClkLoss (s : State) : Answer :=
  if !s.host.sysRst || s.clk.frozen then .next s
  else
    let s := (s.xp.map (·.1)).foldl (fun s t => setForce s t true) s
    .next { s with clk.frozen := true, tbu.ppsOut := false }

end Sys2Proof.Machine
end

