-- ==== Sys2Proof/Machine/Telemetry.lean ====
section
/-! DEFINITION. Telemetry streams: records, periods and TELEMETRY_CONFIG (R628 to R637, R642). -/

namespace Sys2Proof.Machine

/-- Bytes of a record (Table 12-8). -/
def recordSize (kind : Nat) : Nat := if kind = 2 then 128 else 64

/-- Counters of a transport's lanes, summed: codewords, iterations, verify failures, rewrites, dropouts. -/
def laneCounts (s : State) (t : Nat) : List Nat :=
  let l := (lanesOf t).map (laneAt s)
  let total (f : Lane → Nat) : Nat := sumOf (l.map f)
  [total (·.cwDecoded), total (·.iterSum), total fun x => sumOf (x.vf.map (·.2)), total (·.rewrites), total (·.dropouts)]

/-- How far a counter has come since the period's start; one that was cleared meanwhile counts from zero (R545). -/
def since (base now_ : Nat) : Nat := if base ≤ now_ then now_ - base else now_

/-- Mean of `n` values, 0 of none. -/
def avgNat (sum n : Nat) : Nat := if n = 0 then 0 else sum / n

/-- Is the source of a stream missing? Only SERVO and READ_CHANNEL records have a transport for theirs (Table 12-8). -/
def sourceGone (s : State) (kind source : Nat) : Bool := decide (kind ≤ 2) && (xpOf s source).elim true partialOf

/-- Was the source missing in a part of the period: at its start, at a tick of the tension loop, at its end (R632)? -/
def missedPart (s : State) (x : Tele) : Bool :=
  x.part || sourceGone s x.kind x.source || (x.kind == 1 && x.acc.frames == 0)

/-- The SERVO payload (Table 12-8); the accelerometer's values are free. -/
def servoPayload (x : Xport) (a : SrvAcc) (i : Nat) : List (Nat × Nat × Nat) :=
  let mean := if a.pesN = 0 then 0 else a.pesSum / a.pesN
  [(0x10, 2, x.wrap), (0x12, 2, min a.frames 65535), (0x14, 4, headLpos x), (0x18, 2, avgNat a.velSum a.frames),
   (0x1A, 2, twos 16 (heldTo 16 mean)), (0x1C, 2, twos 16 (heldTo 16 a.pesMin)), (0x1E, 2, twos 16 (heldTo 16 a.pesMax)),
   (0x20, 2, min (isqrt (avgNat a.pesSq a.pesN) 0 24) 65535),
   (0x22, 1, b2n (servoOf x 0).locked + 2 * b2n (servoOf x 1).locked +
     4 * b2n ((servoOf x 0).lposOk || (servoOf x 1).lposOk) + 8 * b2n x.reverse),
   (0x24, 4, wiStatus x.wi), (0x28, 4, x.wi.episodes), (0x2C, 2, Config.freeValue i), (0x2E, 2, Config.freeValue (i + 1)),
   (0x30, 2, Config.freeValue (i + 2)), (0x32, 2, avgNat a.tenSum a.tenN), (0x34, 2, avgNat a.maSum a.tenN)]

/-- The READ_CHANNEL payload (Table 12-8). -/
def channelPayload (s : State) (t : Nat) (base : List Nat) : List (Nat × Nat × Nat) :=
  let d := ((numbered (laneCounts s t) 0).map fun p => since (base.getD p.1 0) p.2)
  let at_ (k : Nat) : Nat := min (d.getD k 0) (satMax 32)
  [(0x10, 4, at_ 0), (0x14, 4, at_ 1), (0x18, 4, at_ 2), (0x1C, 4, at_ 3), (0x60, 4, at_ 4), (0x64, 1, s.rc.level),
   (0x66, 2, s.rc.uPermille)] ++
  ((numbered (lanesOf t) 0).map fun p => (0x20 + 2 * p.1, 2, twos 16 (heldTo 16 (laneAt s p.2).snr)))

/-- The HKA payload: the converter's codes are free values; 62,500 conversions a second (Table 12-8). -/
def hkaPayload (periodUs i : Nat) : List (Nat × Nat × Nat) :=
  ((List.range 16).map fun n => (0x10 + 2 * n, 2, Config.freeValue (i + n) % 4096)) ++ [(0x30, 2, periodUs / 16)]

/-- The THERMAL payload (Table 12-8). -/
def thermalPayload (s : State) : List (Nat × Nat × Nat) :=
  let h := s.pmu.th
  ((List.range 7).map fun n => (0x10 + 2 * n, 2, twos 16 (sensorAvg h n))) ++
  [(0x1E, 1, h.level.code), (0x1F, 1, thermalFlags h), (0x20, 1, h.hottest)]

/-- The record of stream `k` at this instant (Tables 12-7, 12-8, R629, R632). -/
def teleRecord (s : State) (k : Nat) (x : Tele) : Bytes :=
  let i := s.clk.free
  let xp := xpOf s x.source
  let body := match x.kind with
    | 1 => xp.elim [] fun p => servoPayload (lateReq s p) x.acc i
    | 2 => channelPayload s x.source x.base
    | 3 => hkaPayload x.periodUs i
    | _ => thermalPayload s
  pageOf (recordSize x.kind)
    ([(0, 1, x.kind), (1, 1, k), (2, 1, if x.kind ≤ 2 then x.source else 0), (3, 1, b2n x.window.isSome + 2 * b2n (missedPart s x)),
      (4, 4, s.tbu.ns), (8, 6, s.tbu.sec), (0xE, 2, x.seq16)] ++ body)

/-- Stream `k` closes its period: the record replaces one not yet copied, with GAP set; SEQ16 goes on. In Lull-2 and Lull-3 no
record is made (R629, R631, R724). -/
def closePeriod (s : State) (k : Nat) : State :=
  match Tbl.get? s.ace.tele k with
  | none => s
  | some x =>
    let w := if s.ace.stopped then x.window else some (teleRecord s k x)
    { s with
      clk.free := s.clk.free + 16,
      ace.tele := Tbl.put s.ace.tele k { x with
        window := w, seq16 := (x.seq16 + 1) % 65536, base := laneCounts s x.source, acc := SrvAcc.zero,
        part := sourceGone s x.kind x.source } }

/-! ### TELEMETRY_CONFIG -/

/-- The channel of stream `k`, and its timer (R628). -/
def teleCh (k : Nat) : Nat := 24 + k
def teleTimer (k : Nat) : Nat := 8 + k

/-- Stops stream `k`: its channel is disarmed, and channel and timer are released (R636). -/
def stopStream (s : State) (k : Nat) : State :=
  let s := setAce s (teleCh k) { aceOf s (teleCh k) with st := .idle, pending := false, disarm := false, parked := false }
  { s with
    ace.tele := Tbl.del s.ace.tele k, ace.own := setDel s.ace.own (teleCh k),
    tbu.timers := Tbl.upd s.tbu.timers (teleTimer k) fun x => { x with en := false } }

/-- CFG of a telemetry channel (R634, Table 12-5). -/
def teleCfg (ringLog2 : Nat) (wrap : Bool) : Word :=
  BitVec.ofNat 32 (1 + 2 * 4 + 2 * 2 ^ 10 + ringLog2 * 2 ^ 12 + 3 * 2 ^ 17 + b2n wrap * 2 ^ 23 + 2 ^ 24)

/-- Configures stream `k`: channel claimed, programmed and armed, timer started (R628, R634). -/
def startStream (s : State) (k : Nat) (c : Cmd) : State :=
  let kind := c.fld 0x11 1
  let ch : Ace := { Ace.reset with
    st := if hostDown s then .halted else .armed, err := if hostDown s then 4 else 0, cfg := teleCfg (c.fld 0x13 1) (bitOf (c.fld 0x20 1) 1), trig := BitVec.ofNat 32 (0x10 + teleTimer k),
    iter := 0, len := recordSize kind, dst := c.fld 0x18 8, overrun := (aceOf s (teleCh k)).overrun,
    retries := (aceOf s (teleCh k)).retries }
  let tl : Tele := {
    kind := kind, source := c.fld 0x12 1, ringLog2 := c.fld 0x13 1, periodUs := c.fld 0x14 4, ringAddr := c.fld 0x18 8,
    tflags := c.fld 0x20 1, seq16 := 0, window := none, base := laneCounts s (c.fld 0x12 1), acc := SrvAcc.zero,
    part := sourceGone s kind (c.fld 0x12 1) }
  let tm : PTimer := {
    period := 1000 * c.fld 0x14 4, en := true, align := bitOf (c.fld 0x20 1) 0, cfgErr := false, skipped := 0,
    origin := timeNs s, last := timeNs s }
  let s := setAce s (teleCh k) ch
  { s with
    ace.tele := Tbl.put s.ace.tele k tl, ace.own := setIns s.ace.own (teleCh k),
    tbu.timers := Tbl.put s.tbu.timers (teleTimer k) tm }

/-- TELEMETRY_CONFIG: a stream stops at a record boundary, for which the command waits; then it starts anew, or its channel and
timer are free (R634 to R637). -/
def execTelemetryConfig (id : Nat) (s : State) : Answer :=
  .next (withCmdW s id 0x21 fun c =>
    let k := c.fld 0x10 1
    let a := aceOf s (teleCh k)
    let held := Tbl.has s.ace.tele k
    let off := c.fld 0x11 1 == 0
    let ok := Compl.ok (teleCh k) (teleTimer k)
    if !held && !off && aceLive a then complete s id (Compl.of 5)
    else if held && a.st == .running then
      setProg (setAce s (teleCh k) { a with pending := false, disarm := true }) id (.waiting 0)
    else
      let s := if held then stopStream s k else s
      if off then complete s id (Compl.ok 0 0) else complete (startStream s k c) id ok)

end Sys2Proof.Machine
end

