-- ==== Sys2Proof/Machine/TimeBase.lean ====
section
/-! DEFINITION. The time base: PPS_IN and its discipline, steps, SET_TIME, PPS_OUT, pacing timers and alarms (chapter 14). -/

namespace Sys2Proof.Machine

/-! ### Times along the wrapping count -/

/-- The period of the seconds count in ns (R694). -/
def timeMod : Int := 2 ^ 48 * 1000000000

/-- The signed distance from time `b` to time `a`, the short way round (R717). -/
def timeDiff (a b : Int) : Int := (a - b + timeMod / 2) % timeMod - timeMod / 2

/-- The first grid point later than `t` of the grid `origin + i * p` (R706). -/
def gridAfter (t origin p : Int) : Int := t + (p - (timeDiff t origin) % p)

/-- Grid points later than `a`, up to and including the time `d` ns after it. -/
def gridPassed (a origin p d : Int) : Nat :=
  let first := p - (timeDiff a origin) % p
  if d < first then 0 else ((d - first) / p + 1).toNat

/-- Formatter time `t` ns, brought into the count (R694). -/
def setNs (u : Tbu) (t : Int) : Tbu :=
  let v := (t % timeMod).toNat
  { u with sec := v / 1000000000, ns := v % 1000000000 }

/-- F held to its limits (R694, R700). -/
def clampPpb (f : Int) : Int := max (-200000) (min f 200000)

/-- The PPS state changes, which raises PPS_STATE (Table 14-1, Table 16-1). -/
def setPps (s : State) (p : PpsSt) : State :=
  if s.tbu.pps = p then s else raise { s with tbu.pps := p } evPpsState subjNone 0 0

/-- Enters ACQUIRING: the count of near edges and the 2.5 s without an edge start again. -/
def acquire (s : State) : State := setPps { s with tbu.near := 0, tbu.accAt := now s } .acquiring

/-! ### Pacing timers and PPS_OUT -/

/-- The grid origin of a timer (R706). -/
def timerOrigin (x : PTimer) : Int := if x.align then 0 else x.origin

/-- Pacing timer `k` fires now: a telemetry stream on it closes its period, and ACE channels are triggered (R610, R629). -/
def fireTimer (s : State) (k : Nat) : State :=
  let s := if 8 ≤ k then closePeriod s (k - 8) else s
  fireSource s (0x10 + k)

/-- PPS_OUT rises, or stays high, and falls after its width (R705). -/
def risePpsOut (s : State) : State :=
  { s with tbu.ppsOut := true, tbu.outFallAt := now s + s.tbu.outWidth * msTicks, tbu.outLast := timeNs s }

/-- A forward step of `d` ns fires each running timer and PPS_OUT once if it passes grid points of theirs (R708). `t0` is the time
before the step. -/
def stepForward (s : State) (t0 d : Int) : State :=
  let s := s.tbu.timers.foldl (fun s p =>
    let x := p.2
    let from_ := if timeDiff x.last t0 ≤ 0 then t0 else x.last
    let n := if x.en then gridPassed from_ (timerOrigin x) x.period (d - timeDiff from_ t0) else 0
    if n = 0 then s
    else
      let x := { x with skipped := satAdd 16 x.skipped n, last := timeNs s }
      fireTimer { s with tbu.timers := Tbl.put s.tbu.timers p.1 x } p.1) s
  let from_ := if timeDiff s.tbu.outLast t0 ≤ 0 then t0 else s.tbu.outLast
  if s.tbu.outEn && gridPassed from_ s.tbu.outOff 1000000000 (d - timeDiff from_ t0) != 0 then risePpsOut s else s

/-- Formatter time steps by `d` ns: STEPS, TIME_STEP, a new run of edges, timers and PPS_OUT (R702, R708, R717, R719). -/
def stepTime (s : State) (d : Int) : State :=
  if d = 0 then s
  else
    let t0 := timeNs s
    let u := setNs s.tbu (t0 + d)
    let s := { s with tbu := { u with
      steps := satAdd 32 u.steps 1, run := [], prev := u.prev.map (· + d) } }
    let s := if 0 < d then stepForward s t0 d else s
    raise s evTimeStep subjNone 0 0

/-- The PPS state after a step by SET_TIME: FREE stays FREE (Table 14-1). -/
def stepBySet (s : State) (d : Int) : State :=
  if d = 0 then s
  else
    let s := stepTime s d
    if s.tbu.pps = .free then s else acquire s

/-! ### SET_TIME -/

/-- A step as RESULT2 holds it: signed 64 bits, saturated (R717). -/
def stepResult (d : Int) : Nat := twos 64 (heldTo 64 d)

/-- SET_TIME: a step at once, or at the next PPS_IN edge (R715 to R717). One AT_PPS waits at a time. -/
def execSetTime (id : Nat) (s : State) : Answer :=
  .next (withCmd s id 0x20 fun c =>
    let sec := c.fld 0x18 8
    if s.clk.frozen then s
    else match c.fld 0x10 1 with
      | 0 =>
        let d := timeDiff (sec * 1000000000 + c.fld 0x20 4 : Nat) (timeNs s)
        complete (stepBySet s d) id (Compl.ok 0 (stepResult d))
      | 1 =>
        let d := signed 64 sec
        complete (stepBySet s d) id (Compl.ok 0 (stepResult d))
      | _ =>
        if s.tbu.atPps.isSome then s
        else setProg { s with tbu.atPps := some (id, sec, now s + 5 * secTicks / 2) } id (.waiting 0))

/-- SET_TIME_TIMEOUT: 2.5 s without an edge; AT_PPS completes with NOT_READY (R716). -/
def execSetTimeTimeout (dt : Nat) (s : State) : Answer :=
  let s := advance s dt
  match s.tbu.atPps with
  | some (id, _, till) =>
    if till ≤ now s ∧ !s.clk.frozen then .next (complete { s with tbu.atPps := none } id (Compl.of 0x67)) else .next s
  | none => .next s

/-! ### PPS_IN -/

/-- The offset of an edge stamped now from the nearest expected second (R697). -/
def edgeOffset (s : State) : Int := (timeNs s - s.tbu.cable + 500000000) % 1000000000 - 500000000

/-- A waiting AT_PPS takes effect at this edge (R715, R718). -/
def setAtEdge (s : State) : State :=
  match s.tbu.atPps with
  | some (id, sec, _) =>
    let d := timeDiff ((sec * 1000000000 : Nat) + s.tbu.cable) (timeNs s)
    complete (stepBySet { s with tbu.atPps := none } d) id (Compl.ok 0 (stepResult d))
  | none => s

/-- Do all offsets lie within 1 µs of one another (R702)? -/
def within1us (l : List Int) : Bool := l.all fun a => l.all fun b => decide (|a - b| ≤ 1000)

/-- An accepted edge with offset `o`: discipline, state and trigger (R699, R700, R702, Table 14-1, Table 12-2). The quotient
rounds down. -/
def acceptEdge (s : State) (o : Int) : State :=
  let u := s.tbu
  let f := if u.manual then u.f else clampPpb (u.f - o / (2 ^ u.shift : Int))
  let s := { s with tbu := { u with
    f := f, slew := -o, slewAt := now s + secTicks, accepted := satAdd 32 u.accepted 1, run := [], accAt := now s } }
  let s := match s.tbu.pps with
    | .free | .holdover => acquire s
    | .acquiring =>
      let n := if |o| ≤ 1000 then s.tbu.near + 1 else 0
      if 8 ≤ n then setPps { s with tbu.near := 0 } .locked else { s with tbu.near := n }
    | .locked => if |o| ≤ 1000 then s else acquire s
  fireSource s 0x20

/-- An out-of-window edge with offset `o`, `gap` ns after the previous one: frequency capture, and the step on the third that
agrees (R701, R702). -/
def rejectEdge (s : State) (o : Int) (gap : Option Int) : State :=
  let u := s.tbu
  let f := match gap with
    | some g => if u.pps != .locked && !u.manual && decide (|g - 1000000000| ≤ 250000) then clampPpb (u.f - (g - 1000000000)) else u.f
    | none => u.f
  let s := { s with tbu := { u with f := f, outWin := satAdd 32 u.outWin 1, near := 0 } }
  let run := o :: u.run
  if run.length = 3 ∧ within1us run then
    acquire (stepTime { s with tbu.run := [] } (-o))
  else { s with tbu.run := run.take 2 }

/-- PPS_EDGE: a rising edge of PPS_IN (R697 to R702, R718 to R722). Without PPS_EN the input is ignored. -/
def execPpsEdge (dt : Nat) (s : State) : Answer :=
  let s := advance s dt
  if !s.host.sysRst || s.clk.frozen || !s.tbu.ppsEn then .next s
  else
    let gap := s.tbu.prev.map fun p => timeDiff (timeNs s) p
    if gap.elim false fun g => decide (g < 500000000) then .next { s with tbu.dups := satAdd 32 s.tbu.dups 1 }
    else
      let s := setAtEdge s
      let o := edgeOffset s
      let s := { s with tbu.prev := some (timeNs s), tbu.lastOff := o }
      .next (if |o| ≤ 1000 * (s.tbu.win : Int) then acceptEdge s o else rejectEdge s o gap)

/-- SLEW_END: one second after an accepted edge SLEW returns to 0 (R700). -/
def execSlewEnd (dt : Nat) (s : State) : Answer :=
  let s := advance s dt
  .next (if s.tbu.slew ≠ 0 ∧ s.tbu.slewAt ≤ now s ∧ !s.clk.frozen then { s with tbu.slew := 0 } else s)

/-- PPS_HOLDOVER: 2.5 s without an accepted edge; F is held and SLEW is 0 (R703, R704). -/
def execPpsHoldover (dt : Nat) (s : State) : Answer :=
  let s := advance s dt
  if (s.tbu.pps = .acquiring ∨ s.tbu.pps = .locked) ∧ s.tbu.accAt + 5 * secTicks / 2 ≤ now s ∧ !s.clk.frozen then
    .next (setPps { s with tbu.slew := 0, tbu.near := 0, tbu.holdovers := satAdd 32 s.tbu.holdovers 1 } .holdover)
  else .next s

/-! ### What fires on time -/

/-- SECOND_BOUNDARY: formatter time crosses a whole second, which triggers ACE channels (R610). -/
def execSecondBoundary (dt : Nat) (s : State) : Answer :=
  let crossed := decide (1000000000 ≤ s.tbu.ns + 4 * dt) && !s.clk.frozen && s.host.sysRst
  let s := advance s dt
  .next (if crossed then fireSource s 0x21 else s)

/-- Pacing timer `k`; at its reset values when never touched. -/
def timerOf (s : State) (k : Nat) : PTimer := (Tbl.get? s.tbu.timers k).getD PTimer.reset

/-- PACING_TIMER_FIRE: timer `k` has reached the first grid point later than its last firing (R706, R708). -/
def execPacingTimerFire (dt k : Nat) (s : State) : Answer :=
  let s := advance s dt
  let x := timerOf s k
  let due := gridAfter x.last (timerOrigin x) x.period
  if x.en ∧ 0 ≤ timeDiff (timeNs s) due ∧ !s.clk.frozen then
    .next (fireTimer { s with tbu.timers := Tbl.put s.tbu.timers k { x with last := due } } k)
  else .next s

/-- Alarm `a`; at its reset values when never touched. -/
def alarmOf (s : State) (a : Nat) : Alarm := (Tbl.get? s.tbu.alarms a).getD ⟨0, 0, false, false⟩

/-- Has formatter time reached or passed the alarm, along the wrapping count (R709)? -/
def alarmDue (s : State) (x : Alarm) : Bool := decide (0 ≤ timeDiff (timeNs s) (x.sec * 1000000000 + x.ns : Nat))

/-- ALARM_FIRE: FIRED sets, EN clears, the event is raised; a wake source (R709, R721). -/
def execAlarmFire (dt a : Nat) (s : State) : Answer :=
  let s := advance s dt
  let x := alarmOf s a
  if a < 4 ∧ x.en ∧ alarmDue s x ∧ !s.clk.frozen then
    let s := { s with tbu.alarms := Tbl.put s.tbu.alarms a { x with fired := true, en := false } }
    .next (wake (raise s (1408 + a) subjNone 0 0) 5)
  else .next s

/-- PPS_OUT_RISE: PPS_OUT rises at a whole second plus PPS_OUT_OFFSET (R705, R708). -/
def execPpsOutRise (dt : Nat) (s : State) : Answer :=
  let s := advance s dt
  let due := gridAfter s.tbu.outLast s.tbu.outOff 1000000000
  .next (if s.tbu.outEn ∧ 0 ≤ timeDiff (timeNs s) due ∧ !s.clk.frozen then { risePpsOut s with tbu.outLast := due } else s)

/-- PPS_OUT_FALL: PPS_OUT_WIDTH ms of ticks have passed since the rise (R705). -/
def execPpsOutFall (dt : Nat) (s : State) : Answer :=
  let s := advance s dt
  .next (if s.tbu.ppsOut ∧ s.tbu.outFallAt ≤ now s ∧ !s.clk.frozen then { s with tbu.ppsOut := false } else s)

/-! ### Register writes and reads of their own -/

/-- A write of TBU_CFG (Table 14-4, R703, R722). -/
def writeTbuCfg (s : State) (v : Word) : State :=
  let en := bitOf v.toNat 0
  let out := bitOf v.toNat 2
  let u := s.tbu
  let u := { u with
    ppsEn := en, manual := bitOf v.toNat 1, outEn := out, shift := bitsOf v.toNat 3 4,
    prev := if en && !u.ppsEn then none else u.prev, run := if en && !u.ppsEn then [] else u.run,
    near := if en && !u.ppsEn then 0 else u.near, slew := if en then u.slew else 0,
    ppsOut := u.ppsOut && out, outLast := if out && !u.outEn then timeNs s else u.outLast }
  let s := { s with tbu := u }
  if en then s else setPps s .free

/-- TBU_CFG_WRITE (R703), as any write of BAR0 (R154). -/
def execTbuCfgWrite (v : Word) (s : State) : Answer := .next (whenReached s 0 (writeTbuCfg s v))

/-- Does a period fit its register (Table 14-3)? -/
def periodOk (p : Nat) : Bool := p % 4 == 0 && decide (1000 ≤ p ∧ p ≤ 1000000000)

/-- May a timer run with this period and alignment (R707)? -/
def mayRun (p : Nat) (align : Bool) : Bool := decide (1000 ≤ p) && (!align || 1000000000 % p == 0)

/-- A write of a pacing timer's period or control register; a telemetry stream's timer takes none (R706, R707, R714, R723). -/
def writeTimer (s : State) (k : Nat) (isCtrl : Bool) (v : Word) : State :=
  let x := timerOf s k
  let store (y : PTimer) : State := { s with tbu.timers := Tbl.put s.tbu.timers k y }
  if 16 ≤ k || (8 ≤ k && aceHeld s (teleCh (k - 8))) then s
  else if isCtrl then
    let en := bitOf v.toNat 0
    let align := bitOf v.toNat 1
    if en && !mayRun x.period align then store { x with cfgErr := true }
    else store { x with
      en := en, align := align, cfgErr := false, skipped := if en then 0 else x.skipped,
      origin := if en && !x.en then timeNs s else x.origin, last := if en && !x.en then timeNs s else x.last }
  else if !periodOk v.toNat then s
  else if x.en && !mayRun v.toNat x.align then store { x with cfgErr := true }
  else store { x with period := v.toNat, cfgErr := false }

/-- PACING_TIMER_CTRL_WRITE (R154, R707). -/
def execPacingTimerCtrlWrite (k : Nat) (isCtrl : Bool) (v : Word) (s : State) : Answer :=
  .next (whenReached s 0 (writeTimer s k isCtrl v))

/-- A write of an alarm's control register: EN is stored, FIRED is W1C (Table 14-3). -/
def writeAlarm (s : State) (a : Nat) (v : Word) : State :=
  if 4 ≤ a then s
  else
    let x := alarmOf s a
    { s with tbu.alarms := Tbl.put s.tbu.alarms a { x with en := bitOf v.toNat 0, fired := x.fired && !bitOf v.toNat 1 } }

/-- ALARM_CTRL_WRITE (R154, R709). -/
def execAlarmCtrlWrite (a : Nat) (v : Word) (s : State) : Answer := .next (whenReached s 0 (writeAlarm s a v))

/-- Reads TBU_TIME_NS, which snapshots the seconds (R712). -/
def readTime (s : State) : Nat × State := (s.tbu.ns, { s with tbu.snap := s.tbu.sec })

/-- TBU_TIME_READ by the host: 4 bytes, or 8 with TBU_SNAP_SEC_LO of the same instant (R712, R713); one that finds BAR0 mapped
out is an Unsupported Request (R154), one during an FLR reads zero (Table 3-9). -/
def execTbuTimeRead (wide : Bool) (s : State) : Answer :=
  .next (if hostReach s 0 then
      let p := readTime s
      reply p.2 0 (p.1 + (if wide then (p.2.tbu.snap % 2 ^ 32) * 2 ^ 32 else 0))
    else if barOff s 0 then refuseRead s 0
    else if inFlr s 0 && linkOn s then reply s 0 0
    else s)

end Sys2Proof.Machine
end

