-- ==== Sys2Proof/Machine/Bar0.lean ====
section
/-! DEFINITION. BAR0 and the configuration fields: every register window of the PF and of a VF, its reads and its writes
(R4, R13, R15, R122 to R127, R134, R370, R574, R625, R712, R749, R794). -/

namespace Sys2Proof.Machine

/-! ### Function registers (Tables 3-5 to 3-7) -/

/-- HIU_DEV_STATUS (Table 3-6). -/
def devStatus (s : State) (fn : Nat) : Nat :=
  b2n s.host.fwReady + 2 * b2n (fn == 0 && (s.host.admin.enable || s.host.admin.draining)) + 4 * b2n s.host.updatePause +
  8 * b2n (fn == 0 && s.host.golden)

/-- HIU_FN_ERR (Table 3-7). -/
def fnErrWord (e : FnErr) : Nat :=
  b2n e.valid + 2 * b2n e.dbRange + 4 * b2n e.dbNoRing + 8 * b2n e.dbResv + 16 * b2n e.accessSize + 32 * b2n e.multi +
  2 ^ 16 * (e.slot % 1024)

/-- The W1C write of HIU_FN_ERR. -/
def clearFnErr (e : FnErr) (w : Nat) : FnErr :=
  { e with
    valid := e.valid && !bitOf w 0, dbRange := e.dbRange && !bitOf w 1, dbNoRing := e.dbNoRing && !bitOf w 2,
    dbResv := e.dbResv && !bitOf w 3, accessSize := e.accessSize && !bitOf w 4, multi := e.multi && !bitOf w 5 }

/-- Reads a function register (Table 3-5); HIU_FN_ERR_COUNT clears (R19). -/
def readFn (s : State) (fn off : Nat) : Nat × State :=
  let f := fnOf s fn
  let a := s.host.admin
  match off with
  | 0x000 => (fn % 256 + 256 * 0xB0, s)
  | 0x004 => (devStatus s fn, s)
  | 0x008 => (s.pmu.runImg.version % 2 ^ 24, s)
  | 0x00C => (slotCount fn, s)
  | 0x010 => (fnErrWord f.err, s)
  | 0x014 => (f.err.count, setFn s fn { f with err := { f.err with count := 0 } })
  | 0x040 => (if fn = 0 then a.sqBase % 2 ^ 32 else 0, s)
  | 0x044 => (if fn = 0 then a.sqBase / 2 ^ 32 else 0, s)
  | 0x048 => (if fn = 0 then a.cqBase % 2 ^ 32 else 0, s)
  | 0x04C => (if fn = 0 then a.cqBase / 2 ^ 32 else 0, s)
  | 0x050 => (if fn = 0 then a.log2 else 0, s)
  | 0x054 => (if fn = 0 then b2n a.enable else 0, s)
  | _ => (0, s)

/-- A 64-bit address with its low or its high half replaced; the low half is aligned to 4 KiB (Table 3-5). -/
def withLow (a w : Nat) : Nat := a / 2 ^ 32 * 2 ^ 32 + w / 4096 * 4096
def withHigh (a w : Nat) : Nat := a % 2 ^ 32 + w * 2 ^ 32

/-- A write of an admin ring register but CTRL: discarded while ENABLE is 1 or ring 0 drains (R127). -/
def writeAdmin (a : AdminRegs) (off w : Nat) : AdminRegs :=
  if a.enable || a.draining then a
  else match off with
    | 0x040 => { a with sqBase := withLow a.sqBase w }
    | 0x044 => { a with sqBase := withHigh a.sqBase w }
    | 0x048 => { a with cqBase := withLow a.cqBase w }
    | 0x04C => { a with cqBase := withHigh a.cqBase w }
    | 0x050 => if 6 ≤ w % 16 ∧ w % 16 ≤ 12 then { a with log2 := w % 16 } else a
    | _ => a

/-- Writes a function register. -/
def writeFn (s : State) (fn off : Nat) (v : Word) : State :=
  let w := v.toNat
  let f := fnOf s fn
  match off with
  | 0x010 => setFn s fn { f with err := clearFnErr f.err w }
  | 0x054 => if fn ≠ 0 then s else if bitOf w 0 then adminOn s else adminOff s
  | _ => if fn = 0 then { s with host.admin := writeAdmin s.host.admin off w } else s

/-! ### MSI-X table and PBA (R134, R136) -/

/-- Reads a word of an MSI-X table entry. -/
def readVec (m : MsixVec) (w : Nat) : Nat :=
  match w with
  | 0 => m.addr.toNat % 2 ^ 32
  | 1 => m.addr.toNat / 2 ^ 32
  | 2 => m.data.toNat
  | _ => b2n m.masked

/-- Writes a word of an MSI-X table entry; the address is a multiple of 4. -/
def writeVec (m : MsixVec) (w : Nat) (v : Word) : MsixVec :=
  match w with
  | 0 => { m with addr := BitVec.ofNat 64 (m.addr.toNat / 2 ^ 32 * 2 ^ 32 + v.toNat / 4 * 4) }
  | 1 => { m with addr := BitVec.ofNat 64 (m.addr.toNat % 2 ^ 32 + v.toNat * 2 ^ 32) }
  | 2 => { m with data := v }
  | _ => { m with masked := v.getLsbD 0 }

/-- A write of the MSI-X table; a mask bit that clears sends what is pending (R136). -/
def writeMsix (s : State) (fn vec w : Nat) (v : Word) : State :=
  let f := fnOf s fn
  flushPba (setFn s fn { f with msix := Tbl.put f.msix vec (writeVec (vecOf f vec) w v) }) fn

/-- A word of the PBA. -/
def pbaWord (f : FnState) (w : Nat) : Nat :=
  maskOf ((f.pba.filter fun v => v / 32 == w).map (· % 32))

/-! ### Session key windows (Tables 7-4, 7-5) -/

/-- A write of a session key window of the ring in a slot; without a ring it is discarded (R370, R371). -/
def writeSk (s : State) (fn slot off : Nat) (v : Word) : State :=
  match ringAt s fn slot with
  | none => s
  | some (n, r) =>
    if off < 0x20 then
      updSk s n fun k =>
        let m : BitVec 256 := BitVec.ofNat 256 ((2 ^ 32 - 1) <<< (8 * off))
        { k with stage := (k.stage &&& ~~~m) ||| BitVec.ofNat 256 (v.toNat <<< (8 * off)) }
    else if off = 0x20 then updSk s n fun k => { k with keyId := v.toNat }
    else if off = 0x24 then skCommit s n r v
    else s

/-! ### Event router (Tables 16-2, 16-3) -/

/-- EVR_ROUTE_e. -/
def routeWord (r : Route) : Nat :=
  r.vector + 2 ^ 12 * r.vfVec + 2 ^ 20 * r.holdUs + 2 ^ 28 * b2n r.owner + 2 ^ 29 * b2n r.smp + 2 ^ 31 * b2n r.en

/-- Vectors that a route may name: for a ring's event, those of its owner (Table 16-3). -/
def routeVectors (s : State) (e : Nat) : Nat :=
  if e < 1024 then (Tbl.get? s.rings.tbl e).elim 2048 fun r => vectorCount r.owner else 2048

/-- Reads an event router register. -/
def readEvr (s : State) (off : Nat) : Nat × State :=
  if off = 0 then (1536 + 2 ^ 16, s)
  else if off = 4 then (s.evr.unrouted, { s with evr.unrouted := 0 })
  else if 0x1000 ≤ off ∧ off < 0x1000 + 4 * 1536 then (routeWord (routeOf s ((off - 0x1000) / 4)), s)
  else if 0x3080 ≤ off ∧ off < 0x30C0 then
    (maskOf ((s.evr.raised.filter fun e => e / 32 == (off - 0x3000) / 4).map (· % 32)), s)
  else if 0x5000 ≤ off ∧ off < 0x5800 then
    let e := (off - 0x4000) / 4
    ((Tbl.get? s.evr.counts e).getD 0, { s with evr.counts := Tbl.put s.evr.counts e 0 })
  else (0, s)

/-- A write of EVR_ROUTE_e: a vector out of range keeps its old value (R15); a shorter holdoff ends a running one sooner (R822). -/
def writeRoute (s : State) (e w : Nat) : State :=
  let old := routeOf s e
  let ring := decide (e < 1024)
  let r : Route := {
    vector := if w % 2048 < routeVectors s e then w % 2048 else old.vector,
    vfVec := if ring then 0 else bitsOf w 12 6, holdUs := bitsOf w 20 8,
    owner := !ring && bitOf w 28, smp := !ring && bitOf w 29, en := bitOf w 31 }
  let h := if r.holdUs < old.holdUs then
      Tbl.upd s.rings.holdoff e fun p => (min p.1 (now s + r.holdUs * usTicks), p.2)
    else s.rings.holdoff
  { s with evr.routes := Tbl.put s.evr.routes e r, rings.holdoff := h }

/-- Writes an event router register. -/
def writeEvr (s : State) (off : Nat) (v : Word) : State :=
  if 0x1000 ≤ off ∧ off < 0x1000 + 4 * 1536 then writeRoute s ((off - 0x1000) / 4) v.toNat
  else if 0x3080 ≤ off ∧ off < 0x30C0 then
    { s with evr.raised := s.evr.raised.filter fun e => !(e / 32 == (off - 0x3000) / 4 && bitOf v.toNat (e % 32)) }
  else s

/-! ### Auxiliary copy engine (Tables 12-3 to 12-6) -/

/-- STATE of ACE_CH_c_STATUS. -/
def AceSt.code (a : AceSt) : Nat :=
  match a with
  | .idle => 0
  | .armed => 1
  | .running => 2
  | .done => 3
  | .halted => 4

/-- ACE_CH_c_STATUS (Table 12-6); HOST_WAIT while the channel's host bursts wait (R622). -/
def aceStatus (s : State) (a : Ace) : Nat :=
  a.st.code + 8 * b2n a.pending + 16 * a.err + 128 * b2n a.domain +
  256 * b2n (a.st == .running && usesHost a && !busMaster s 0) + 2 ^ 16 * (a.iterDone % 65536)

/-- A mask of the channels in a state. -/
def aceMask (s : State) (p : Ace → Bool) : Nat := maskOf ((s.ace.ch.filter fun e => p e.2).map (·.1))

/-- Reads a register of channel `c`. -/
def readAceCh (s : State) (c r : Nat) : Nat × State :=
  let a := aceOf s c
  match r with
  | 0x04 => (a.cfg.toNat, s)
  | 0x08 => (a.trig.toNat, s)
  | 0x0C => (a.iter, s)
  | 0x10 => (a.src % 2 ^ 32, s)
  | 0x14 => (a.src / 2 ^ 32, s)
  | 0x18 => (a.dst % 2 ^ 32, s)
  | 0x1C => (a.dst / 2 ^ 32, s)
  | 0x20 => (a.len, s)
  | 0x24 => (aceStatus s a, s)
  | 0x28 => (a.doneBytes, s)
  | 0x2C => (a.overrun + 2 ^ 16 * a.retries, setAce s c { a with overrun := 0, retries := 0 })
  | 0x30 => (a.dstPos % 2 ^ 32, s)
  | _ => (0, s)

/-- Reads an ACE register, with the gate open. -/
def readAce (s : State) (off : Nat) : Nat × State :=
  match off with
  | 0x00 => (32 + 256 + 2 ^ 16 * (Config.aceWinMib % 2 ^ 16), s)
  | 0x04 => (maskOf s.ace.own, s)
  | 0x08 => (aceMask s aceLive, s)
  | 0x0C => (aceMask s fun a => a.st == .halted, s)
  | 0x10 => (s.ace.ownViol, { s with ace.ownViol := 0 })
  | _ => if 0x1000 ≤ off ∧ off < 0x1000 + 0x40 * 32 then readAceCh s ((off - 0x1000) / 0x40) ((off - 0x1000) % 0x40) else (0, s)

/-- A field as a write leaves it: a reserved encoding keeps the old value (R15). -/
def keepField (old w lo n : Nat) (ok : Nat → Bool) : Nat :=
  (if ok (bitsOf w lo n) then bitsOf w lo n else bitsOf old lo n) * 2 ^ lo

/-- ACE_CH_c_CFG after a write (Table 12-5). -/
def cfgAfter (old w : Nat) : Nat :=
  keepField old w 0 2 (· ≤ 1) + keepField old w 2 2 (· ≤ 2) + keepField old w 4 2 (· ≤ 2) + bitsOf w 6 2 * 2 ^ 6 +
  keepField old w 8 2 (· ≤ 2) + keepField old w 10 2 (· ≤ 2) + keepField old w 12 5 (fun x => 12 ≤ x && x ≤ 30) +
  bitsOf w 17 8 * 2 ^ 17

/-- A configuration register of a channel after a write. -/
def aceAfter (a : Ace) (r w : Nat) : Ace :=
  match r with
  | 0x04 => { a with cfg := BitVec.ofNat 32 (cfgAfter a.cfg.toNat w) }
  | 0x08 => { a with trig := BitVec.ofNat 32 (keepField a.trig.toNat w 0 8 selOk + keepField a.trig.toNat w 8 8 selOk) }
  | 0x0C => { a with iter := w % 2 ^ 16 }
  | 0x10 => { a with src := a.src / 2 ^ 32 * 2 ^ 32 + w }
  | 0x14 => { a with src := withHigh a.src w }
  | 0x18 => { a with dst := a.dst / 2 ^ 32 * 2 ^ 32 + w }
  | 0x1C => { a with dst := withHigh a.dst w }
  | 0x20 => { a with len := w % 2 ^ 25 }
  | _ => a

/-- A write of ACE_CH_c_CTRL: DISARM first, ARM second, GO third (Table 12-4). -/
def aceCtrl (w : Nat) (s : State) (c : Nat) : State :=
  let s := if bitOf w 1 then disarmChannel s c else s
  let s := if bitOf w 0 then armChannel s c else s
  if bitOf w 2 then goChannel s c else s

/-- Writes an ACE register for an originator: refused by gate 13 (R747), discarded and counted on a held channel (R627), and
discarded but for CTRL while ARMED or RUNNING (R626). -/
def writeAce (s : State) (origin off : Nat) (v : Word) : State :=
  let c := (off - 0x1000) / 0x40
  let r := (off - 0x1000) % 0x40
  if (gateOf s 13).st ≠ 0 then refusePosted s 13 origin
  else if off < 0x1000 ∨ 0x1000 + 0x40 * 32 ≤ off ∨ 0x20 < r then s
  else if r = 0 then ctrlWrite s c origin (aceCtrl v.toNat)
  else if aceHeld s c then { s with ace.ownViol := satAdd 32 s.ace.ownViol 1 }
  else if aceLive (aceOf s c) then s
  else setAce s c (aceAfter (aceOf s c) r v.toNat)

/-! ### Time base (Tables 14-3, 14-4) -/

/-- PPS state as TBU_STATUS shows it. -/
def PpsSt.code (p : PpsSt) : Nat :=
  match p with
  | .free => 0
  | .acquiring => 1
  | .locked => 2
  | .holdover => 3

/-- TBU_CFG (Table 14-4). -/
def tbuCfg (u : Tbu) : Nat := b2n u.ppsEn + 2 * b2n u.manual + 4 * b2n u.outEn + 8 * u.shift

/-- TBU_STATUS; the level of PPS_IN at that instant is a free value. -/
def tbuStatus (s : State) : Nat × State :=
  let p := drawFree s
  (s.tbu.pps.code + 4 * (Config.freeValue p.1 % 2) + 8 * b2n (s.tbu.slew != 0), p.2)

/-- Reads a pacing timer's register. -/
def readTimer (s : State) (k : Nat) (isCtrl : Bool) : Nat :=
  let x := timerOf s k
  if isCtrl then b2n x.en + 2 * b2n x.align + 4 * b2n x.cfgErr + 2 ^ 16 * x.skipped else x.period

/-- Reads an alarm's register. -/
def readAlarm (s : State) (a r : Nat) : Nat :=
  let x := alarmOf s a
  match r with
  | 0 => x.sec % 2 ^ 32
  | 4 => x.sec / 2 ^ 32
  | 8 => x.ns
  | _ => b2n x.en + 2 * b2n x.fired

/-- Reads a time base register. -/
def readTbu (s : State) (off : Nat) : Nat × State :=
  let u := s.tbu
  match off with
  | 0x000 => readTime s
  | 0x004 => (u.snap % 2 ^ 32, s)
  | 0x008 => (u.snap / 2 ^ 32, s)
  | 0x00C => tbuStatus s
  | 0x010 => (tbuCfg u, s)
  | 0x014 => (u.win, s)
  | 0x018 => (twos 32 u.cable, s)
  | 0x01C => (twos 32 u.f, s)
  | 0x020 => (twos 32 u.lastOff, s)
  | 0x024 => (twos 32 u.outOff, s)
  | 0x028 => (u.outWidth, s)
  | 0x030 => (u.accepted, { s with tbu.accepted := 0 })
  | 0x034 => (u.outWin, { s with tbu.outWin := 0 })
  | 0x038 => (u.dups, { s with tbu.dups := 0 })
  | 0x03C => (u.steps, { s with tbu.steps := 0 })
  | 0x040 => (u.holdovers, { s with tbu.holdovers := 0 })
  | _ =>
    if 0x100 ≤ off ∧ off < 0x180 then (readTimer s ((off - 0x100) / 8) (off % 8 == 4), s)
    else if 0x200 ≤ off ∧ off < 0x240 then (readAlarm s ((off - 0x200) / 16) (off % 16), s)
    else (0, s)

/-- A write of an alarm's time; a value out of range leaves it (R723). -/
def writeAlarmTime (s : State) (a r w : Nat) : State :=
  let x := alarmOf s a
  let y := match r with
    | 0 => { x with sec := x.sec / 2 ^ 32 * 2 ^ 32 + w }
    | 4 => { x with sec := x.sec % 2 ^ 32 + w % 2 ^ 16 * 2 ^ 32 }
    | _ => if w % 2 ^ 30 % 4 = 0 ∧ w % 2 ^ 30 < 1000000000 then { x with ns := w % 2 ^ 30 } else x
  { s with tbu.alarms := Tbl.put s.tbu.alarms a y }

/-- Writes a time base register; a value out of range leaves it (R723). -/
def writeTbu (s : State) (off : Nat) (v : Word) : State :=
  let w := v.toNat
  let i := signed 32 w
  match off with
  | 0x010 => writeTbuCfg s v
  | 0x014 => if 1 ≤ w ∧ w ≤ 400000 then { s with tbu.win := w } else s
  | 0x018 => if |i| ≤ 1000000 ∧ i % 4 = 0 then { s with tbu.cable := i } else s
  | 0x01C => if s.tbu.manual ∧ |i| ≤ 200000 then { s with tbu.f := i } else s
  | 0x024 => if -500000000 ≤ i ∧ i ≤ 499999996 ∧ i % 4 = 0 then { s with tbu.outOff := i } else s
  | 0x028 => if 1 ≤ w ∧ w ≤ 500 then { s with tbu.outWidth := w } else s
  | _ =>
    if 0x100 ≤ off ∧ off < 0x180 then writeTimer s ((off - 0x100) / 8) (off % 8 == 4) v
    else if 0x200 ≤ off ∧ off < 0x240 then
      if off % 16 = 12 then writeAlarm s ((off - 0x200) / 16) v else writeAlarmTime s ((off - 0x200) / 16) (off % 16) w
    else s

/-! ### Gates (Tables 15-8, 15-9) -/

/-- GATE_k_STATUS (Table 15-9). -/
def gateStatus (g : Gate) : Nat := g.st + 4 * b2n g.forced + 2 ^ 16 * min g.drain 65535

/-- Reads a gate register. -/
def readGate (s : State) (off : Nat) : Nat × State :=
  let k := (off - 0x100) / 16
  let g := gateOf s k
  if off = 0 then (maskOf ((s.pmu.gates.filter fun p => p.2.st != 0).map (·.1)), s)
  else if off = 4 then (maskOf s.pmu.gateEvt, s)
  else if off < 0x100 ∨ 0x1F0 ≤ off then (0, s)
  else match off % 16 with
    | 0 => (gateStatus g, s)
    | 4 => (g.closes, setGate s k { g with closes := 0 })
    | 8 => (g.refused, setGate s k { g with refused := 0 })
    | _ => (g.origin, s)

/-- Writes a gate register: GATE_EVT is W1C. -/
def writeGate (s : State) (off : Nat) (v : Word) : State :=
  if off = 4 then { s with pmu.gateEvt := s.pmu.gateEvt.filter fun k => !bitOf v.toNat k } else s

/-! ### Write inhibit (Tables 11-5 to 11-7) -/

/-- The values that WI_CFG reads: the last stored, in force or waiting for a frame edge. -/
def wiCfgOf (w : Inhibit) : Nat × Nat × Nat × Nat := w.cfgNext.getD (w.pesLimit, w.pesCount, w.lostFrames, w.wclkTol)

/-- WI_CFG. -/
def wiCfgWord (w : Inhibit) : Nat :=
  let c := wiCfgOf w
  c.1 + 2 ^ 10 * c.2.1 + 2 ^ 14 * c.2.2.1 + 2 ^ 18 * c.2.2.2

/-- WI_CFG after a write: reserved encodings keep the old field; the values apply from the next frame edge (Table 11-6). -/
def wiCfgAfter (x : Inhibit) (w : Nat) : Inhibit :=
  let c := wiCfgOf x
  let pick (v old lo hi : Nat) : Nat := if lo ≤ v ∧ v ≤ hi then v else old
  { x with cfgNext := some (pick (bitsOf w 0 10) c.1 40 1000, pick (bitsOf w 10 4) c.2.1 1 15,
      pick (bitsOf w 14 4) c.2.2.1 1 15, pick (bitsOf w 18 12) c.2.2.2 10 4000) }

/-- Reads a write-inhibit register of transport `t`. -/
def readWi (s : State) (t r : Nat) : Nat :=
  match xpOf s t with
  | none => 0
  | some x =>
    let w := (lateReq s x).wi
    match r with
    | 0x00 => wiCfgWord w
    | 0x04 => b2n w.force
    | 0x08 => wiStatus w
    | 0x0C => w.cause.toNat
    | 0x10 => w.episodes
    | 0x14 => twos 16 w.pes
    | _ => if 0x20 ≤ r ∧ r < 0x38 then (Tbl.get? w.counts ((r - 0x20) / 4)).getD 0 else 0

/-- Writes a write-inhibit register of transport `t`. -/
def writeWi (s : State) (t r : Nat) (v : Word) : State :=
  match r with
  | 0x00 => updXp s t fun x => { x with wi := wiCfgAfter x.wi v.toNat }
  | 0x04 => setForce s t (v.getLsbD 0)
  | 0x0C => writeCause s t v
  | _ => s

/-! ### The device windows of the PF -/

/-- Does the offset lie in the ACE window, behind gate 13 (R748)? -/
def inAce (off : Nat) : Bool := decide (0x110000 ≤ off ∧ off < 0x120000)

/-- Reads a device window of the PF (Table 3-3). A closing or closed gate 13 answers an ACE read with zero (R744, R748). -/
def readDev (s : State) (off : Nat) : Nat × State :=
  if off < 0x100000 then (0, s)
  else if off < 0x110000 then readEvr s (off - 0x100000)
  else if off < 0x120000 then
    if (gateOf s 13).st ≠ 0 then
      (0, setGate s 13 { gateOf s 13 with refused := satAdd 32 (gateOf s 13).refused 1 })
    else readAce s (off - 0x110000)
  else if off < 0x121000 then readTbu s (off - 0x120000)
  else if 0x130000 ≤ off ∧ off < 0x131000 then readGate s (off - 0x130000)
  else if 0x140000 ≤ off ∧ off < 0x141000 then (readWi s ((off - 0x140000) / 0x400) ((off - 0x140000) % 0x400), s)
  else (0, s)

/-- Writes a device window of the PF for an originator (0x20 host, 0x21 SMP). -/
def writeDev (s : State) (origin off : Nat) (v : Word) : State :=
  if off < 0x100000 then s
  else if off < 0x110000 then writeEvr s (off - 0x100000) v
  else if off < 0x120000 then writeAce s origin (off - 0x110000) v
  else if off < 0x121000 then writeTbu s (off - 0x120000) v
  else if 0x130000 ≤ off ∧ off < 0x131000 then writeGate s (off - 0x130000) v
  else if 0x140000 ≤ off ∧ off < 0x141000 then writeWi s ((off - 0x140000) / 0x400) ((off - 0x140000) % 0x400) v
  else s

/-! ### BAR0 of a function (Tables 3-3, 3-4) -/

/-- Size of BAR0 (Table 3-2). -/
def barSize (fn : Nat) : Nat := if fn = 0 then 2 ^ 24 else 2 ^ 16

/-- Where the MSI-X table, the PBA and the session key windows of a function begin. -/
def msixBase (fn : Nat) : Nat := if fn = 0 then 0x4000 else 0x2000
def pbaBase (fn : Nat) : Nat := if fn = 0 then 0xC000 else 0x3000
def skBase (fn : Nat) : Nat := if fn = 0 then 0x10000 else 0x4000

/-- Is the offset in the session key windows (R125, R407)? -/
def inSk (fn off : Nat) : Bool := decide (skBase fn ≤ off ∧ off < skBase fn + 256 * slotCount fn)

/-- One aligned 4-byte read of BAR0. -/
def readBar0 (s : State) (fn off : Nat) : Nat × State :=
  if off < 0x1000 then readFn s fn off
  else if msixBase fn ≤ off ∧ off < msixBase fn + 16 * vectorCount fn then
    (readVec (vecOf (fnOf s fn) ((off - msixBase fn) / 16)) ((off - msixBase fn) % 16 / 4), s)
  else if pbaBase fn ≤ off ∧ off < pbaBase fn + vectorCount fn / 8 then (pbaWord (fnOf s fn) ((off - pbaBase fn) / 4), s)
  else if fn = 0 then readDev s off
  else (0, s)

/-- One aligned 4-byte host write of BAR0. -/
def writeBar0 (s : State) (fn off : Nat) (v : Word) : State :=
  if off < 0x1000 then writeFn s fn off v
  else if off < 0x1000 + 8 * slotCount fn then doorbell s fn ((off - 0x1000) / 8) (off % 8 == 0) v
  else if msixBase fn ≤ off ∧ off < msixBase fn + 16 * vectorCount fn then
    writeMsix s fn ((off - msixBase fn) / 16) ((off - msixBase fn) % 16 / 4) v
  else if inSk fn off then writeSk s fn ((off - skBase fn) / 256) ((off - skBase fn) % 256) v
  else if fn = 0 then writeDev s 0x20 off v
  else s

/-- Is an access of R124's sizes and alignments? -/
def accessOk (off size : Nat) : Bool := (size == 4 && off % 4 == 0) || (size == 8 && off % 8 == 0)

/-- A host write of BAR0: two 4-byte writes for 8 bytes, lower address first, but a doorbell slot takes its head first (R124, R131);
another size or alignment sets ACCESS_SIZE. -/
def hostWrite (s : State) (fn off size : Nat) (v : BitVec 64) : State :=
  let lo := v.setWidth 32
  let hi := (v >>> 32).setWidth 32
  if !accessOk off size then recordFnErr s fn false false false true 0
  else if size = 4 then writeBar0 s fn off lo
  else if 0x1000 ≤ off ∧ off < 0x1000 + 8 * slotCount fn then writeBar0 (writeBar0 s fn (off + 4) hi) fn off lo
  else writeBar0 (writeBar0 s fn off lo) fn (off + 4) hi

/-- A write to BAR0 as the host sends it: dropped with an Unsupported Request, discarded when poisoned or with an ECRC error, else
applied (Table 3-10). A session key window takes writes in Lull-2 too (R407). -/
def barWrite (s : State) (fn off size : Nat) (v : BitVec 64) (poisoned ecrc : Bool) : State :=
  if barSize fn ≤ off then s
  else if barOff s fn then logUnc s fn aerUnsupported
  else if !hostReach s fn && !(inSk fn off && windowReach s fn) then s
  else if ecrc then logUnc s fn aerEcrc
  else if poisoned then logUnc s fn aerPoisoned
  else hostWrite s fn off size v

/-! ### Configuration fields (R111 to R116, R136, R154, R157) -/

/-- A write of a configuration field that has no row of its own. -/
def writeCfg (s : State) (fn : Nat) (f : CfgField) (v : Nat) : State :=
  let on := bitOf v 0
  let x := fnOf s fn
  match f with
  | .memSpaceEnable => if fn = 0 then { s with host.memEn := on } else s
  | .msixEnable => flushPba (setFn s fn { x with msixEn := on }) fn
  | .functionMask => flushPba (setFn s fn { x with fnMask := on }) fn
  | .relaxedOrdering => setFn s fn { x with relaxed := on }
  | .extendedTag => setFn s fn { x with extTag := on }
  | .tenBitTag => setFn s fn { x with tenBit := on }
  | .numVfs => if fn = 0 ∧ !s.host.vfEn then { s with host.numVfs := v % 65536 } else s
  | .ariCapable => if fn = 0 ∧ !s.host.vfEn then { s with host.ari := on } else s
  | .vfMse => if fn = 0 then { s with host.vfMse := on } else s
  | .pasidEnable =>
    if fn ≠ 0 then s else if s.host.pasidEn && !on then pasidLost { s with host.pasidEn := on } else { s with host.pasidEn := on }

/-- A write of an AER register: status bits clear where 1 is written, masks and severities are stored (R110, R150). -/
def writeAer (s : State) (fn : Nat) (r : AerReg) (v : Word) : State :=
  let f := fnOf s fn
  let a := f.aer
  setFn s fn { f with aer := match r with
    | .uncStatus => { a with unc := a.unc &&& ~~~v }
    | .uncMask => { a with uncMask := v }
    | .uncSeverity => { a with uncSev := v }
    | .corStatus => { a with cor := a.cor &&& ~~~v }
    | .corMask => { a with corMask := v } }

/-- An error that HIU finds on the bus: link errors and its own are logged in the PF, others in the function addressed. A corrected
internal error is a single-bit error of an HIU buffer (R422); an Unexpected Completion is advisory (Table 3-10). -/
def busError (s : State) (fn : Nat) (e : BusErr) : State :=
  match e with
  | .receiverError => logCor s 0 0
  | .badTlp => logCor s 0 6
  | .badDllp => logCor s 0 7
  | .replayRollover => logCor s 0 8
  | .replayTimeout => logCor s 0 12
  | .correctedInternal => logCor { s with flt.sramCorr := satAdd 64 s.flt.sramCorr 1 } 0 14
  | .unexpectedCompletion => logCor (logUnc s fn 16) fn 13
  | .unsupportedPosted => logUnc s fn aerUnsupported
  | .unsupportedRequest => refuseRead s fn
  | .prefixBlocked => logUnc s fn 25

/-- REGISTER_WRITE: a write that no other row names stores or clears fields by their access codes (R4), or is in error (R150). -/
def execRegisterWrite (fn : Nat) (t : RegTarget) (s : State) : Answer :=
  match t with
  | .bar0 off size v p ecrc => .next (barWrite s fn off size v p ecrc)
  | .cfg f v => .next (cfgDo s fn (writeCfg s fn f v))
  | .aer r v => .next (cfgDo s fn (writeAer s fn r v))
  | .bus e => .next (if linkOn s && fnEnabled s fn then busError s fn e else s)

/-! ### Reads (R19, R111, R124, R154) -/

/-- An AER register. -/
def aerWord (a : Aer) (r : AerReg) : Nat :=
  match r with
  | .uncStatus => a.unc.toNat
  | .uncMask => a.uncMask.toNat
  | .uncSeverity => a.uncSev.toNat
  | .corStatus => a.cor.toNat
  | .corMask => a.corMask.toNat

/-- The half of a log register. -/
def half64 (v : BitVec 128) (high : Bool) : Nat := if high then v.toNat / 2 ^ 64 else v.toNat % 2 ^ 64

/-- A configuration field as it reads back; the fields of the PF alone are zero on a VF, and so is its Memory Space Enable (R154). -/
def fieldValue (s : State) (fn : Nat) (f : CfgField) : Nat :=
  let x := fnOf s fn
  let pf (v : Nat) : Nat := if fn = 0 then v else 0
  match f with
  | .memSpaceEnable => pf (b2n s.host.memEn)
  | .msixEnable => b2n x.msixEn
  | .functionMask => b2n x.fnMask
  | .relaxedOrdering => b2n x.relaxed
  | .extendedTag => b2n x.extTag
  | .tenBitTag => b2n x.tenBit
  | .numVfs => pf s.host.numVfs
  | .ariCapable => pf (b2n s.host.ari)
  | .vfMse => pf (b2n s.host.vfMse)
  | .pasidEnable => pf (b2n s.host.pasidEn)

/-- May the function have reads outstanding: some command of it still needs the host? Which reads have been answered at an instant
is left free (log entry 150). -/
def readsOut (s : State) (fn : Nat) : Bool := s.rings.cmds.any fun c => cmdFn s c == fn && c.done.isNone && needsHost c

/-- What an item of configuration space reads (Table 3-2). -/
def cfgValue (s : State) (fn : Nat) (i : CfgItem) : Nat :=
  let x := fnOf s fn
  let by_ (pf vf : Nat) : Nat := if fn = 0 then pf else vf
  match i with
  | .field f => fieldValue s fn f
  | .busMasterEnable => b2n x.bme
  | .powerState => 3 * b2n x.d3hot
  | .vfEnable => by_ (b2n s.host.vfEn) 0
  | .transactionsPending => if readsOut s fn then Config.freeValue s.clk.free % 2 else 0
  | .vendorId => by_ 0x1D8B 0xFFFF
  | .deviceId => by_ 0x4096 0xFFFF
  | .revisionId => 0xB0
  | .classCode => 0x018000
  | .subsystemVendorId => s.pmu.flash.subsys.1
  | .subsystemId => s.pmu.flash.subsys.2
  | .bar0Type => 4
  | .bar0Size => barSize fn
  | .interruptPin => 0
  | .maxPayload => 512
  | .aspmSupport => by_ 2 0
  | .l1ExitLatency => by_ 4 0
  | .l1Substates => by_ 3 0
  | .tPowerOn => by_ 40 0
  | .commonModeRestore => by_ 30 0
  | .timeoutRanges => 15
  | .timeoutDisable => 1
  | .noSoftReset => 1
  | .pmeSupport => by_ 0x18 0
  | .msixTableSize => vectorCount fn - 1
  | .msixTable => msixBase fn
  | .msixPba => pbaBase fn
  | .initialVfs => by_ 255 0
  | .totalVfs => by_ 255 0
  | .firstVfOffset => by_ 1 0
  | .vfStride => by_ 1 0
  | .vfDeviceId => by_ 0x4097 0
  | .pageSizes => by_ 0x1F 0
  | .vfMigration => 0
  | .ariNext => 0
  | .pasidWidth => by_ 20 0
  | .pasidCaps => 0
  | .serialNumber => Config.dieId
  | .aerStatus r => aerWord x.aer r
  | .aerFirst => x.aer.first
  | .aerHeader h => half64 x.aer.header h
  | .aerPrefix h => half64 x.aer.pfx h

/-- A configuration read: the item's value; the free value that it may show is used up. -/
def cfgRead (s : State) (fn : Nat) (i : CfgItem) : State :=
  reply { s with clk.free := s.clk.free + 1 } fn (cfgValue s fn i)

/-- A host read of BAR0: 4 bytes, or 8 as both halves stand at one instant, with the read side effects of each (R124); TBU_TIME_NS and
its snapshot of the seconds read as R713 says. -/
def hostRead (s : State) (fn off size : Nat) : State :=
  let p := readBar0 s fn off
  if size = 4 then reply p.2 fn p.1
  else
    let q := readBar0 (if fn = 0 ∧ off = 0x120000 then p.2 else s) fn (off + 4)
    reply (readBar0 p.2 fn (off + 4)).2 fn (p.1 + 2 ^ 32 * q.1)

/-- A read of BAR0 as the host sends it: an Unsupported Request with memory space off (R154), zero during an FLR (Table 3-9), Completer
Abort for another size or alignment (R124). -/
def barRead (s : State) (fn off size : Nat) : State :=
  if barSize fn ≤ off then s
  else if barOff s fn then refuseRead s fn
  else if inFlr s fn && linkOn s then reply s fn 0
  else if !hostReach s fn then s
  else if !accessOk off size then { s with out := .ca fn :: s.out }
  else hostRead s fn off size

/-- RC_REGISTER_READ: a host read of BAR0 returns its value, then clears RC fields (R19); a configuration read returns its item. -/
def execRcRegisterRead (fn : Nat) (t : ReadTarget) (s : State) : Answer :=
  match t with
  | .bar0 off size => .next (barRead s fn off size)
  | .cfg i => .next (cfgDo s fn (cfgRead s fn i))

end Sys2Proof.Machine
end

