-- ==== Sys2Proof/Machine/Smp.lean ====
section
/-! DEFINITION. The sideband management port, its mailbox and indirect access, and the peripheral serial ports (chapter 13). -/

namespace Sys2Proof.Machine

/-- The SMP answers SCK: out of reset, its supply good, not waiting for SMP_CS_N to rise (R688, R859). -/
def smpLive (s : State) : Bool := s.host.sysRst && !s.smp.blind && !s.smp.deaf

/-- Bits of SMP_ERR (Table 13-3). -/
def errPartial : Nat := 0
def errOverflow : Nat := 1
def errAbort : Nat := 2
def errBadPage : Nat := 3
def errGoBusy : Nat := 4
def errIndConfig : Nat := 5

/-- Sets bit `k` of SMP_ERR and counts it; a bit that newly sets raises SMP_ERR (Table 13-3, Table 16-1). -/
def setErr (s : State) (k : Nat) : State :=
  let was := s.smp.err.getLsbD k
  let s := { s with smp.err := s.smp.err ||| BitVec.ofNat 8 (2 ^ k), smp.errCount := satAdd 8 s.smp.errCount 1 }
  if was then s else raise s evSmpErr subjNone 0 0

/-- The address after `a` (R646). -/
def nextAddr (a : Nat) : Nat := if a = 0x7F ∨ a = 0x7E then 0 else a + 1

/-- Pages of Table 13-1. -/
def pageKnown (p : Nat) : Bool := p == 0 || p == 1 || (0x40 ≤ p && p ≤ 0x7F)

/-! ### Reads -/

/-- PSTATE; 3 after Shutdown (Table 13-3, R760). -/
def psCode (p : PState) : Nat :=
  match p with
  | .run => 0
  | .lull1 => 1
  | .lull2 => 2
  | .lull3 => 3
  | .waking => 4
  | .off => 3

/-- SMP_STATUS (Table 13-3). -/
def smpStatus (s : State) : Nat :=
  b2n s.host.fwReady + 2 * b2n s.host.golden + 4 * psCode s.pmu.ps + 32 * b2n (smpRb s) + 64 * b2n s.smp.mbxBusy +
  128 * b2n s.smp.indBusy

/-- Byte `i` of a word. -/
def wordByte {w : Nat} (v : BitVec w) (i : Nat) : Nat := fieldOf v i 1

/-- A register of page 0 (Table 13-2). -/
def readPage0 (s : State) (a : Nat) : Nat :=
  let m := s.smp
  match a with
  | 0x00 => 0x96
  | 0x01 => 0x40
  | 0x02 => 0xB0
  | 0x03 => 0x01
  | 0x04 => smpStatus s
  | 0x05 => m.err.toNat
  | 0x06 => m.errCount
  | 0x07 => m.attn.toNat
  | 0x08 => m.attnEn.toNat
  | 0x09 => m.straps.toNat
  | 0x0A => m.scratch.toNat
  | 0x19 => b2n m.indBusy + 2 * m.indErr
  | _ =>
    if 0x10 ≤ a ∧ a < 0x14 then wordByte m.indAddr (a - 0x10)
    else if 0x14 ≤ a ∧ a < 0x18 then wordByte m.indData (a - 0x14)
    else 0

/-- A byte of the mailbox page (Table 13-4). -/
def readMbxPage (s : State) (a : Nat) : Nat :=
  if a < 0x40 then wordByte s.smp.sqe a
  else if a < 0x50 then wordByte s.smp.cqe (a - 0x40)
  else if a = 0x51 then b2n s.smp.mbxBusy + 2 * b2n s.smp.mbxDone
  else 0

/-- What a read of an address of a page returns (R646, R652, R658). -/
def smpValue (s : State) (p a : Nat) : Nat :=
  if a = 0x7F then s.smp.page
  else if p = 0 then readPage0 s a
  else if p = 1 then readMbxPage s a
  else if 0x40 ≤ p ∧ p ≤ 0x7F ∧ a < 0x40 then leNat (getMbx s (64 * (p - 0x40) + a) 1)
  else 0

/-- ready(page, addr) of R648. -/
def smpReady (s : State) (p a : Nat) : Bool := !(p == 0 && decide (0x14 ≤ a ∧ a < 0x18) && s.smp.indBusy)

/-! ### Indirect access (R659 to R664) -/

/-- The offsets that an indirect access reaches (R660). -/
def indReach (write : Bool) (off : Nat) : Bool :=
  (!write && decide (off < 0x1000)) || decide (0x100000 ≤ off ∧ off < 0x141000)

/-- The end of an indirect access: the data of a read, zero on an error, BUSY clear, IND_DONE (R664). -/
def endInd (s : State) (write inc : Bool) (err v : Nat) : State :=
  let m := s.smp
  let s := { s with smp := { m with
    indBusy := false, indOp := none, indLost := false, indErr := err,
    indData := if write then m.indData else BitVec.ofNat 32 (if err = 0 then v else 0),
    indAddr := if err = 0 && inc then BitVec.ofNat 32 ((m.indAddr.toNat + 4) % 2 ^ 24) else m.indAddr } }
  startNotch (raiseAttn s 4)

/-- Starts an indirect access; one out of reach ends at once with RANGE (R660). -/
def startInd (s : State) (write inc : Bool) : State :=
  if indReach write s.smp.indAddr.toNat then
    { s with smp.indBusy := true, smp.indOp := some (write, inc), smp.indLost := false }
  else endInd s write inc 2 0

/-- A write of SMP_IND_CTRL (Table 13-3, R663). -/
def writeIndCtrl (s : State) (v : Nat) : State :=
  if s.smp.indBusy then setErr s errGoBusy
  else if 8 ≤ v ∨ bitOf v 0 = bitOf v 1 then setErr s errIndConfig
  else startInd s (bitOf v 1) (bitOf v 2)

/-- SMP_IND_READ: SMP_IND_CTRL written with READ. -/
def execSmpIndRead (inc : Bool) (s : State) : Answer :=
  .next (if smpLive s then writeIndCtrl s (1 + 4 * b2n inc) else s)

/-- SMP_IND_WRITE: SMP_IND_CTRL written with WRITE. -/
def execSmpIndWrite (inc : Bool) (s : State) : Answer :=
  .next (if smpLive s then writeIndCtrl s (2 + 4 * b2n inc) else s)

/-- SMP_IND_DONE: in Run, the access is performed as the host's would be and ends; gate 13 may close it out (R659 to R662). -/
def execSmpIndDone (s : State) : Answer :=
  match s.smp.indOp with
  | none => .next s
  | some (write, inc) =>
    let off := s.smp.indAddr.toNat
    if s.pmu.ps ≠ .run ∨ s.clk.frozen then .next s
    else if s.smp.indLost then .next (endInd s write inc 3 0)
    else if inAce off ∧ (gateOf s 13).st ≠ 0 then
      let s := if write then refusePosted s 13 0x21 else (readDev s off).2
      .next (endInd s write inc 1 0)
    else if write then .next (endInd (writeDev s 0x21 off s.smp.indData) write inc 0 0)
    else
      let p := readBar0 s 0 off
      .next (endInd p.2 write inc 0 p.1)

/-! ### The mailbox (R665 to R671) -/

/-- GO: the entry is copied and submitted; before FW_READY the SMP itself answers NOT_READY (R666 to R668). -/
def mailboxGo (s : State) : State :=
  if s.smp.mbxBusy then setErr s errGoBusy
  else
    let e := s.smp.sqe
    let s := { s with smp.mbxBusy := true, smp.mbxDone := false }
    if !s.host.fwReady then deliverMbx s (fieldOf e 2 2) (Compl.of 0x67)
    else startMbx { s with rings.cmds := s.rings.cmds ++ [{ newCmd s mbxId 0 0 e none with mailbox := true, prog := .ordered }] }

/-- MAILBOX_GO: SMP_MBX_CTRL written with GO. -/
def execMailboxGo (s : State) : Answer := .next (if smpLive s then mailboxGo s else s)

/-- MAILBOX_COMPLETE: the finished mailbox command delivers its completion (R670). -/
def execMailboxComplete (s : State) : Answer :=
  match cmdOf s mbxId with
  | some c => match c.done with
    | some k => .next (deliverMbx { s with rings.cmds := s.rings.cmds.filter fun x => x.id != mbxId } c.cid k)
    | none => .next s
  | none => .next s

/-! ### Writes -/

/-- A word with byte `i` replaced. -/
def putByte {w : Nat} (v : BitVec w) (i b : Nat) : BitVec w :=
  BitVec.ofNat w (v.toNat - (wordByte v i) * 2 ^ (8 * i) + b % 256 * 2 ^ (8 * i))

/-- A write of page 0 (Tables 13-2, 13-3, R663). -/
def writePage0 (s : State) (a : Nat) (b : Byte) : State :=
  match a with
  | 0x05 => { s with smp.err := s.smp.err &&& ~~~b }
  | 0x07 => setAttn s (s.smp.attn &&& ~~~b) s.smp.attnEn
  | 0x08 => setAttn s s.smp.attn (b &&& 0x0F)
  | 0x0A => { s with smp.scratch := b }
  | 0x18 => writeIndCtrl s b.toNat
  | _ =>
    if 0x10 ≤ a ∧ a < 0x18 then
      if s.smp.indBusy then setErr s errGoBusy
      else if a < 0x14 then { s with smp.indAddr := putByte s.smp.indAddr (a - 0x10) b.toNat &&& 0x00FFFFFC }
      else { s with smp.indData := putByte s.smp.indData (a - 0x14) b.toNat }
    else s

/-- commit(page, addr, byte) of R647 and R649: the byte is stored, and the side effect of the write starts. -/
def commit (s : State) (p a : Nat) (b : Byte) : State :=
  if a = 0x7F then { s with smp.page := b.toNat }
  else if p = 0 then writePage0 s a b
  else if p = 1 then
    if a < 0x40 then { s with smp.sqe := putByte s.smp.sqe a b.toNat }
    else if a = 0x50 ∧ b.getLsbD 0 then mailboxGo s
    else s
  else if 0x40 ≤ p ∧ p ≤ 0x7F then (if a < 0x40 then putMbx s (64 * (p - 0x40) + a) [b] else s)
  else setErr s errBadPage

/-- SMP_PAGE_WRITE: SMP_PAGE is written (R646). -/
def execSmpPageWrite (p : Byte) (s : State) : Answer := .next (if smpLive s then commit s s.smp.page 0x7F p else s)

/-! ### Transactions (R643 to R651, R686 to R688) -/

/-- SMP_CS_FALL: the mode is sampled and a transaction begins, with 0xB1 on SMP_SDO; a wake source (R643, R644, R647, R654). -/
def execSmpCsFall (sck : Bool) (s : State) : Answer :=
  if !s.host.sysRst then .next { s with smp.deaf := true }
  else if !smpLive s then .next s
  else .next (wake { s with smp := { s.smp with
    mode3 := sck, st := .cmd, wb := 0, waits := 0, sdo := some 0xB1, rcOut := false } } 4)

/-- The byte being sent has been shifted out in full: an RC byte clears (R650). -/
def byteOut (s : State) : State :=
  if s.smp.rcOut then { s with smp.rcOut := false, smp.errCount := 0 } else s

/-- SMP_CS_RISE, `bits` bits after the last whole byte: a partial byte is discarded and flagged, SMP_SDO is released (R644, R651,
R687). -/
def execSmpCsRise (bits : Nat) (s : State) : Answer :=
  if !smpLive s then .next (if s.host.sysRst then { s with smp.deaf := false } else s)
  else if s.smp.st = .idle then .next s
  else
    let s := if bits % 8 = 0 then byteOut s else setErr s errPartial
    .next { s with smp.st := .idle, smp.sdo := none, smp.rcOut := false }

/-- SMP_COMMAND_BYTE: bit 7 selects a read, bits 6..0 the start address (R645, R647). -/
def execSmpCommandByte (b : Byte) (s : State) : Answer :=
  .next (if smpLive s ∧ s.smp.st = .cmd then
      { s with smp.addr := b.toNat % 128, smp.st := if b.getLsbD 7 then .rwait else .wdata }
    else s)

/-- SMP_WRITE_BYTE: SMP_SDO says whether there is room; the byte is committed, or discarded after 64 (R647, R649). -/
def execSmpWriteByte (b : Byte) (s : State) : Answer :=
  if smpLive s ∧ s.smp.st = .wdata then
    if s.smp.wb < 64 then
      let a := s.smp.addr
      let s := commit { s with smp.sdo := some 0x4E } s.smp.page a b
      .next { s with smp.wb := s.smp.wb + 1, smp.addr := nextAddr a }
    else .next (setErr { s with smp.sdo := some 0xE7 } errOverflow)
  else .next s

/-- A data byte of a read: the register's value goes out; a reserved page is flagged (R647, R652). -/
def sendByte (s : State) : State :=
  let p := s.smp.page
  let a := s.smp.addr
  let s := if a ≠ 0x7F ∧ !pageKnown p then setErr s errBadPage else s
  { s with
    smp.sdo := some (BitVec.ofNat 8 (smpValue s p a)), smp.rcOut := p == 0 && a == 6, smp.addr := nextAddr a }

/-- SMP_READ_BYTE: at a byte start of a read, a wait byte, the start token, data or the abort token (R647, R648). -/
def execSmpReadByte (s : State) : Answer :=
  if !smpLive s then .next s
  else match s.smp.st with
    | .rwait =>
      if smpReady s s.smp.page s.smp.addr then .next { s with smp.sdo := some 0x4E, smp.st := .rdata }
      else if s.smp.waits = 256 then
        .next (setErr { s with smp.sdo := some 0xE7, smp.st := .rabort } errAbort)
      else .next { s with smp.sdo := some 0xB1, smp.waits := s.smp.waits + 1 }
    | .rdata => .next (sendByte (byteOut s))
    | .rabort => .next { s with smp.sdo := some 0xE7 }
    | _ => .next s

/-- ATTENTION_NOTCH_END: SMP_RB rises, or stays low for another reason; a notch that waits may follow (R656, R657). -/
def execAttentionNotchEnd (s : State) : Answer :=
  .next (if s.smp.notch then startNotch { s with smp.notch := false } else s)

/-! ### Peripheral ports (R678, R684, R685) -/

/-- The peripheral table key of transport `t`'s cartridge-memory reader (R587, R680). -/
def cmReaderKey (t : Nat) : Nat := 16 * (t / 2) + 6 * (t % 2) + 5

/-- Does firmware read the reader of transport `t` on an interrupt of its port (R678)? -/
def readerIrq (s : State) (t : Nat) : Bool :=
  (Tbl.get? s.smp.periph (cmReaderKey t)).elim false fun e => e.typ == 5 && bitOf e.proto 3

/-- One status read after PSPn_IRQ_N fell: the cartridge of a transport was inserted or removed (Table 16-1). A mounted cartridge
stays until UNMOUNT. -/
def applyChange (port : Nat) (s : State) (p : Nat × CartChange) : State :=
  match xpOf s p.1 with
  | none => s
  | some x =>
    let new := match p.2 with
      | .inserted c => if x.cart.isNone then some (some c) else none
      | .removed => if x.cart.isSome && x.mount.isNone then some none else none
    match new with
    | some c =>
      if p.1 / 2 = port then
        let s := updXp s p.1 fun x => { x with cart := c }
        if s.pmu.booted && readerIrq s p.1 then raise s (evXp p.1 9) subjXp p.1 0 else s
      else s
    | none => s

/-- The status reads of a port's IRQ peripherals; what a RAW frame of a status read holds is not stated: a free value (R678, R682). -/
def irqReads (s : State) (port : Nat) : State :=
  let (i, s) := drawFree s
  pspDone s port ((s.smp.periph.filter fun e => e.1 / 16 == port && bitOf e.2.proto 3).map fun e =>
    .psp port (e.1 % 16) (frameBytes ((e.2.frame + 7) / 8) (Config.freeValue i)))

/-- PSP_IRQ: PSPn_IRQ_N falls: a wake source, after which firmware reads the status of the port's IRQ peripherals (R678). -/
def execPspIrq (port : Nat) (changes : List (Nat × CartChange)) (s : State) : Answer :=
  .next (if s.host.sysRst ∧ port < 2 then
      wake (changes.foldl (applyChange port) (if s.pmu.booted then irqReads s port else s)) (6 + port)
    else s)

/-- Do two answers of a peer differ in FW_READY or PSTATE (R685)? -/
def peerDiffers (a b : Byte) : Bool := (a ^^^ b) &&& 0x1D != 0

/-- A peer answered with its SMP_STATUS (R685). -/
def notePeer (s : State) (k : Nat) (b : Byte) : State :=
  let old := Tbl.get? s.smp.peers k
  let s := { s with smp.peers := Tbl.put s.smp.peers k (some b) }
  match old with
  | some (some a) => if peerDiffers a b then raise s evPeer subjNone 0 k else s
  | _ => s

/-- A KEARAD transaction failed: its first retry follows after 10 µs (R684, Table 16-4). -/
def peerFail (s : State) (k : Nat) : State :=
  countFault { s with smp.pspTry := Tbl.put s.smp.pspTry k (0, now s + 10 * usTicks) } 10 1 0 0 0

/-- A read of a peer's SMP_STATUS: command byte 0x84 on the peer's select (R645, R683, R685). -/
def peerRead (s : State) (k : Nat) : State := pspDone s (k / 16) [.psp (k / 16) (k % 16) [0x84]]

/-- Polls the peer in table entry `k`. -/
def pollPeer (answers : List (Nat × Option Byte)) (s : State) (k : Nat) : State :=
  if Tbl.has s.smp.pspTry k then s
  else match (answers.find? fun p => p.1 == k).map (·.2) with
    | some (some b) => notePeer (peerRead s k) k b
    | some none => peerFail (peerRead s k) k
    | none => s

/-- PEER_POLL: SMP_STATUS of every peer formatter is read; `answers` gives what each sent, by table entry (R685). -/
def execPeerPoll (answers : List (Nat × Option Byte)) (s : State) : Answer :=
  if s.host.sysRst ∧ s.pmu.booted ∧ s.pmu.ps = .run ∧ !s.clk.frozen then
    .next (((s.smp.periph.filter fun e => e.2.typ == 7).map (·.1)).foldl (pollPeer answers) s)
  else .next s

/-- The retries are spent: PERIPHERAL, a fault log entry, and PEER when the peer stopped answering (R684, R685, R797). -/
def peerLost (s : State) (k : Nat) : State :=
  let answered := ((Tbl.get? s.smp.peers k).getD none).isSome
  let s := { s with smp.pspTry := Tbl.del s.smp.pspTry k, smp.peers := Tbl.put s.smp.peers k none }
  let s := faultSpent s { FltLog.blank with cls := 10, event := evPeripheral, tries := 4, detail := k } subjNone 0
  if answered then raise s evPeer subjNone 0 k else s

/-- PERIPHERAL_RETRY: a failed transaction of a select is tried again, 10, 20 and 40 µs after each failure (R684, Table 16-4). -/
def execPeripheralRetry (dt port sel : Nat) (answer : Option Byte) (s : State) : Answer :=
  let s := advance s dt
  let k := 16 * port + sel
  match Tbl.get? s.smp.pspTry k with
  | none => .next s
  | some (n, due) =>
    if now s < due ∨ s.clk.frozen ∨ s.pmu.ps ≠ .run then .next s
    else
      let s := countFault (peerRead s k) 10 0 0 0 1
      match answer with
      | some b =>
        .next (notePeer (countFault { s with smp.pspTry := Tbl.del s.smp.pspTry k } 10 0 1 0 0) k b)
      | none =>
        if n < 2 then .next { s with smp.pspTry := Tbl.put s.smp.pspTry k (n + 1, now s + 10 * 2 ^ (n + 1) * usTicks) }
        else .next (peerLost s k)

end Sys2Proof.Machine
end

