-- ==== Sys2Proof/Machine/Dispatch.lean ====
section
/-! DEFINITION. One arm per command: the meaning it calls, or its rejection by name. -/

namespace Sys2Proof.Machine

def exec (i : Instr) (s : State) : Host.Outcome State Fault Refusal :=
  match i with
  | .identify id => Sys2Proof.Machine.execIdentify id s
  | .createRing id => Sys2Proof.Machine.execCreateRing id s
  | .createRingTagsFreed id => Sys2Proof.Machine.execCreateRingTagsFreed id s
  | .deleteRing id => Sys2Proof.Machine.execDeleteRing id s
  | .deleteRingDrained id => Sys2Proof.Machine.execDeleteRingDrained id s
  | .abort id => Sys2Proof.Machine.execAbort id s
  | .abortComplete id => Sys2Proof.Machine.execAbortComplete id s
  | .getLogPage id => Sys2Proof.Machine.execGetLogPage id s
  | .createContext id desc => Sys2Proof.Machine.execCreateContext id desc s
  | .modifyContext id desc => Sys2Proof.Machine.execModifyContext id desc s
  | .deleteContext id => Sys2Proof.Machine.execDeleteContext id s
  | .getContextStatus id => Sys2Proof.Machine.execGetContextStatus id s
  | .keyLoadWrapped id blob => Sys2Proof.Machine.execKeyLoadWrapped id blob s
  | .keyErase id => Sys2Proof.Machine.execKeyErase id s
  | .domainJoin id blk => Sys2Proof.Machine.execDomainJoin id blk s
  | .getDeviceCert id => Sys2Proof.Machine.execGetDeviceCert id s
  | .nonceStatus id => Sys2Proof.Machine.execNonceStatus id s
  | .mount id cmOk => Sys2Proof.Machine.execMount id cmOk s
  | .unmount id cmOk => Sys2Proof.Machine.execUnmount id cmOk s
  | .formatPartitions id specs => Sys2Proof.Machine.execFormatPartitions id specs s
  | .transportConfig id blk => Sys2Proof.Machine.execTransportConfig id blk s
  | .getTransportStatus id => Sys2Proof.Machine.execGetTransportStatus id s
  | .calibrate id passed => Sys2Proof.Machine.execCalibrate id passed s
  | .setTime id => Sys2Proof.Machine.execSetTime id s
  | .telemetryConfig id => Sys2Proof.Machine.execTelemetryConfig id s
  | .enterLull id => Sys2Proof.Machine.execEnterLull id s
  | .fwStage id img data => Sys2Proof.Machine.execFwStage id img data s
  | .fwActivate id verified => Sys2Proof.Machine.execFwActivate id verified s
  | .thermalConfig id => Sys2Proof.Machine.execThermalConfig id s
  | .fenceEngine id => Sys2Proof.Machine.execFenceEngine id s
  | .resetEngine id pass => Sys2Proof.Machine.execResetEngine id pass s
  | .setWatchdog id => Sys2Proof.Machine.execSetWatchdog id s
  | .getFaultLog id => Sys2Proof.Machine.execGetFaultLog id s
  | .retireBufferPage id copy => Sys2Proof.Machine.execRetireBufferPage id copy s
  | .laneDisable id => Sys2Proof.Machine.execLaneDisable id s
  | .openStream id => Sys2Proof.Machine.execOpenStream id s
  | .write id sgl => Sys2Proof.Machine.execWrite id sgl s
  | .writeBatch id descs sgls => Sys2Proof.Machine.execWriteBatch id descs sgls s
  | .flush id => Sys2Proof.Machine.execFlush id s
  | .sync id => Sys2Proof.Machine.execSync id s
  | .closeStream id => Sys2Proof.Machine.execCloseStream id s
  | .read id sgl => Sys2Proof.Machine.execRead id sgl s
  | .locate id => Sys2Proof.Machine.execLocate id s
  | .verifyScan id => Sys2Proof.Machine.execVerifyScan id s
  | .getPosition id => Sys2Proof.Machine.execGetPosition id s
  | .compress id inSgl outSgl => Sys2Proof.Machine.execCompress id inSgl outSgl s
  | .decompress id inSgl outSgl => Sys2Proof.Machine.execDecompress id inSgl outSgl s
  | .resume id ctx inSgl outSgl => Sys2Proof.Machine.execResume id ctx inSgl outSgl s
  | .serviceJobEnd id r => Sys2Proof.Machine.execServiceJobEnd id r s
  | .cryptBlock id engine inSgl outSgl input aad ivt => Sys2Proof.Machine.execCryptBlock id engine inSgl outSgl input aad ivt s
  | .sessionKeyClear id => Sys2Proof.Machine.execSessionKeyClear id s
  | .entryFetch ring entry batchLen => Sys2Proof.Machine.execEntryFetch ring entry batchLen s
  | .entryAdmit ring => Sys2Proof.Machine.execEntryAdmit ring s
  | .orderedStart id => Sys2Proof.Machine.execOrderedStart id s
  | .submissionDoorbell fn slot v => Sys2Proof.Machine.execSubmissionDoorbell fn slot v s
  | .completionDoorbell fn slot v => Sys2Proof.Machine.execCompletionDoorbell fn slot v s
  | .adminRingEnable => Sys2Proof.Machine.execAdminRingEnable s
  | .adminRingDisable => Sys2Proof.Machine.execAdminRingDisable s
  | .adminRingDrained => Sys2Proof.Machine.execAdminRingDrained s
  | .registerWrite fn t => Sys2Proof.Machine.execRegisterWrite fn t s
  | .flrInitiate fn => Sys2Proof.Machine.execFlrInitiate fn s
  | .vfEnableSet => Sys2Proof.Machine.execVfEnableSet s
  | .vfEnableClear => Sys2Proof.Machine.execVfEnableClear s
  | .busMasterDisable fn d3 => Sys2Proof.Machine.execBusMasterDisable fn d3 s
  | .busMasterEnable fn d0 => Sys2Proof.Machine.execBusMasterEnable fn d0 s
  | .msixUnmask fn vec => Sys2Proof.Machine.execMsixUnmask fn vec s
  | .holdoffEnd dt e => Sys2Proof.Machine.execHoldoffEnd dt e s
  | .perstFall => Sys2Proof.Machine.execPerstFall s
  | .perstRise => Sys2Proof.Machine.execPerstRise s
  | .crsWindowEnd dt => Sys2Proof.Machine.execCrsWindowEnd dt s
  | .linkUp => Sys2Proof.Machine.execLinkUp s
  | .linkDown err => Sys2Proof.Machine.execLinkDown err s
  | .ringEntryReadError ring cause => Sys2Proof.Machine.execRingEntryReadError ring cause s
  | .sysRstAssert => Sys2Proof.Machine.execSysRstAssert s
  | .sysRstRelease straps => Sys2Proof.Machine.execSysRstRelease straps s
  | .bootComplete trainA trainB => Sys2Proof.Machine.execBootComplete trainA trainB s
  | .startupCalibration t responds => Sys2Proof.Machine.execStartupCalibration t responds s
  | .recordIngest id label data => Sys2Proof.Machine.execRecordIngest id label data s
  | .recordCompress id ing coded => Sys2Proof.Machine.execRecordCompress id ing coded s
  | .recordSeal id engine => Sys2Proof.Machine.execRecordSeal id engine s
  | .checkBack id engine chk => Sys2Proof.Machine.execCheckBack id engine chk s
  | .recordPack id xfr lbl rows => Sys2Proof.Machine.execRecordPack id xfr lbl rows s
  | .flushWindowExpire dt t rows => Sys2Proof.Machine.execFlushWindowExpire dt t rows s
  | .codewordArrival lane cls y gaps => Sys2Proof.Machine.execCodewordArrival lane cls y gaps s
  | .syncWindowEnd lane found => Sys2Proof.Machine.execSyncWindowEnd lane found s
  | .decoderGrant d => Sys2Proof.Machine.execDecoderGrant d s
  | .decodeEnd d iters => Sys2Proof.Machine.execDecodeEnd d iters s
  | .datasetBoundary t => Sys2Proof.Machine.execDatasetBoundary t s
  | .cmUpdate t cmOk => Sys2Proof.Machine.execCmUpdate t cmOk s
  | .wrapTurnaround t => Sys2Proof.Machine.execWrapTurnaround t s
  | .speedMatchTick dt t => Sys2Proof.Machine.execSpeedMatchTick dt t s
  | .transportRestart t => Sys2Proof.Machine.execTransportRestart t s
  | .writePositionReturn t => Sys2Proof.Machine.execWritePositionReturn t s
  | .datasetRecover t ds => Sys2Proof.Machine.execDatasetRecover t ds s
  | .recordOpen id engine row xfr => Sys2Proof.Machine.execRecordOpen id engine row xfr s
  | .recordDecompress id egr => Sys2Proof.Machine.execRecordDecompress id egr s
  | .poolEvaluation dt => Sys2Proof.Machine.execPoolEvaluation dt s
  | .serviceDomainTick dt => Sys2Proof.Machine.execServiceDomainTick dt s
  | .watchdogExamine dt => Sys2Proof.Machine.execWatchdogExamine dt s
  | .servoFrame t a b wclkDev => Sys2Proof.Machine.execServoFrame t a b wclkDev s
  | .lposWord t ch syms => Sys2Proof.Machine.execLposWord t ch syms s
  | .servoLockLoss t ch => Sys2Proof.Machine.execServoLockLoss t ch s
  | .servoLossTimeout dt t => Sys2Proof.Machine.execServoLossTimeout dt t s
  | .velocityLoopTick t => Sys2Proof.Machine.execVelocityLoopTick t s
  | .tensionLoopTick t mn => Sys2Proof.Machine.execTensionLoopTick t mn s
  | .shockInput t widthNs => Sys2Proof.Machine.execShockInput t widthNs s
  | .writeFaultInput t widthNs => Sys2Proof.Machine.execWriteFaultInput t widthNs s
  | .forceInhibitWrite t v => Sys2Proof.Machine.execForceInhibitWrite t v s
  | .wiCauseWrite t v => Sys2Proof.Machine.execWiCauseWrite t v s
  | .dropoutEntry lane => Sys2Proof.Machine.execDropoutEntry lane s
  | .dropoutExit lane => Sys2Proof.Machine.execDropoutExit lane s
  | .aceArm c => Sys2Proof.Machine.execAceArm c s
  | .aceDisarm c => Sys2Proof.Machine.execAceDisarm c s
  | .aceGo c => Sys2Proof.Machine.execAceGo c s
  | .aceIterationComplete c data => Sys2Proof.Machine.execAceIterationComplete c data s
  | .aceBurstFail c doneBytes domainClosed err data => Sys2Proof.Machine.execAceBurstFail c doneBytes domainClosed err data s
  | .aceRetryWaitEnd dt c => Sys2Proof.Machine.execAceRetryWaitEnd dt c s
  | .smpCsFall sck => Sys2Proof.Machine.execSmpCsFall sck s
  | .smpCsRise bits => Sys2Proof.Machine.execSmpCsRise bits s
  | .smpCommandByte b => Sys2Proof.Machine.execSmpCommandByte b s
  | .smpWriteByte b => Sys2Proof.Machine.execSmpWriteByte b s
  | .smpReadByte => Sys2Proof.Machine.execSmpReadByte s
  | .smpPageWrite p => Sys2Proof.Machine.execSmpPageWrite p s
  | .smpIndRead inc => Sys2Proof.Machine.execSmpIndRead inc s
  | .smpIndWrite inc => Sys2Proof.Machine.execSmpIndWrite inc s
  | .smpIndDone => Sys2Proof.Machine.execSmpIndDone s
  | .mailboxGo => Sys2Proof.Machine.execMailboxGo s
  | .mailboxComplete => Sys2Proof.Machine.execMailboxComplete s
  | .attentionNotchEnd => Sys2Proof.Machine.execAttentionNotchEnd s
  | .pspIrq port changes => Sys2Proof.Machine.execPspIrq port changes s
  | .peerPoll answers => Sys2Proof.Machine.execPeerPoll answers s
  | .skCommitGo fn slot v => Sys2Proof.Machine.execSkCommitGo fn slot v s
  | .skCommitClear fn slot v => Sys2Proof.Machine.execSkCommitClear fn slot v s
  | .nonceReserved => Sys2Proof.Machine.execNonceReserved s
  | .nonceJournalFail => Sys2Proof.Machine.execNonceJournalFail s
  | .nonceRetry dt => Sys2Proof.Machine.execNonceRetry dt s
  | .ppsEdge dt => Sys2Proof.Machine.execPpsEdge dt s
  | .slewEnd dt => Sys2Proof.Machine.execSlewEnd dt s
  | .ppsHoldover dt => Sys2Proof.Machine.execPpsHoldover dt s
  | .setTimeTimeout dt => Sys2Proof.Machine.execSetTimeTimeout dt s
  | .pacingTimerFire dt k => Sys2Proof.Machine.execPacingTimerFire dt k s
  | .secondBoundary dt => Sys2Proof.Machine.execSecondBoundary dt s
  | .alarmFire dt a => Sys2Proof.Machine.execAlarmFire dt a s
  | .ppsOutRise dt => Sys2Proof.Machine.execPpsOutRise dt s
  | .ppsOutFall dt => Sys2Proof.Machine.execPpsOutFall dt s
  | .tbuCfgWrite v => Sys2Proof.Machine.execTbuCfgWrite v s
  | .pacingTimerCtrlWrite k isCtrl v => Sys2Proof.Machine.execPacingTimerCtrlWrite k isCtrl v s
  | .alarmCtrlWrite a v => Sys2Proof.Machine.execAlarmCtrlWrite a v s
  | .tbuTimeRead wide => Sys2Proof.Machine.execTbuTimeRead wide s
  | .sysClkLoss => Sys2Proof.Machine.execSysClkLoss s
  | .lullQuiesced => Sys2Proof.Machine.execLullQuiesced s
  | .quiesceTimeout dt => Sys2Proof.Machine.execQuiesceTimeout dt s
  | .gateClosed dt k => Sys2Proof.Machine.execGateClosed dt k s
  | .gateForceClose dt k waiting => Sys2Proof.Machine.execGateForceClose dt k waiting s
  | .lullStateSaved => Sys2Proof.Machine.execLullStateSaved s
  | .hostLinkWake => Sys2Proof.Machine.execHostLinkWake s
  | .lullExitComplete dt digestOk => Sys2Proof.Machine.execLullExitComplete dt digestOk s
  | .engineDrained cls idx => Sys2Proof.Machine.execEngineDrained cls idx s
  | .engineDrainTimeout dt cls idx => Sys2Proof.Machine.execEngineDrainTimeout dt cls idx s
  | .thermalSample dt temps ext => Sys2Proof.Machine.execThermalSample dt temps ext s
  | .shutdownPowerOff dt => Sys2Proof.Machine.execShutdownPowerOff dt s
  | .pfailQualified => Sys2Proof.Machine.execPfailQualified s
  | .pfailRelease => Sys2Proof.Machine.execPfailRelease s
  | .selfTestPass => Sys2Proof.Machine.execSelfTestPass s
  | .selfTestFail => Sys2Proof.Machine.execSelfTestFail s
  | .selfTestTimeout dt => Sys2Proof.Machine.execSelfTestTimeout dt s
  | .flrComplete fn => Sys2Proof.Machine.execFlrComplete fn s
  | .rcRegisterRead fn t => Sys2Proof.Machine.execRcRegisterRead fn t s
  | .syncAcquired lane matchedPreamble preErrs markErrs => Sys2Proof.Machine.execSyncAcquired lane matchedPreamble preErrs markErrs s
  | .separatorDetected lane errs => Sys2Proof.Machine.execSeparatorDetected lane errs s
  | .shockCleared t => Sys2Proof.Machine.execShockCleared t s
  | .writeSegmentBoundary dt t rows => Sys2Proof.Machine.execWriteSegmentBoundary dt t rows s
  | .supplyOutOfRange rail => Sys2Proof.Machine.execSupplyOutOfRange rail s
  | .flashOperationEnd ok => Sys2Proof.Machine.execFlashOperationEnd ok s
  | .cmAccessRetry dt t ok => Sys2Proof.Machine.execCmAccessRetry dt t ok s
  | .peripheralRetry dt port sel answer => Sys2Proof.Machine.execPeripheralRetry dt port sel answer s
  | .wfltClearRetry dt t => Sys2Proof.Machine.execWfltClearRetry dt t s
  | .hostReadError id cause => Sys2Proof.Machine.execHostReadError id cause s

end Sys2Proof.Machine
end

