-- ==== Sys2Proof/Safety.lean ====
section
/-! DEFINITION. The terms in which claims speak: what a command finds when it starts, and the invariant that every step keeps. -/

namespace Sys2Proof.Machine

/-! ### Where a command stands -/

/-- Command `id`, with opcode `op`, has been consumed and not executed yet. -/
abbrev Started (s : State) (id op : Nat) (c : Cmd) : Prop :=
  cmdOf s id = some c ∧ c.opcode = op ∧ c.done = none ∧ c.prog = Prog.fresh

/-- Command `id`, with opcode `op`, waits between the occurrences of its row with progress `p`. -/
abbrev Waiting (s : State) (id op : Nat) (c : Cmd) (p : Prog) : Prop :=
  cmdOf s id = some c ∧ c.opcode = op ∧ c.done = none ∧ c.prog = p

/-- A mailbox command's structure lies inside the data area, or the host may be reached (R138, R669). -/
abbrev MayAnswer (s : State) (c : Cmd) (off len : Nat) : Prop :=
  if c.mailbox then c.fld off 8 + len ≤ 4096 else dataOk s c = true

/-- The command that a row executes, for the rows that execute a submission entry. -/
def executes (i : Instr) : Option Nat :=
  match i with
  | .identify id | .createRing id | .deleteRing id | .abort id | .getLogPage id | .createContext id ..
    | .modifyContext id .. | .deleteContext id | .getContextStatus id | .keyLoadWrapped id .. | .keyErase id
    | .domainJoin id .. | .getDeviceCert id | .nonceStatus id | .mount id .. | .unmount id ..
    | .formatPartitions id .. | .transportConfig id .. | .getTransportStatus id | .calibrate id .. | .setTime id
    | .telemetryConfig id | .enterLull id | .fwStage id .. | .fwActivate id .. | .thermalConfig id | .fenceEngine id
    | .resetEngine id .. | .setWatchdog id | .getFaultLog id | .retireBufferPage id _ | .laneDisable id
    | .openStream id | .write id .. | .writeBatch id .. | .flush id | .sync id | .closeStream id | .read id ..
    | .locate id | .verifyScan id | .getPosition id | .compress id .. | .decompress id .. | .resume id ..
    | .cryptBlock id .. | .sessionKeyClear id => some id
  | _ => none

/-! ### What a command may change -/

/-- The parts of the state, for claims about what a command leaves as it was. -/
inductive Part where
  /-- The queue of waiting commands. -/
  | queue
  /-- Ticks since reset, and whether the clock is lost. -/
  | time
  /-- The index of the next free value. -/
  | free
  /-- What the block sent. -/
  | outputs
  /-- The registers of the functions, but for their PBAs. -/
  | functions
  /-- SR-IOV and PF configuration, the admin ring registers. -/
  | config
  /-- Link, resets and boot status. -/
  | link
  /-- The rings. -/
  | rings
  /-- The commands in flight. -/
  | commands
  /-- Reserved ring numbers, the FLR log. -/
  | ringLog
  /-- Event routes, records, holdoffs, held events, PBAs, SMP attention. -/
  | events
  /-- Tenant contexts. -/
  | contexts
  /-- The fetch domains. -/
  | headwind
  /-- Tenant and operator key slots. -/
  | keySlots
  /-- The nonce counters and their journal. -/
  | nonces
  /-- The streams. -/
  | streams
  /-- The transports. -/
  | transports
  /-- The read lanes. -/
  | lanes
  /-- The decoder pool and the lane disable map. -/
  | pool
  /-- The service jobs. -/
  | jobs
  /-- The ACE channels. -/
  | copyEngine
  /-- The telemetry streams. -/
  | telemetry
  /-- The contents of the ACE window. -/
  | buffer
  /-- The SMP transaction, its page and error registers. -/
  | smpPort
  /-- The indirect access registers. -/
  | indirect
  /-- The mailbox entries and flags. -/
  | mailbox
  /-- The mailbox data area. -/
  | mailboxData
  /-- The peripheral table, the peers, what waits on the ports. -/
  | peripherals
  /-- The time base with its timers and alarms. -/
  | timeBase
  /-- The power state and its log. -/
  | power
  /-- The domain gates. -/
  | gates
  /-- The engines. -/
  | engines
  /-- Temperatures and power fail. -/
  | thermal
  /-- Images, flash and update. -/
  | firmware
  /-- The fault counters and log. -/
  | faults
  deriving DecidableEq, Repr

/-- Two states agree on a part. -/
def Part.same (p : Part) (s t : State) : Prop :=
  match p with
  | .queue => t.pending = s.pending
  | .time => t.clk.ticks = s.clk.ticks ∧ t.clk.frozen = s.clk.frozen
  | .free => t.clk.free = s.clk.free
  | .outputs => t.out = s.out
  | .functions => ∀ n, { fnOf t n with pba := [] } = { fnOf s n with pba := [] }
  | .config => t.host.memEn = s.host.memEn ∧ t.host.vfEn = s.host.vfEn ∧ t.host.vfMse = s.host.vfMse ∧
    t.host.numVfs = s.host.numVfs ∧ t.host.ari = s.host.ari ∧ t.host.pasidEn = s.host.pasidEn ∧
    t.host.vfCount = s.host.vfCount ∧ t.host.admin = s.host.admin
  | .link => t.host.sysRst = s.host.sysRst ∧ t.host.perst = s.host.perst ∧ t.host.dlActive = s.host.dlActive ∧
    t.host.training = s.host.training ∧ t.host.crs = s.host.crs ∧ t.host.crsEnd = s.host.crsEnd ∧
    t.host.fwReady = s.host.fwReady ∧ t.host.updatePause = s.host.updatePause ∧ t.host.golden = s.host.golden ∧
    t.host.wakeN = s.host.wakeN ∧ t.host.flrOwed = s.host.flrOwed
  | .rings => t.rings.tbl = s.rings.tbl
  | .commands => t.rings.cmds = s.rings.cmds
  | .ringLog => t.rings.resv = s.rings.resv ∧ t.rings.flrLog = s.rings.flrLog ∧
    t.rings.flrDropped = s.rings.flrDropped ∧ t.rings.flrCount = s.rings.flrCount
  | .events => t.rings.holdoff = s.rings.holdoff ∧ t.smp.attn = s.smp.attn ∧ t.smp.attnEn = s.smp.attnEn ∧
    t.smp.notch = s.smp.notch ∧ t.smp.notchWait = s.smp.notchWait ∧ t.pmu.held = s.pmu.held ∧ t.evr = s.evr ∧
    ∀ n, (fnOf t n).pba = (fnOf s n).pba
  | .contexts => t.ten.ctx = s.ten.ctx
  | .headwind => t.ten.doms = s.ten.doms ∧ t.ten.refillAt = s.ten.refillAt
  | .keySlots => t.keys.tenant = s.keys.tenant ∧ t.keys.oper = s.keys.oper
  | .nonces => t.keys.fid = s.keys.fid ∧ t.keys.did = s.keys.did ∧ t.keys.ctr = s.keys.ctr ∧
    t.keys.pend = s.keys.pend ∧ t.keys.resv = s.keys.resv ∧ t.keys.retry = s.keys.retry ∧ t.keys.ok = s.keys.ok ∧
    t.keys.fails = s.keys.fails ∧ t.keys.rejects = s.keys.rejects
  | .streams => t.strm = s.strm
  | .transports => t.xp = s.xp
  | .lanes => t.rc.lanes = s.rc.lanes
  | .pool => t.rc.decs = s.rc.decs ∧ t.rc.ticket = s.rc.ticket ∧ t.rc.blk = s.rc.blk ∧ t.rc.blkNext = s.rc.blkNext ∧
    t.rc.level = s.rc.level ∧ t.rc.evals = s.rc.evals ∧ t.rc.busyNs = s.rc.busyNs ∧ t.rc.uPermille = s.rc.uPermille ∧
    t.rc.changes = s.rc.changes ∧ t.rc.iterVerify = s.rc.iterVerify ∧ t.rc.iterRestore = s.rc.iterRestore ∧
    t.rc.iterScan = s.rc.iterScan ∧ t.rc.l1Us = s.rc.l1Us ∧ t.rc.l2Us = s.rc.l2Us ∧ t.rc.waitMax = s.rc.waitMax ∧
    t.rc.disabled = s.rc.disabled
  | .jobs => t.svc = s.svc
  | .copyEngine => t.ace.ch = s.ace.ch ∧ t.ace.own = s.ace.own ∧ t.ace.ownViol = s.ace.ownViol ∧
    t.ace.stopped = s.ace.stopped ∧ t.ace.last = s.ace.last
  | .telemetry => t.ace.tele = s.ace.tele
  | .buffer => t.ace.buf = s.ace.buf
  | .smpPort => t.smp.st = s.smp.st ∧ t.smp.mode3 = s.smp.mode3 ∧ t.smp.page = s.smp.page ∧ t.smp.addr = s.smp.addr ∧
    t.smp.wb = s.smp.wb ∧ t.smp.waits = s.smp.waits ∧ t.smp.sdo = s.smp.sdo ∧ t.smp.rcOut = s.smp.rcOut ∧
    t.smp.deaf = s.smp.deaf ∧ t.smp.blind = s.smp.blind ∧ t.smp.err = s.smp.err ∧ t.smp.errCount = s.smp.errCount ∧
    t.smp.straps = s.smp.straps ∧ t.smp.scratch = s.smp.scratch
  | .indirect => t.smp.indAddr = s.smp.indAddr ∧ t.smp.indData = s.smp.indData ∧ t.smp.indBusy = s.smp.indBusy ∧
    t.smp.indErr = s.smp.indErr ∧ t.smp.indOp = s.smp.indOp ∧ t.smp.indLost = s.smp.indLost
  | .mailbox => t.smp.sqe = s.smp.sqe ∧ t.smp.cqe = s.smp.cqe ∧ t.smp.mbxBusy = s.smp.mbxBusy ∧
    t.smp.mbxDone = s.smp.mbxDone
  | .mailboxData => t.smp.mbxData = s.smp.mbxData
  | .peripherals => t.smp.periph = s.smp.periph ∧ t.smp.pspQ = s.smp.pspQ ∧ t.smp.pspTry = s.smp.pspTry ∧ t.smp.peers = s.smp.peers
  | .timeBase => t.tbu = s.tbu
  | .power => t.pmu.ps = s.pmu.ps ∧ t.pmu.lull = s.pmu.lull ∧ t.pmu.entrySeq = s.pmu.entrySeq ∧
    t.pmu.log = s.pmu.log ∧ t.pmu.logTotal = s.pmu.logTotal ∧ t.pmu.rtOwed = s.pmu.rtOwed
  | .gates => t.pmu.gates = s.pmu.gates ∧ t.pmu.gateEvt = s.pmu.gateEvt
  | .engines => t.pmu.engines = s.pmu.engines
  | .thermal => t.pmu.th = s.pmu.th ∧ t.pmu.pfail = s.pmu.pfail
  | .firmware => t.pmu.booted = s.pmu.booted ∧ t.pmu.runImg = s.pmu.runImg ∧ t.pmu.runReg = s.pmu.runReg ∧
    t.pmu.upd = s.pmu.upd ∧ t.pmu.updLog = s.pmu.updLog ∧ t.pmu.flash = s.pmu.flash ∧ t.pmu.flashOp = s.pmu.flashOp ∧
    t.pmu.bufBytes = s.pmu.bufBytes ∧ t.pmu.aonOk = s.pmu.aonOk
  | .faults => t.flt = s.flt

/-- Only the parts in `l` may differ between two states. -/
def Only (l : List Part) (s t : State) : Prop := ∀ p, p ∉ l → p.same s t

/-- What a command that completes may change: its own entry, its ring, its context's counts, its fetch slot, messages. -/
abbrev ending : List Part := [.outputs, .rings, .commands, .events, .contexts, .headwind]

/-- What an event may change. -/
abbrev raising : List Part := [.outputs, .events]

/-- What the passage of time may change. -/
abbrev passing : List Part := [.time, .rings, .contexts, .pool, .timeBase]

/-- Every part. -/
abbrev allParts : List Part :=
  [.queue, .time, .free, .outputs, .functions, .config, .link, .rings, .commands,
   .ringLog, .events, .contexts, .headwind, .keySlots, .nonces, .streams, .transports, .lanes,
   .pool, .jobs, .copyEngine, .telemetry, .buffer, .smpPort, .indirect, .mailbox, .mailboxData,
   .peripherals, .timeBase, .power, .gates, .engines, .thermal, .firmware, .faults]

/-- Every part but those in `l`. -/
abbrev but (l : List Part) : List Part := allParts.filter fun p => !l.elem p

/-- The parts that a command may change (the effects that the rules give its row, and those of what it may set off). -/
def mayChange (i : Instr) : List Part :=
  match i with
  | .identify .. | .getContextStatus .. | .getDeviceCert .. | .nonceStatus .. | .getTransportStatus ..
    | .getPosition .. => ending ++ [.mailboxData]
  | .createRing .. | .createRingTagsFreed .. => ending ++ [.ringLog]
  | .deleteRing .. | .abort .. => ending ++ [.jobs, .mailboxData]
  | .deleteRingDrained .. | .openStream .. => ending ++ [.streams, .transports]
  | .abortComplete .. | .createContext .. | .modifyContext .. | .write .. | .writeBatch .. | .sessionKeyClear ..
    | .recordIngest .. => ending
  | .getLogPage .. => ending ++ [.ringLog, .transports, .lanes, .pool, .mailboxData, .faults]
  | .deleteContext .. => ending ++ [.streams, .transports, .jobs, .mailboxData]
  | .keyLoadWrapped .. => ending ++ [.keySlots]
  | .keyErase .. => ending ++ [.keySlots, .jobs, .mailboxData]
  | .domainJoin .. => ending ++ [.keySlots, .nonces, .firmware]
  | .mount .. => ending ++ [.transports, .lanes, .mailboxData, .faults]
  | .unmount .. => ending ++ [.streams, .transports, .lanes, .jobs, .mailboxData, .peripherals, .faults]
  | .formatPartitions .. => ending ++ [.transports, .peripherals]
  | .transportConfig .. => ending ++ [.transports, .pool]
  | .calibrate .. => ending ++ [.free, .transports, .firmware]
  | .setTime .. => ending ++ [.free, .copyEngine, .telemetry, .timeBase]
  | .telemetryConfig .. => ending ++ [.copyEngine, .telemetry, .timeBase]
  | .enterLull .. | .hostLinkWake .. => ending ++ [.link, .power, .gates]
  | .fwStage .. => ending ++ [.peripherals, .firmware]
  | .fwActivate .. =>
    ending ++ [.free, .functions, .link, .ringLog, .streams, .transports, .jobs, .mailboxData, .timeBase, .power,
      .gates, .firmware]
  | .thermalConfig .. => ending ++ [.thermal]
  | .fenceEngine .. | .engineDrained .. => ending ++ [.engines]
  | .resetEngine .. => ending ++ [.transports, .engines]
  | .setWatchdog .. | .recordCompress .. | .checkBack .. => ending ++ [.faults]
  | .getFaultLog .. => ending ++ [.mailboxData, .faults]
  | .retireBufferPage .. => ending ++ [.firmware, .faults]
  | .laneDisable .. => ending ++ [.transports, .firmware]
  | .flush .. | .sync .. | .closeStream .. => ending ++ [.free, .streams, .transports]
  | .read .. => ending ++ [.transports, .pool, .faults]
  | .locate .. => ending ++ [.streams, .transports, .pool]
  | .verifyScan .. => ending ++ [.streams, .transports, .pool, .mailboxData]
  | .compress .. | .decompress .. | .resume .. => ending ++ [.jobs]
  | .serviceJobEnd .. =>
    ending ++ [.free, .functions, .link, .ringLog, .streams, .transports, .jobs, .mailboxData, .timeBase, .engines,
      .firmware, .faults]
  | .cryptBlock .. => ending ++ [.nonces, .mailboxData, .peripherals]
  | .entryFetch .. => [.outputs, .rings, .contexts]
  | .entryAdmit .. => ending ++ [.streams, .jobs]
  | .orderedStart .. => [.commands]
  | .submissionDoorbell .. | .completionDoorbell .. => ending ++ [.free, .functions, .link, .power, .gates]
  | .adminRingEnable .. => [.free, .functions, .config, .rings, .commands]
  | .adminRingDisable .. => [.free, .functions, .config, .rings]
  | .adminRingDrained .. => [.config, .rings, .streams, .transports]
  | .registerWrite .. =>
    ending ++ [.free, .functions, .config, .link, .streams, .transports, .jobs, .copyEngine, .timeBase, .power, .gates,
      .engines, .faults]
  | .flrInitiate .. | .perstFall .. =>
    ending ++ [.free, .functions, .config, .link, .ringLog, .streams, .transports, .jobs, .copyEngine, .timeBase,
      .power, .gates, .firmware]
  | .vfEnableSet .. => raising ++ [.config]
  | .vfEnableClear .. =>
    ending ++ [.free, .functions, .config, .link, .ringLog, .streams, .transports, .jobs, .timeBase, .power, .gates,
      .firmware]
  | .busMasterDisable .. => ending ++ [.free, .functions, .streams, .transports, .jobs, .engines]
  | .busMasterEnable .. => raising ++ [.functions, .rings, .commands, .contexts]
  | .msixUnmask .. => raising ++ [.free, .functions]
  | .holdoffEnd .. | .poolEvaluation .. | .ppsHoldover .. => passing ++ raising
  | .perstRise .. => ending ++ [.functions, .link, .power, .gates]
  | .crsWindowEnd .. => passing ++ [.functions, .link]
  | .linkUp .. => raising ++ [.functions, .link, .rings, .commands, .contexts]
  | .linkDown .. => ending ++ [.free, .functions, .link, .streams, .transports, .jobs, .engines]
  | .ringEntryReadError .. => raising ++ [.free, .functions, .rings, .faults]
  | .sysRstAssert .. => but [.queue]
  | .sysRstRelease .. => raising ++ [.functions, .link, .rings, .transports, .smpPort, .peripherals, .firmware]
  | .bootComplete .. =>
    raising ++ [.link, .keySlots, .nonces, .transports, .pool, .peripherals, .engines, .thermal, .firmware]
  | .startupCalibration .. | .servoLockLoss .. | .shockCleared .. => raising ++ [.transports]
  | .recordSeal .. => ending ++ [.nonces, .peripherals]
  | .recordPack .. => ending ++ [.free, .streams, .transports, .mailboxData, .faults]
  | .flushWindowExpire .. | .servoLossTimeout .. | .wfltClearRetry .. =>
    passing ++ ending ++ [.free, .streams, .transports, .faults]
  | .codewordArrival .. | .decodeEnd .. => ending ++ [.free, .streams, .transports, .lanes, .pool, .faults]
  | .syncWindowEnd .. | .dropoutExit .. | .syncAcquired .. | .separatorDetected .. => [.lanes]
  | .decoderGrant .. => [.transports, .lanes, .pool]
  | .datasetBoundary .. => ending ++ [.free, .streams, .transports, .pool, .faults]
  | .cmUpdate .. => [.outputs, .transports, .peripherals, .faults]
  | .wrapTurnaround .. => [.outputs, .contexts, .transports, .pool, .peripherals, .power]
  | .speedMatchTick .. => passing ++ [.transports]
  | .transportRestart .. => ending ++ [.free, .streams, .transports, .pool, .peripherals]
  | .writePositionReturn .. => [.transports]
  | .datasetRecover .. => ending ++ [.streams, .transports, .lanes, .pool, .mailboxData, .faults]
  | .recordOpen .. | .recordDecompress .. => ending ++ [.streams, .transports, .pool, .mailboxData, .faults]
  | .serviceDomainTick .. | .slewEnd .. | .ppsOutRise .. | .ppsOutFall .. => passing
  | .watchdogExamine .. => passing ++ ending ++ [.free, .jobs, .mailboxData, .faults]
  | .servoFrame .. => raising ++ [.free, .transports, .telemetry, .peripherals]
  | .lposWord .. => raising ++ [.transports, .lanes]
  | .velocityLoopTick .. => raising ++ [.free, .transports, .peripherals]
  | .tensionLoopTick .. => [.free, .transports, .telemetry]
  | .shockInput .. | .writeFaultInput .. => raising ++ [.free, .transports]
  | .forceInhibitWrite .. | .wiCauseWrite .. => raising ++ [.free, .functions, .transports]
  | .dropoutEntry .. => [.free, .lanes]
  | .aceArm .. | .aceDisarm .. | .aceGo .. => raising ++ [.free, .functions, .copyEngine, .gates]
  | .aceIterationComplete .. => raising ++ [.copyEngine, .telemetry, .buffer]
  | .aceBurstFail .. => raising ++ [.free, .functions, .copyEngine, .buffer, .faults]
  | .aceRetryWaitEnd .. | .secondBoundary .. => passing ++ [.copyEngine]
  | .smpCsFall .. => ending ++ [.link, .smpPort, .power, .gates]
  | .smpCsRise .. | .smpReadByte .. => raising ++ [.smpPort]
  | .smpCommandByte .. => [.smpPort]
  | .smpWriteByte .. | .smpPageWrite .. => raising ++ [.commands, .headwind, .smpPort, .indirect, .mailbox, .mailboxData]
  | .smpIndRead .. | .smpIndWrite .. => raising ++ [.smpPort, .indirect]
  | .smpIndDone .. => raising ++ [.free, .functions, .transports, .copyEngine, .indirect, .timeBase, .gates]
  | .mailboxGo .. => raising ++ [.commands, .headwind, .smpPort, .mailbox]
  | .mailboxComplete .. => [.commands, .events, .mailbox]
  | .attentionNotchEnd .. => [.events]
  | .pspIrq .. => ending ++ [.free, .link, .transports, .peripherals, .power, .gates]
  | .peerPoll .. => raising ++ [.peripherals, .faults]
  | .skCommitGo .. | .skCommitClear .. => raising ++ [.free, .functions, .rings]
  | .nonceReserved .. => [.nonces, .firmware]
  | .nonceJournalFail .. => raising ++ [.nonces]
  | .nonceRetry .. => passing ++ [.outputs, .nonces, .peripherals]
  | .ppsEdge .. => passing ++ ending ++ [.free, .copyEngine, .telemetry]
  | .setTimeTimeout .. => passing ++ ending
  | .pacingTimerFire .. => passing ++ [.free, .copyEngine, .telemetry]
  | .alarmFire .. => passing ++ ending ++ [.link, .power, .gates]
  | .tbuCfgWrite .. => raising ++ [.free, .functions, .timeBase]
  | .pacingTimerCtrlWrite .. | .alarmCtrlWrite .. => [.free, .functions, .timeBase]
  | .tbuTimeRead .. => [.free, .outputs, .functions, .timeBase]
  | .sysClkLoss .. => raising ++ [.time, .transports, .timeBase]
  | .lullQuiesced .. => ending ++ [.free, .streams, .transports, .power, .gates]
  | .quiesceTimeout .. => passing ++ ending ++ [.transports, .power, .gates]
  | .gateClosed .. => passing ++ ending ++ [.mailbox, .power, .gates]
  | .gateForceClose .. => passing ++ ending ++ [.free, .copyEngine, .indirect, .mailbox, .power, .gates]
  | .lullStateSaved .. => ending ++ [.link, .keySlots, .copyEngine, .mailbox, .power, .gates]
  | .lullExitComplete .. => but [.queue, .lanes, .smpPort, .indirect, .mailbox, .mailboxData, .faults]
  | .engineDrainTimeout .. => passing ++ ending ++ [.lanes, .jobs, .engines]
  | .thermalSample .. => passing ++ ending ++ [.free, .functions, .link, .streams, .transports, .thermal, .firmware]
  | .shutdownPowerOff .. =>
    but [.queue, .free, .outputs, .smpPort, .indirect, .mailbox, .mailboxData, .peripherals, .gates, .faults]
  | .pfailQualified .. => [.transports, .thermal]
  | .pfailRelease .. => ending ++ [.link, .power, .gates, .thermal]
  | .selfTestPass .. =>
    ending ++ [.free, .functions, .link, .ringLog, .streams, .transports, .jobs, .mailboxData, .timeBase, .power,
      .firmware]
  | .selfTestFail .. =>
    ending ++ [.free, .functions, .link, .ringLog, .streams, .transports, .jobs, .mailboxData, .timeBase, .firmware]
  | .selfTestTimeout .. =>
    passing ++ ending ++ [.free, .functions, .link, .ringLog, .streams, .transports, .jobs, .mailboxData, .firmware]
  | .flrComplete .. => [.functions, .events]
  | .rcRegisterRead .. => raising ++ [.free, .functions, .copyEngine, .timeBase, .gates]
  | .writeSegmentBoundary .. => passing ++ ending ++ [.free, .streams, .transports, .lanes, .faults]
  | .supplyOutOfRange .. => [.transports, .smpPort, .firmware]
  | .flashOperationEnd .. => ending ++ [.peripherals, .firmware, .faults]
  | .cmAccessRetry .. => passing ++ ending ++ [.streams, .transports, .lanes, .mailboxData, .peripherals, .faults]
  | .peripheralRetry .. => passing ++ raising ++ [.peripherals, .faults]
  | .hostReadError .. => ending ++ [.free, .functions, .jobs, .engines, .faults]

/-! ### The invariant -/

/-- The SMP: its counters, page, address and reserved bits stay in range, and the mailbox data area is canonical (Tables 13-1 to
13-3, R647, R649). -/
def SmpOk (m : Smp) : Prop :=
  m.wb ≤ 64 ∧ m.waits ≤ 256 ∧ m.addr < 128 ∧ m.page < 256 ∧ m.errCount ≤ 255 ∧ m.err < 64 ∧
  m.indErr < 4 ∧ m.indAddr.toNat < 2 ^ 24 ∧ m.indAddr.toNat % 4 = 0 ∧ Memory.wf m.mbxData = true

/-- The time base: nanoseconds, seconds, frequency and settings stay in their ranges (R694, R700, Table 14-3). -/
def TbuOk (u : Tbu) : Prop :=
  u.ns < 1000000000 ∧ u.sec < 2 ^ 48 ∧ -200000 ≤ u.f ∧ u.f ≤ 200000 ∧ u.shift < 16 ∧ 1 ≤ u.win ∧ u.win ≤ 400000 ∧
  1 ≤ u.outWidth ∧ u.outWidth ≤ 500

/-- StateOk: the SMP and the time base in range, and both addressed memories canonical. -/
def StateOk (s : State) : Prop := SmpOk s.smp ∧ TbuOk s.tbu ∧ Memory.wf s.ace.buf = true

end Sys2Proof.Machine
end

