-- ==== Sys2Proof/Certificates/Slice0/Obligations.lean ====
section
/-! DEFINITION. The statements for the provers. -/

open Sys2Proof Sys2Proof.Machine

/-- A step takes the command at the front of the queue and runs it on the state with the queue's rest. -/
def Obligations.StepRunsFrontCommand : Prop :=
  ∀ (s : State) (c : Instr) (r : List Instr),
    step { s with pending := c :: r } = exec c { s with pending := r }

/-- With no command waiting a step lets one tick of 4 ns pass (R694); the choice is log entry 2's. -/
def Obligations.IdleStepIsOneTick : Prop :=
  ∀ s : State, s.pending = [] → s.clk.frozen = false →
    ∃ t, step s = .next t ∧ t.pending = [] ∧ t.clk.ticks = s.clk.ticks + 1 ∧
      t.tbu.ns = (s.tbu.ns + 4) % 1000000000 ∧ t.tbu.sec = (s.tbu.sec + (s.tbu.ns + 4) / 1000000000) % 2 ^ 48

/-- The state after SYS_RST_N: the values that the register tables and R39, R603, R695 and R707 give. -/
def Obligations.ResetState : Prop :=
  State.reset.pending = [] ∧ State.reset.rings.tbl = [] ∧ State.reset.ten.ctx = [] ∧ State.reset.strm = [] ∧
  State.reset.keys.tenant = [] ∧ State.reset.keys.oper = [] ∧
  (∀ c, (aceOf State.reset c).st = .idle ∧ (aceOf State.reset c).len = 4 ∧ (aceOf State.reset c).iter = 1) ∧
  State.reset.smp.err = 0 ∧ State.reset.smp.attn = 0 ∧ State.reset.smp.attnEn = 0 ∧ State.reset.smp.page = 0 ∧
  State.reset.host.admin.enable = false ∧ State.reset.host.fwReady = false ∧
  State.reset.tbu.pps = .free ∧ State.reset.tbu.win = 100 ∧ State.reset.tbu.outWidth = 100 ∧ State.reset.tbu.shift = 3 ∧
  (∀ k, (timerOf State.reset k).period = 0 ∧ (timerOf State.reset k).en = false) ∧
  (∀ t x, xpOf State.reset t = some x → wiStatus x.wi = 0x9)

/-- The invariant that every step keeps holds after reset. -/
def Obligations.ResetMeetsInv : Prop := StateOk State.reset

/-- Every step of every command keeps StateOk. -/
def Obligations.EveryStepKeepsInv : Prop :=
  ∀ s t : State, StateOk s → step s = .next t → StateOk t

/-- The frame of every command: exec always answers a next state, in which the parts that mayChange does not list are
unchanged. -/
def Obligations.CommandsStayInTheirParts : Prop :=
  ∀ (c : Instr) (s : State), ∃ t, exec c s = .next t ∧ Only (mayChange c) s t ∧ t.pending = s.pending

/-- Ring entries are fetched into the lookahead slot, and consumed without charge where no data moves. ENTRY_FETCH and
RING_ENTRY_READ_ERROR on a ring that may be fetched from (R60, R137, R179, R214). ENTRY_ADMIT of an entry with no
charge: consumed with the error of R183 or of R103, or consumed as it is (R58, R180, R185). -/
def Obligations.RingEntriesFetchedAndConsumed : Prop :=
  (∀ (s : State) (n : Nat) (r : Ring), Tbl.get? s.rings.tbl n = some r → ringOn s n r = true → r.look = none →
     r.sqTail ≠ r.sqHead → creditFree s n r = true →
     (let read : Out := .rd r.owner none (r.sqBase + 64 * r.sqHead) 64
      (∀ (e : Entry) (b : Nat), exec (.entryFetch n e b) s = .next (countHw s { s with
         out := read :: s.out, rings.tbl := Tbl.put s.rings.tbl n { r with look := some ⟨e, b, false⟩ } }
         (fieldOf e 4 2 % 4096))) ∧
      (∀ k : ReadErr, exec (.ringEntryReadError n k) s = .next (
         let u : State := { s with out := read :: s.out, rings.tbl := Tbl.put s.rings.tbl n { r with
           st := .error, errCause := match k with
             | .poisoned => 1
             | .timeout => 2
             | .urCa => 3
             | .ecrc => 4 } }
         faultSpent (countFault (logReadErr u r.owner k) 0 1 0 0 0)
           { FltLog.blank with cls := 0, event := evRingError, ring := n, tries := 1 } subjRing n)))) ∧
  (∀ (s : State) (n : Nat) (r : Ring) (l : Look) (id : Nat), Tbl.get? s.rings.tbl n = some r → r.look = some l →
     ringOn s n r = true → tagFree s n r = true → freeTag s = some id →
     (∀ k, entryCheck (refill s) r.owner n false l.entry = some k →
       exec (.entryAdmit n) s = .next (complete (consume (refill s) n r l.entry id 0 none) id k)) ∧
     (entryCheck (refill s) r.owner n false l.entry = none → l.lost = true →
       exec (.entryAdmit n) s = .next (complete (consume (refill s) n r l.entry id 0 none) id (Compl.of 3))) ∧
     (entryCheck (refill s) r.owner n false l.entry = none → l.lost = false → dataOp (fieldOf l.entry 0 1) = false →
       entryDomain (refill s) n l.entry = none →
       exec (.entryAdmit n) s = .next (consume (refill s) n r l.entry id 0 none)))

/-- ENTRY_ADMIT of a charged entry: admitted if its ring ranks first in its domain, else left waiting (R63 to R67); of a
write of a HALTED context: QUOTA_EXHAUSTED (R55). -/
def Obligations.AdmitDataEntry : Prop :=
  ∀ (s : State) (n : Nat) (r : Ring) (l : Look) (id d : Nat), Tbl.get? s.rings.tbl n = some r → r.look = some l →
    ringOn s n r = true → tagFree s n r = true → freeTag s = some id →
    (let op := fieldOf l.entry 0 1
     let k := fieldOf l.entry 4 2 % 4096
     let u := refill s
     let ch := lookCharge u n l
     (entryDomain u n l.entry = some d → ch ≠ 0 →
       (∀ x, pick u d = some n → ctxOf u k = some x → ∃ t y, exec (.entryAdmit n) s = .next t ∧
         (domOf t d).v = startTag u d l ∧
         (∃ c, c ∈ t.rings.cmds ∧ c.id = id ∧ c.entry = l.entry ∧ c.charge = ch ∧ c.fetch = some (d, slotClass op)) ∧
         Tbl.get? t.rings.tbl n = some { r with
           look := none, sqHead := (r.sqHead + 1) % 2 ^ r.log2, consumed := satAdd 64 r.consumed 1 } ∧
         ctxOf t k = some y ∧ y.fin = (startTag u d l + ch * 65536 / x.d.weight) % 2 ^ 64 ∧
         y.bucket = (if x.d.rate = 0 then x.bucket else x.bucket - ch) ∧
         y.volUsed = (if op = 0x41 ∨ op = 0x42 then x.volUsed + ch else x.volUsed)) ∧
       (pick u d ≠ some n → exec (.entryAdmit n) s = .next u)) ∧
     (op = 0x41 ∨ op = 0x42 → entryCheck u r.owner n false l.entry = none → l.lost = false →
       (ctxOf u k).elim false halted = true →
       exec (.entryAdmit n) s = .next (complete (consume u n r l.entry id 0 none) id (Compl.of 0x41))))

/-- ORDERED (R167): the start waits for the earlier commands of the ring; later commands do not wait for it. -/
def Obligations.OrderedStartWaits : Prop :=
  ∀ (s : State) (id : Nat) (c : Cmd), cmdOf s id = some c → c.prog = .ordered → c.mailbox = false →
    ((∀ k ∈ before s id, k.ring = c.ring → k.mailbox = false → k.done ≠ none) →
      exec (.orderedStart id) s = .next (setProg s id .fresh)) ∧
    ((∃ k ∈ before s id, k.ring = c.ring ∧ k.mailbox = false ∧ k.done = none) → exec (.orderedStart id) s = .next s) ∧
    (∀ i, executes i = some id → exec i s = .next s) ∧
    (∀ j d, Started s j 0x01 d → c ∈ before s j → c.ring = d.ring → exec (.identify j) s = .next
      (answer s d 0x10 (if d.fld 0x18 1 = 0 then devicePage s else functionPage s (cmdFn s d)) (Compl.ok 0 0)))

/-- Commands that end early: host access errors and ABORT. HOST_READ_ERROR completes the command with
HOST_ACCESS_ERROR, a WRITE or WRITE_BATCH from the record whose data it met (R150, R256). ABORT and ABORT_COMPLETE (R196
to R199, R209 to R211). -/
def Obligations.CommandsEndEarly : Prop :=
  (∀ (s : State) (id : Nat) (c : Cmd) (k : ReadErr), cmdOf s id = some c → readsHost c.opcode = true → c.mailbox = false →
     c.done = none → c.prog ≠ .ordered →
     (let u := faultSpent (countFault (logReadErr s (cmdFn s c) k) 0 1 0 0 0) { FltLog.blank with
        cls := 0, status := 7, ring := c.ring, cid := c.cid, ctx := if namesCtx c.opcode then c.ctx else 0xFFFF,
        tries := 1 } subjNone 0
      ((∀ total stored bad, c.prog ≠ .writing total stored bad) → (Tbl.get? s.svc id).elim true (·.stopBy == 0) = true →
        exec (.hostReadError id k) s = .next (complete (dropRecords { u with svc := Tbl.del u.svc id } c) id
          { Compl.of 7 with result := partResult c })) ∧
      (∀ j, (∀ total stored bad, c.prog ≠ .writing total stored bad) → Tbl.get? s.svc id = some j → j.stopBy ≠ 0 →
        exec (.hostReadError id k) s = .next (
          let v := uncount u j.stopFor
          complete (dropRecords { v with svc := Tbl.del v.svc id } c) id { Compl.of 7 with result := partResult c })) ∧
      (∀ total stored bad, c.prog = .writing total stored bad →
        (let i := (c.recs.find? fun r => r.stage == 4).elim c.recs.length (·.idx)
         exec (.hostReadError id k) s = .next (if i < total then failRec u c i (Compl.of 7) else u))))) ∧
  (∀ (s : State) (id : Nat) (c : Cmd) (r : Ring) (ids : List Nat) (a p : Nat),
     (Started s id 0x04 c →
       (Tbl.get? s.rings.tbl (c.fld 0x10 2) = some r → (c.ring = 0 ∨ r.owner = cmdFn s c) →
         exec (.abort id) s = .next
           (let l := (ringCmds s (c.fld 0x10 2)).filter fun k => bitOf (c.fld 0x14 4) 0 || k.cid == c.fld 0x12 2
            postAll (setProg (abortList s 0x47 id l) id
              (.abortWait ((abortTargets s l).1.map (·.id)) (abortTargets s l).1.length (abortTargets s l).2)))) ∧
       (Tbl.get? s.rings.tbl (c.fld 0x10 2) = some r → c.ring ≠ 0 → r.owner ≠ cmdFn s c →
         exec (.abort id) s = .next (complete s id (Compl.of 3))) ∧
       (Tbl.get? s.rings.tbl (c.fld 0x10 2) = none →
         exec (.abort id) s = .next (complete s id (if c.ring = 0 then Compl.field 0x10 else Compl.of 3)))) ∧
     (cmdOf s id = some c → c.prog = .abortWait ids a p → c.done = none → (∀ k ∈ s.rings.cmds, ids.elem k.id = false) →
       exec (.abortComplete id) s = .next (complete s id (Compl.ok a p))) ∧
     (cmdOf s id = some c → c.prog = .abortWait ids a p → c.done = none → (∃ k ∈ s.rings.cmds, ids.elem k.id = true) →
       exec (.abortComplete id) s = .next s))

/-- IDENTIFY, GET_CONTEXT_STATUS and GET_LOG_PAGE write their pages and complete (R203, R212, R100). -/
def Obligations.StatusPages : Prop :=
  ∀ (s : State) (id : Nat) (c : Cmd),
    (Started s id 0x01 c → exec (.identify id) s = .next
      (answer s c 0x10 (if c.fld 0x18 1 = 0 then devicePage s else functionPage s (cmdFn s c)) (Compl.ok 0 0))) ∧
    (Started s id 0x0B c → exec (.getContextStatus id) s = .next
      (answer s c 0x10 (ctxPage s c.ctx) (Compl.ok (ctxCode s c.ctx + 256 * hwState s c.ctx) 0))) ∧
    (Started s id 0x05 c →
      (let page := c.fld 0x10 1
       let clear := bitOf (c.fld 0x11 1) 0
       let b := logPage s page (c.fld 0x12 2) c.ring (cmdFn s c)
       let part := (b.drop (c.fld 0x20 4)).take (c.fld 0x14 4)
       (pageAllowed s page (c.fld 0x12 2) c.ring (cmdFn s c) = false →
         exec (.getLogPage id) s = .next (complete s id (Compl.of 3))) ∧
       (pageAllowed s page (c.fld 0x12 2) c.ring (cmdFn s c) = true → dataOk s c = true →
         (page = 0x30 → clear = true → c.ring = 0 ∧ c.fld 0x20 4 = 0) →
         exec (.getLogPage id) s = .next (answer
           (if clear then clearPage s page (c.fld 0x12 2) part.length else s) c 0x18 part
           { Compl.ok part.length b.length with more := decide (c.fld 0x20 4 + c.fld 0x14 4 < b.length) }))))

/-- CREATE_RING makes a ring; DELETE_RING removes it when it has drained. CREATE_RING and CREATE_RING_TAGS_FREED (R204
to R206, R870). DELETE_RING and DELETE_RING_DRAINED (R207, R208, R222). -/
def Obligations.RingsMadeAndRemoved : Prop :=
  (∀ (s : State) (id : Nat) (c : Cmd) (n : Nat),
     (∀ k, Started s id 0x02 c → createChecks s c = .error k → exec (.createRing id) s = .next (complete s id k)) ∧
     (Started s id 0x02 c → createChecks s c = .ok n → poolHas16 s = true → exec (.createRing id) s = .next (makeRing s c n)) ∧
     (Started s id 0x02 c → createChecks s c = .ok n → poolHas16 s = false →
       exec (.createRing id) s = .next
         (setProg { s with rings.resv := Tbl.put s.rings.resv n (c.fld 0x20 1, c.fld 0x22 2) } id (.tagWait n))) ∧
     (cmdOf s id = some c → c.prog = .tagWait n → c.done = none →
       (fnEnabled s (c.fld 0x20 1) = true → inFlr s (c.fld 0x20 1) = false → poolHas16 s = true →
         exec (.createRingTagsFreed id) s = .next (makeRing s c n)) ∧
       (fnEnabled s (c.fld 0x20 1) = false ∨ inFlr s (c.fld 0x20 1) = true → exec (.createRingTagsFreed id) s = .next
         (complete { s with rings.resv := Tbl.del s.rings.resv n } id (Compl.of 4)))) ∧
     (let m := c.fld 0x26 2
      let r := newRing (c.fld 0x20 1) (c.fld 0x22 2) (c.fld 0x21 1) (c.fld 0x10 8) (c.fld 0x18 8) (c.fld 0x24 2)
        (if m = 0 then 2 ^ c.fld 0x21 1 - 1 else m)
      makeRing s c n = complete { s with
        rings.tbl := Tbl.put s.rings.tbl n r, rings.resv := Tbl.del s.rings.resv n,
        evr.routes := Tbl.put s.evr.routes n { Route.reset with vector := c.fld 0x24 2, en := bitOf (c.fld 0x28 4) 0 } }
        c.id (Compl.ok n 0))) ∧
  (∀ (s : State) (id : Nat) (c : Cmd) (n k : Nat) (r : Ring),
     (Started s id 0x03 c → Tbl.get? s.rings.tbl (c.fld 0x10 2) = some r → r.st ≠ .deleting →
       exec (.deleteRing id) s = .next
         (let u : State := { s with rings.tbl := Tbl.put s.rings.tbl (c.fld 0x10 2) { r with st := .deleting, look := none } }
          let l := if bitOf (c.fld 0x12 2) 0 then ringCmds u (c.fld 0x10 2) else []
          postAll (setProg (abortList u 0x47 id l) id (.ringDrain (c.fld 0x10 2) (abortTargets u l).1.length)))) ∧
     (Started s id 0x03 c → (Tbl.get? s.rings.tbl (c.fld 0x10 2) = none ∨
         (Tbl.get? s.rings.tbl (c.fld 0x10 2) = some r ∧ r.st = .deleting)) →
       exec (.deleteRing id) s = .next (complete s id (Compl.field 0x10))) ∧
     (cmdOf s id = some c → c.prog = .ringDrain n k → c.done = none → Tbl.has s.rings.tbl n = true → ringCmds s n = [] →
       exec (.deleteRingDrained id) s = .next
         (complete (removeRing (dropStreams s fun st => st.ring == n) n) id (Compl.ok k 0))) ∧
     (cmdOf s id = some c → c.prog = .ringDrain n k → c.done = none → Tbl.has s.rings.tbl n = true → ringCmds s n ≠ [] →
       exec (.deleteRingDrained id) s = .next s) ∧
     (cmdOf s id = some c → c.prog = .ringDrain n k → c.done = none → Tbl.has s.rings.tbl n = false →
       exec (.deleteRingDrained id) s = .next (complete s id (Compl.ok 0 0))))

/-- CREATE_CONTEXT, MODIFY_CONTEXT and DELETE_CONTEXT (R91, R93 to R99, R103 to R105). -/
def Obligations.ContextCommands : Prop :=
  ∀ (s : State) (id : Nat) (c : Cmd) (desc : BitVec 1024) (x : Ctx) (n : Nat),
    (let b := cmdBlock s c (c.fld 0x10 8) desc
     let u := cmdRead s c (c.fld 0x10 8) 128
     (Started s id 0x08 c → dataOk s c = true →
       (ctxOf s c.ctx ≠ none → exec (.createContext id desc) s = .next (complete s id (Compl.of 4))) ∧
       (ctxOf s c.ctx = none → (descReservedOk b 0xFFFF = false ∨ descOk s c.ctx (readDesc b) true = false) →
         exec (.createContext id desc) s = .next (complete u id (Compl.field 0xFF))) ∧
       (ctxOf s c.ctx = none → descReservedOk b 0xFFFF = true → descOk s c.ctx (readDesc b) true = true →
         (inFlr s (readDesc b).ownerFn = false → exec (.createContext id desc) s = .next
           (complete { u with ten.ctx := Tbl.put s.ten.ctx c.ctx (Ctx.fresh (readDesc b)) } id (Compl.ok 0 0))) ∧
         (inFlr s (readDesc b).ownerFn = true →
           exec (.createContext id desc) s = .next (complete u id (Compl.of 4))))) ∧
     (Started s id 0x09 c → ctxOf s c.ctx = some x → x.st ≠ .deleting → dataOk s c = true →
       descReservedOk b (c.fld 0x18 4) = true →
       (let d := mergeDesc x.d (readDesc b) (c.fld 0x18 4)
        descOk s c.ctx d (sel (c.fld 0x18 4) 0) = true → (sel (c.fld 0x18 4) 0 && inFlr s d.ownerFn) = false →
        ((identityMask (c.fld 0x18 4) = false ∧ withdraws s c.ctx x.d d = false) ∨
            (inFlight s c.ctx = [] ∧ ctxStreams s c.ctx = []) →
          exec (.modifyContext id desc) s = .next (
            let v := updCtx u c.ctx fun y => modified y d (c.fld 0x18 4)
            complete (countHw u (if x.d.ownerFn = d.ownerFn then v else loseLooks v c.ctx) c.ctx) id (Compl.ok 0 0))) ∧
        ((identityMask (c.fld 0x18 4) = true ∨ withdraws s c.ctx x.d d = true) →
            (inFlight s c.ctx ≠ [] ∨ ctxStreams s c.ctx ≠ []) →
          exec (.modifyContext id desc) s = .next (complete u id (Compl.of 4)))))) ∧
    (Started s id 0x0A c → ctxOf s c.ctx = some x → x.st ≠ .deleting → inFlight s c.ctx = [] → ctxStreams s c.ctx = [] →
      exec (.deleteContext id) s = .next (
        let u := dropStreams (startDelete s c) fun st => st.ctx == c.ctx
        complete { u with ten.ctx := Tbl.del u.ten.ctx c.ctx } id (Compl.ok 0 0))) ∧
    (Started s id 0x0A c → ctxOf s c.ctx = some x → bitOf (c.fld 0x10 4) 0 = false →
      (inFlight s c.ctx ≠ [] ∨ ctxStreams s c.ctx ≠ []) →
      exec (.deleteContext id) s = .next (complete s id (Compl.of 4))) ∧
    (Waiting s id 0x0A c (.waiting n) →
      (inFlight s c.ctx ≠ [] → exec (.deleteContext id) s = .next s) ∧
      (inFlight s c.ctx = [] → ((ctxStreams s c.ctx).filter fun p => !p.2.read && endsOpen s p.2) = [] →
        exec (.deleteContext id) s = .next (
          let u := dropStreams s fun st => st.ctx == c.ctx
          complete { u with ten.ctx := Tbl.del u.ten.ctx c.ctx } c.id (Compl.ok n 0))))

/-- R173 and R175: the write of a completion entry, its phase, and the tail after it. -/
def Obligations.CompletionPosted : Prop :=
  ∀ (s : State) (c : Cmd) (k : Compl) (r : Ring), Tbl.get? s.rings.tbl c.ring = some r →
    ∃ l b x q, (postOne s c k).out = l ++ .dma r.owner none (r.cqBase + 16 * r.cqTail) b false :: s.out ∧
      (∀ o ∈ l, ∃ fn v a d, o = .msix fn v a d) ∧ b.length = 16 ∧ b[3]? = some x ∧ x.toNat % 2 = r.pass % 2 ∧
      Tbl.get? (postOne s c k).rings.tbl c.ring = some q ∧ q.cqTail = (r.cqTail + 1) % 2 ^ r.log2 ∧
      q.pass = (if r.cqTail + 1 = 2 ^ r.log2 then r.pass + 1 else r.pass)

/-- Key slots, the domain and the session key windows. Where the checks pass, the key commands change their slots, or
reject the blob or block with its reason (R369 to R381, R396 to R405). SK_COMMIT_GO and SK_COMMIT_CLEAR (R370 to R374,
Table 7-5). -/
def Obligations.KeySlotsAndWindows : Prop :=
  (∀ (s : State) (id : Nat) (c : Cmd) (blob : BitVec 512) (blk : BitVec 1536) (n : Nat) (r : Ring),
     (Started s id 0x10 c → dataOk s c = true →
       (let u := cmdRead s c (c.fld 0x10 8) 64
        let b := cmdBlock s c (c.fld 0x10 8) blob
        let slot := c.fld 0x18 2
        let replace := bitOf (c.fld 0x1A 1) 0
        (blobOk b = false → exec (.keyLoadWrapped id blob) s = .next (complete u id { Compl.field 0xFF with result2 := 1 })) ∧
        (blobOk b = true → fieldOf b 5 1 = 1 →
          (replace = true ∨ Tbl.has s.keys.tenant slot = false) → (replace = false ∨ slotBusy s slot = false) →
          exec (.keyLoadWrapped id blob) s = .next (match unwrapBlob s b with
            | .ok k => complete { u with keys.tenant := Tbl.put s.keys.tenant slot k } id (Compl.ok k.keyId 0)
            | .error r => complete u id { Compl.field 0xFF with result2 := r })) ∧
        (blobOk b = true → fieldOf b 5 1 = 1 →
          (replace = false ∧ Tbl.has s.keys.tenant slot = true) ∨ (replace = true ∧ slotBusy s slot = true) →
          exec (.keyLoadWrapped id blob) s = .next (complete u id (Compl.of 4))) ∧
        (blobOk b = true → fieldOf b 5 1 = 2 → 1 ≤ slot → slot ≤ 62 → fieldOf b 7 1 ≠ slot →
          (replace = true ∨ Tbl.has s.keys.oper slot = false) →
          exec (.keyLoadWrapped id blob) s = .next (match unwrapBlob s b with
            | .ok k => complete { u with keys.oper := Tbl.put s.keys.oper slot k } id (Compl.ok k.keyId 0)
            | .error r => complete u id { Compl.field 0xFF with result2 := r })))) ∧
     (Started s id 0x11 c → eraseUsers s c = [] → exec (.keyErase id) s = .next (complete
       (eraseSlot (postAll (setProg s id (.waiting 0))) (c.fld 0x10 1) (c.fld 0x12 2)) id (Compl.ok 0 0))) ∧
     (Started s id 0x11 c → eraseUsers s c ≠ [] → bitOf (c.fld 0x14 1) 0 = false →
       exec (.keyErase id) s = .next (complete s id (Compl.of 4))) ∧
     (Waiting s id 0x11 c (.waiting n) →
       (eraseUsers s c = [] → exec (.keyErase id) s = .next (complete
         (if c.fld 0x10 1 = 1 then { s with keys.tenant := Tbl.del s.keys.tenant (c.fld 0x12 2) }
          else { s with keys.oper := Tbl.del s.keys.oper (c.fld 0x12 2) }) id (Compl.ok n 0))) ∧
       (eraseUsers s c ≠ [] → exec (.keyErase id) s = .next s)) ∧
     (Started s id 0x12 c → s.keys.resv = none → s.pmu.pfail = false →
       ((s.strm.any fun p => !p.2.read) = true ∨ encrypting s = true →
         exec (.domainJoin id blk) s = .next (complete s id (Compl.of 5))) ∧
       ((s.strm.any fun p => !p.2.read) = false → encrypting s = false → bitOf (c.fld 0x18 1) 0 = false → dataOk s c = true →
         exec (.domainJoin id blk) s = .next (
           let u := cmdRead s c (c.fld 0x10 8) 192
           let b := cmdBlock s c (c.fld 0x10 8) blk
           match openJoin b with
           | .ok k => complete (noteNstate u { u with
             pmu.flash.domain := some (fieldOf b 0 4, fieldOf b 8 8, k), keys.oper := [(0, k)],
             keys.fid := fieldOf b 0 4, keys.did := fieldOf b 8 8 }) id (Compl.ok 0 0)
           | .error r => complete u id { Compl.field 0xFF with result2 := r })) ∧
       ((s.strm.any fun p => !p.2.read) = false → encrypting s = false → bitOf (c.fld 0x18 1) 0 = true →
         exec (.domainJoin id blk) s = .next (complete { s with
           pmu.flash.domain := none, keys.oper := [], keys.fid := 0, keys.did := 0 } id (Compl.ok 0 0)))) ∧
     (Started s id 0x13 c →
       (let der := (Config.certDer (c.fld 0x1C 1)).take 2048
        exec (.getDeviceCert id) s = .next (if der.length ≤ c.fld 0x18 4 then answer s c 0x10 der (Compl.ok der.length 0)
          else complete s id { Compl.field 0x18 with result2 := der.length }))) ∧
     (Started s id 0x85 c → Tbl.get? s.rings.tbl c.ring = some r →
       (∀ i, i < 4 → bitOf (c.fld 0x10 1) i = true → skUsed s c.ring i = false) →
       exec (.sessionKeyClear id) s = .next (complete
         (updSk s c.ring fun w => { w with
           keys := Tbl.keep w.keys fun i _ => !((List.range 4).filter fun i => bitOf (c.fld 0x10 1) i).elem i, loadErr := [] })
         id (Compl.ok
           (maskOf (r.sk.keys.map (·.1)) + 16 * maskOf ((r.sk.keys.filter fun p => p.2.bits256).map (·.1)) + 256 * maskOf r.sk.loadErr)
           (sumOf ((List.range 4).map fun i => (Tbl.get? r.sk.gens i).getD 0 * 2 ^ (16 * i)))))) ∧
     (Started s id 0x85 c → Tbl.get? s.rings.tbl c.ring = some r →
       (∃ i, i < 4 ∧ bitOf (c.fld 0x10 1) i = true ∧ skUsed s c.ring i = true) → exec (.sessionKeyClear id) s = .next s)) ∧
  (∀ (s : State) (fn slot n : Nat) (r : Ring) (v : Word), windowReach s fn = true → ringAt s fn slot = some (n, r) →
     (let i := v.toNat % 4
      (bitOf v.toNat 3 = true → bitOf v.toNat 4 = false → v.toNat < 32 → r.sk.keyId ≠ 0 → skUsed s n i = false →
        exec (.skCommitGo fn slot v) s = .next (updSk s n fun w => { w with
          stage := 0, keyId := 0,
          keys := Tbl.put w.keys i (keyOf (leBytes (if bitOf v.toNat 2 then 32 else 16) w.stage.toNat) w.keyId),
          gens := Tbl.put w.gens i (((Tbl.get? w.gens i).getD 0 + 1) % 65536) })) ∧
      (bitOf v.toNat 3 = false → bitOf v.toNat 4 = true → v.toNat < 32 → skUsed s n i = false →
        exec (.skCommitClear fn slot v) s = .next (updSk s n fun w => { w with
          stage := 0, keys := Tbl.del w.keys i })) ∧
      (bitOf v.toNat 3 = true → (bitOf v.toNat 4 = true ∨ 32 ≤ v.toNat ∨ r.sk.keyId = 0 ∨ skUsed s n i = true) →
        exec (.skCommitGo fn slot v) s = .next (raise (updSk s n fun w => { w with
          stage := 0, keyId := 0, loadErr := setIns w.loadErr i }) evSessionLoad subjRing n 0)) ∧
      (bitOf v.toNat 4 = true → (bitOf v.toNat 3 = true ∨ 32 ≤ v.toNat ∨ skUsed s n i = true) →
        exec (.skCommitClear fn slot v) s = .next (raise (updSk s n fun w => { w with
          stage := 0, keyId := 0, loadErr := setIns w.loadErr i }) evSessionLoad subjRing n 0))))

/-- The nonce counter never repeats, and its journal. NONCE_RESERVED, NONCE_JOURNAL_FAIL, NONCE_RETRY and NONCE_STATUS
(R357 to R362). next_iv: a value handed out is never handed out again, and lies below the persisted end (R354 to
R361). -/
def Obligations.NonceCountersAndJournal : Prop :=
  (∀ (s : State) (b : Nat),
     (s.keys.resv = some b →
       exec .nonceReserved s = .next { s with
         pmu.flash := journal s.pmu.flash s.keys.fid b, keys.pend := (b + 1) * 2 ^ 24, keys.resv := none, keys.retry := none,
         keys.ok := satAdd 32 s.keys.ok 1 }) ∧
     (s.keys.resv = some b → (∀ b' m t, s.keys.retry = some (b', m, t) → b' ≠ b) →
       exec .nonceJournalFail s = .next (noteNstate s (raise { s with
         keys.resv := none, keys.retry := some (b, 10, now s + 10 * msTicks), keys.fails := satAdd 32 s.keys.fails 1 }
         evNonceFail subjNone 0 0))) ∧
     (∀ m t, s.keys.resv = some b → s.keys.retry = some (b, m, t) →
       exec .nonceJournalFail s = .next (noteNstate s (raise { s with
         keys.resv := none, keys.retry := some (b, min (2 * m) 1000, now s + min (2 * m) 1000 * msTicks),
         keys.fails := satAdd 32 s.keys.fails 1 } evNonceFail subjNone 0 0))) ∧
     (∀ dt m t, s.keys.retry = some (b, m, t) → s.keys.resv = none →
       (t ≤ now (advance s dt) → s.pmu.pfail = false →
         exec (.nonceRetry dt) s = .next (pspQueue { advance s dt with keys.resv := some b } 1
           (journalOps s.pmu.flash s.keys.fid b))) ∧
       (now (advance s dt) < t ∨ s.pmu.pfail = true → exec (.nonceRetry dt) s = .next (advance s dt))) ∧
     (∀ id c, Started s id 0x14 c → exec (.nonceStatus id) s = .next (answer s c 0x10
       (pageOf 64 [(0, 4, s.keys.fid), (4, 1, nstate s.keys), (8, 8, s.keys.ctr), (0x10, 8, s.keys.pend), (0x18, 4, s.keys.ok),
         (0x1C, 4, s.keys.fails), (0x20, 8, s.keys.rejects), (0x28, 4, 4096 - s.pmu.flash.nonceCur.length), (0x30, 8, s.keys.did)])
       (Compl.ok (nstate s.keys) s.keys.ctr)))) ∧
  (∀ s : State,
     (∀ v, (nextIv s).1 = some v → v = s.keys.ctr ∧ s.keys.fid ≠ 0 ∧ (nextIv s).2.keys.ctr = s.keys.ctr + 1 ∧
       (nextIv s).2.keys.pend = s.keys.pend ∧ (s.keys.ctr ≤ s.keys.pend → v < s.keys.pend)) ∧
     ((nextIv s).1 = none → (nextIv s).2 = s) ∧
     (∀ v w, (nextIv s).1 = some v → (nextIv (nextIv s).2).1 = some w → v < w))

/-- R125: session key windows are write-only. -/
def Obligations.SessionKeyWindowReadsZero : Prop :=
  ∀ (s : State) (fn off : Nat), inSk fn off = true → off < barSize fn →
    readBar0 s fn off = (0, s) ∧
    (hostReach s fn = true → off % 4 = 0 →
      exec (.rcRegisterRead fn (.bar0 off 4)) s = .next { s with out := .cpl fn 0 :: s.out }) ∧
    (hostReach s fn = true → off % 8 = 0 → off + 4 < barSize fn → inSk fn (off + 4) = true →
      exec (.rcRegisterRead fn (.bar0 off 8)) s = .next { s with out := .cpl fn 0 :: s.out })

/-- Mount sessions and cartridge memory. MOUNT, UNMOUNT and FORMAT_PARTITIONS (R228 to R242). CM_UPDATE and
CM_ACCESS_RETRY (R234, R243, R283, Table 16-4). -/
def Obligations.MountAndCartridgeMemory : Prop :=
  (∀ (s : State) (id : Nat) (c : Cmd) (x : Xport) (k : Cart) (m : Mount) (n : Nat) (specs : List (BitVec 128)),
     (Started s id 0x18 c → xpOf s (c.fld 0x10 1) = some x →
       (∀ ok, x.mount ≠ none → exec (.mount id ok) s = .next (complete s id (Compl.field 0x10))) ∧
       (∀ ok, x.mount = none → x.cart = none → exec (.mount id ok) s = .next (complete s id (Compl.of 0x62))) ∧
       (∀ ok, x.mount = none → x.cart = some k → x.startup = false → exec (.mount id ok) s = .next (complete s id (Compl.of 0x67))) ∧
       (x.startup = true → x.mount = none → x.cart = some k → engRun s 4 (c.fld 0x10 1) = true → dataOk s c = true →
         x.calibrating = false → x.cmTry = none →
         (∀ tb, (if k.format = 0 then some ⟨0, 0, []⟩ else cmTable k) = some tb →
           (let t := c.fld 0x10 1
            let ro := bitOf (c.fld 0x11 1) 0 || k.wp || k.format == 2
            let l := (numbered tb.parts 0).map (mountPart k tb.gen)
            exec (.mount id true) s = .next (
              let u := updXp s t fun x => { stopTape x .stopped with
                mount := some (Mount.start c ro tb.gen (l.map (·.1))), faulted := false, cmTry := none, occ := 0, rsOcc := 0,
                restored := [], cws := [], reread := (0, 0), goal := none, arrivals := [], drains := [] }
              answer (recomputeXport (applyThermal ((lanesOf t).foldl startLane u)) t) c 0x18 (mountPage k ro l)
                (Compl.ok (k.format + 256 * l.length) (sumOf (l.map (·.2.1))))))) ∧
         (k.format ≠ 0 → cmTable k = none → exec (.mount id true) s = .next (complete s id (Compl.of 0x28))) ∧
         exec (.mount id false) s = .next (cmFail (setProg s id (.waiting 0)) (c.fld 0x10 1) id))) ∧
     (Started s id 0x19 c → xpOf s (c.fld 0x10 1) = some x →
       (let t := c.fld 0x10 1
        let force := bitOf (c.fld 0x11 1) 0
        let l := if force then forceTargets s t else []
        (∀ ok, x.mount = none → exec (.unmount id ok) s = .next (complete s id (Compl.of 0x62))) ∧
        (∀ ok, x.mount ≠ none → force = false → (s.strm.any fun p => p.2.xp == t) = true →
          exec (.unmount id ok) s = .next (complete s id (Compl.of 5))) ∧
        (∀ ok, x.mount ≠ none → (force = true ∨ (s.strm.any fun p => p.2.xp == t) = false) →
          exec (.unmount id ok) s = .next (
            let u := abortList s 0x47 id l
            let u : State := { u with strm := Tbl.mapVal u.strm fun _ st => if st.xp = t then { st with closing := true } else st }
            unmountGo (postAll (setProg u id (.waiting (abortTargets s l).1.length))) t c (abortTargets s l).1.length ok)))) ∧
     (Waiting s id 0x19 c (.waiting n) → xpOf s (c.fld 0x10 1) = some x → x.mount = some m → x.faulted = false →
       partIdle m = true → x.cmTry = none → m.reserveOut = false →
       (∀ ok, m.readOnly = true ∨ (s.pmu.pfail = false ∧ ok = true) →
         exec (.unmount id ok) s = .next (
           let t := c.fld 0x10 1
           let u := storeCm (endSettling s t 0) t fun y => match y.cart, y.mount with
             | some k, some m =>
               if !m.readOnly && k.format == 1 then
                 { y with cart := some (cmPut k m.gen ((withEod m).map fun e => { e with dirty := false })) }
               else y
             | _, _ => y
           complete (dismount u t (bitOf (c.fld 0x11 1) 1)) id (Compl.ok n 0))) ∧
       (m.readOnly = false → s.pmu.pfail = true → ∀ ok, exec (.unmount id ok) s = .next s) ∧
       (m.readOnly = false → s.pmu.pfail = false → exec (.unmount id false) s = .next (cmFail s (c.fld 0x10 1) id))) ∧
     (Started s id 0x1A c → xpOf s (c.fld 0x10 1) = some x → x.mount = some m → (s.strm.any fun p => p.2.xp == c.fld 0x10 1) = false →
       m.readOnly = false → dataOk s c = true → s.pmu.pfail = false → specs.length = c.fld 0x11 1 →
       (let u := cmdRead s c (c.fld 0x18 8) (16 * specs.length)
        let fits := specs.all specOk = true ∧ sumOf (specs.map fun b => fieldOf b 2 2) ≤ 192
        (fits → exec (.formatPartitions id specs) s =
          .next (complete (storeCm u (c.fld 0x10 1) fun x => formatted x m (layOut 0 specs)) id (Compl.ok 0 0))) ∧
        (¬ fits → exec (.formatPartitions id specs) s = .next (complete u id (Compl.field 0xFF)))))) ∧
  (∀ (s : State) (t : Nat) (x : Xport) (m : Mount), xpOf s t = some x → x.mount = some m →
     (1024 ≤ m.dsSinceCm → m.readOnly = false → x.cmTry = none → s.pmu.pfail = false →
       exec (.cmUpdate t true) s = .next (storeCm s t cmWrite) ∧ exec (.cmUpdate t false) s = .next (countFault (updXp s t fun x =>
         { x with cmTry := some (1, now s + 100 * msTicks, noCmd) }) 9 1 0 0 1))) ∧
  (∀ (s : State) (t : Nat) (x : Xport) (dt n due id : Nat), xpOf s t = some x → x.cmTry = some (n, due, id) →
     (let u := advance s dt
      let v := updXp u t fun x => { x with cmTry := none }
      (now u < due → ∀ ok, exec (.cmAccessRetry dt t ok) s = .next u) ∧
      (due ≤ now u → (s.pmu.pfail = false ∨ ∃ c, cmdOf s id = some c ∧ c.opcode = 0x18) →
        exec (.cmAccessRetry dt t true) s = .next (cmResume (countFault v 9 0 1 0 0) t id) ∧
        (n < 2 → exec (.cmAccessRetry dt t false) s = .next (countFault (updXp u t fun x => { x with
          cmTry := some (n + 1, now u + 100 * msTicks, id) }) 9 0 0 0 1)) ∧
        (2 ≤ n → exec (.cmAccessRetry dt t false) s = .next (cmGiveUp (faultSpent v { FltLog.blank with
          cls := 9, status := (cmdOf s id).elim 0 fun c => if c.opcode = 0x18 then 0x28 else 0x64, event := evXp t 10, xp := t,
          ring := (cmdOf s id).elim 0xFFFF (·.ring), cid := (cmdOf s id).elim 0 (·.cid), tries := 3 } subjXp t) t id)))))

/-- What FORMAT_PARTITIONS leaves on the transport (R239, R441, R501). -/
def Obligations.FormatEmptiesPartitions : Prop :=
  ∀ (x : Xport) (m : Mount) (specs : List (BitVec 128)) (i : Nat) (b : BitVec 128), specs[i]? = some b →
    ∃ m' e, (formatted x m (layOut 0 specs)).mount = some m' ∧ m'.gen = (m.gen + 1) % 2 ^ 32 ∧
      m'.parts.length = specs.length ∧ m'.parts[i]? = some e ∧
      e.firstWrap = sumOf ((specs.take i).map fun b => fieldOf b 2 2) ∧ e.wraps = fieldOf b 2 2 ∧ e.eod = 0 ∧ e.nextSeq = 1 ∧
      e.policy = fieldOf b 0 1 ∧ e.tag = fieldOf b 8 8 ∧
      (∀ k, (formatted x m (layOut 0 specs)).cart = some k → k.parts.length = specs.length ∧ ∀ p ∈ k.parts, p = ⟨[], []⟩)

/-- OPEN_STREAM, FLUSH, SYNC, CLOSE_STREAM and GET_POSITION (R244 to R249, R258 to R265). -/
def Obligations.StreamCommands : Prop :=
  ∀ (s : State) (id : Nat) (c : Cmd) (y : Ctx) (m : Mount) (x : Xport) (k : Nat) (st : Stream),
    (Started s id 0x40 c → ctxOf s c.ctx = some y →
      (∀ e, openChecks s c y.d = some e → exec (.openStream id) s = .next (complete s id e)) ∧
      (openChecks s c y.d = none → (xpOf s (c.fld 0x10 1)).bind (·.mount) = some m →
        leastFree (s.strm.map (·.1)) 0 16384 = some k →
        (let t := c.fld 0x10 1
         let p := c.fld 0x11 1
         let new := Stream.opened c.ctx c.ring t p (bitOf (c.fld 0x12 1) 0)
         (bitOf (c.fld 0x12 1) 0 = true ∨ m.wrPart = some p →
           exec (.openStream id) s = .next (complete { s with strm := Tbl.put s.strm k new } id (Compl.ok k 0))) ∧
         (bitOf (c.fld 0x12 1) 0 = false → m.wrPart ≠ some p → (m.wrPart = none ∨ partIdle m = true ∨ m.reserveOut = true) →
           exec (.openStream id) s = .next (
             let u := updXp s t fun x => (partOf m p).elim x (startPart x m p)
             complete { u with strm := Tbl.put u.strm k new } id (Compl.ok k 0))) ∧
         (bitOf (c.fld 0x12 1) 0 = false → m.wrPart ≠ some p → m.wrPart ≠ none → partIdle m = false → m.reserveOut = false →
           (xpOf s t).elim false (·.faulted) = false →
           exec (.openStream id) s = .next (setProg (closePart s t) id (.waiting 0)))))) ∧
    (Started s id 0x43 c →
      (streamFor s c false = none → exec (.flush id) s = .next (complete s id (Compl.of 5))) ∧
      (streamFor s c false = some (k, st) →
        (c.hot = true → exec (.flush id) s = .next (complete s id (Compl.of 0x65))) ∧
        (c.hot = false → exec (.flush id) s = .next (settle (setProg s id (.waiting 0)))))) ∧
    (Started s id 0x44 c →
      (streamFor s c false = none → exec (.sync id) s = .next (complete s id (Compl.of 5))) ∧
      (streamFor s c false = some (k, st) →
        (c.hot = true → exec (.sync id) s = .next (complete s id (Compl.of 0x65))) ∧
        (c.hot = false → exec (.sync id) s = .next (settle (setProg s id (.waiting 0)))))) ∧
    (Started s id 0x45 c →
      (c.late = false → c.stream = some k → Tbl.get? s.strm k = some st →
        exec (.closeStream id) s = .next (settle (setProg s id (.waiting 0)))) ∧
      (c.late = true ∨ c.stream = none → exec (.closeStream id) s = .next (complete s id (Compl.of 5)))) ∧
    (Started s id 0x4B c →
      (c.late = false → c.stream = some k → Tbl.get? s.strm k = some st → xpOf s st.xp = some x → x.mount = some m →
        exec (.getPosition id) s = .next (answer s c 0x18 (positionBlock s st x m) (Compl.ok 0 0))) ∧
      (c.late = true ∨ c.stream = none → exec (.getPosition id) s = .next (complete s id (Compl.of 5))))

/-- WRITE and WRITE_BATCH begin to ingest, and RECORD_INGEST takes each record. WRITE and WRITE_BATCH begin to ingest
(R254, R256, R258, R280, R285). RECORD_INGEST of the next record (R52, R116, R254, R415, R710). -/
def Obligations.WritesIngestRecords : Prop :=
  (∀ (s : State) (id : Nat) (c : Cmd),
     (∀ (e : Compl) (sgl : List SglElem) (descs : List (BitVec 256)) (sgls : List (List SglElem)), writeChecks s c = .error e →
       (Started s id 0x41 c → exec (.write id sgl) s = .next (endWrite s c e)) ∧
       (Started s id 0x42 c → exec (.writeBatch id descs sgls) s = .next (endWrite s c e))) ∧
     (∀ (st : Stream) (d : Desc), writeChecks s c = .ok (st, d) → dataOk s c = true →
       (∀ sgl : List SglElem, Started s id 0x41 c →
         (let u := cmdRead s c (c.fld 0x18 8) (16 * c.fld 0x20 2)
          (sglOk (c.fld 0x20 2) (c.fld 0x14 4) sgl = true → exec (.write id sgl) s = .next (updCmd u id fun c => { c with
            bufs := [pieces (c.fld 0x18 8) (c.fld 0x14 4) (c.fld 0x20 2) sgl], moved := now s, prog := .writing 1 0 none })) ∧
          (sglOk (c.fld 0x20 2) (c.fld 0x14 4) sgl = false →
            exec (.write id sgl) s = .next (endWrite u c (Compl.of 6))))) ∧
       (∀ (descs : List (BitVec 256)) (sgls : List (List SglElem)), Started s id 0x42 c → descs.length = c.fld 0x12 2 →
         (let u := cmdRead s c (c.fld 0x18 8) (32 * c.fld 0x12 2)
          (sumOf (descs.map fun k => fieldOf k 8 4) ≤ d.staging * 1048576 →
            exec (.writeBatch id descs sgls) s = .next (
              let v := descs.foldl (fun s k => readSgl s c (fieldOf k 0 8) (fieldOf k 0xC 2)) u
              finishWrite (updCmd v id fun c => { c with
                descs := descs, bufs := batchBufs descs sgls, moved := now v,
                prog := .writing descs.length 0 (firstBad d.maxLabel 0 descs sgls) }) id)) ∧
          (d.staging * 1048576 < sumOf (descs.map fun k => fieldOf k 8 4) →
            exec (.writeBatch id descs sgls) s = .next (endWrite u c (Compl.field 0x12))))))) ∧
  (∀ (s : State) (id : Nat) (c : Cmd) (st : Stream) (x : Ctx) (label data : Bytes), writeWork s id = some (c, st, x) →
     (let old := c.recs.find? fun r => r.stage == 4
      let i := old.elim c.recs.length (·.idx)
      wantsRec c i = true → label.length = recLab c i → data.length = recLen c i →
      (dataOk s c = false → exec (.recordIngest id label data) s = .next (failRec s c i (Compl.of 7))) ∧
      (dataOk s c = true →
        (let u := readBuf (cmdRead s c (recLabAddr c i) (recLab c i)) c (recBuf c i) (recLen c i)
         let new := RecWork.ingest i label data s.tbu.sec s.tbu.ns
         (bitOf (recFlags c i) 0 = true → crc32c data ≠ recCrc c i →
           exec (.recordIngest id label data) s = .next (failRec u c i (Compl.of 0x20))) ∧
         (bitOf (recFlags c i) 0 = false ∨ crc32c data = recCrc c i →
           (old = none → exec (.recordIngest id label data) s = .next (countHw u
             (updCtx (updCmd u id fun k => { k with recs := k.recs ++ [new], moved := now u }) c.ctx fun x =>
               { x with staged := x.staged + data.length }) c.ctx)) ∧
           (∀ o, old = some o → exec (.recordIngest id label data) s = .next (updRec u id i fun _ =>
             { new with retries := o.retries, reseals := o.reseals, banned := o.banned })))))))

/-- A record is coded, sealed, checked back, packed and acknowledged. RECORD_COMPRESS, RECORD_SEAL and CHECK_BACK
(R255, R348 to R352, R387, R415, R424, R432). RECORD_PACK and FLUSH_WINDOW_EXPIRE (R190, R231, R259, R267, R461 to
R466). -/
def Obligations.RecordsMoveToTape : Prop :=
  (∀ (s : State) (id : Nat) (c : Cmd) (st : Stream) (x : Ctx) (r : RecWork), writeWork s id = some (c, st, x) →
     (∀ ing coded, (c.recs.find? fun r => r.stage == 0) = some r → mayCode s st.xp r = true → engRun s 0 st.xp = true →
       (x.d.history = true → r.idx = c.acked ∧ packsBefore s c = false ∧ flushAhead s c = false) →
       (let run := beginsRun x.d st (keySel c)
        let off := bitOf (recFlags c r.idx) 1 || !x.d.compressEn
        let u := noteSeen s ing evIng subjCtx c.ctx
        (seenOk ing = true → (off = true ∨ ktcCodes st.runData run r.data coded = true) →
          (let raw := off || decide (r.data.length ≤ coded.length)
           let p := if raw then r.data else coded
           exec (.recordCompress id ing coded) s = .next (updRec u id r.idx fun k => { k with
             stage := 1, raw := raw, payload := p, sealCrc := crc32c p, runStart := run }))) ∧
        (seenOk ing = false → exec (.recordCompress id ing coded) s = .next (ingestFault u c r ing true evIng)))) ∧
     (∀ e, (c.recs.find? fun r => r.stage == 1) = some r →
       (x.d.cipher = 0 → exec (.recordSeal id e) s = .next (updRec s id r.idx fun k => { k with
         stage := 3, iv := List.replicate 12 0, ctr := 0, enc := false, keyId := 0, body := k.plain, gtag := [] })) ∧
       (∀ k, x.d.cipher ≠ 0 → (runEngines s 2).elem e = true → (x.d.checkback = true → 1 < (runEngines s 2).length) →
         (2 < (runEngines s 2).length → r.banned.elem e = false) → keyFor s c x.d = some k →
         (∀ v, (nextIv s).1 = some v → exec (.recordSeal id e) s =
           .next (updRec (nextIv s).2 id r.idx fun w => sealWith w x.d k (nextIv s).2.keys.fid v e)) ∧
         ((nextIv s).1 = none → exec (.recordSeal id e) s =
           .next (failRec (countReject (nextIv s).2) c r.idx (Compl.of 0x48))))) ∧
     (∀ e chk, (c.recs.find? fun r => r.stage == 2) = some r → 1 < (runEngines s 2).length → (runEngines s 2).elem e = true →
       e ≠ r.engine →
       (let u := noteSeen s chk evCheckback subjCtx c.ctx
        (seenOk chk = true → exec (.checkBack id e chk) s = .next (updRec u id r.idx fun k => { k with stage := 3 })) ∧
        (seenOk chk = false → r.reseals < 2 →
          exec (.checkBack id e chk) s = .next (updRec (countFault u 2 1 0 0 1) id r.idx fun k => { k with
            stage := 0, reseals := k.reseals + 1, banned := [k.engine, e] }))))) ∧
  (∀ (s : State) (id : Nat) (c : Cmd) (st : Stream) (x : Ctx) (r : RecWork) (k : Nat) (m : Mount),
     (∀ xfr lbl rows, writeWork s id = some (c, st, x) → (c.recs.find? fun r => r.idx == c.acked) = some r → c.stream = some k →
       (xpOf s st.xp).bind (·.mount) = some m → r.stage = 3 → packsBefore s c = false → dataOk s c = true → asmFull s st.xp = false →
       engRun s 5 st.xp = true → (xpOf s st.xp).elim false (·.faulted) = false →
       (let u := noteSeen (noteSeen s xfr evXfr subjCtx c.ctx) lbl evChain subjCtx c.ctx
        let seq := (partOf m st.part).elim 1 (·.nextSeq)
        (seenOk xfr = false → exec (.recordPack id xfr lbl rows) s = .next (ingestFault u c r xfr false evXfr)) ∧
        (seenOk xfr = true → seenOk lbl = false →
          exec (.recordPack id xfr lbl rows) s = .next (ingestFault u c r lbl true evChain)) ∧
        (seenOk xfr = true → seenOk lbl = true → m.eopRaised = true →
          exec (.recordPack id xfr lbl rows) s = .next (failRec u c r.idx (Compl.of 0x61))) ∧
        (seenOk xfr = true → seenOk lbl = true → m.eopRaised = false →
          (∀ m' ds off last, packInto u m (alignUp (storedLen r) 16) seq r.sec r.data.length = some (m', ds, off, last) →
            exec (.recordPack id xfr lbl rows) s = .next (
              let v := ackRecord u c x k st r m m' seq ds off last
              settle (finishWrite (if dataClosed m < dataClosed m' then damageRows v st.xp (m.openDs.elim ds (·.num)) rows else v)
                id))) ∧
          (packInto u m (alignUp (storedLen r) 16) seq r.sec r.data.length = none →
            exec (.recordPack id xfr lbl rows) s = .next (atEop u c st.xp r.idx))))) ∧
     (∀ dt t rows o w, (xpOf s t).bind (·.mount) = some m → m.flushAt = some w → m.openDs = some o →
       (w ≤ now (advance s dt) → exec (.flushWindowExpire dt t rows) s =
         .next (settle (damageRows (closeDataset (advance s dt) t false) t o.num rows))) ∧
       (now (advance s dt) < w → exec (.flushWindowExpire dt t rows) s = .next (advance s dt))))

/-- What packing leaves: no dataset over its packed stream, numbers rising (R231, R461, R466). -/
def Obligations.PackingFillsDatasets : Prop :=
  ∀ (s : State) (fuel n last : Nat) (m m' : Mount) (o : OpenDs), m.openDs = some o → o.used ≤ packBytes → o.num < m.nextNum →
    fillBytes s fuel m n = some (m', last) →
    o.num ≤ last ∧ last < m'.nextNum ∧ m.nextNum ≤ m'.nextNum ∧ (∀ p, m'.openDs = some p → p.used + 48 ≤ packBytes)

/-- The writing side of a transport and its speed matching. WRITE_SEGMENT_BOUNDARY, DATASET_BOUNDARY, WRAP_TURNAROUND,
TRANSPORT_RESTART and WRITE_POSITION_RETURN (R250, R272, R447, R570, R579, R582 to R586). SPEED_MATCH_TICK (R580, R583). -/
def Obligations.TapeMotion : Prop :=
  (∀ (s : State) (t : Nat) (x : Xport) (m : Mount), xpOf s t = some x → x.mount = some m →
     (∀ c d, m.cur = some c → curDs m = some d → x.motion = .writing →
       (∀ dt rows, let u := advance s dt
         (x.haltReq ≠ 0 → exec (.writeSegmentBoundary dt t rows) s =
           .next (interrupt (if x.haltReq = 2 ∧ x.haltAt < now u then cutFlight u t else u) t)) ∧
         (x.haltReq = 0 → c.lead = true →
           (wgHigh x.wi = true → x.blk.bhMm * 1000 ≤ x.run → exec (.writeSegmentBoundary dt t rows) s =
             .next (updMount (sendAll u t (separator 2048)) t fun m => { m with
               cur := some { c with lead := false, cut := false }, wrBits := m.wrBits + 2304 })) ∧
           (wgHigh x.wi = false ∨ x.run < x.blk.bhMm * 1000 → exec (.writeSegmentBoundary dt t rows) s = .next u)) ∧
         (x.haltReq = 0 → c.lead = false → c.seg < 192 → exec (.writeSegmentBoundary dt t rows) s = .next (
           let v := if c.seg = 0 then updXp u t fun x => landDs x { d.hdr with complete := false, begAt := m.wrBits } else u
           let w := (List.range 32).foldl (laneSegment t c) v
           let own := c.own || (c.seg == 143 && syncWaitsOn w t c.num && !canDefer m c.num)
           damageRows (updMount w t fun m =>
             { updClosed m c.num (fun d => if c.seg < 144 then { d with dataSegs := d.dataSegs + 32 } else d) with
               cur := some { c with seg := c.seg + 1, cut := !wgHigh x.wi, own := own } }) t c.num rows)) ∧
         (x.haltReq = 0 → c.lead = false → 192 ≤ c.seg → exec (.writeSegmentBoundary dt t rows) s =
           .next (if mayEnd u t m c d then u else abandon u t c.num 2))) ∧
       (mayEnd s t m c d = true → (xpOf (endPosition s t m c d) t).elim true (·.faulted) = false →
         exec (.datasetBoundary t) s = .next (afterBoundary
           (recomputeXport (pushMax (noteEw (takeBlocks (endPosition s t m c d) t) t) t) t) t)) ∧
       (mayEnd s t m c d = true → (xpOf (endPosition s t m c d) t).elim true (·.faulted) = true →
         exec (.datasetBoundary t) s = .next (endPosition s t m c d)) ∧
       (mayEnd s t m c d = false → exec (.datasetBoundary t) s = .next s)) ∧
     (x.motion = .turnaround → readsNow s t = false →
       (let u := updXp { s with pmu.rtOwed := setDel s.pmu.rtOwed t } t fun x => { x with
          wrap := m.wrWrap + 1, reverse := (m.wrWrap + 1) % 2 == 1, turnarounds := satAdd 64 x.turnarounds 1,
          target := min x.target (ceilOf x (m.wrWrap + 1)), mount := some { m with wrWrap := m.wrWrap + 1, wrBits := 0 } }
        (mayWrite s t x = true → x.stopReq = false → exec (.wrapTurnaround t) s = .next (startWriting u t)) ∧
        (mayWrite s t x = false ∨ x.stopReq = true →
          exec (.wrapTurnaround t) s = .next (updXp u t fun x => { x with motion := .stopped, stopReq := false })))) ∧
     (x.motion = .turnaround → readsNow s t = true →
       exec (.wrapTurnaround t) s = .next (updXp { s with pmu.rtOwed := setDel s.pmu.rtOwed t } t fun x => { x with
         wrap := x.wrap + 1, reverse := (x.wrap + 1) % 2 == 1, turnarounds := satAdd 64 x.turnarounds 1, motion := .reading,
         target := min x.target (ceilOf x (x.wrap + 1)) })) ∧
     (x.motion = .stopped → readsNow s t = false → m.away = false → (nextToWrite m).isSome = true → mayWrite s t x = true →
       m.reserveOut = false →
       (x.blk.restWm * writeAsmMib s * 1048576 ≤ x.occ * 1000 ∨ mustWrite s t = true ∨ interrupted m = true) →
       (fitsWrap m = true → exec (.transportRestart t) s = .next (startWriting s t)) ∧
       (fitsWrap m = false → lastWrap m = true → exec (.transportRestart t) s = .next (exhaust s t)) ∧
       (fitsWrap m = false → lastWrap m = false →
         exec (.transportRestart t) s = .next (updXp s t fun x => { x with motion := .turnaround }))) ∧
     (x.motion = .stopped → readsNow s t = true → x.rsOcc * 1000 ≤ x.blk.setWm * restoreMib s * 1048576 → x.throttled = false →
       engRun s 4 t = true → x.calibrating = false →
       exec (.transportRestart t) s = .next (updXp s t fun x => { x with motion := .reading })) ∧
     (m.away = true → (s.rings.cmds.any fun c => c.done.isNone && readsTape c && cmdXp s c == some t) = false →
       (m.closed ≠ [] ∨ m.openDs ≠ none) → x.calibrating = false →
       exec (.writePositionReturn t) s = .next (updXp s t fun x => { x with
         motion := .stopped, wrap := m.wrWrap, reverse := m.wrWrap % 2 == 1, restored := [], rsOcc := 0, cws := [], goal := none,
         mount := some { m with away := false, sincePre := 0 } }))) ∧
  (∀ (s : State) (dt t : Nat) (x : Xport) (m : Mount), xpOf s t = some x → x.mount = some m →
     (let u := advance s dt
      (x.motion = .writing ∨ x.motion = .turnaround ∨ x.motion = .backhitch → exec (.speedMatchTick dt t) s = .next (
        let reg := writeAsmMib u * 1048576
        let p := speedLaw x m (rateOver u x.arrivals) x.occ reg m.wrWrap
        updXp u t fun x' => { x' with target := p.1, stopReq := x'.stopReq || (x.motion == .writing &&
          x.target == 1200 && p.2 && decide (x.occ ≤ x.blk.lowWm * reg / 1000) && !syncWaits u t) })) ∧
      (x.motion = .reading → exec (.speedMatchTick dt t) s = .next (
        let reg := restoreMib u * 1048576
        updXp u t fun x' => { x' with target := (speedLaw x m (rateOver u x.drains) (reg - x.rsOcc) reg x.wrap).1 })) ∧
      (x.motion = .stopped → exec (.speedMatchTick dt t) s = .next u)))

/-- READ and LOCATE on an open read stream (R25, R246, R269 to R279, R286, R294). -/
def Obligations.ReadCommands : Prop :=
  ∀ (s u : State) (id k : Nat) (c : Cmd) (st : Stream) (x : Ctx) (y : Xport) (sgl : List SglElem), cmdOf s id = some c →
    c.done = none → streamFor s c true = some (k, st) → ctxOf s c.ctx = some x → xpOf s st.xp = some y →
    (let vo := bitOf (c.fld 0x12 1) 0
     c.opcode = 0x48 →
     ((c.prog = .fresh ∨ c.prog = .waiting 0) →
       (∀ e, selectKey s c x.d = .error e → exec (.read id sgl) s = .next (complete s id e)) ∧
       (∀ q, selectKey s c x.d = .ok q →
         (∀ e, readBarred s st.xp = some e → exec (.read id sgl) s = .next (complete s id e)) ∧
         (readBarred s st.xp = none → dataOk s c = true → (vo = true ∨ sglOk (c.fld 0x20 2) (c.fld 0x14 4) sgl = true) →
           (takeTape s st.xp id = (false, u) → exec (.read id sgl) s = .next (waitTape u c)) ∧
           (takeTape s st.xp id = (true, u) → exec (.read id sgl) s = .next (
             let v := if vo then u else cmdRead u c (c.fld 0x18 8) (16 * c.fld 0x20 2)
             let gone := (nextRec v st).elim [] fun r => (xpOf v st.xp).elim [] fun y =>
               missing y (tapeOf v st.xp st.part) st (needed v st vo r) r
             let v := if gone.isEmpty then v else moveTape v st.xp st.part (gone.foldl min (gone.headD 0))
             let v := updCmd v id fun c => { c with
               descs := (pieces (c.fld 0x18 8) (c.fld 0x14 4) (c.fld 0x20 2) sgl).map fun q =>
                 BitVec.ofNat 256 (q.1 + 2 ^ 64 * q.2) }
             let v := setProg v id (.reading 0 0 0 false 0 [] 0)
             (cmdOf v id).elim v fun c => readStep v c st))))) ∧
     (∀ n off bytes bad p rt, c.prog = .reading n off bytes bad 0 p rt →
       (let status := if vo && bad then 0x22 else 0
        (nextRec s st = none → exec (.read id sgl) s = .next (endRead s c st.xp (if n = 0 then Compl.of 0x60 else
          { Compl.ok n bytes with status := status }))) ∧
        (∀ r, nextRec s st = some r →
          (c.fld 0x22 2 ≤ n → exec (.read id sgl) s = .next (endRead s c st.xp { Compl.ok n bytes with
            status := status, more := true })) ∧
          (n < c.fld 0x22 2 → vo = false → c.fld 0x14 4 / 16 * 16 < alignUp off 16 + bufLen r →
            exec (.read id sgl) s = .next (endRead s c st.xp (if n = 0 then { Compl.field 0x14 with result2 := bufLen r }
              else { Compl.ok n bytes with more := true }))) ∧
          (n < c.fld 0x22 2 → (vo = true ∨ alignUp off 16 + bufLen r ≤ c.fld 0x14 4 / 16 * 16) →
            (let need := needed s st vo r
             (∀ d, lostFor y st r need = some d →
               exec (.read id sgl) s = .next (endRead s c st.xp ⟨0x27, false, false, false, false, n, d⟩)) ∧
             (lostFor y st r need = none →
               (let v := releaseRestored s st.xp st.part (need.foldl min (min r.ds st.lastDs))
                ∀ z, xpOf v st.xp = some z → missing z (tapeOf s st.xp st.part) st need r = [] →
                  hdrFail v z (tapeOf s st.xp st.part) st vo r = none →
                  exec (.read id sgl) s = .next (setProg v c.id (.reading n off bytes bad 1 [] rt)))))))))) ∧
    (c.opcode = 0x49 → readBarred s st.xp = none →
      (let r := (streamRecs s st).find? (meets c)
       (c.prog = .fresh ∨ c.prog = .waiting 0 →
         (takeTape s st.xp id = (false, u) → exec (.locate id) s = .next (waitTape u c)) ∧
         (takeTape s st.xp id = (true, u) → exec (.locate id) s = .next
           (setProg (moveTape u st.xp st.part (r.elim (endOf s st) (·.ds))) id (.waiting 1)))) ∧
       (c.prog = .waiting 1 →
         (y.goal ≠ none → exec (.locate id) s = .next s) ∧
         (y.goal = none →
           (∀ q, r = some q → exec (.locate id) s = .next (restTape (complete
             (updStrm s k fun st => { st with pos := q.seq, lastDs := q.ds }) id (Compl.ok 0 q.seq)) st.xp)) ∧
           (r = none → exec (.locate id) s = .next (restTape (complete
             (updStrm s k (pastAll (streamRecs s st))) id (Compl.ok 0 0)) st.xp))))))

/-- VERIFY_SCAN and DATASET_RECOVER (R25, R287, R288, R471 to R475, R486 to R500, R533 to R537). -/
def Obligations.ScanAndRecover : Prop :=
  ∀ (s u : State) (id k t : Nat) (c : Cmd) (st : Stream) (x : Ctx), cmdOf s id = some c → c.done = none →
    streamFor s c true = some (k, st) → ctxOf s c.ctx = some x →
    (c.opcode = 0x4A → (c.prog = .fresh ∨ c.prog = .waiting 0) →
      (∀ e, readBarred s st.xp = some e → exec (.verifyScan id) s = .next (complete s id e)) ∧
      (readBarred s st.xp = none → dataOk s c = true →
        (takeTape s st.xp id = (false, u) → exec (.verifyScan id) s = .next (waitTape u c)) ∧
        (takeTape s st.xp id = (true, u) →
          (let ds := (nextRec s st).elim (endOf s st) (·.ds)
           exec (.verifyScan id) s = .next (if scanMore s st ds then
             setProg (moveTape u st.xp st.part ds) id (.scanning ds (c.fld 0x14 4) (scanZero ds))
           else endScan u c k st (scanZero ds)))))) ∧
    (∀ ds left rep, c.opcode = 0x4A → c.prog = .scanning ds left rep →
      (scanOver s c st x ds left rep = true → exec (.verifyScan id) s = .next (endScan s c k st rep)) ∧
      (scanOver s c st x ds left rep = false → exec (.verifyScan id) s = .next s)) ∧
    (∀ y m ds d, xpOf s t = some y → y.mount = some m →
      (s.rings.cmds.find? fun c => readsTape c && c.done.isNone && cmdXp s c == some t) = some c →
      authAttempt (tapeOf s t st.part) m.gen ds = some d → dsPassed s t y (ds + 1 == partEod m st.part) d = true →
      (let r := recoverDs s t y m (tapeOf s t st.part) st.part d
       let good := r.out != .failed
       let v := readBoundary (countRecover (notePins s t r) t ds r.out) t
       (∀ w, recoverLater (notePins s t r) t st.part ds r = some w →
         ((∃ left rep, c.prog = .scanning ds left rep ∧ scanOver s c st x ds left rep = false) ∨
           (∃ n off bytes bad h p rt, c.prog = .reading n off bytes bad h p rt ∧ readWants s c st y ds = true)) →
         exec (.datasetRecover t ds) s = .next w) ∧
       (∀ left rep, recoverLater (notePins s t r) t st.part ds r = none → c.prog = .scanning ds left rep →
         scanOver s c st x ds left rep = false →
         (let rep1 := if left = 0 then (if r.out = .failed then rep ++ [ds] else rep) else scanNote rep ds r.out r.fixed
          let v := settleDs v t ds good
          let v := if (scanKey v c x).isSome then addRestored v t st.part ds r [] else v
          exec (.datasetRecover t ds) s = .next (
            if scanDue v c st x ds rep1 ≠ [] ∧ runEngines v 2 = [] then restTape (complete v c.id (Compl.of 0x42)) t
            else
              let q := scanTags v c st x ds rep1
              let w := if scanOwes q.1 c st x (ds + 1) q.2 then q.1 else releaseRestored q.1 t st.part (ds + 1)
              let w := setProg w c.id (.scanning (ds + 1) (left - 1) q.2)
              if scanOver w c st x (ds + 1) (left - 1) q.2 then endScan w c k st q.2 else w))) ∧
       (∀ n off bytes bad h p rt, recoverLater (notePins s t r) t st.part ds r = none → c.prog = .reading n off bytes bad h p rt →
         readWants s c st y ds = true → exec (.datasetRecover t ds) s = .next (
           let need := (nextRec v st).elim [] (needed v st (bitOf (c.fld 0x12 1) 0))
           let w := addRestored (settleDs v t ds good) t st.part ds r need
           let w := updCmd w c.id fun c => { c with moved := now w }
           if h = 0 then (cmdOf w c.id).elim w fun c => readStep w c st else w))))

/-- RECORD_OPEN and RECORD_DECOMPRESS (R277, R303, R332, R336, R382 to R385, R415, R418, R424, R428). -/
def Obligations.OpenAndExpand : Prop :=
  ∀ (s : State) (id k : Nat) (c : Cmd) (st : Stream) (x : Ctx) (r : TapeRec) (n off bytes : Nat) (bad : Bool) (p : Bytes)
    (h rt : Nat), readWork s id = some (c, k, st, x, r) → c.prog = .reading n off bytes bad h p rt →
    (∀ e row xfr, h = 1 → (r.enc = true → (runEngines s 2).elem e = true ∧ sealWaits s = false) →
      ((xpOf s st.xp).elim true fun y => spanOk y (tapeOf s st.xp st.part) st.part r) = true →
      (let vo := bitOf (c.fld 0x12 1) 0
       let u := noteSeen s row evRow subjCtx c.ctx
       let v := noteSeen u xfr evChain subjCtx c.ctx
       (seenOk row = false → exec (.recordOpen id e row xfr) s = .next (restoreFault u c k st r row evRow)) ∧
       (seenOk row = true → seenOk xfr = false →
         exec (.recordOpen id e row xfr) s = .next (restoreFault v c k st r xfr evChain)) ∧
       (seenOk row = true → seenOk xfr = true →
         (∀ q, opened v c x r = .error q → exec (.recordOpen id e row xfr) s = .next (returnRec v c k st r q none)) ∧
         (∀ b, vo = true → opened v c x r = .ok (true, b) →
           exec (.recordOpen id e row xfr) s = .next (returnRec v c k st r 0 none)) ∧
         (∀ b, vo = true → opened v c x r = .ok (false, b) → rt < 4 → exec (.recordOpen id e row xfr) s =
           .next (setProg (countFault v 6 1 0 0 1) id (.reading n off bytes bad 1 [] (rt + 4)))) ∧
         (∀ b, vo = true → opened v c x r = .ok (false, b) → 4 ≤ rt → exec (.recordOpen id e row xfr) s =
           .next (returnRec (openSpent v c st r 0x22 evTagFail) c k st r 0x22 none)) ∧
         (∀ good b, vo = false → opened v c x r = .ok (good, b) → exec (.recordOpen id e row xfr) s =
           .next (setProg v id (.reading n off bytes bad (if good then 2 else 3) b rt)))))) ∧
    (∀ egr, engRun s 1 st.xp = true →
      (let u := noteSeen s egr evChain subjCtx c.ctx
       (∀ d, h = 2 → expanded s c st x r p = .ok d →
         (seenOk egr = true → exec (.recordDecompress id egr) s = .next (returnRec u c k st r 0 (some d))) ∧
         (seenOk egr = false → exec (.recordDecompress id egr) s = .next (restoreFault u c k st r egr evChain))) ∧
       (h = 3 → rt < 4 → exec (.recordDecompress id egr) s =
         .next (setProg (countFault u 6 1 0 0 1) id (.reading n off bytes bad 1 [] (rt + 4)))) ∧
       (∀ q d, h = 2 → expanded s c st x r p = .error (q, d) → q ≠ 0 → q ≠ 0x28 →
         (rt < 4 → exec (.recordDecompress id egr) s =
           .next (setProg (countFault u 6 1 0 0 1) id (.reading n off bytes bad 1 [] (rt + 4)))) ∧
         (4 ≤ rt → exec (.recordDecompress id egr) s =
           .next (returnRec (openSpent u c st r q (recEvent q)) c k st r q (if d.isEmpty then none else some d))))))

/-- Service jobs and CRYPT_BLOCK. COMPRESS, DECOMPRESS, RESUME and SERVICE_JOB_END (R318 to R334, R337 to R342).
CRYPT_BLOCK (R345, R346, R353, R390 to R392). -/
def Obligations.ServiceCommands : Prop :=
  (∀ (s : State) (id i : Nat) (c : Cmd) (inSgl outSgl : List SglElem) (ctx : Bytes), dataOk s c = true →
     (let good := sglOk (c.fld 0x12 2) (c.fld 0x14 4) inSgl = true ∧ sglOk (c.fld 0x2C 2) (c.fld 0x28 4) outSgl = true
      let to_ := pieces (c.fld 0x20 8) (c.fld 0x28 4) (c.fld 0x2C 2) outSgl
      let reads := fun (u : State) => (pieces (c.fld 0x18 8) (c.fld 0x14 4) (c.fld 0x12 2) inSgl).foldl (fun s p => cmdRead s c p.1 p.2) u
      let begins := fun (u : State) (j : Job) =>
        setProg { reads u with svc := Tbl.put (reads u).svc id { j with lane := i, outTo := to_ } } id (.engine i)
      let v := cmdRead s c (c.fld 0x30 8) 66560
      let kind := (Job.resume c ctx).compress
      (Started s id 0x80 c →
        (¬ good → exec (.compress id inSgl outSgl) s = .next (complete s id (Compl.of 6))) ∧
        (good → lanesShut s true = true → exec (.compress id inSgl outSgl) s = .next (complete s id (Compl.of 0x42))) ∧
        (good → lanesShut s true = false → freeLane s true = some i →
          exec (.compress id inSgl outSgl) s = .next (begins s (Job.begin c true)))) ∧
      (Started s id 0x81 c →
        (¬ good → exec (.decompress id inSgl outSgl) s = .next (complete s id (Compl.of 6))) ∧
        (good → lanesShut s false = true → exec (.decompress id inSgl outSgl) s = .next (complete s id (Compl.of 0x42))) ∧
        (good → lanesShut s false = false → freeLane s false = some i →
          exec (.decompress id inSgl outSgl) s = .next (begins s (Job.begin c false)))) ∧
      (Started s id 0x82 c →
        (ctxOk c ctx = false → exec (.resume id ctx inSgl outSgl) s = .next (complete v id (Compl.field 0xFF))) ∧
        (ctxOk c ctx = true → good → lanesShut s kind = true →
          exec (.resume id ctx inSgl outSgl) s = .next (complete v id (Compl.of 0x42))) ∧
        (ctxOk c ctx = true → good → lanesShut s kind = false → freeLane s kind = some i →
          exec (.resume id ctx inSgl outSgl) s = .next (begins v (Job.resume c ctx)))))) ∧
  (∀ (s : State) (id : Nat) (c : Cmd) (j : Job) (r : JobEnd), cmdOf s id = some c → c.done = none → Tbl.get? s.svc id = some j →
     j.lane ≠ noLane → r.input.length = j.inLen → r.again.length = j.inLen →
     (let u := noteSeen s r.chk evChain subjCtx c.ctx
      let q := secondDecode u c j r (runJob j r.input r.steps)
      let wr := writesCtx j q.2.status
      let v := cmdScatter q.1 c j.outTo 0 q.2.out false
      (seenOk r.chk = false → exec (.serviceJobEnd id r) s = .next u) ∧
      (seenOk r.chk = true → (wr = true → r.ctxWriteOk = true) → exec (.serviceJobEnd id r) s = .next (leaveLane
        (complete (if wr then cmdWrite v c (c.fld 0x30 8) (ctxBytes c j q.2) false else v) id
          { Compl.ok q.2.inUsed q.2.out.length with status := q.2.status, more := q.2.more, resumable := wr }) id j q.2)) ∧
      (seenOk r.chk = true → wr = true → r.ctxWriteOk = false → exec (.serviceJobEnd id r) s = .next (leaveLane
        (complete v id { Compl.ok q.2.inUsed q.2.out.length with status := 7 }) id j q.2)))) ∧
  (∀ (s : State) (id e : Nat) (c : Cmd) (x : Ctx) (key : KeyVal) (inSgl outSgl : List SglElem) (input aad : Bytes) (ivt : BitVec 256),
     cmdOf s id = some c → c.opcode = 0x84 → c.done = none → c.prog ≠ .ordered → ctxOf s c.ctx = some x →
     selectKey s c x.d = .ok (some key) → dataOk s c = true → sglOk (c.fld 0x12 2) (c.fld 0x14 4) inSgl = true →
     (c.fld 0x10 1 = 2 ∨ c.fld 0x14 4 = 0 ∨ sglOk (c.fld 0x28 2) (c.fld 0x14 4) outSgl = true) →
     (let mode := c.fld 0x10 1
      let ends := fun (u : State) (iv : Bytes) (r2 : Nat) =>
        let r := cryptRun key.bytes input aad mode iv (leBytes 16 (fieldOf ivt 16 16))
        let v := cmdScatter (cryptReads u c inSgl) c (pieces (c.fld 0x20 8) (c.fld 0x14 4) (c.fld 0x28 2) outSgl) 0 r.1 false
        complete (cmdWrite v c (c.fld 0x38 8) r.2.1 false) id { Compl.ok r.1.length r2 with status := r.2.2 }
      (mode ≠ 0 → fieldOf ivt 12 4 ≠ 0 →
        exec (.cryptBlock id e inSgl outSgl input aad ivt) s = .next (complete s id (Compl.field 0xFF))) ∧
      ((mode = 0 ∨ fieldOf ivt 12 4 = 0) → runEngines s 2 = [] →
        exec (.cryptBlock id e inSgl outSgl input aad ivt) s = .next (complete s id (Compl.of 0x42))) ∧
      ((mode = 0 ∨ fieldOf ivt 12 4 = 0) → (runEngines s 2).elem e = true → sealWaits s = false → openWaits s = false →
        blockWaits s id = false → input.length = c.fld 0x14 4 → aad.length = c.fld 0x2A 2 →
        (mode ≠ 0 → exec (.cryptBlock id e inSgl outSgl input aad ivt) s = .next (ends s (leBytes 12 (fieldOf ivt 0 12)) 0)) ∧
        (∀ ctr, mode = 0 → (nextIv s).1 = some ctr → exec (.cryptBlock id e inSgl outSgl input aad ivt) s =
          .next (ends (nextIv s).2 (ivBytes (nextIv s).2.keys.fid ctr) ctr)) ∧
        (mode = 0 → (nextIv s).1 = none → exec (.cryptBlock id e inSgl outSgl input aad ivt) s =
          .next (complete (countReject (nextIv s).2) id (Compl.of 0x48))))))


/-- Transport blocks, status and calibration. TRANSPORT_CONFIG (R539 to R542, R589). GET_TRANSPORT_STATUS (R590).
STARTUP_CALIBRATION and CALIBRATE (R591 to R594, R602, R681). -/
def Obligations.TransportCommands : Prop :=
  (∀ (s : State) (id : Nat) (c : Cmd) (blk : BitVec 256), Started s id 0x1B c → dataOk s c = true →
     (let t := c.fld 0x10 1
      let b := cmdBlock s c (c.fld 0x18 8) blk
      let u := cmdRead s c (c.fld 0x18 8) 32
      (c.mailbox = true → 4096 < c.fld 0x18 8 + 32 →
        exec (.transportConfig id blk) s = .next (complete s id (Compl.field 0x18))) ∧
      ((c.mailbox = false ∨ c.fld 0x18 8 + 32 ≤ 4096) →
        (∀ k, c.fld 0x11 1 = 0 → readXpBlock b = some k →
          exec (.transportConfig id blk) s = .next (complete (updXp u t fun x =>
            if x.motion = .writing then { x with blkNext := some k } else { x with blk := k, blkNext := none }) id (Compl.ok 0 0))) ∧
        (∀ k, c.fld 0x11 1 = 1 → readRcBlock b = some k → exec (.transportConfig id blk) s =
          .next (complete (updXp u t fun x => { x with rcNext := some k }) id (Compl.ok 0 0))) ∧
        (∀ k, c.fld 0x11 1 ≠ 0 → c.fld 0x11 1 ≠ 1 → readPoolBlock b = some k → exec (.transportConfig id blk) s =
          .next (complete { u with rc.blkNext := some k } id (Compl.ok 0 0))) ∧
        (((c.fld 0x11 1 = 0 ∧ readXpBlock b = none) ∨ (c.fld 0x11 1 = 1 ∧ readRcBlock b = none) ∨
            (c.fld 0x11 1 ≠ 0 ∧ c.fld 0x11 1 ≠ 1 ∧ readPoolBlock b = none)) →
          exec (.transportConfig id blk) s = .next (complete u id (Compl.field 0xFF)))))) ∧
  (∀ (s : State) (id : Nat) (c : Cmd) (x : Xport), Started s id 0x1C c → xpOf s (c.fld 0x10 1) = some x →
     exec (.getTransportStatus id) s = .next (answer s c 0x18
       (if c.fld 0x11 1 = 0 then statusPage s (c.fld 0x10 1) x else if c.fld 0x11 1 = 1 then xpBlockBytes (x.blkNext.getD x.blk)
        else if c.fld 0x11 1 = 2 then rcBlockBytes (x.rcNext.getD x.rc) else poolBlockBytes (s.rc.blkNext.getD s.rc.blk))
       (Compl.ok (tstate x + 256 * x.motion.code) 0))) ∧
  (∀ (s : State) (t id : Nat) (x : Xport) (c : Cmd),
     (∀ b, xpOf s t = some x → s.pmu.booted = true → x.startup = false → engRun s 4 t = true → s.pmu.ps = .run →
       exec (.startupCalibration t b) s = .next (raise (updXp s t fun x => { x with
         fitted := b && !drivesDisabled s t, startup := b && !drivesDisabled s t,
         faulted := if b && !drivesDisabled s t then false else x.faulted,
         motionOk := s.pmu.flash.calMotion.elem t, rcOk := s.pmu.flash.calRc.elem t }) (evXp t 11) subjXp t 0)) ∧
     (∀ p, Started s id 0x1D c → xpOf s (c.fld 0x10 1) = some x →
       (let kind := c.fld 0x11 1
        (2 ≤ kind → x.mount = none → exec (.calibrate id p) s = .next (complete s id (Compl.of 0x62))) ∧
        (2 ≤ kind → x.mount ≠ none → (∃ q ∈ s.strm, q.2.xp = c.fld 0x10 1) →
          exec (.calibrate id p) s = .next (complete s id (Compl.of 5))) ∧
        ((kind < 2 ∨ (x.mount ≠ none ∧ ∀ q ∈ s.strm, q.2.xp ≠ c.fld 0x10 1)) →
          (engRun s 4 (c.fld 0x10 1) = false → exec (.calibrate id p) s = .next (complete s id (Compl.of 0x42))) ∧
          (engRun s 4 (c.fld 0x10 1) = true →
            (bitOf kind 2 = true → hasComplete x (c.fld 0x12 1) = false →
              exec (.calibrate id p) s = .next (complete s id (Compl.of 0x60))) ∧
            ((bitOf kind 2 = false ∨ hasComplete x (c.fld 0x12 1) = true) →
              (x.motion = .stopped ∨ x.motion = .backhitch) → x.calibrating = false → x.cmTry = none →
              exec (.calibrate id p) s = .next (setProg (updXp s (c.fld 0x10 1) fun x => { x with
                calibrating := true, goal := none,
                motion := if bitOf kind 2 then .reading else if bitOf kind 1 then .ramp else .stopped,
                mount := x.mount.map fun m => { m with away := m.away || (bitOf kind 2 && m.wrPart.isSome) } }) id
                (.waiting 0))))))) ∧
     (∀ p : BitVec 3, Waiting s id 0x1D c (.waiting 0) → xpOf s (c.fld 0x10 1) = some x →
       (s.pmu.pfail = true → exec (.calibrate id p) s = .next s) ∧
       (s.pmu.pfail = false →
         exec (.calibrate id p) s = .next (complete (calibrateDone s (c.fld 0x10 1) (p.toNat &&& c.fld 0x11 1) (c.fld 0x11 1)) id
           (Compl.ok (p.toNat &&& c.fld 0x11 1) 0)))))

/-- The blocks of Tables 10-5, 10-6 and 11-10 read back as written. -/
def Obligations.BlocksRoundTrip : Prop :=
  ∀ (b : BitVec 256),
    (∀ k, readXpBlock b = some k → xpBlockBytes k = leBytes 32 b.toNat) ∧
    (∀ k, readRcBlock b = some k → rcBlockBytes k = leBytes 32 b.toNat) ∧
    (∀ k, readPoolBlock b = some k → poolBlockBytes k = leBytes 32 b.toNat)

/-- Fault commands, the stall watchdog and telemetry streams. SET_WATCHDOG, GET_FAULT_LOG, RETIRE_BUFFER_PAGE and
LANE_DISABLE (R423, R800 to R804, R814 to R821). WATCHDOG_EXAMINE (R808 to R813). TELEMETRY_CONFIG (R628, R634 to R637). -/
def Obligations.FaultsWatchdogTelemetry : Prop :=
  (∀ (s : State) (id : Nat) (c : Cmd) (k : Seen),
     (Started s id 0x2A c → exec (.setWatchdog id) s = .next (complete
       { s with flt.period := if c.fld 0x10 4 = 0 then 2000 else c.fld 0x10 4 } id (Compl.ok s.flt.period 0))) ∧
     (Started s id 0x2B c → dataOk s c = true →
       (let l := ((s.flt.log.filter fun e => decide (c.fld 0x18 4 ≤ e.seq)).reverse).take (c.fld 0x1C 2)
        let next := (l.getLast?).elim s.flt.next fun e => e.seq + 1
        let b := pageOf 64 [(0, 4, l.length), (4, 4, (s.flt.log.getLast?).elim 0 (·.seq)), (8, 4, next),
          (0xC, 4, s.flt.overwritten)] ++ (l.map fltEntry).flatten
        let k := { Compl.ok l.length next with more := s.flt.log.any fun e => decide (next ≤ e.seq) }
        exec (.getFaultLog id) s = .next (answer
          (if bitOf (c.fld 0x1E 1) 0 = true then
            { s with flt.log := s.flt.log.filter fun e => !(l.map (·.seq)).elem e.seq } else s) c 0x10 b k))) ∧
     (Started s id 0x2C c →
       (let page := c.fld 0x10 8 / 65536
        let query := bitOf (c.fld 0x18 1) 0
        let again := bitOf (c.fld 0x18 1) 1
        let held := Tbl.has s.pmu.flash.retired page
        let used := s.pmu.flash.spareUsed
        (s.pmu.bufBytes ≤ c.fld 0x10 8 → exec (.retireBufferPage id k) s = .next (complete s id (Compl.field 0x10))) ∧
        (c.fld 0x10 8 < s.pmu.bufBytes →
          ((query = true ∨ (again = false ∧ held = true)) →
            exec (.retireBufferPage id k) s = .next (complete s id (Compl.ok (1024 - used) used))) ∧
          (query = false → again = true → held = false →
            exec (.retireBufferPage id k) s = .next (complete s id (Compl.field 0x18))) ∧
          (query = false → again = held →
            (1024 ≤ used → exec (.retireBufferPage id k) s = .next (complete s id { Compl.field 0x10 with result2 := 2 })) ∧
            (used < 1024 → exec (.retireBufferPage id k) s = .next (
              let u := noteSeen s { k with good := true, corr := 0, pois := false } 0 subjNone 0
              let f := u.pmu.flash
              let u := raise { u with pmu.flash := { f with
                retired := Tbl.put f.retired page f.spareUsed, spareUsed := f.spareUsed + 1 } }
                evPageRetired subjNone 0 (page * 65536)
              complete u id (Compl.ok (1024 - u.pmu.flash.spareUsed) u.pmu.flash.spareUsed))))))) ∧
     (Started s id 0x2D c → (c.fld 0x11 1 = 0 → s.pmu.flash.disabled.elem (c.fld 0x10 1) = false →
         (disabledOf s (c.fld 0x10 1 / 32)).length < 3) →
       exec (.laneDisable id) s = .next (
         let lane := c.fld 0x10 1
         let l := if c.fld 0x11 1 = 0 then setIns s.pmu.flash.disabled lane else setDel s.pmu.flash.disabled lane
         let u := updXp { s with pmu.flash.disabled := l } (lane / 32) fun x => { x with
           lanesNext := x.lanesNext ++ [(lane, c.fld 0x11 1 == 0)] }
         complete u id (Compl.ok (maskOf ((disabledOf u (lane / 32)).map (· % 32))) 0))) ∧
     (Started s id 0x2D c → c.fld 0x11 1 = 0 → s.pmu.flash.disabled.elem (c.fld 0x10 1) = false →
       3 ≤ (disabledOf s (c.fld 0x10 1 / 32)).length →
       exec (.laneDisable id) s = .next (complete s id (Compl.field 0x10)))) ∧
  (∀ (s : State) (dt : Nat),
     (let u := advance s dt
      exec (.watchdogExamine dt) s = .next (postAll ((u.rings.cmds.map (·.id)).foldl examineOne u))) ∧
     (∀ id c, cmdOf s id = some c → (holders s c = [] ∨ stalled s (chain s [c] 256) = false) → examineOne s id = s) ∧
     (∀ id c, cmdOf s id = some c → holders s c ≠ [] → stalled s (chain s [c] 256) = true →
       examineOne s id = breakChain s (chain s [c] 256) ∧
       (breakChain s (chain s [c] 256)).flt.fires = satAdd 32 s.flt.fires 1)) ∧
  (∀ (s : State) (id : Nat) (c : Cmd), cmdOf s id = some c → c.opcode = 0x21 → c.done = none → c.prog ≠ .ordered →
     (let k := c.fld 0x10 1
      (c.fld 0x11 1 ≠ 0 → Tbl.has s.ace.tele k = false → aceLive (aceOf s (teleCh k)) = true →
        exec (.telemetryConfig id) s = .next (complete s id (Compl.of 5))) ∧
      (c.fld 0x11 1 ≠ 0 → Tbl.has s.ace.tele k = false → aceLive (aceOf s (teleCh k)) = false →
        exec (.telemetryConfig id) s = .next (complete (startStream s k c) id (Compl.ok (24 + k) (8 + k)))) ∧
      (c.fld 0x11 1 ≠ 0 → Tbl.has s.ace.tele k = true → (aceOf s (teleCh k)).st ≠ .running →
        exec (.telemetryConfig id) s = .next (complete (startStream (stopStream s k) k c) id (Compl.ok (24 + k) (8 + k)))) ∧
      (c.fld 0x11 1 = 0 → Tbl.has s.ace.tele k = true → (aceOf s (teleCh k)).st ≠ .running →
        exec (.telemetryConfig id) s = .next (complete (stopStream s k) id (Compl.ok 0 0))) ∧
      (c.fld 0x11 1 = 0 → Tbl.has s.ace.tele k = false → exec (.telemetryConfig id) s = .next (complete s id (Compl.ok 0 0))) ∧
      (Tbl.has s.ace.tele k = true → (aceOf s (teleCh k)).st = .running →
        exec (.telemetryConfig id) s = .next (setProg (setAce s (teleCh k) { aceOf s (teleCh k) with
          pending := false, disarm := true }) id (.waiting 0)))))

/-- At most three lanes of a transport are disabled (R803, R816). -/
def Obligations.FourthLaneRefused : Prop :=
  ∀ (s t : State) (id : Nat), s.pmu.flash.disabled.Pairwise (· < ·) → (∀ x, (disabledOf s x).length ≤ 3) →
    exec (.laneDisable id) s = .next t → t.pmu.flash.disabled.Pairwise (· < ·) ∧ ∀ x, (disabledOf t x).length ≤ 3


/-- Thermal commands, power failure and engine fencing. THERMAL_CONFIG, THERMAL_SAMPLE and SHUTDOWN_POWER_OFF (R37, R755 to
R762, R776). PFAIL_QUALIFIED, PFAIL_RELEASE, SUPPLY_OUT_OF_RANGE and SYS_CLK_LOSS (R252, R763 to R765, R840, R857,
R859). FENCE_ENGINE, ENGINE_DRAINED, ENGINE_DRAIN_TIMEOUT and RESET_ENGINE (R750 to R754, R774, R775, R782). -/
def Obligations.ThermalPowerFencing : Prop :=
  (∀ (s : State) (id dt : Nat) (c : Cmd) (temps : List Int) (e : ExtReading),
     (Started s id 0x27 c →
       (118 + c.fld 0x10 1 ≤ 110 + c.fld 0x11 1 → exec (.thermalConfig id) s = .next (complete s id (Compl.field 0x10))) ∧
       (110 + c.fld 0x11 1 < 118 + c.fld 0x10 1 → 125 + c.fld 0x11 1 ≤ 118 + c.fld 0x12 1 →
         exec (.thermalConfig id) s = .next (complete s id (Compl.field 0x11))) ∧
       (110 + c.fld 0x11 1 < 118 + c.fld 0x10 1 → 118 + c.fld 0x12 1 < 125 + c.fld 0x11 1 →
         exec (.thermalConfig id) s = .next (complete { s with pmu.th.next := some (c.fld 0x10 1, c.fld 0x11 1, c.fld 0x12 1,
           bitOf (c.fld 0x13 1) 0, signed 8 (c.fld 0x14 1), c.fld 0x15 1) } id (Compl.ok 0 0)))) ∧
     (temps.length = 6 → s.pmu.ps ≠ .off → s.host.sysRst = true →
       (let u := advance s dt
        let h := takeSamples u.pmu.th temps e
        let v := { u with pmu.th := h }
        let v := if h.extFault && !u.pmu.th.extFault then raise v evExtFault subjNone 0 0 else v
        exec (.thermalSample dt temps e) s =
          .next (settle (applyThermal (if sampleLevel h = h.level then v else changeLevel v (sampleLevel h)))))) ∧
     (∀ t, (advance s dt).pmu.th.offAt = some t → t ≤ now (advance s dt) →
       ∃ z, exec (.shutdownPowerOff dt) s = .next z ∧ z.pmu.ps = .off ∧ z.pmu.th.offAt = none ∧ z.pending = s.pending ∧
         z.pmu.flash = { s.pmu.flash with thermal := some ((advance s dt).tbu.sec, (governing (advance s dt).pmu.th).2) } ∧
         z.rings = RingEng.reset ∧ z.ten = Tenants.reset ∧ z.keys = Keys.reset ∧ z.smp = s.smp ∧ z.tbu = (advance s dt).tbu ∧
         z.clk = (advance s dt).clk ∧ z.out = s.out ∧ z.strm = [] ∧ z.rc = ReadCh.reset ∧ z.svc = [] ∧ z.ace = AceEng.reset ∧
         z.host = { HostLink.reset with perst := s.host.perst, sysRst := true } ∧ z.flt = s.flt ∧
         z.evr = { Evr.reset with log := s.evr.log, logSeq := s.evr.logSeq, overwritten := s.evr.overwritten } ∧
         ∀ t, t < 4 → (xpOf z t).bind (·.cart) = (xpOf s t).bind (·.cart))) ∧
  (∀ s : State,
     (s.pmu.pfail = false → s.host.sysRst = true → exec .pfailQualified s = .next { s with
       pmu.pfail := true, xp := Tbl.mapVal s.xp fun _ x =>
         if x.motion == .writing then { x with haltReq := 2, haltAt := now s + 20 * usTicks } else x }) ∧
     ((s.pmu.pfail = true ∨ s.host.sysRst = false) → exec .pfailQualified s = .next s) ∧
     (s.pmu.pfail = true →
       exec .pfailRelease s = .next (startMbx (wake (raise { s with pmu.pfail := false } evPfail subjNone 0 0) 8))) ∧
     (s.pmu.pfail = false → s.host.sysRst = true → exec .pfailRelease s = .next (wake s 8)) ∧
     exec (.supplyOutOfRange .vddAon) s = .next (dropGates s) ∧ exec (.supplyOutOfRange .vddCore) s = .next (dropGates s) ∧
     exec (.supplyOutOfRange .vddioMgmt) s = .next { s with smp.blind := true } ∧
     (s.host.sysRst = true → s.clk.frozen = false →
       (let v := (s.xp.map (·.1)).foldl (fun s t => setForce s t true) s
        let u := { v with clk.frozen := true, tbu.ppsOut := false }
        exec .sysClkLoss s = .next u ∧ u.tbu.ns = s.tbu.ns ∧ u.tbu.sec = s.tbu.sec ∧ ∀ dt, advance u dt = u))) ∧
  (∀ (s : State) (id dt cls idx : Nat) (c : Cmd),
     (Started s id 0x28 c →
       (c.fld 0x10 1 = 4 → (xpOf s (c.fld 0x11 1)).elim false (·.mount.isSome) = true →
         exec (.fenceEngine id) s = .next (complete s id (Compl.of 5))) ∧
       ((c.fld 0x10 1 = 4 → (xpOf s (c.fld 0x11 1)).elim false (·.mount.isSome) = false) →
        (let cls := c.fld 0x10 1
         let idx := c.fld 0x11 1
         let e := engOf s cls idx
         let off := bitOf (c.fld 0x14 1) 0
         (e.st = .run →
           (let v := setProg (setEng s cls idx { e with
              st := .drain, deadline := now s + (if c.fld 0x12 2 = 0 then 100 else c.fld 0x12 2) * msTicks, offReq := off, stopped := 0 })
              id (.engine (engKey cls idx))
            exec (.fenceEngine id) s = .next (if engBusy v cls idx then v else fenceDone v cls idx))) ∧
         (e.st = .fenced → exec (.fenceEngine id) s =
           .next (complete (if off then setEng s cls idx { e with st := .off } else s) id (Compl.ok 0 0))) ∧
         (e.st = .off → exec (.fenceEngine id) s = .next (complete s id (Compl.ok 0 0))) ∧
         (e.st = .drain → exec (.fenceEngine id) s =
           .next (setProg (setEng s cls idx { e with offReq := e.offReq || off }) id (.engine (engKey cls idx))))))) ∧
     ((engOf s cls idx).st = .drain → engBusy s cls idx = false → exec (.engineDrained cls idx) s = .next (fenceDone s cls idx)) ∧
     (let u := advance s dt
      (engOf u cls idx).st = .drain → (engOf u cls idx).deadline ≤ now u →
      (let p := stopWork u cls idx
       let v := { p.1 with
         pmu.engines := Tbl.put p.1.pmu.engines (engKey cls idx) { engOf u cls idx with stopped := (engOf u cls idx).stopped + p.2 } }
       exec (.engineDrainTimeout dt cls idx) s = .next (if engBusy v cls idx then v else fenceDone v cls idx))) ∧
     (∀ ok, Started s id 0x29 c →
       (((engOf s (c.fld 0x10 1) (c.fld 0x11 1)).st = .fenced ∨ (engOf s (c.fld 0x10 1) (c.fld 0x11 1)).st = .off) →
         exec (.resetEngine id ok) s = .next (
           let v := setEng s (c.fld 0x10 1) (c.fld 0x11 1) { engOf s (c.fld 0x10 1) (c.fld 0x11 1) with
             st := if ok then .run else .fenced, failed := !ok }
           complete (if c.fld 0x10 1 = 4 then updXp v (c.fld 0x11 1) fun x => { x with startup := false } else v) id
             (Compl.ok (b2n ok) 0))) ∧
       (((engOf s (c.fld 0x10 1) (c.fld 0x11 1)).st = .run ∨ (engOf s (c.fld 0x10 1) (c.fld 0x11 1)).st = .drain) →
         exec (.resetEngine id ok) s = .next (complete s id (Compl.field 0x11)))) ∧
     (stopWork s 2 idx = (s, 0) ∧ stopWork s 4 idx = (s, 0) ∧
       (stopWork s 0 idx).1.svc = (Tbl.mapVal s.svc fun _ j =>
         if j.compress && j.lane == idx && j.stopBy == 0 then { j with stopBy := 0x47, stopFor :=
           ((s.rings.cmds.find? fun c => c.opcode == 0x28 && c.done.isNone && c.prog == .engine (engKey 0 idx)).map (·.id)).getD noCmd }
         else j)))

/-- The order of the thermal levels and the ways between them (R755 to R761). -/
def Obligations.ThermalLevelRules : Prop :=
  ∀ (h : Thermal),
    (∀ a b : Int, a ≤ b → (riseLevel h a).code ≤ (riseLevel h b).code) ∧
    (h.level.code < (sampleLevel h).code ↔ h.level.code < (riseLevel h (governing h).2).code) ∧
    (h.level.code < (riseLevel h (governing h).2).code → sampleLevel h = riseLevel h (governing h).2) ∧
    ((sampleLevel h).code < h.level.code → 250 ≤ h.dwell ∧ h.level ≠ .shutdown ∧
      ∀ l, h.latched = some l → l.code ≤ (sampleLevel h).code) ∧
    (∀ temps e, (takeSamples h temps e).level = h.level ∧ (takeSamples h temps e).next = none ∧
      (takeSamples h temps e).dwell = h.dwell + 1)


/-- Entering and leaving a Lull state. ENTER_LULL, LULL_QUIESCED, QUIESCE_TIMEOUT, GATE_CLOSED, GATE_FORCE_CLOSE and
LULL_STATE_SAVED (R733 to R746, R780). HOST_LINK_WAKE and LULL_EXIT_COMPLETE (R736 to R742). -/
def Obligations.LullStates : Prop :=
  (∀ (s : State) (id dt k : Nat) (c : Cmd) (e : Machine.LullEntry),
     (Started s id 0x24 c →
       ((s.pmu.lull ≠ none ∨ s.pmu.upd ≠ none) → exec (.enterLull id) s = .next (complete s id (Compl.of 0x67))) ∧
       (s.pmu.lull = none → s.pmu.upd = none →
         (2 ≤ c.fld 0x10 1 → (∃ p ∈ s.xp, p.2.mount ≠ none) → exec (.enterLull id) s = .next (complete s id (Compl.of 5))) ∧
         ((c.fld 0x10 1 < 2 ∨ ∀ p ∈ s.xp, p.2.mount = none) →
           exec (.enterLull id) s = .next (setProg { s with
             pmu.entrySeq := (s.pmu.entrySeq + 1) % 2 ^ 32,
             pmu.lull := some {
               cmd := id, seq := (s.pmu.entrySeq + 1) % 2 ^ 32, target := c.fld 0x10 1,
               deadline := now s + (if c.fld 0x12 2 = 0 then 1000 else c.fld 0x12 2) * msTicks, phase := 0, wake := 0, after := false,
               wakeAt := 0, sec := 0, ns := 0, gateMax := 0, forced := 0 } } id (.waiting 0))))) ∧
     (s.pmu.lull = some e → e.phase = 0 →
       (∀ c ∈ s.rings.cmds, c.id = e.cmd ∨ c.done ≠ none ∨ (c.mailbox = true ∧ c.prog = .ordered)) →
       (e.target = 1 → allWritten s = false → exec .lullQuiesced s = .next (settle (closeAllOpen s))) ∧
       ((e.target = 1 → allWritten s = true) →
         exec .lullQuiesced s = .next (startClose { s with
           pmu.lull := some { e with phase := 1 },
           xp := Tbl.mapVal s.xp fun _ x => { stopTape x .stopped with target := 0, goal := none } } 0))) ∧
     ((gateOf (advance s dt) k).st = 1 → gateBusy (advance s dt) k = false →
       exec (.gateClosed dt k) s = .next (gateDone (advance s dt) k false)) ∧
     (∀ l, (gateOf (advance s dt) k).st = 1 → (gateOf (advance s dt) k).since + 10 * usTicks ≤ now (advance s dt) →
       (let u := raiseGate (forceLose (advance s dt) k l) k
        exec (.gateForceClose dt k l) s = .next (gateDone
          (setGate u k { gateOf u k with refused := satAdd 32 (gateOf u k).refused l.length }) k true))) ∧
     ((advance s dt).pmu.lull = some e → e.phase = 0 → e.deadline ≤ now (advance s dt) →
       exec (.quiesceTimeout dt) s = .next (applyThermal (undoLull (advance s dt) e 0 0x67))) ∧
     (s.pmu.lull = some e → e.phase = 2 → (gateOf s 14).st ≠ 1 →
       (e.wake = 0 → exec .lullStateSaved s = .next (let u := enterState s e.target
         { u with pmu.lull := some { e with phase := 3 } })) ∧
       (e.wake ≠ 0 → exec .lullStateSaved s = .next (beginExit (enterState s e.target) { e with phase := 3 } e.wake)))) ∧
  (∀ (s : State) (e : Machine.LullEntry),
     (s.host.perst = true → s.pmu.lull = some e → e.phase = 3 →
       (e.target = 2 → exec .hostLinkWake s = .next (beginExit s e 2)) ∧ (e.target ≠ 2 → exec .hostLinkWake s = .next s)) ∧
     ((s.host.perst = false ∨ s.pmu.lull = none) → exec .hostLinkWake s = .next s) ∧
     (∀ dt b, s.pmu.lull = some e → e.phase = 4 →
       (let u := advance s dt
        let bad := e.target == 3 && !b
        let u := if e.target = 3 then leaveLull3 u else u
        let u := openGates { u with
          pmu.lull := none, pmu.ps := .run, ace.stopped := false,
          ace.ch := Tbl.mapVal u.ace.ch fun _ a => { a with parked := false } }
        let u := raiseHeld (runOwed u)
        let u := if bad then { u with pmu.booted := false, host.fwReady := false }
          else if e.target = 3 then firmwareStarts u else u
        let u := if u.host.perst && !u.host.dlActive then openWindow900 u else if u.host.dlActive then fwUp u else u
        let u := applyAll u
        let u := logPower u {
          seq := e.seq, target := e.target, entered := true, wake := e.wake, flags := b2n e.after + 2 * b2n bad, sec := e.sec,
          ns := e.ns, exitUs := min ((now u - e.wakeAt) / usTicks) (satMax 32), gateMax := e.gateMax, forced := e.forced }
        let t := startMbx (settle (applyThermal (raiseAttn u 8)))
        exec (.lullExitComplete dt b) s = .next t ∧
          t.pmu.lull = none ∧ t.pmu.ps = .run ∧ t.ace.stopped = false ∧ (∀ k, (gateOf t k).st = 0) ∧ t.smp.attn.getLsbD 3 = true)))

/-- Firmware staging, activation and the end of a live update. FW_STAGE, FLASH_OPERATION_END and FW_ACTIVATE (R679, R766 to
R769). FW_ACTIVATE's continuation and the self-test rows (R342, R769 to R773). -/
def Obligations.FirmwareUpdate : Prop :=
  (∀ (s : State) (id : Nat) (c : Cmd) (img : Image) (o : FlashOp),
     (Started s id 0x25 c →
       (∀ data, s.pmu.upd ≠ none → exec (.fwStage id img data) s = .next (complete s id (Compl.of 0x67))) ∧
       (∀ data, s.pmu.upd = none → dataOk s c = true → s.pmu.flashOp = none → s.pmu.pfail = false →
         exec (.fwStage id img data) s = .next (
           let f := s.pmu.flash
           let u := cmdRead s c (c.fld 0x10 8) (c.fld 0x1C 4)
           setProg (pspQueue { u with
             pmu.flash := { f with staged := false, images := Tbl.del f.images (stageRegion f) },
             pmu.flashOp := some ⟨id, img, data.take (c.fld 0x1C 4), 0⟩ } 1
             ((if bitOf (c.fld 0x20 1) 0 then eraseRegion f (stageRegion f + 1) else []) ++
               flashProgram (regionAt f (stageRegion f + 1) + c.fld 0x18 4) (data.take (c.fld 0x1C 4)))) id (.waiting 0)))) ∧
     (s.pmu.flashOp = some o → o.tries = 0 →
       exec (.flashOperationEnd true) s = .next (stageDone { s with pmu.flashOp := none } o) ∧
       (let v := countFault s 11 1 0 0 0
        let v := countFault { v with pmu.flashOp := some { o with tries := 1 } } 11 0 0 0 1
        (cmdOf v o.cmd = none → exec (.flashOperationEnd false) s = .next v) ∧
        (∀ k, cmdOf v o.cmd = some k →
          exec (.flashOperationEnd false) s = .next (pspQueue v 1 (restageOps v.pmu.flash k o.data))))) ∧
     (s.pmu.flashOp = some o → o.tries ≠ 0 →
       exec (.flashOperationEnd true) s = .next (stageDone { countFault s 11 0 1 0 0 with pmu.flashOp := none } o)) ∧
     (s.pmu.flashOp = some o → 2 ≤ o.tries →
       exec (.flashOperationEnd false) s = .next (complete (faultSpent { s with pmu.flashOp := none } { FltLog.blank with
         cls := 11, status := 2, tries := 3 } subjNone 0) o.cmd { Compl.field 0xFF with result2 := 3 })) ∧
     (∀ b, Started s id 0x26 c →
       (s.pmu.upd ≠ none → exec (.fwActivate id b) s = .next (complete s id (Compl.of 0x67))) ∧
       (s.pmu.upd = none →
         (Tbl.get? s.pmu.flash.images (stageRegion s.pmu.flash) = none ∨ s.pmu.flash.staged = false) →
         exec (.fwActivate id b) s = .next (complete s id (Compl.field 0xFE))) ∧
       (∀ i, s.pmu.upd = none → Tbl.get? s.pmu.flash.images (stageRegion s.pmu.flash) = some i → s.pmu.flash.staged = true →
         (c.fld 0x10 1 % 2 = 1 → s.pmu.pfail = false → exec (.fwActivate id b) s = .next (let f := s.pmu.flash
           complete { s with pmu.flash := { f with active := stageRegion f, trial := true, staged := false } } id (Compl.ok 0 0))) ∧
         (c.fld 0x10 1 % 2 = 0 → b = true → i.stfmt = s.pmu.runImg.stfmt → exec (.fwActivate id b) s = .next (startPause s id)) ∧
         (c.fld 0x10 1 % 2 = 0 → (b = false ∨ i.stfmt ≠ s.pmu.runImg.stfmt) →
           exec (.fwActivate id b) s = .next (complete s id (Compl.field 0xFE)))))) ∧
  (∀ (s : State) (id dt : Nat) (c : Cmd) (u : Update) (b : Bool),
     (Waiting s id 0x26 c (.waiting 1) → s.pmu.upd = some u → u.cmd = id → u.phase = 1 →
       ((carries s u = true ∨ ∀ k ∈ s.rings.cmds, jobRuns k = false) → exec (.fwActivate id b) s = .next (doSwitch s u)) ∧
       (carries s u = false → (∃ k ∈ s.rings.cmds, jobRuns k = true) →
         exec (.fwActivate id b) s = .next (
           let v := (s.rings.cmds.filter jobRuns).foldl (abortOne 0x45 noCmd) s
           ({ v with pmu.upd := some { u with phase := 3 } } : State)))) ∧
     (Waiting s id 0x26 c (.waiting 1) → s.pmu.upd = some u → u.phase = 3 →
       ((∀ k ∈ s.rings.cmds, jobRuns k = false) → exec (.fwActivate id b) s = .next (doSwitch s u)) ∧
       ((∃ k ∈ s.rings.cmds, jobRuns k = true) → exec (.fwActivate id b) s = .next s)) ∧
     (s.pmu.upd = some u → u.phase = 2 → s.pmu.pfail = false →
       ∃ v, exec .selfTestPass s = .next (endUpdate v u 0
           (if u.trial then 15 else maskOf ((s.xp.filter fun p => p.2.motion == .stopped).map (·.1))) false) ∧
         v = { s with
           pmu.flash := { s.pmu.flash with active := s.pmu.runReg, trial := false, staged := u.trial && s.pmu.flash.staged },
           pmu.rtOwed := if u.trial then s.pmu.rtOwed else (s.xp.filter fun p => p.2.motion != .stopped).map (·.1) }) ∧
     (s.pmu.upd = some u → u.phase = 2 → s.pmu.pfail = true → exec .selfTestPass s = .next s) ∧
     (s.pmu.upd = some u → u.phase = 2 → exec .selfTestFail s = .next (rollBack s u 1)) ∧
     ((advance s dt).pmu.upd = some u → u.phase = 2 → u.deadline ≤ now (advance s dt) →
       exec (.selfTestTimeout dt) s = .next (rollBack (advance s dt) u 2)) ∧
     (∀ o i, u.trial = false → Tbl.get? s.pmu.flash.images u.from_ = some i →
       (carries { s with host.updatePause := true } { u with back := some o, deadline := now s } = true ∨
         ∀ k ∈ s.rings.cmds, jobRuns k = false) →
       (rollBack s u o).pmu.runReg = u.from_ ∧ (rollBack s u o).pmu.runImg = i))

/-- SYS_RST_ASSERT, SYS_RST_RELEASE and BOOT_COMPLETE (R118, R679, R727 to R732, R856, R860). -/
def Obligations.ResetAndBoot : Prop :=
  ∀ (s : State),
    (∃ z, exec .sysRstAssert s = .next z ∧ z.pending = s.pending ∧ z.out = s.out ∧ z.pmu = Pmu.reset s.pmu.flash ∧
      z.host = { HostLink.reset with perst := s.host.perst } ∧ z.rings = RingEng.reset ∧ z.ten = Tenants.reset ∧
      z.keys = Keys.reset ∧ z.strm = [] ∧ z.rc = ReadCh.reset ∧ z.svc = [] ∧ z.ace = AceEng.reset ∧ z.tbu = Tbu.reset ∧
      z.evr = Evr.reset ∧ z.flt = Faults.reset ∧ z.clk = ⟨0, s.clk.free, false⟩ ∧
      ∀ t, t < 4 → (xpOf z t).bind (·.cart) = (xpOf s t).bind (·.cart)) ∧
    (∀ straps, s.host.sysRst = false →
      (let u := pspQueue { s with
         host.sysRst := true, smp.straps := straps, smp.blind := false, pmu.aonOk := true } 1 [flashRead 0]
       let u := (u.xp.filter fun p => p.2.shkLow).foldl (fun s p => setCause s p.1 causeShock true) u
       exec (.sysRstRelease straps) s = .next (if u.host.perst then openWindow900 u else u))) ∧
    (∀ straps, s.host.sysRst = true → exec (.sysRstRelease straps) s = .next s) ∧
    (∀ a b r img, s.host.sysRst = true → s.pmu.booted = false → s.pmu.ps = .run → s.clk.frozen = false →
      bootRegion s = some r → Tbl.get? s.pmu.flash.images r = some img →
      (let bytes := (if a then channelBytes s.smp.straps else 0) + (if b && bitOf s.smp.straps.toNat 6 then channelBytes s.smp.straps else 0)
       bytes ≠ 0 →
       (let u := logBoot (startFirmware (pspQueue s 1 (bootReads s r)) r img bytes) r
        exec (.bootComplete a b) s = .next (if u.pmu.flash.trial ∧ r = u.pmu.flash.active then { u with
          pmu.upd := some {
            cmd := noCmd, from_ := r, fromVer := img.version, phase := 2, deadline := now u + 5 * secTicks, pauseUs := 0, carried := 0,
            aborted := 0, trial := true, back := none } } else u)))) ∧
    (bootRegion s = none → ∀ a b, exec (.bootComplete a b) s = .next s)

/-- SET_TIME and the edges of PPS_IN. SET_TIME and SET_TIME_TIMEOUT (R715 to R717). PPS_EDGE, SLEW_END and
PPS_HOLDOVER (R697 to R704). -/
def Obligations.TimeSetAndPps : Prop :=
  (∀ (s : State) (id dt : Nat) (c : Cmd),
     (Started s id 0x20 c → s.clk.frozen = false →
       (c.fld 0x10 1 = 0 → exec (.setTime id) s = .next (
         let d := timeDiff (c.fld 0x18 8 * 1000000000 + c.fld 0x20 4 : Nat) (timeNs s)
         complete (stepBySet s d) id (Compl.ok 0 (stepResult d)))) ∧
       (c.fld 0x10 1 = 1 → exec (.setTime id) s = .next (complete (stepBySet s (signed 64 (c.fld 0x18 8))) id
         (Compl.ok 0 (stepResult (signed 64 (c.fld 0x18 8)))))) ∧
       (c.fld 0x10 1 = 2 → s.tbu.atPps = none → exec (.setTime id) s = .next (setProg
         { s with tbu.atPps := some (id, c.fld 0x18 8, now s + 5 * secTicks / 2) } id (.waiting 0)))) ∧
     (∀ j w till, (advance s dt).tbu.atPps = some (j, w, till) → till ≤ now (advance s dt) → (advance s dt).clk.frozen = false →
       exec (.setTimeTimeout dt) s = .next (complete { advance s dt with tbu.atPps := none } j (Compl.of 0x67)))) ∧
  (∀ (s : State) (dt : Nat), let u := advance s dt
     u.host.sysRst = true → u.clk.frozen = false →
     (u.tbu.ppsEn = true → (∃ p, u.tbu.prev = some p ∧ timeDiff (timeNs u) p < 500000000) →
       exec (.ppsEdge dt) s = .next { u with tbu.dups := satAdd 32 u.tbu.dups 1 }) ∧
     (u.tbu.ppsEn = true → (∀ p, u.tbu.prev = some p → 500000000 ≤ timeDiff (timeNs u) p) →
       (let gap := u.tbu.prev.map fun p => timeDiff (timeNs u) p
        let w := setAtEdge u
        let o := edgeOffset w
        let v := { w with tbu := { w.tbu with prev := some (timeNs w), lastOff := o } }
        (|o| ≤ 1000 * (v.tbu.win : Int) → exec (.ppsEdge dt) s = .next (acceptEdge v o)) ∧
        (1000 * (v.tbu.win : Int) < |o| → exec (.ppsEdge dt) s = .next (rejectEdge v o gap)))) ∧
     (u.tbu.atPps = none → setAtEdge u = u) ∧
     (∀ j w till, u.tbu.atPps = some (j, w, till) →
       (let d := timeDiff ((w * 1000000000 : Nat) + u.tbu.cable) (timeNs u)
        setAtEdge u = complete (stepBySet { u with tbu.atPps := none } d) j (Compl.ok 0 (stepResult d)))) ∧
     (u.tbu.ppsEn = false → exec (.ppsEdge dt) s = .next u) ∧
     (u.tbu.slew ≠ 0 → u.tbu.slewAt ≤ now u → exec (.slewEnd dt) s = .next { u with tbu.slew := 0 }) ∧
     ((u.tbu.pps = .acquiring ∨ u.tbu.pps = .locked) → u.tbu.accAt + 5 * secTicks / 2 ≤ now u →
       exec (.ppsHoldover dt) s = .next (setPps { u with
         tbu.slew := 0, tbu.near := 0, tbu.holdovers := satAdd 32 u.tbu.holdovers 1 } .holdover)))

/-- Steps and distances along the wrapping count of formatter time (R694, R717). -/
def Obligations.TimeStepRule : Prop :=
  ∀ (u : Tbu) (t : Int), let v := setNs u t
    v.ns < 1000000000 ∧ v.sec < 2 ^ 48 ∧ ((v.sec * 1000000000 + v.ns : Nat) : Int) % timeMod = t % timeMod ∧
    (∀ a b : Int, (b + timeDiff a b) % timeMod = a % timeMod ∧ -(timeMod / 2) ≤ timeDiff a b ∧ timeDiff a b < timeMod / 2)


/-- Pacing timers, alarms, PPS_OUT and the time base registers. The rows that fire on time, and the control writes of
timers and alarms (R154, R705 to R709). TBU_CFG_WRITE and TBU_TIME_READ (R154, R703, R712, R722). -/
def Obligations.TimersAndTimeRegisters : Prop :=
  (∀ (s : State) (dt k : Nat), s.host.sysRst = true → s.clk.frozen = false →
     (let u := advance s dt
      (let x := timerOf u k
       let due := gridAfter x.last (timerOrigin x) x.period
       x.en = true → 0 ≤ timeDiff (timeNs u) due → exec (.pacingTimerFire dt k) s =
         .next (fireTimer { u with tbu.timers := Tbl.put u.tbu.timers k { x with last := due } } k)) ∧
      (let x := alarmOf u k
       k < 4 → x.en = true → 0 ≤ timeDiff (timeNs u) (x.sec * 1000000000 + x.ns : Nat) → exec (.alarmFire dt k) s =
         .next (wake (raise { u with tbu.alarms := Tbl.put u.tbu.alarms k { x with fired := true, en := false } }
           (1408 + k) subjNone 0 0) 5)) ∧
      (1000000000 ≤ s.tbu.ns + 4 * dt → exec (.secondBoundary dt) s = .next (fireSource u 0x21)) ∧
      (s.tbu.ns + 4 * dt < 1000000000 → exec (.secondBoundary dt) s = .next u) ∧
      (let due := gridAfter u.tbu.outLast u.tbu.outOff 1000000000
       u.tbu.outEn = true → 0 ≤ timeDiff (timeNs u) due → exec (.ppsOutRise dt) s = .next { u with
         tbu.ppsOut := true, tbu.outFallAt := now u + u.tbu.outWidth * msTicks, tbu.outLast := due }) ∧
      (u.tbu.ppsOut = true → u.tbu.outFallAt ≤ now u → exec (.ppsOutFall dt) s = .next { u with tbu.ppsOut := false }))) ∧
  (∀ (s : State) (k : Nat) (v : Word), hostReach s 0 = true →
     (let x := timerOf s k
      k < 8 →
      (bitOf v.toNat 0 = true → mayRun x.period (bitOf v.toNat 1) = true → x.en = false →
        exec (.pacingTimerCtrlWrite k true v) s = .next { s with tbu.timers := Tbl.put s.tbu.timers k { x with
          en := true, align := bitOf v.toNat 1, cfgErr := false, skipped := 0, origin := timeNs s, last := timeNs s } }) ∧
      (bitOf v.toNat 0 = true → mayRun x.period (bitOf v.toNat 1) = true → x.en = true →
        exec (.pacingTimerCtrlWrite k true v) s = .next { s with tbu.timers := Tbl.put s.tbu.timers k { x with
          align := bitOf v.toNat 1, cfgErr := false, skipped := 0 } }) ∧
      (bitOf v.toNat 0 = true → mayRun x.period (bitOf v.toNat 1) = false →
        exec (.pacingTimerCtrlWrite k true v) s = .next { s with tbu.timers := Tbl.put s.tbu.timers k { x with cfgErr := true } }) ∧
      (bitOf v.toNat 0 = false → exec (.pacingTimerCtrlWrite k true v) s = .next { s with
        tbu.timers := Tbl.put s.tbu.timers k { x with en := false, align := bitOf v.toNat 1, cfgErr := false } }) ∧
      (periodOk v.toNat = true → (x.en = false ∨ mayRun v.toNat x.align = true) → exec (.pacingTimerCtrlWrite k false v) s =
        .next { s with tbu.timers := Tbl.put s.tbu.timers k { x with period := v.toNat, cfgErr := false } }) ∧
      (periodOk v.toNat = true → x.en = true → mayRun v.toNat x.align = false → exec (.pacingTimerCtrlWrite k false v) s =
        .next { s with tbu.timers := Tbl.put s.tbu.timers k { x with cfgErr := true } }) ∧
      (periodOk v.toNat = false → exec (.pacingTimerCtrlWrite k false v) s = .next s)) ∧
     (k < 4 → exec (.alarmCtrlWrite k v) s = .next { s with tbu.alarms := Tbl.put s.tbu.alarms k { alarmOf s k with
       en := bitOf v.toNat 0, fired := (alarmOf s k).fired && !bitOf v.toNat 1 } })) ∧
  (∀ (s : State) (v : Word),
     (hostReach s 0 = true → ∃ t, exec (.tbuCfgWrite v) s = .next t ∧ t = writeTbuCfg s v ∧
       (bitOf v.toNat 0 = true → t.tbu.ppsEn = true ∧ t.tbu.manual = bitOf v.toNat 1 ∧ t.tbu.outEn = bitOf v.toNat 2 ∧
         t.tbu.shift = bitsOf v.toNat 3 4 ∧ t.tbu.pps = s.tbu.pps ∧ t.tbu.sec = s.tbu.sec ∧ t.tbu.ns = s.tbu.ns ∧
         t.tbu.f = s.tbu.f ∧ t.tbu.slew = s.tbu.slew ∧ t.tbu.ppsOut = (s.tbu.ppsOut && bitOf v.toNat 2)) ∧
       (bitOf v.toNat 0 = false → t.tbu.ppsEn = false ∧ t.tbu.pps = .free ∧ t.tbu.slew = 0 ∧ t.tbu.f = s.tbu.f)) ∧
     (barOff s 0 = true → exec (.tbuCfgWrite v) s = .next (logUnc s 0 aerUnsupported) ∧
       (∀ k b, exec (.pacingTimerCtrlWrite k b v) s = .next (logUnc s 0 aerUnsupported)) ∧
       (∀ k, exec (.alarmCtrlWrite k v) s = .next (logUnc s 0 aerUnsupported)) ∧
       ∀ b, exec (.tbuTimeRead b) s = .next (logUnc { s with out := .ur 0 :: s.out } 0 aerUnsupported)) ∧
     (hostReach s 0 = true →
       exec (.tbuTimeRead false) s = .next { s with
         tbu.snap := s.tbu.sec, out := .cpl 0 (BitVec.ofNat 64 s.tbu.ns) :: s.out } ∧
       exec (.tbuTimeRead true) s = .next { s with
         tbu.snap := s.tbu.sec, out := .cpl 0 (BitVec.ofNat 64 (s.tbu.ns + s.tbu.sec % 2 ^ 32 * 2 ^ 32)) :: s.out }) ∧
     (inFlr s 0 = true → linkOn s = true → ∀ b, exec (.tbuTimeRead b) s = .next { s with out := .cpl 0 0 :: s.out }))


/-- Doorbells, and the administrative ring. SUBMISSION_DOORBELL and COMPLETION_DOORBELL (R129 to R133, R152 to R154,
R177). ADMIN_RING_ENABLE, ADMIN_RING_DISABLE and ADMIN_RING_DRAINED (R127, R128, R148, R154, R187, R872). -/
def Obligations.RingDoorbells : Prop :=
  (∀ (s : State) (fn slot n : Nat) (r : Ring) (v : Word), hostReach s fn = true → slot < slotCount fn →
     (ringAt s fn slot = none →
       exec (.submissionDoorbell fn slot v) s = .next (recordFnErr s fn false true (decide (65536 ≤ v.toNat)) false slot) ∧
       exec (.completionDoorbell fn slot v) s = .next (recordFnErr s fn false true (decide (65536 ≤ v.toNat)) false slot)) ∧
     (ringAt s fn slot = some (n, r) → (65536 ≤ v.toNat ∨ 2 ^ r.log2 ≤ v.toNat % 65536) →
       (let u := recordFnErr s fn (decide (2 ^ r.log2 ≤ v.toNat % 65536)) false (decide (65536 ≤ v.toNat)) false slot
        exec (.submissionDoorbell fn slot v) s = .next u ∧ exec (.completionDoorbell fn slot v) s = .next u)) ∧
     (ringAt s fn slot = some (n, r) → v.toNat < 65536 → v.toNat < 2 ^ r.log2 →
       (r.st = .deleting → exec (.submissionDoorbell fn slot v) s = .next s ∧ exec (.completionDoorbell fn slot v) s = .next s) ∧
       (r.st ≠ .deleting →
         (let u := setFn s fn { fnOf s fn with tails := Tbl.put (fnOf s fn).tails slot v.toNat }
          let u := if v.toNat = r.sqHead then u else wake u 1
          exec (.submissionDoorbell fn slot v) s = .next (if storing u then u else applyStore u fn)) ∧
         (let u := setFn s fn { fnOf s fn with heads := Tbl.put (fnOf s fn).heads slot v.toNat }
          exec (.completionDoorbell fn slot v) s = .next (if storing u then u else applyStore u fn)) ∧
         (storing s = false → s.pmu.lull = none → (fnOf s fn).tails = [] → (fnOf s fn).heads = [] →
           exec (.submissionDoorbell fn slot v) s =
             .next { setFn s fn (fnOf s fn) with rings.tbl := Tbl.put s.rings.tbl n { r with sqTail := v.toNat } } ∧
           exec (.completionDoorbell fn slot v) s = .next { setFn s fn (fnOf s fn) with
             rings.tbl := Tbl.put s.rings.tbl n
               (if headValid r v.toNat then { r with cqHead := v.toNat }
                else { r with cqHeadInvalid := satAdd 32 r.cqHeadInvalid 1 }) })))) ∧
  (∀ (s : State) (fn slot : Nat) (v : Word), barOff s fn = true → slot < slotCount fn →
     exec (.submissionDoorbell fn slot v) s = .next (logUnc s fn 20) ∧
     exec (.completionDoorbell fn slot v) s = .next (logUnc s fn 20)) ∧
  (∀ s : State, let a := s.host.admin
     (hostReach s 0 = true →
       ((a.enable = true ∨ a.draining = true ∨ a.log2 < 6 ∨ 12 < a.log2) → exec .adminRingEnable s = .next s) ∧
       (a.enable = false → a.draining = false → 6 ≤ a.log2 → a.log2 ≤ 12 →
         (Tbl.get? s.rings.tbl 0 = none → exec .adminRingEnable s = .next { s with
           host.admin := { a with enable := true },
           rings.tbl := Tbl.put s.rings.tbl 0 (newRing 0 0 a.log2 a.sqBase a.cqBase 0 63) }) ∧
         (∀ r, Tbl.get? s.rings.tbl 0 = some r → exec .adminRingEnable s = .next { s with
           host.admin := { a with enable := true },
           rings.cmds := s.rings.cmds.map fun c => if c.ring == 0 && !c.mailbox then { c with ring := 4096 } else c,
           rings.tbl := Tbl.put (Tbl.put (Tbl.del s.rings.tbl 0) 4096 r) 0
             (newRing 0 0 a.log2 a.sqBase a.cqBase 0 63) })) ∧
       (a.enable = true → exec .adminRingDisable s = .next { s with
         host.admin := { a with enable := false, draining := true },
         rings.tbl := Tbl.upd s.rings.tbl 0 fun r => { r with st := .deleting, look := none } }) ∧
       (a.enable = false → exec .adminRingDisable s = .next s)) ∧
     (a.draining = true → (ringCmds s 0) = [] → exec .adminRingDrained s = .next (
       let u := dropStreams s fun st => st.ring == 0
       { u with rings.tbl := Tbl.del u.rings.tbl 0, host.admin := { u.host.admin with draining := false } })) ∧
     ((a.draining = false ∨ (ringCmds s 0) ≠ []) → exec .adminRingDrained s = .next s))

/-- RC_REGISTER_READ and REGISTER_WRITE (R4, R19, R110, R111, R118, R124, R139, R150, R154). -/
def Obligations.RegisterAccess : Prop :=
  ∀ (s : State) (fn off size : Nat) (v : BitVec 64), off < barSize fn →
    (hostReach s fn = true →
      (off % 4 = 0 → exec (.rcRegisterRead fn (.bar0 off 4)) s = .next (
        let p := readBar0 s fn off
        { p.2 with out := .cpl fn (BitVec.ofNat 64 p.1) :: p.2.out })) ∧
      (off % 8 = 0 → (fn ≠ 0 ∨ off ≠ 0x120000) → exec (.rcRegisterRead fn (.bar0 off 8)) s = .next (
        let p := readBar0 s fn off
        let q := readBar0 p.2 fn (off + 4)
        { q.2 with out := .cpl fn (BitVec.ofNat 64 (p.1 + 2 ^ 32 * (readBar0 s fn (off + 4)).1)) :: q.2.out })) ∧
      (accessOk off size = false → exec (.rcRegisterRead fn (.bar0 off size)) s = .next { s with out := .ca fn :: s.out }) ∧
      (off % 4 = 0 → exec (.registerWrite fn (.bar0 off 4 v false false)) s = .next (writeBar0 s fn off (v.setWidth 32))) ∧
      (off % 8 = 0 → (off < 0x1000 ∨ 0x1000 + 8 * slotCount fn ≤ off) →
        exec (.registerWrite fn (.bar0 off 8 v false false)) s =
          .next (writeBar0 (writeBar0 s fn off (v.setWidth 32)) fn (off + 4) ((v >>> 32).setWidth 32))) ∧
      (off % 8 = 0 → 0x1000 ≤ off → off < 0x1000 + 8 * slotCount fn →
        exec (.registerWrite fn (.bar0 off 8 v false false)) s =
          .next (writeBar0 (writeBar0 s fn (off + 4) ((v >>> 32).setWidth 32)) fn off (v.setWidth 32))) ∧
      (accessOk off size = false → exec (.registerWrite fn (.bar0 off size v false false)) s =
        .next (recordFnErr s fn false false false true 0)) ∧
      exec (.registerWrite fn (.bar0 off size v true false)) s = .next (logUnc s fn 12) ∧
      (∀ p, exec (.registerWrite fn (.bar0 off size v p true)) s = .next (logUnc s fn 19))) ∧
    (barOff s fn = true →
      exec (.rcRegisterRead fn (.bar0 off size)) s = .next (logUnc { s with out := .ur fn :: s.out } fn 20) ∧
      ∀ p e, exec (.registerWrite fn (.bar0 off size v p e)) s = .next (logUnc s fn 20)) ∧
    (inFlr s fn = true → linkOn s = true →
      exec (.rcRegisterRead fn (.bar0 off size)) s = .next { s with out := .cpl fn 0 :: s.out }) ∧
    (cfgReach s fn = true →
      (∀ f w, exec (.registerWrite fn (.cfg f w)) s = .next (writeCfg s fn f w)) ∧
      (∀ r w, exec (.registerWrite fn (.aer r w)) s = .next (writeAer s fn r w)) ∧
      (∀ i, exec (.rcRegisterRead fn (.cfg i)) s = .next { s with
        clk.free := s.clk.free + 1, out := .cpl fn (BitVec.ofNat 64 (cfgValue s fn i)) :: s.out })) ∧
    (cfgReach s fn = false → cfgRetry s fn = true →
      (∀ f w, exec (.registerWrite fn (.cfg f w)) s = .next { s with out := .crs fn :: s.out }) ∧
      (∀ i, exec (.rcRegisterRead fn (.cfg i)) s = .next { s with out := .crs fn :: s.out })) ∧
    (linkOn s = true → fnEnabled s fn = true → ∀ e, exec (.registerWrite fn (.bus e)) s = .next (busError s fn e))

/-- FLR_INITIATE, FLR_COMPLETE, VF_ENABLE_SET and VF_ENABLE_CLEAR (R113, R118, R139, R142 to R148, R156, R870, R874). -/
def Obligations.FunctionReset : Prop :=
  ∀ (s : State) (fn : Nat),
    (cfgReach s fn = true → fn ≠ 0 → exec (.flrInitiate fn) s = .next (
      let u := setFn s fn { FnState.reset with flr := true }
      let u := dropTagWaits { u with
        rings.holdoff := Tbl.mapVal u.rings.holdoff fun _ p => (p.1, p.2.filter fun t => t.1 != fn) } fn
      let u := { u with rings.tbl := Tbl.mapVal u.rings.tbl fun _ r => if r.owner = fn then { r with look := none } else r }
      if u.pmu.lull.elim false (fun e => decide (3 ≤ e.phase)) then { u with host.flrOwed := setIns u.host.flrOwed fn }
      else flrSteps u fn)) ∧
    (cfgReach s 0 = true → exec (.flrInitiate 0) s = .next (flrStart s 0)) ∧
    (cfgReach s fn = false → cfgRetry s fn = true → exec (.flrInitiate fn) s = .next { s with out := .crs fn :: s.out }) ∧
    (deepLull s = true → linkOn s = true → fnEnabled s fn = true → s.host.crs = false →
      exec (.flrInitiate fn) s = .next (wake (flrStart s fn) 2)) ∧
    (inFlr s fn = true → exec (.flrComplete fn) s = .next { s with host.fns := Tbl.del s.host.fns fn }) ∧
    (inFlr s fn = false → exec (.flrComplete fn) s = .next s) ∧
    (cfgReach s 0 = true → s.host.vfEn = false →
      (let n := if s.host.ari then min s.host.numVfs 255 else min (min s.host.numVfs 255) 7
       let u := { s with host.vfEn := true, host.vfCount := n }
       exec .vfEnableSet s = .next (if n < s.host.numVfs then raise u evVfLimit subjNone 0 0 else u))) ∧
    (cfgReach s 0 = true → s.host.vfEn = true → exec .vfEnableSet s = .next s) ∧
    (cfgReach s 0 = true → exec .vfEnableClear s = .next ((vfList s).foldl flrOne { s with host.vfEn := false, host.vfCount := 0 }))

/-- The link, PERST_N, Bus Master Enable and MSI-X. PERST_FALL, PERST_RISE, CRS_WINDOW_END, LINK_UP and LINK_DOWN
(R117 to R120, R150, R151, R873). BUS_MASTER_DISABLE, BUS_MASTER_ENABLE, MSIX_UNMASK and HOLDOFF_END (R136 to R140,
R154, R792). -/
def Obligations.LinkBusMasterVectors : Prop :=
  (∀ s : State,
     (s.host.perst = true → s.host.sysRst = true → exec .perstFall s = .next (
       let l := 0 :: vfList s
       let u := hostSideReset { s with host.perst := false, host.wakeN := false }
       if deepLull u then { u with host.flrOwed := l.foldl setIns u.host.flrOwed } else l.foldl flrSteps u)) ∧
     (s.host.perst = false → s.host.sysRst = true → exec .perstRise s = .next (wake (openWindow900 { s with host.perst := true }) 3)) ∧
     (canTrain s = true → openWindow900 s = { s with
       host.training := true, host.crs := !s.host.fwReady, host.crsEnd := now s + 900 * msTicks }) ∧
     (∀ dt, let u := advance s dt
       u.host.crs = true → u.host.crsEnd ≤ now u → exec (.crsWindowEnd dt) s = .next (fwUp { u with host.crs := false })) ∧
     (canTrain s = true → s.host.dlActive = false → exec .linkUp s = .next (hostBack (fwUp { s with
       host.dlActive := true, host.training := false, host.wakeN := false }))) ∧
     (s.host.dlActive = true →
       exec (.linkDown none) s = .next (settle (((0 :: vfList s).filter (busMaster s)).foldl hostLost { s with
         host.dlActive := false, host.training := false })) ∧
       ∀ e, exec (.linkDown (some e)) s = .next (
         let u := logUnc s 0 (FatalErr.code e)
         settle (((0 :: vfList u).filter (busMaster u)).foldl hostLost { u with host.dlActive := false, host.training := true })))) ∧
  (∀ (s : State) (fn : Nat),
     (∀ d, cfgReach s fn = true →
       (let u := setFn s fn (if d then { fnOf s fn with d3hot := true } else { fnOf s fn with bme := false })
        exec (.busMasterDisable fn d) s = .next (if busMaster s fn then settle (hostLost u fn) else u)) ∧
       exec (.busMasterEnable fn d) s = .next (hostBack (setFn s fn (
         if d then { fnOf s fn with d3hot := false } else { fnOf s fn with bme := true })))) ∧
     (∀ v, v < vectorCount fn →
       (hostReach s fn = true → exec (.msixUnmask fn (some v)) s = .next (flushPba (setFn s fn { fnOf s fn with
         msix := Tbl.put (fnOf s fn).msix v { vecOf (fnOf s fn) v with masked := false } }) fn)) ∧
       (barOff s fn = true → exec (.msixUnmask fn (some v)) s = .next (logUnc s fn 20))) ∧
     (cfgReach s fn = true → exec (.msixUnmask fn none) s = .next (flushPba (setFn s fn { fnOf s fn with fnMask := false }) fn)) ∧
     (cfgReach s fn = false → cfgRetry s fn = true →
       exec (.msixUnmask fn none) s = .next { s with out := .crs fn :: s.out } ∧
       ∀ d, exec (.busMasterDisable fn d) s = .next { s with out := .crs fn :: s.out } ∧
         exec (.busMasterEnable fn d) s = .next { s with out := .crs fn :: s.out }) ∧
     (∀ dt e till l, let u := advance s dt
       Tbl.get? u.rings.holdoff e = some (till, l) → till ≤ now u →
       exec (.holdoffEnd dt e) s = .next (
         let hold := (routeOf u e).holdUs
         let h := if l = [] ∨ hold = 0 then Tbl.del u.rings.holdoff e else Tbl.put u.rings.holdoff e (now u + hold * usTicks, [])
         l.foldl (fun s t => sendMsix s t.1 t.2) { u with rings.holdoff := h })))

/-- SYNC_ACQUIRED, SEPARATOR_DETECTED, SYNC_WINDOW_END, DROPOUT_ENTRY and DROPOUT_EXIT (R505 to R507, R510 to R514). -/
def Obligations.SyncSearch : Prop :=
  ∀ (s : State) (l : Nat), laneOn s l = true →
    let x := laneAt s l
    let k := laneBlk s l
    (∀ m p e, x.search = .acquisition → 32 ≤ m → p ≤ 2 → e ≤ k.maxErr →
      exec (.syncAcquired l m p e) s = .next (setLane s l { x with search := .tracking, missed := false, margin := false, fly := 0 })) ∧
    (∀ e, e ≤ 8 → exec (.separatorDetected l e) s = .next (setLane s l { x with
      search := .positionStart, place := some 0, ord := if x.place = some 0 then x.ord else x.ord + 1 })) ∧
    (∀ o e, x.search ≠ .acquisition → x.dropout = false → o.natAbs ≤ k.syncWin → e ≤ k.maxErr →
      exec (.syncWindowEnd l [(o, e)]) s = .next (setLane s l { x with
        search := .tracking, missed := false, fly := 0, margin := decide (k.syncWin < 2 * o.natAbs),
        markMargin := if k.syncWin < 2 * o.natAbs then min (x.markMargin + 1) (2 ^ 32 - 1) else x.markMargin })) ∧
    (∀ found, x.search ≠ .acquisition → x.dropout = true → x.fly < 3 →
      exec (.syncWindowEnd l found) s = .next (setLane s l { x with
        search := .tracking, missed := true, margin := false, fly := x.fly + 1, markMissed := min (x.markMissed + 1) (2 ^ 32 - 1) })) ∧
    (x.search ≠ .acquisition → x.fly < 3 → exec (.syncWindowEnd l []) s = .next (setLane s l { x with
      search := .tracking, missed := true, margin := false, fly := x.fly + 1, markMissed := min (x.markMissed + 1) (2 ^ 32 - 1) })) ∧
    (x.search ≠ .acquisition → x.fly = 3 → exec (.syncWindowEnd l []) s = .next (setLane s l { x with
      search := .acquisition, missed := true, margin := false, place := none, fly := 0,
      markMissed := min (x.markMissed + 1) (2 ^ 32 - 1) })) ∧
    (x.dropout = false → exec (.dropoutEntry l) s = .next (
      let u := adapt s l
      setLane u l { laneAt u l with dropout := true, dropouts := min (x.dropouts + 1) (2 ^ 32 - 1) })) ∧
    ((laneAt (adapt s l) l).store = x.store ∧ (adapt s l).rings = s.rings ∧ (adapt s l).xp = s.xp ∧
      (bitOf k.rcFlags 0 = false → (laneAt (adapt s l) l).fir = x.fir) ∧
      (bitOf k.rcFlags 1 = false → (laneAt (adapt s l) l).asym = x.asym)) ∧
    (x.dropout = true → exec (.dropoutExit l) s = .next (setLane s l { x with dropout := false }))

/-- The choice among several matching positions (R511). -/
def Obligations.BestMarkTaken : Prop :=
  ∀ (k : RcBlock) (found : List (Int × Nat)),
    ((∃ f ∈ found, f.1.natAbs ≤ k.syncWin ∧ f.2 ≤ k.maxErr) → (markOf k found).isSome = true) ∧
    ∀ b, markOf k found = some b →
      b ∈ found ∧ b.1.natAbs ≤ k.syncWin ∧ b.2 ≤ k.maxErr ∧
      ∀ f ∈ found, f.1.natAbs ≤ k.syncWin → f.2 ≤ k.maxErr →
        b.2 < f.2 ∨ (b.2 = f.2 ∧ (b.1.natAbs < f.1.natAbs ∨ (b.1.natAbs = f.1.natAbs ∧ b.1 ≤ f.1)))


/-- Codewords arrive, are decoded and end; the pool load level. CODEWORD_ARRIVAL, DECODER_GRANT and DECODE_END (R487, R508, R514
to R526, R547). POOL_EVALUATION and SERVICE_DOMAIN_TICK (R73, R521, R522). -/
def Obligations.CodewordsDecode : Prop :=
  (∀ (s : State) (l d n : Nat) (a : Sample) (y : List Int) (gaps : List (Nat × Nat)),
     (∀ w r, laneOn s l = true → (laneAt s l).flight = w :: r →
       (let u := setLane s l { laneAt s l with flight := r }
        ((laneAt s l).search = .acquisition →
          exec (.codewordArrival l .verify y gaps) s = .next (judge u (l / 32) (l % 32) w 1)) ∧
        ((laneAt s l).search ≠ .acquisition →
          exec (.codewordArrival l .verify y gaps) s = .next (arrive u l .verify w y gaps)))) ∧
     (∀ cls, laneOn s l = true → cls ≠ .verify → readClass s (l / 32) = some cls → (laneAt s l).search ≠ .acquisition →
       exec (.codewordArrival l cls y gaps) s = .next (arrive s l cls ⟨0, 0, 0, false, false, true, false⟩ y gaps)) ∧
     (∀ cls w, (held (laneAt s l)).length < 4 → ∃ b, (laneAt (arrive s l cls w y gaps) l).store = (laneAt s l).store ++ [b] ∧
       b.what = w ∧ b.cls = cls ∧ b.missed = (laneAt s l).missed ∧ b.margin = (laneAt s l).margin ∧ b.decoder = none ∧
       b.evicted = false ∧ b.ticket = s.rc.ticket ∧ b.y = y ∧ b.gaps = gaps ∧
       (arrive s l cls w y gaps).rc.ticket = s.rc.ticket + 1) ∧
     (d < 40 → engRun s 3 d = true → Tbl.has s.rc.decs d = false → nextCodeword s = some (l, a) →
       (a.cls = .verify → exec (.decoderGrant d) s = .next (updSample { s with
         rc.waitMax := min (max s.rc.waitMax (4 * (now s - a.atTick))) (2 ^ 32 - 1),
         rc.decs := Tbl.put s.rc.decs d (l, a.ticket) } l a.ticket fun b =>
           { b with decoder := some d, limit := verifyLimit s l })) ∧
       (a.cls ≠ .verify → a.iters < (poolLevel s).total → a.passes < (poolLevel s).passes →
         exec (.decoderGrant d) s = .next (updSample { s with rc.decs := Tbl.put s.rc.decs d (l, a.ticket) } l a.ticket fun b =>
           { b with decoder := some d, limit := min (poolLevel s).perPass ((poolLevel s).total - a.iters) })) ∧
       (a.cls ≠ .verify → ((poolLevel s).total ≤ a.iters ∨ (poolLevel s).passes ≤ a.passes) →
         exec (.decoderGrant d) s = .next (endUnconverged (dropSample s l a.ticket) l a))) ∧
     (nextCodeword s = none → exec (.decoderGrant d) s = .next s) ∧
     (Tbl.get? s.rc.decs d = some (l, a.ticket) → (laneAt s l).store.find? (fun b => b.ticket == a.ticket) = some a →
       (let llr := detect (laneBlk s l) (markNibble s (l / 32)) a.y a.prior a.gaps
        let q := ldpcRun n llr
        let u := countIters { s with rc.decs := Tbl.del s.rc.decs d } l n a.cls
        0 < n → n ≤ a.limit → q.2.1 = n → (q.2.2 = true ∨ a.evicted = true ∨ n = a.limit) →
        (a.cls = .verify → exec (.decodeEnd d n) s = .next (judge (dropSample u l a.ticket) (l / 32) (l % 32) a.what
          (verifyCause a q.2.2 ((infoBytes q.1).take 16 == writtenHeader u (l / 32) a.what)))) ∧
        (a.cls ≠ .verify → exec (.decodeEnd d n) s = .next (endPass u l a llr q.1 n q.2.2))))) ∧
  (∀ (s : State) (l n : Nat) (a : Sample) (llr post : List Int),
     let u := if a.cls = .scan then noteScanIters s (l / 32) (a.iters + n) else s
     let b := { a with decoder := none, passes := a.passes + 1, iters := a.iters + n, post := post,
                       prior := List.zipWith (· - ·) post llr }
     endPass s l a llr post n true = endConverged (dropSample u l a.ticket) l b post ∧
     (a.evicted = false → a.passes + 1 < (poolLevel s).passes → a.iters + n < (poolLevel s).total →
       endPass s l a llr post n false = updSample u l a.ticket fun _ => b) ∧
     ((a.evicted = true ∨ (poolLevel s).passes ≤ a.passes + 1 ∨ (poolLevel s).total ≤ a.iters + n) →
       endPass s l a llr post n false = endUnconverged (dropSample u l a.ticket) l b)) ∧
  (∀ (k : RcBlock) (mark : Nat) (y prior : List Int) (gaps : List (Nat × Nat)), (detect k mark y prior gaps).length = 8832 ∧
     ∀ i, i < 8832 → (∃ g ∈ gaps, g.1 ≤ i + 32 ∧ i < g.2) → (detect k mark y prior gaps)[i]? = some 0) ∧
  (∀ (s : State) (dt : Nat),
     (let u := advance s dt
      let b := u.rc.blkNext.getD u.rc.blk
      let n := nextLevel b u.rc.level (u.rc.evals + 1) u.rc.busyNs
      let v := { u with rc := { u.rc with
        blk := b, blkNext := none, level := n, evals := if n = u.rc.level then u.rc.evals + 1 else 0,
        uPermille := (u.rc.busyNs * 1000 + 20 * 256000) / (40 * 256000), busyNs := 0,
        changes := if n = u.rc.level then u.rc.changes else min (u.rc.changes + 1) (2 ^ 32 - 1) } }
      let above := fun (p : Nat) => p * (40 * 256000) ≤ u.rc.busyNs * 100
      let dwelt := b.dwell * 1000 ≤ (u.rc.evals + 1) * 256
      exec (.poolEvaluation dt) s = .next (if n = u.rc.level then v else raise v evPoolLevel subjNone 0 n) ∧
      (u.rc.level < 2 → above b.enter2 → n = 2) ∧
      (u.rc.level = 0 → ¬ above b.enter2 → above b.enter1 → n = 1) ∧
      (u.rc.level = 0 → ¬ above b.enter2 → ¬ above b.enter1 → n = 0) ∧
      (u.rc.level = 1 → ¬ above b.enter2 → above b.exit1 → n = 1) ∧
      (u.rc.level = 1 → ¬ above b.enter2 → ¬ above b.exit1 → dwelt → n = 0) ∧
      (u.rc.level = 1 → ¬ above b.enter2 → ¬ dwelt → n = 1) ∧
      (u.rc.level = 2 → ¬ above b.exit2 → dwelt → n = 1) ∧
      (u.rc.level = 2 → (above b.exit2 ∨ ¬ dwelt) → n = 2)) ∧
     (∃ rate : Nat → Nat, exec (.serviceDomainTick dt) s = .next (recompute (advance s dt) 4 rate 0) ∧
       ∀ k, let u := advance s dt
            let heads := fun (op : Nat) => ∃ n r l, (n, r) ∈ u.rings.tbl ∧ r.look = some l ∧
              fieldOf l.entry 4 2 % 4096 = k ∧ fieldOf l.entry 0 1 = op
         (heads 0x81 → rate k = 8000000000) ∧
         (¬ heads 0x81 → heads 0x84 → rate k = ((runEngines u 2).length - recordingEngines u) *
           ((ctxOf u k).elim 0 fun x => if x.d.cipher = 1 then 1600000000 else 16000000000 / 14)) ∧
         (¬ heads 0x81 → ¬ heads 0x84 → rate k = 6400000000)))

/-- Strict priority of the decoder pool, oldest first within a class (R32, R518). -/
def Obligations.DecoderPriority : Prop :=
  ∀ (s : State) (l : Nat) (a : Sample), nextCodeword s = some (l, a) →
    (∃ x, (l, x) ∈ s.rc.lanes ∧ a ∈ x.store ∧ a.decoder = none ∧ a.evicted = false) ∧
    ∀ j y b, (j, y) ∈ s.rc.lanes → b ∈ y.store → b.decoder = none → b.evicted = false →
      clsRank a.cls < clsRank b.cls ∨ (clsRank a.cls = clsRank b.cls ∧ a.ticket ≤ b.ticket)


/-- Servo frames, loss of lock and the control loops. SERVO_FRAME (R556 to R559, R565, R566, R575, R577). LPOS_WORD,
SERVO_LOCK_LOSS, VELOCITY_LOOP_TICK, TENSION_LOOP_TICK and SERVO_LOSS_TIMEOUT (R561, R562, R572, R587, R588, R599). -/
def Obligations.ServoControl : Prop :=
  (∀ (s : State) (t dev : Nat) (x : Xport) (a b : Option ChanFrame),
     xpOf s t = some x → pathLive s x = true → (a.isSome = true ∨ b.isSome = true) →
     let y := measured x a b
     let gpes := fun (f : ChanFrame) => framePes (x.cart.elim false fun c => c.format == 2) x.wrap f
     let pes := publishedPes y (a.map gpes) (b.map gpes)
     let frame := Out.psp (t / 2) (6 * (t % 2)) (frameBytes 3 (Config.freeValue s.clk.free % 2 ^ 24))
     ∃ u z, exec (.servoFrame t a b dev) s = .next u ∧ xpOf u t = some z ∧ z.servo = y.servo ∧ z.velocity = y.velocity ∧
       z.wclk = y.velocity * densityOf x x.wrap / 1000 ∧ z.rclk = 2 * z.wclk ∧
       z.wi.pes = pes.getD x.wi.pes ∧ z.wi.pesLimit = y.wi.pesLimit ∧ z.wi.cfgNext = none ∧
       z.wi.cond.getLsbD causeWclk = decide (y.wi.wclkTol < dev) ∧ z.wi.cond.getLsbD causeServo = servoLost y ∧
       (∀ p, pes = some p → |p| ≤ (y.wi.pesLimit : Int) → z.wi.cond.getLsbD causePes = false ∧ z.wi.pesRun = 0) ∧
       (∀ p, pes = some p → (y.wi.pesLimit : Int) < |p| → z.wi.pesRun = min (x.wi.pesRun + 1) 15 ∧
         z.wi.cond.getLsbD causePes = (x.wi.cond.getLsbD causePes || decide (y.wi.pesCount ≤ min (x.wi.pesRun + 1) 15))) ∧
       (∀ k, k = causeShock ∨ k = causeWflt ∨ k = causeForce → z.wi.cond.getLsbD k = x.wi.cond.getLsbD k) ∧
       z.dac = Config.freeValue s.clk.free % 2 ^ 24 ∧
       (pspWaiting s (t / 2) = [] → u.out.head? = some frame ∧ pspWaiting u (t / 2) = []) ∧
       (∀ m r, pspWaiting s (t / 2) = m :: r → u.out.take 2 = [m, frame] ∧ pspWaiting u (t / 2) = r)) ∧
  (∀ (s : State) (t ch : Nat) (x : Xport), xpOf s t = some x →
     (pathLive s x = true → ch < 2 → ∀ w,
       exec (.lposWord t ch w) s = .next (followTape (judgeServo (updXp s t fun x => { x with
         servo := Tbl.put x.servo ch (channelWord x.reverse (servoOf x ch) (lposValue w)),
         lposErrs := if (lposValue w).isSome then x.lposErrs else min (x.lposErrs + 1) (2 ^ 32 - 1) }) t) t) ∧
       (∀ v, channelWord x.reverse (servoOf x ch) (some v) = { servoOf x ch with
         lpos := if x.reverse then v else v + 35, lposOk := true, lposFails := 0 }) ∧
       (channelWord x.reverse (servoOf x ch) none).lposFails = min ((servoOf x ch).lposFails + 1) 8 ∧
       (7 ≤ (servoOf x ch).lposFails → (channelWord x.reverse (servoOf x ch) none).locked = false ∧
         (channelWord x.reverse (servoOf x ch) none).lposOk = false)) ∧
     (ch < 2 → (servoOf x ch).locked = true →
       exec (.servoLockLoss t ch) s = .next (judgeServo (updXp s t fun x => { x with
         servo := Tbl.put x.servo ch { servoOf x ch with locked := false, good := 0 } }) t) ∧
       ∃ u z, exec (.servoLockLoss t ch) s = .next u ∧ xpOf u t = some z ∧
       (servoOf z ch).locked = false ∧ (servoOf z (1 - ch)) = servoOf x (1 - ch) ∧
       z.wi.cond.getLsbD causeServo = !(servoOf x (1 - ch)).locked) ∧
     (pathLive s x = true → ∃ u z b, exec (.velocityLoopTick t) s = .next u ∧ xpOf u t = some z ∧
       z.torque = Config.freeInt s.clk.free ∧ z.loopTick = (x.loopTick + 1) % 10 ∧ z.diffTorque = x.diffTorque ∧
       (let q1 := Out.psp (t / 2) (6 * (t % 2) + 1) (frameBytes 4 (twos 32 (z.torque + x.diffTorque)))
        let q2 := Out.psp (t / 2) (6 * (t % 2) + 2) (frameBytes 4 (twos 32 (z.torque - x.diffTorque)))
        let waits := pspWaiting s (t / 2) ++ (if x.loopTick = 9 then
          [Out.psp (t / 2) (6 * (t % 2) + 1) b, Out.psp (t / 2) (6 * (t % 2) + 2) b, Out.psp (t / 2) (6 * (t % 2) + 4) b] else [])
        (waits = [] → u.out.take 2 = [q2, q1] ∧ pspWaiting u (t / 2) = []) ∧
        (∀ m r, waits = m :: r → u.out.take 3 = [m, q2, q1] ∧ pspWaiting u (t / 2) = r)) ∧
       (commanded x < 500 → (servoOf z 0).locked = false ∧ (servoOf z 1).locked = false)) ∧
     (pathLive s x = true → ∀ mn, ∃ u, exec (.tensionLoopTick t mn) s = .next u ∧
       xpOf u t = some { x with
         tensionMn := min mn 65535, diffTorque := Config.freeInt s.clk.free,
         motorMa := Config.freeValue (s.clk.free + 1) % 65536, headTemp := heldTo 16 (Config.freeInt (s.clk.free + 2)) } ∧
       u.clk.free = s.clk.free + 3 ∧ u.rings = s.rings ∧ u.rc = s.rc) ∧
     (∀ dt a, x.lossAt = some a → x.motion = .writing →
       (now (advance s dt) < a + 12500000 → exec (.servoLossTimeout dt t) s = .next (advance s dt)) ∧
       (a + 12500000 ≤ now (advance s dt) →
         (let u := updXp (interrupt (countFault (advance s dt) 8 1 0 0 0) t) t fun x => { x with lossAt := none }
          (x.reacqRun < 3 → exec (.servoLossTimeout dt t) s = .next (raise (countFault (updXp u t fun x => { x with
            reacqRun := x.reacqRun + 1, reacqs := min (x.reacqs + 1) (2 ^ 32 - 1) }) 8 0 0 0 1) (evXp t 1) subjXp t 0)) ∧
          (3 ≤ x.reacqRun → exec (.servoLossTimeout dt t) s =
            .next (if (xpOf u t).elim true (·.faulted) then u else faultXport u t 8 4 (2 ^ 64 - 1)))))))

/-- The re-arm of R567. -/
def Obligations.RearmTakes64Frames : Prop :=
  ∀ (w : Inhibit) (l : List Int), w.armed = false → w.good = 0 →
    (inhibited w = false → (∀ p ∈ l, 4 * |p| ≤ 3 * (w.pesLimit : Int)) →
      (l.foldl (fun w p => rearm w (some p) false) w).armed = decide (64 ≤ l.length) ∧
      ∀ p, 3 * (w.pesLimit : Int) < 4 * |p| → l.length < 64 →
        (rearm (l.foldl (fun w p => rearm w (some p) false) w) (some p) false).good = 0) ∧
    (inhibited w = true → (l.foldl (fun w p => rearm w (some p) false) w) = w)


/-- R568: the level of Tt_WG. -/
def Obligations.WriteGateLevel : Prop :=
  ∀ w : Inhibit, wgHigh w = true ↔ (w.wgReq = true ∧ (∀ k, k < 6 → w.cond.getLsbD k = false) ∧ w.armed = true)


/-- What a change of the inhibit conditions does (R565, R567, R571). -/
def Obligations.InhibitDropsTheGate : Prop :=
  ∀ (s : State) (t : Nat) (x : Xport) (c : BitVec 6), xpOf s t = some x →
    ∃ y, xpOf (setCond s t c) t = some y ∧ y.wi.cond = c ∧
      (c ≠ 0 → wgHigh y.wi = false ∧ y.wi.armed = false) ∧
      (∀ k, k < 6 → y.wi.cause.getLsbD k = (x.wi.cause.getLsbD k || (c.getLsbD k && !x.wi.cond.getLsbD k)) ∧
        (Tbl.get? y.wi.counts k).getD 0 =
          if c.getLsbD k && !x.wi.cond.getLsbD k then min ((Tbl.get? x.wi.counts k).getD 0 + 1) (2 ^ 32 - 1)
          else (Tbl.get? x.wi.counts k).getD 0) ∧
      y.wi.episodes = (if x.wi.cond = 0 ∧ c ≠ 0 ∧ x.wi.wgReq = true then min (x.wi.episodes + 1) (2 ^ 32 - 1) else x.wi.episodes) ∧
      ∀ j, j ≠ t → xpOf (setCond s t c) j = xpOf s j


/-- SHOCK_INPUT, SHOCK_CLEARED, WRITE_FAULT_INPUT, FORCE_INHIBIT_WRITE, WI_CAUSE_WRITE and WFLT_CLEAR_RETRY (R154, R565, R573,
R574). -/
def Obligations.InhibitPins : Prop :=
  ∀ (s : State) (t w : Nat) (x : Xport), xpOf s t = some x →
    (40 ≤ w → exec (.shockInput t w) s = .next (setCause (updXp s t fun x => { x with shkLow := true }) t causeShock true) ∧
      ∃ u z, exec (.shockInput t w) s = .next u ∧ xpOf u t = some z ∧ z.shkLow = true ∧
      z.wi.cond = x.wi.cond ||| 2#6) ∧
    (w < 20 → exec (.shockInput t w) s = .next s ∧ exec (.writeFaultInput t w) s = .next s) ∧
    (exec (.shockCleared t) s = .next (setCause (updXp s t fun x => { x with shkLow := false }) t causeShock false) ∧
      ∃ u z, exec (.shockCleared t) s = .next u ∧ xpOf u t = some z ∧ z.shkLow = false ∧ z.wi.cond = x.wi.cond &&& ~~~2#6) ∧
    (40 ≤ w → exec (.writeFaultInput t w) s = .next (setCause (updXp s t fun x => { x with
        wfltHighAt := max x.wfltHighAt (now s + (w + 3) / 4), wi := { x.wi with wfltLatch := true },
        wfltTry := if x.wfltTry.isSome then x.wfltTry else some (0, now s + 2500000) }) t causeWflt true) ∧
      ∃ u z, exec (.writeFaultInput t w) s = .next u ∧ xpOf u t = some z ∧ z.wi.wfltLatch = true ∧
      z.wi.cond = x.wi.cond ||| 16#6 ∧ z.wfltTry.isSome = true) ∧
    (∀ v, hostReach s 0 = true → exec (.forceInhibitWrite t v) s = .next (setForce s t v) ∧
      ∃ u z, exec (.forceInhibitWrite t v) s = .next u ∧ xpOf u t = some z ∧ z.wi.force = v ∧
      z.wi.cond = if v then x.wi.cond ||| 32#6 else x.wi.cond &&& ~~~32#6) ∧
    (∀ v : Word, hostReach s 0 = true → ∃ u z, exec (.wiCauseWrite t v) s = .next u ∧ xpOf u t = some z ∧
      (∀ k, k < 6 → k ≠ 4 → z.wi.cause.getLsbD k = (x.wi.cause.getLsbD k && !v.getLsbD k) ∧
        z.wi.cond.getLsbD k = x.wi.cond.getLsbD k) ∧
      (v.getLsbD 4 = true → wfltHigh s x = true → z.wi.wfltLatch = false ∧ z.wi.cause.getLsbD 4 = false ∧
        z.wi.cond.getLsbD 4 = false ∧ z.wfltTry = none) ∧
      (v.getLsbD 4 = false ∨ wfltHigh s x = false → z.wi.wfltLatch = x.wi.wfltLatch ∧
        z.wi.cause.getLsbD 4 = x.wi.cause.getLsbD 4 ∧ z.wi.cond.getLsbD 4 = x.wi.cond.getLsbD 4)) ∧
    (barOff s 0 = true → (∀ v, exec (.forceInhibitWrite t v) s = .next (logUnc s 0 20)) ∧
      ∀ v, exec (.wiCauseWrite t v) s = .next (logUnc s 0 20)) ∧
    (∀ dt n due, x.wfltTry = some (n, due) →
      (now (advance s dt) < due → exec (.wfltClearRetry dt t) s = .next (advance s dt)) ∧
      (due ≤ now (advance s dt) →
        (let v := if n = 0 then countFault (advance s dt) 8 1 0 0 0 else countFault (advance s dt) 8 0 0 0 1
         (wfltHigh (advance s dt) x = true → exec (.wfltClearRetry dt t) s = .next (countFault (clearWflt v t) 8 0 1 0 0) ∧
           ∃ u z, exec (.wfltClearRetry dt t) s = .next u ∧ xpOf u t = some z ∧
           z.wi.wfltLatch = false ∧ z.wfltTry = none ∧ z.wi.cond = x.wi.cond &&& ~~~16#6) ∧
         (wfltHigh (advance s dt) x = false → n < 2 → exec (.wfltClearRetry dt t) s =
           .next (updXp v t fun x => { x with wfltTry := some (n + 1, now (advance s dt) + 2500000) })) ∧
         (wfltHigh (advance s dt) x = false → 2 ≤ n → exec (.wfltClearRetry dt t) s =
           .next (faultXport (updXp v t fun x => { x with wfltTry := none }) t 8 3 (2 ^ 64 - 1))))))


/-- ACE channels: control writes, triggers, iterations. ACE_ARM, ACE_DISARM and ACE_GO (R154, R604, R611, R617, R620, R627,
R747). A trigger (R611, R612, R623). ACE_ITERATION_COMPLETE, ACE_BURST_FAIL and ACE_RETRY_WAIT_END (R606 to R609, R618, R622). -/
def Obligations.AceChannels : Prop :=
  (∀ (s : State) (c : Nat), c < 32 → hostReach s 0 = true →
     let a := aceOf s c
     ((gateOf s 13).st ≠ 0 → exec (.aceArm c) s = .next (refusePosted s 13 0x20) ∧
       exec (.aceDisarm c) s = .next (refusePosted s 13 0x20) ∧ exec (.aceGo c) s = .next (refusePosted s 13 0x20) ∧
       (refusePosted s 13 0x20).ace = s.ace) ∧
     ((gateOf s 13).st = 0 → aceHeld s c = true →
       exec (.aceArm c) s = .next { s with ace.ownViol := min (s.ace.ownViol + 1) (2 ^ 32 - 1) } ∧
       exec (.aceDisarm c) s = .next { s with ace.ownViol := min (s.ace.ownViol + 1) (2 ^ 32 - 1) } ∧
       exec (.aceGo c) s = .next { s with ace.ownViol := min (s.ace.ownViol + 1) (2 ^ 32 - 1) }) ∧
     ((gateOf s 13).st = 0 → aceHeld s c = false →
       (a.st = .armed ∨ a.st = .running → exec (.aceArm c) s = .next s) ∧
       (a.st ≠ .armed → a.st ≠ .running →
         (aceConfigOk s c a = false → exec (.aceArm c) s =
           .next (raise (setAce s c { a with st := .idle, err := 3, domain := false }) (evAce c) subjAce c 0)) ∧
         (aceConfigOk s c a = true → eddyOk s c = false → exec (.aceArm c) s =
           .next (raise (setAce s c { a with st := .idle, err := 1, domain := false }) (evAce c) subjAce c 0)) ∧
         (aceConfigOk s c a = true → eddyOk s c = true → exec (.aceArm c) s = .next (setAce s c { a with
           st := if usesHost a && hostDown s then .halted else .armed, err := if usesHost a && hostDown s then 4 else 0,
           domain := false, pending := false, doneBytes := 0, served := 0, retryNo := 0, retryAt := none,
           iterDone := if a.st = .halted then a.iterDone else 0, dstPos := if a.st = .halted then a.dstPos else 0 }))) ∧
       (a.st = .running → a.parked = false →
         exec (.aceDisarm c) s = .next (setAce s c { a with pending := false, disarm := true })) ∧
       (a.st ≠ .running ∨ a.parked = true →
         exec (.aceDisarm c) s = .next (setAce s c { a with st := .idle, pending := false, parked := false })) ∧
       (a.mode = 0 → a.st = .armed → aceStopped s = false → exec (.aceGo c) s =
         .next (setAce s c { a with st := .running, doneBytes := 0, served := 0, retryNo := 0, retryAt := none })) ∧
       (a.mode = 0 → (a.st ≠ .armed ∨ aceStopped s = true) → exec (.aceGo c) s = .next s) ∧
       (a.mode ≠ 0 → a.kickEn = true → exec (.aceGo c) s = .next (trigger s c)) ∧
       (a.mode ≠ 0 → a.kickEn = false → exec (.aceGo c) s = .next s))) ∧
  (∀ (s : State) (c : Nat), barOff s 0 = true → exec (.aceArm c) s = .next (logUnc s 0 20) ∧
     exec (.aceDisarm c) s = .next (logUnc s 0 20) ∧ exec (.aceGo c) s = .next (logUnc s 0 20)) ∧
  (∀ (s : State) (c : Nat),
     let a := aceOf s c
     (a.st ≠ .armed → a.st ≠ .running → trigger s c = s) ∧
     (s.ace.stopped = true → a.st = .armed ∨ a.st = .running →
       aceOf (trigger s c) c = { a with overrun := min (a.overrun + 1) (2 ^ 16 - 1) }) ∧
     (s.ace.stopped = false → a.st = .armed →
       aceOf (trigger s c) c = { a with st := .running, doneBytes := 0, served := 0, retryNo := 0, retryAt := none }) ∧
     (s.ace.stopped = false → a.st = .running → a.pending = false → aceOf (trigger s c) c = { a with pending := true }) ∧
     (s.ace.stopped = false → a.st = .running → a.pending = true →
       aceOf (trigger s c) c = { a with overrun := min (a.overrun + 1) (2 ^ 16 - 1) }) ∧
     ∀ j, j ≠ c → aceOf (trigger s c) j = aceOf s j) ∧
  (∀ (s : State) (c : Nat),
     let a := aceOf s c
     (∀ data, burstsGo s a = true →
       (a.srcSpace ≠ 0 → a.srcSpace ≠ 2 →
         exec (.aceIterationComplete c data) s = .next (endIter (serveTo s c a.len (burstsLeft s)) c)) ∧
       (a.srcSpace = 0 → data.length = a.len →
         exec (.aceIterationComplete c data) s = .next (endIter (writeHost (serveTo s c a.len (burstsLeft s)) c a.len data) c)) ∧
       (∀ b, a.srcSpace = 2 → windowOf s c = some b →
         (let u := serveTo s c a.len (burstsLeft s)
          exec (.aceIterationComplete c data) s = .next (endIter { u with
            ace.tele := Tbl.upd u.ace.tele (c - 24) fun x => { x with window := none } } c)))) ∧
     (∀ data, a.st = .running → a.parked = false → a.retryAt = none → a.srcSpace = 1 → a.dstSpace = 1 →
       ∃ t, exec (.aceIterationComplete c data) s = .next t ∧
         (aceOf t c).iterDone = a.iterDone + 1 ∧ (aceOf t c).dstPos = nextPos a (a.iterDone + 1) ∧
         (a.disarm = true → (aceOf t c).st = .idle) ∧
         (a.disarm = false → a.iter ≠ 0 → a.iter ≤ a.iterDone + 1 → (aceOf t c).st = .done ∧
           (deepLull s = false → (Tbl.get? t.evr.counts (1376 + c)).getD 0 =
             min ((Tbl.get? s.evr.counts (1376 + c)).getD 0 + 1) (2 ^ 32 - 1)))) ∧
     (∀ data, usesHost a = true → mayIssue s 0 = false → exec (.aceIterationComplete c data) s = .next s) ∧
     (∀ n d err data, burstsGo s a = true → a.doneBytes ≤ n → n < a.len → (a.srcSpace = 0 → data.length = n) →
       (a.retryNo < a.retryMax → ∃ t, exec (.aceBurstFail c n d err data) s = .next t ∧ aceOf t c = { a with
         retryNo := a.retryNo + 1, retries := min (a.retries + 1) (2 ^ 16 - 1), doneBytes := n, served := n,
         retryAt := some (now s + min (2 ^ a.retryNo) 1000 * 250) } ∧ t.host.flrOwed = s.host.flrOwed ∧ t.rings.tbl = s.rings.tbl ∧
         t.rings.cmds = s.rings.cmds ∧ t.xp = s.xp ∧ t.pmu.ps = s.pmu.ps) ∧
       (a.retryMax ≤ a.retryNo → ∃ t, exec (.aceBurstFail c n d err data) s = .next t ∧ aceOf t c = { a with
         st := .halted, pending := false, err := 2, domain := d, retryAt := none, disarm := false, doneBytes := n, served := n } ∧
         t.flt.next = s.flt.next + 1 ∧ t.rings.tbl = s.rings.tbl ∧ t.rings.cmds = s.rings.cmds ∧ t.xp = s.xp)) ∧
     (∀ dt r, a.retryAt = some r → a.st = .running →
       (r ≤ now (advance s dt) → exec (.aceRetryWaitEnd dt c) s = .next (setAce (advance s dt) c { a with retryAt := none })) ∧
       (now (advance s dt) < r → exec (.aceRetryWaitEnd dt c) s = .next (advance s dt))))

/-- The bytes that a buffer-to-buffer iteration stores while no other channel runs (R605 to R607). -/
def Obligations.AceCopyFrame : Prop :=
  ∀ (s : State) (c : Nat) (data : Bytes), c < 32 →
    let a := aceOf s c
    let src := iterBase a.src a.srcStep a.ringLog2 a.iterDone a.len
    let dst := iterBase a.dst a.dstStep a.ringLog2 a.iterDone a.len
    a.st = .running → a.parked = false → a.retryAt = none → a.srcSpace = 1 → a.dstSpace = 1 → a.srcFixed = false → a.dstFixed = false →
    a.served = 0 → (∀ d, d ≠ c → (aceOf s d).st ≠ .running) → Memory.wf s.ace.buf = true →
    ∃ t, exec (.aceIterationComplete c data) s = .next t ∧
      (∀ p, (p < dst ∨ dst + a.len ≤ p) → Memory.read t.ace.buf p = Memory.read s.ace.buf p) ∧
      ((a.len ≤ 512 ∨ src + a.len ≤ dst ∨ dst + a.len ≤ src) →
        ∀ i, i < a.len → Memory.read t.ace.buf (dst + i) = Memory.read s.ace.buf (src + i))

/-- R626: configuration writes while ARMED or RUNNING, by the host and by the SMP. -/
def Obligations.AceConfigHeldWhileLive : Prop :=
  ∀ (s : State) (c r : Nat) (v : BitVec 64), c < 32 → aceLive (aceOf s c) = true → 4 ≤ r → r ≤ 0x20 → r % 4 = 0 →
    (∀ size p e, (size = 4 ∨ (size = 8 ∧ r % 8 = 0 ∧ r < 0x20)) →
      ∃ t, exec (.registerWrite 0 (.bar0 (0x111000 + 0x40 * c + r) size v p e)) s = .next t ∧ t.ace.ch = s.ace.ch) ∧
    (∀ inc, s.smp.indOp = some (true, inc) → s.smp.indAddr.toNat = 0x111000 + 0x40 * c + r →
      ∃ t, exec .smpIndDone s = .next t ∧ t.ace.ch = s.ace.ch)

/-- SMP transactions, page and indirect accesses. SMP_CS_FALL, SMP_COMMAND_BYTE, SMP_WRITE_BYTE, SMP_READ_BYTE and
SMP_CS_RISE (R643 to R652, R654, R687, R688). SMP_PAGE_WRITE, SMP_IND_READ, SMP_IND_WRITE and SMP_IND_DONE (R646, R659 to
R664). -/
def Obligations.SmpTransactions : Prop :=
  (∀ (s : State),
     (smpLive s = true → ∀ sck,
       (let u := { s with smp := { s.smp with mode3 := sck, st := .cmd, wb := 0, waits := 0, sdo := some 0xB1, rcOut := false } }
        exec (.smpCsFall sck) s = .next (wake u 4) ∧ (s.pmu.lull = none → exec (.smpCsFall sck) s = .next u))) ∧
     (smpLive s = true → s.smp.st = .cmd → ∀ b : Byte, exec (.smpCommandByte b) s = .next { s with smp := { s.smp with
       addr := b.toNat % 128, st := if b.getLsbD 7 then .rwait else .wdata } }) ∧
     (smpLive s = true → s.smp.st = .wdata → ∀ b : Byte,
       (s.smp.wb < 64 →
         (let u := commit { s with smp.sdo := some 0x4E } s.smp.page s.smp.addr b
          exec (.smpWriteByte b) s = .next { u with smp.wb := u.smp.wb + 1, smp.addr := nextAddr s.smp.addr } ∧
          u.smp.wb = s.smp.wb ∧ u.smp.sdo = some 0x4E ∧ u.smp.st = .wdata ∧
          nextAddr s.smp.addr = if s.smp.addr = 0x7F ∨ s.smp.addr = 0x7E then 0 else s.smp.addr + 1)) ∧
       (64 ≤ s.smp.wb → exec (.smpWriteByte b) s = .next (setErr { s with smp.sdo := some 0xE7 } 1) ∧
         (setErr { s with smp.sdo := some 0xE7 } 1).smp.err = s.smp.err ||| 2 ∧
         (setErr { s with smp.sdo := some 0xE7 } 1).smp.wb = s.smp.wb ∧
         (setErr { s with smp.sdo := some 0xE7 } 1).smp.addr = s.smp.addr ∧
         (setErr { s with smp.sdo := some 0xE7 } 1).smp.page = s.smp.page)) ∧
     (smpLive s = true → s.smp.st = .rwait →
       (smpReady s s.smp.page s.smp.addr = true →
         exec .smpReadByte s = .next { s with smp := { s.smp with sdo := some 0x4E, st := .rdata } }) ∧
       (smpReady s s.smp.page s.smp.addr = false → s.smp.waits < 256 →
         exec .smpReadByte s = .next { s with smp := { s.smp with sdo := some 0xB1, waits := s.smp.waits + 1 } }) ∧
       (smpReady s s.smp.page s.smp.addr = false → s.smp.waits = 256 → exec .smpReadByte s =
         .next (setErr { s with smp := { s.smp with sdo := some 0xE7, st := .rabort } } 2))) ∧
     (smpLive s = true → s.smp.st = .rabort → exec .smpReadByte s = .next { s with smp.sdo := some 0xE7 }) ∧
     (smpLive s = true → s.smp.st = .rdata →
       (let v := if s.smp.rcOut then { s with smp := { s.smp with rcOut := false, errCount := 0 } } else s
        let u := if s.smp.addr = 0x7F ∨ pageKnown s.smp.page = true then v else setErr v 3
        exec .smpReadByte s = .next { u with smp := { u.smp with
         sdo := some (BitVec.ofNat 8 (smpValue u s.smp.page s.smp.addr)),
         rcOut := decide (s.smp.page = 0 ∧ s.smp.addr = 6), addr := nextAddr s.smp.addr } })) ∧
     (smpLive s = true → s.smp.st ≠ .idle → ∀ n,
       (n % 8 = 0 → exec (.smpCsRise n) s = .next { s with smp := { s.smp with
         st := .idle, sdo := none, rcOut := false, errCount := if s.smp.rcOut then 0 else s.smp.errCount } }) ∧
       (n % 8 ≠ 0 → exec (.smpCsRise n) s = .next { setErr s 0 with
         smp := { (setErr s 0).smp with st := .idle, sdo := none, rcOut := false } } ∧
         (setErr s 0).smp.err = s.smp.err ||| 1)) ∧
     (smpLive s = false → ∀ b n sck,
       exec (.smpCommandByte b) s = .next s ∧ exec (.smpWriteByte b) s = .next s ∧ exec .smpReadByte s = .next s ∧
       (s.host.sysRst = true → exec (.smpCsFall sck) s = .next s ∧
         exec (.smpCsRise n) s = .next { s with smp := { s.smp with deaf := false } }) ∧
       (s.host.sysRst = false → exec (.smpCsRise n) s = .next s ∧
         exec (.smpCsFall sck) s = .next { s with smp := { s.smp with deaf := true } }))) ∧
  (∀ (s : State) (inc : Bool),
     (smpLive s = true →
       (∀ p : Byte, exec (.smpPageWrite p) s = .next { s with smp := { s.smp with page := p.toNat } }) ∧
       (s.smp.indBusy = false → indReach false s.smp.indAddr.toNat = true → exec (.smpIndRead inc) s = .next { s with
         smp := { s.smp with indBusy := true, indOp := some (false, inc), indLost := false } }) ∧
       (s.smp.indBusy = false → indReach true s.smp.indAddr.toNat = true → exec (.smpIndWrite inc) s = .next { s with
         smp := { s.smp with indBusy := true, indOp := some (true, inc), indLost := false } }) ∧
       (s.smp.indBusy = false → indReach false s.smp.indAddr.toNat = false →
         exec (.smpIndRead inc) s = .next (endInd s false inc 2 0) ∧
         (endInd s false inc 2 0).smp.indErr = 2 ∧ (endInd s false inc 2 0).smp.indBusy = false ∧
         (endInd s false inc 2 0).smp.indData = 0 ∧ (endInd s false inc 2 0).smp.attn.getLsbD 2 = true) ∧
       (s.smp.indBusy = false → indReach true s.smp.indAddr.toNat = false →
         exec (.smpIndWrite inc) s = .next (endInd s true inc 2 0) ∧
         (endInd s true inc 2 0).smp.indErr = 2 ∧ (endInd s true inc 2 0).smp.indBusy = false ∧
         (endInd s true inc 2 0).smp.indData = s.smp.indData ∧ (endInd s true inc 2 0).smp.attn.getLsbD 2 = true) ∧
       (s.smp.indBusy = true → exec (.smpIndRead inc) s = .next (setErr s 4) ∧ exec (.smpIndWrite inc) s = .next (setErr s 4) ∧
         (setErr s 4).smp.err = s.smp.err ||| 16 ∧ (setErr s 4).smp.indOp = s.smp.indOp)) ∧
     (∀ w, s.smp.indOp = some (w, inc) → s.pmu.ps = .run → s.clk.frozen = false →
       let off := s.smp.indAddr.toNat
       (s.smp.indLost = true → exec .smpIndDone s = .next (endInd s w inc 3 0)) ∧
       (s.smp.indLost = false → inAce off = true → (gateOf s 13).st ≠ 0 →
         (w = true → exec .smpIndDone s = .next (endInd (refusePosted s 13 0x21) true inc 1 0)) ∧
         (w = false → exec .smpIndDone s = .next (endInd (readDev s off).2 false inc 1 0))) ∧
       (s.smp.indLost = false → (inAce off = false ∨ (gateOf s 13).st = 0) →
         (w = true → exec .smpIndDone s = .next (endInd (writeDev s 0x21 off s.smp.indData) true inc 0 0)) ∧
         (w = false → exec .smpIndDone s = .next (endInd (readBar0 s 0 off).2 false inc 0 (readBar0 s 0 off).1) ∧
           (endInd (readBar0 s 0 off).2 false inc 0 (readBar0 s 0 off).1).smp.indData =
             BitVec.ofNat 32 (readBar0 s 0 off).1))))

/-- SMP_WRITE_BYTE by address (R646, R649, R652, R665, R669). -/
def Obligations.SmpWriteEffect : Prop :=
  ∀ (s : State) (b : Byte), smpLive s = true → s.smp.st = .wdata → s.smp.wb < 64 → Memory.wf s.smp.mbxData = true →
    ∃ t, exec (.smpWriteByte b) s = .next t ∧
      (s.smp.addr = 0x7F → t.smp.page = b.toNat ∧ t.smp.sqe = s.smp.sqe ∧ t.smp.mbxData = s.smp.mbxData) ∧
      (s.smp.page = 1 → s.smp.addr < 0x40 → t.smp.mbxData = s.smp.mbxData ∧
        ∀ k, k < 0x40 → fieldOf t.smp.sqe k 1 = if k = s.smp.addr then b.toNat else fieldOf s.smp.sqe k 1) ∧
      (0x40 ≤ s.smp.page → s.smp.page ≤ 0x7F → s.smp.addr < 0x40 → t.smp.sqe = s.smp.sqe ∧
        ∀ p, Memory.read t.smp.mbxData p =
          if p = 64 * (s.smp.page - 0x40) + s.smp.addr then b else Memory.read s.smp.mbxData p) ∧
      (pageKnown s.smp.page = false → s.smp.addr ≠ 0x7F → t.smp.err = s.smp.err ||| 8 ∧ t.smp.sqe = s.smp.sqe ∧
        t.smp.mbxData = s.smp.mbxData ∧ t.smp.page = s.smp.page)


/-- The mailbox, the attention notch and the peripherals. MAILBOX_GO, MAILBOX_COMPLETE and ATTENTION_NOTCH_END (R655
to R657, R666 to R671). PSP_IRQ, PEER_POLL and PERIPHERAL_RETRY (R678, R684, R685). -/
def Obligations.MailboxAndPeripherals : Prop :=
  (∀ (s : State),
     (smpLive s = true → s.smp.mbxBusy = true → exec .mailboxGo s = .next (setErr s 4) ∧
       (setErr s 4).smp.err = s.smp.err ||| 16 ∧ (setErr s 4).rings.tbl = s.rings.tbl ∧
       (setErr s 4).rings.cmds = s.rings.cmds ∧ (setErr s 4).smp.sqe = s.smp.sqe) ∧
     (smpLive s = true → s.smp.mbxBusy = false → s.host.fwReady = false → ∃ t, exec .mailboxGo s = .next t ∧
       t.smp.mbxBusy = false ∧ t.smp.mbxDone = true ∧ t.rings = s.rings ∧ t.smp.attn.getLsbD 1 = true ∧
       t.smp.cqe = BitVec.ofNat 128 (leNat (complBytes (fieldOf s.smp.sqe 2 2) (Compl.of 0x67) 1))) ∧
     (smpLive s = true → s.smp.mbxBusy = false → s.host.fwReady = true → exec .mailboxGo s = .next (
       let u := { s with smp := { s.smp with mbxBusy := true, mbxDone := false } }
       startMbx { u with rings.cmds := u.rings.cmds ++
         [{ newCmd u 32768 0 0 s.smp.sqe none with mailbox := true, prog := .ordered }] })) ∧
     (∀ c k, cmdOf s 32768 = some c → c.done = some k →
       exec .mailboxComplete s = .next (deliverMbx { s with rings.cmds := s.rings.cmds.filter fun x => x.id != 32768 } c.cid k) ∧
       ∃ t, exec .mailboxComplete s = .next t ∧ cmdOf t 32768 = none ∧
       t.smp.mbxBusy = false ∧ t.smp.mbxDone = true ∧ t.smp.attn.getLsbD 1 = true ∧
       t.smp.cqe = BitVec.ofNat 128 (leNat (complBytes c.cid k 1))) ∧
     (s.smp.notch = true →
       (s.smp.notchWait = false ∨ rbHeld s = true → exec .attentionNotchEnd s = .next { s with smp := { s.smp with notch := false } }) ∧
       (s.smp.notchWait = true → rbHeld s = false →
         exec .attentionNotchEnd s = .next { s with smp := { s.smp with notch := true, notchWait := false } }))) ∧
  (∀ (s : State),
     (∀ port l, s.host.sysRst = true → port < 2 → exec (.pspIrq port l) s =
       .next (wake (l.foldl (applyChange port) (if s.pmu.booted then irqReads s port else s)) (6 + port))) ∧
     (∀ t x c, s.host.sysRst = true → s.pmu.lull = none → t < 4 → xpOf s t = some x →
       (x.cart = none → ∃ u, exec (.pspIrq (t / 2) [(t, .inserted c)]) s = .next u ∧ xpOf u t = some { x with cart := some c }) ∧
       (x.cart ≠ none → x.mount = none →
         ∃ u, exec (.pspIrq (t / 2) [(t, .removed)]) s = .next u ∧ xpOf u t = some { x with cart := none }) ∧
       (x.cart ≠ none → ∃ u, exec (.pspIrq (t / 2) [(t, .inserted c)]) s = .next u ∧ u.xp = s.xp ∧ u.rings = s.rings ∧ u.evr = s.evr)) ∧
     (∀ k e, s.host.sysRst = true → s.pmu.booted = true → s.pmu.ps = .run → s.clk.frozen = false →
       s.smp.periph.filter (fun p => p.2.typ == 7) = [(k, e)] → Tbl.has s.smp.pspTry k = false →
       (let q := Out.psp (k / 16) (k % 16) [0x84]
        let v := { s with out := (pspWaiting s (k / 16) ++ [q]).reverse ++ s.out, smp.pspQ := Tbl.del s.smp.pspQ (k / 16) }
        (∀ b, exec (.peerPoll [(k, some b)]) s = .next (notePeer v k b) ∧ Tbl.get? (notePeer v k b).smp.peers k = some (some b)) ∧
        exec (.peerPoll [(k, none)]) s =
          .next (countFault { v with smp.pspTry := Tbl.put v.smp.pspTry k (0, now s + 2500) } 10 1 0 0 0))) ∧
     (∀ dt port sel n due, Tbl.wf s.smp.pspTry = true → Tbl.get? s.smp.pspTry (16 * port + sel) = some (n, due) →
       due ≤ now (advance s dt) → s.clk.frozen = false → s.pmu.ps = .run →
       (let k := 16 * port + sel
        let v := countFault (peerRead (advance s dt) k) 10 0 0 0 1
        (∀ b, exec (.peripheralRetry dt port sel (some b)) s =
          .next (notePeer (countFault { v with smp.pspTry := Tbl.del v.smp.pspTry k } 10 0 1 0 0) k b)) ∧
        (n < 2 → exec (.peripheralRetry dt port sel none) s =
          .next { v with smp.pspTry := Tbl.put v.smp.pspTry k (n + 1, now (advance s dt) + 2500 * 2 ^ (n + 1)) }) ∧
        (2 ≤ n → exec (.peripheralRetry dt port sel none) s = .next (peerLost v k) ∧
          Tbl.get? (peerLost v k).smp.pspTry k = none ∧ Tbl.get? (peerLost v k).smp.peers k = some none ∧
          (peerLost v k).flt.next = s.flt.next + 1))))

/-- R655: the level of SMP_RB. -/
def Obligations.SmpReadyLevel : Prop :=
  ∀ s : State, smpRb s = false ↔
    (s.host.sysRst = false ∨ s.smp.indBusy = true ∨ s.smp.mbxBusy = true ∨ s.smp.notch = true)
end

