-- ==== Sys2Proof/Laws/Tbl.lean ====
section
/-! SUPPORT. What the table and set operations do. -/

namespace Sys2Proof.Machine

variable {α : Type}

/-- What was stored is read back. -/
@[simp] theorem Tbl.get?_put_self (t : Tbl α) (k : Nat) (v : α) : Tbl.get? (Tbl.put t k v) k = some v := by
  induction t with
  | nil => simp [Tbl.put, Tbl.get?]
  | cons p r ih =>
    unfold Tbl.put
    split
    · simp [Tbl.get?]
    · split
      · simp [Tbl.get?]
      · simp [Tbl.get?, *]

/-- Other keys keep their entries. -/
theorem Tbl.get?_put_of_ne (t : Tbl α) {k j : Nat} (v : α) (h : j ≠ k) : Tbl.get? (Tbl.put t k v) j = Tbl.get? t j := by
  induction t with
  | nil => simp [Tbl.put, Tbl.get?, Ne.symm h]
  | cons p r ih =>
    unfold Tbl.put
    split
    · rename_i e
      simp [Tbl.get?, Ne.symm h, e]
    · split
      · simp [Tbl.get?, Ne.symm h]
      · simp [Tbl.get?, ih]

/-- A change of an entry. -/
@[simp] theorem Tbl.get?_upd_self (t : Tbl α) (k : Nat) (f : α → α) : Tbl.get? (Tbl.upd t k f) k = (Tbl.get? t k).map f := by
  induction t with
  | nil => rfl
  | cons p r ih =>
    unfold Tbl.upd
    split <;> simp_all [Tbl.get?]

/-- A change of one entry leaves the others. -/
theorem Tbl.get?_upd_of_ne (t : Tbl α) {k j : Nat} (f : α → α) (h : j ≠ k) : Tbl.get? (Tbl.upd t k f) j = Tbl.get? t j := by
  induction t with
  | nil => rfl
  | cons p r ih =>
    unfold Tbl.upd
    split
    · simp [Tbl.get?, *, Ne.symm h]
    · simp [Tbl.get?, ih]

/-- Removing one key leaves the others. -/
theorem Tbl.get?_del_of_ne (t : Tbl α) {k j : Nat} (h : j ≠ k) : Tbl.get? (Tbl.del t k) j = Tbl.get? t j := by
  induction t with
  | nil => rfl
  | cons p r ih =>
    unfold Tbl.del
    split
    · simp [Tbl.get?, *, Ne.symm h]
    · simp [Tbl.get?, ih]

/-- Where every key is above `k`, `k` has no entry. -/
theorem Tbl.get?_eq_none_of_lt (t : Tbl α) (k : Nat) (h : ∀ e ∈ t, k < e.1) : Tbl.get? t k = none := by
  induction t with
  | nil => rfl
  | cons p r ih =>
    have h1 := h p (by simp)
    simp only [Tbl.get?, Nat.ne_of_gt h1, if_false]
    exact ih fun e he => h e (by simp [he])

/-- In a canonical table a removed key is gone. -/
theorem Tbl.get?_del_self (t : Tbl α) (k : Nat) (h : Tbl.wf t = true) : Tbl.get? (Tbl.del t k) k = none := by
  induction t with
  | nil => rfl
  | cons p r ih =>
    simp only [Tbl.wf, Bool.and_eq_true, List.all_eq_true, decide_eq_true_eq] at h
    unfold Tbl.del
    split
    · rename_i e
      exact Tbl.get?_eq_none_of_lt r k fun x hx => e ▸ h.1 x hx
    · simp [Tbl.get?, *]

/-- A mapped table. -/
@[simp] theorem Tbl.get?_mapVal (t : Tbl α) (f : Nat → α → α) (k : Nat) : Tbl.get? (Tbl.mapVal t f) k = (Tbl.get? t k).map (f k) := by
  induction t with
  | nil => rfl
  | cons p r ih =>
    simp only [Tbl.mapVal, List.map_cons, Tbl.get?] at ih ⊢
    split
    · rename_i e; simp [e]
    · exact ih

/-- The entries of a table after a store. -/
theorem Tbl.mem_put (t : Tbl α) (k : Nat) (v : α) {e : Nat × α} (h : e ∈ Tbl.put t k v) : e = (k, v) ∨ e ∈ t := by
  induction t with
  | nil => simpa [Tbl.put] using h
  | cons p r ih =>
    unfold Tbl.put at h
    split at h
    · simp only [List.mem_cons] at h ⊢; tauto
    · split at h
      · simpa using h
      · simp only [List.mem_cons] at h ⊢
        rcases h with h | h
        · exact .inr (.inl h)
        · rcases ih h with h | h <;> tauto

/-- Storing keeps the canonical form. -/
theorem Tbl.wf_put (t : Tbl α) (k : Nat) (v : α) (h : Tbl.wf t = true) : Tbl.wf (Tbl.put t k v) = true := by
  induction t with
  | nil => simp [Tbl.put, Tbl.wf]
  | cons p r ih =>
    simp only [Tbl.wf, Bool.and_eq_true, List.all_eq_true, decide_eq_true_eq] at h ih
    unfold Tbl.put
    split
    · rename_i e
      simp only [Tbl.wf, Bool.and_eq_true, List.all_eq_true, decide_eq_true_eq]
      exact ⟨fun x hx => e ▸ h.1 x hx, h.2⟩
    · split
      · rename_i lt
        simp only [Tbl.wf, Bool.and_eq_true, List.all_eq_true, decide_eq_true_eq, List.mem_cons]
        exact ⟨fun x hx => by rcases hx with rfl | hx; exacts [lt, lt.trans (h.1 x hx)], h.1, h.2⟩
      · rename_i ne nlt
        simp only [Tbl.wf, Bool.and_eq_true, List.all_eq_true, decide_eq_true_eq]
        refine ⟨fun x hx => ?_, ih h.2⟩
        rcases Tbl.mem_put r k v hx with e | hx
        · subst e; simp only; omega
        · exact h.1 x hx

/-- Entries after a removal were there before. -/
theorem Tbl.mem_of_mem_del (t : Tbl α) (k : Nat) {e : Nat × α} (h : e ∈ Tbl.del t k) : e ∈ t := by
  induction t with
  | nil => simp [Tbl.del] at h
  | cons p r ih =>
    unfold Tbl.del at h
    split at h
    · simp [h]
    · simp only [List.mem_cons] at h ⊢
      rcases h with h | h
      · exact .inl h
      · exact .inr (ih h)

/-- Removing keeps the canonical form. -/
theorem Tbl.wf_del (t : Tbl α) (k : Nat) (h : Tbl.wf t = true) : Tbl.wf (Tbl.del t k) = true := by
  induction t with
  | nil => rfl
  | cons p r ih =>
    simp only [Tbl.wf, Bool.and_eq_true, List.all_eq_true, decide_eq_true_eq] at h ih
    unfold Tbl.del
    split
    · exact h.2
    · simp only [Tbl.wf, Bool.and_eq_true, List.all_eq_true, decide_eq_true_eq]
      exact ⟨fun x hx => h.1 x (Tbl.mem_of_mem_del r k hx), ih h.2⟩

/-- Membership after an insertion into a set. -/
theorem mem_setIns (l : List Nat) (k x : Nat) : x ∈ setIns l k ↔ x = k ∨ x ∈ l := by
  induction l with
  | nil => simp [setIns]
  | cons j r ih =>
    unfold setIns
    split
    · simp_all
    · split
      · simp
      · simp only [List.mem_cons, ih]; tauto

/-- Membership after a removal from a set. -/
theorem mem_setDel (l : List Nat) (k x : Nat) : x ∈ setDel l k ↔ x ∈ l ∧ x ≠ k := by simp [setDel]

end Sys2Proof.Machine
end

