-- ==== Sys2Proof/Laws/Only.lean ====
section
/-! SUPPORT. Frames: how `Only` composes. -/

namespace Sys2Proof.Machine

variable {l m : List Part} {s t u : State} {α : Type}

/-- A part agrees with itself. -/
theorem Part.same_refl (p : Part) (s : State) : p.same s s := by cases p <;> simp [Part.same]

/-- Agreement goes both ways. -/
theorem Part.same_symm {p : Part} (h : p.same s t) : p.same t s := by
  cases p <;> simp only [Part.same] at h ⊢ <;> simp [h]

/-- Agreement composes. -/
theorem Part.same_trans {p : Part} (h : p.same s u) (k : p.same u t) : p.same s t := by
  cases p <;> simp only [Part.same] at h k ⊢ <;> simp [h, k]

/-- A state differs from itself nowhere. -/
theorem Only.refl : Only l s s := fun p _ => p.same_refl s

/-- What two changes may change together. -/
theorem Only.trans (h : Only l s u) (k : Only l u t) : Only l s t := fun p hp => Part.same_trans (h p hp) (k p hp)

/-- More parts may change. -/
theorem Only.mono (h : Only m s t) (hl : m ⊆ l) : Only l s t := fun p hp => h p fun hm => hp (hl hm)

/-- A change after others. -/
theorem Only.step (h : Only l s u) (k : Only m u t) (hl : m ⊆ l) : Only l s t := h.trans (k.mono hl)

/-- Either branch. -/
theorem Only.ite {c : Prop} {d : Decidable c} (h : Only l s t) (k : Only l s u) : Only l s (if c then t else u) := by
  split
  · exact h
  · exact k

/-- With or without a value. -/
theorem Only.elim {o : Option α} {f : α → State} (h : Only l s t) (k : ∀ x, Only l s (f x)) : Only l s (o.elim t f) := by
  cases o with
  | none => exact h
  | some x => exact k x

/-- A change for each element of a list. -/
theorem Only.foldl {f : State → α → State} (hf : ∀ u x, Only l u (f u x)) (xs : List α) (h : Only l s u) :
    Only l s (xs.foldl f u) := by
  induction xs generalizing u with
  | nil => exact h
  | cons x r ih => exact ih (h.trans (hf u x))

/-- A new state that keeps the queue and agrees with `u` on the parts outside `l`. -/
theorem Only.mk_iff {a2 a3 a4 a5 a6 a7 a8 a9 a10 a11 a12 a13 a14 a15 a16 a17}
    (k : ∀ p, p ∉ l → p.same u ⟨u.pending, a2, a3, a4, a5, a6, a7, a8, a9, a10, a11, a12, a13, a14, a15, a16, a17⟩) :
    Only l s ⟨u.pending, a2, a3, a4, a5, a6, a7, a8, a9, a10, a11, a12, a13, a14, a15, a16, a17⟩ ↔ Only l s u :=
  ⟨fun h => h.trans fun p hp => Part.same_symm (k p hp), fun h => h.trans k⟩

end Sys2Proof.Machine
end

