-- ==== Sys2Proof/Laws/FramesCore.lean ====
section
/-! SUPPORT. Frames of the shared operations, the serial ports, headwind, the rings and wake-up: which parts of the
state each operation may change, one lemma per operation, in the form in which such lemmas chain. -/

namespace Sys2Proof.Machine

theorem drawFree_only {L R s} (hR : Only L R s) (hL : [.free] ⊆ L) : Only L R (drawFree s).2 := by
  refine hR.step ?_ hL
  unfold drawFree
  repeat' first
    | dsimp only
    | with_reducible exact .refl
    | with_reducible refine .ite ?_ ?_
    | simp (disch := (intro (q : Part) hq; cases q <;> first | (simp [Part.same, fnOf]; done) | exact absurd (by decide) hq)) only
        [Only.mk_iff]

theorem drawFree_pair {L R s i z} (h : drawFree s = (i, z)) (hR : Only L R s)
    (hL : [.free] ⊆ L) : Only L R z := by
  have := drawFree_only (s := s) hR hL
  rwa [h] at this

theorem setFn_only {L R s n f} (hR : Only L R s) (hL : [.functions, .events] ⊆ L) : Only L R (setFn s n f) := by
  refine hR.step ?_ hL
  unfold setFn
  simp (disch := (intro (q : Part) hq; cases q <;> first | (simp [Part.same]; done) | exact absurd (by decide) hq)) only
    [Only.mk_iff]
  exact .refl

/-- A function changes but for its PBA. -/
theorem setFn_kept {L R s n f} (h : f.pba = (fnOf s n).pba) (hR : Only L R s) (hL : [.functions] ⊆ L) :
    Only L R (setFn s n f) := by
  refine hR.step ?_ hL
  intro p hp
  cases p <;> first
    | exact absurd (by decide) hp
    | (simp only [Part.same]; refine ⟨rfl, rfl, rfl, rfl, rfl, rfl, rfl, fun k => ?_⟩
       by_cases e : k = n <;> simp [fnOf, setFn, Tbl.get?_put_of_ne, e]; simpa [fnOf] using h)
    | simp [Part.same, setFn]

theorem logUnc_only {L R s n b} (hR : Only L R s) (hL : [.free, .functions] ⊆ L) : Only L R (logUnc s n b) := by
  refine hR.step ?_ hL
  unfold logUnc
  repeat' first
    | dsimp only
    | with_reducible exact .refl
    | with_reducible refine .ite ?_ ?_
    | with_reducible refine setFn_kept rfl ?_ (by decide)
    | (with_reducible apply drawFree_only <;> [skip; decide])

theorem logCor_only {L R s n b} (hR : Only L R s) (hL : [.functions] ⊆ L) : Only L R (logCor s n b) := by
  refine hR.step ?_ hL
  unfold logCor
  repeat' first
    | dsimp only
    | with_reducible exact .refl
    | with_reducible refine .ite ?_ ?_
    | with_reducible refine setFn_kept rfl ?_ (by decide)

theorem logReadErr_only {L R s n k} (hR : Only L R s) (hL : [.free, .functions] ⊆ L) : Only L R (logReadErr s n k) := by
  refine hR.step ?_ hL
  unfold logReadErr
  repeat' first
    | dsimp only
    | with_reducible exact .refl
    | with_reducible refine .ite ?_ ?_
    | (with_reducible apply logUnc_only <;> [skip; decide])
    | split

theorem setPba_only {L R s n} {l : List Nat} (hR : Only L R s) (hL : [.events] ⊆ L) :
    Only L R (setFn s n { fnOf s n with pba := l }) := by
  refine hR.step ?_ hL
  intro p hp
  cases p <;> first
    | exact absurd (by decide) hp
    | (simp only [Part.same]; intro k; by_cases e : k = n <;> simp [fnOf, setFn, Tbl.get?_put_of_ne, e])
    | simp [Part.same, setFn]

theorem sendMsix_only {L R s n v} (hR : Only L R s) (hL : [.outputs, .events] ⊆ L) : Only L R (sendMsix s n v) := by
  refine hR.step ?_ hL
  unfold sendMsix
  split
  · exact .refl
  · split
    · simp (disch := (intro (q : Part) hq; cases q <;> first | (simp [Part.same, fnOf]; done) | exact absurd (by decide) hq)) only
        [Only.mk_iff]
      exact .refl
    · exact setPba_only .refl (by decide)

theorem flushPba_only {L R s n} (hR : Only L R s) (hL : [.outputs, .events] ⊆ L) : Only L R (flushPba s n) := by
  refine hR.step ?_ hL
  unfold flushPba
  refine .foldl (fun u v => ?_) _ .refl
  split
  · refine Only.trans (u := setFn u n { fnOf u n with pba := setDel (fnOf u n).pba v }) (setPba_only .refl (by decide)) ?_
    simp (disch := (intro (q : Part) hq; cases q <;> first | (simp [Part.same, fnOf]; done) | exact absurd (by decide) hq)) only
      [Only.mk_iff]
    exact .refl
  · exact .refl

theorem setAttn_only {L R s attn en} (hR : Only L R s) (hL : [.events] ⊆ L) : Only L R (setAttn s attn en) := by
  refine hR.step ?_ hL
  unfold setAttn
  repeat' first
    | dsimp only
    | with_reducible exact .refl
    | with_reducible refine .ite ?_ ?_
    | simp (disch := (intro (q : Part) hq; cases q <;> first | (simp [Part.same, fnOf]; done) | exact absurd (by decide) hq)) only
        [Only.mk_iff]

theorem raiseAttn_only {L R s m} (hR : Only L R s) (hL : [.events] ⊆ L) : Only L R (raiseAttn s m) := by
  refine hR.step ?_ hL
  unfold raiseAttn
  repeat' first
    | dsimp only
    | with_reducible exact .refl
    | with_reducible refine .ite ?_ ?_
    | (with_reducible apply setAttn_only <;> [skip; decide])

theorem startNotch_only {L R s} (hR : Only L R s) (hL : [.events] ⊆ L) : Only L R (startNotch s) := by
  refine hR.step ?_ hL
  unfold startNotch
  repeat' first
    | dsimp only
    | with_reducible exact .refl
    | with_reducible refine .ite ?_ ?_
    | simp (disch := (intro (q : Part) hq; cases q <;> first | (simp [Part.same, fnOf]; done) | exact absurd (by decide) hq)) only
        [Only.mk_iff]

theorem notify_only {L R s e tgt holdUs} (hR : Only L R s)
    (hL : [.outputs, .events] ⊆ L) : Only L R (notify s e tgt holdUs) := by
  refine hR.step ?_ hL
  unfold notify
  repeat' first
    | dsimp only
    | with_reducible exact .refl
    | with_reducible refine .ite ?_ ?_
    | (with_reducible apply sendMsix_only <;> [skip; decide])
    | simp (disch := (intro (q : Part) hq; cases q <;> first | (simp [Part.same, fnOf]; done) | exact absurd (by decide) hq)) only
        [Only.mk_iff]
    | split

theorem raiseNow_only {L R s e kind subj detail} (hR : Only L R s)
    (hL : [.outputs, .events] ⊆ L) : Only L R (raiseNow s e kind subj detail) := by
  refine hR.step ?_ hL
  unfold raiseNow
  repeat' first
    | dsimp only
    | with_reducible exact .refl
    | with_reducible refine .ite ?_ ?_
    | (with_reducible apply raiseAttn_only <;> [skip; decide])
    | (with_reducible apply notify_only <;> [skip; decide])
    | simp (disch := (intro (q : Part) hq; cases q <;> first | (simp [Part.same, fnOf]; done) | exact absurd (by decide) hq)) only
        [Only.mk_iff]

theorem raise_only {L R s e kind subj detail} (hR : Only L R s)
    (hL : [.outputs, .events] ⊆ L) : Only L R (raise s e kind subj detail) := by
  refine hR.step ?_ hL
  unfold raise
  repeat' first
    | dsimp only
    | with_reducible exact .refl
    | with_reducible refine .ite ?_ ?_
    | (with_reducible apply raiseNow_only <;> [skip; decide])
    | simp (disch := (intro (q : Part) hq; cases q <;> first | (simp [Part.same, fnOf]; done) | exact absurd (by decide) hq)) only
        [Only.mk_iff]

theorem raiseRing_only {L R s n fn} (hR : Only L R s) (hL : [.outputs, .events] ⊆ L) : Only L R (raiseRing s n fn) := by
  refine hR.step ?_ hL
  unfold raiseRing
  repeat' first
    | dsimp only
    | with_reducible exact .refl
    | with_reducible refine .ite ?_ ?_
    | (with_reducible apply notify_only <;> [skip; decide])

theorem countFault_only {L R s c det fixed rep ret} (hR : Only L R s)
    (hL : [.faults] ⊆ L) : Only L R (countFault s c det fixed rep ret) := by
  refine hR.step ?_ hL
  unfold countFault
  repeat' first
    | dsimp only
    | with_reducible exact .refl
    | with_reducible refine .ite ?_ ?_
    | simp (disch := (intro (q : Part) hq; cases q <;> first | (simp [Part.same, fnOf]; done) | exact absurd (by decide) hq)) only
        [Only.mk_iff]

theorem logFault_only {L R s e} (hR : Only L R s) (hL : [.outputs, .events, .faults] ⊆ L) : Only L R (logFault s e) := by
  refine hR.step ?_ hL
  unfold logFault
  repeat' first
    | dsimp only
    | with_reducible exact .refl
    | with_reducible refine .ite ?_ ?_
    | (with_reducible apply raise_only <;> [skip; decide])
    | simp (disch := (intro (q : Part) hq; cases q <;> first | (simp [Part.same, fnOf]; done) | exact absurd (by decide) hq)) only
        [Only.mk_iff]

theorem faultSpent_only {L R s e kind subj} (hR : Only L R s)
    (hL : [.outputs, .events, .faults] ⊆ L) : Only L R (faultSpent s e kind subj) := by
  refine hR.step ?_ hL
  unfold faultSpent
  repeat' first
    | dsimp only
    | with_reducible exact .refl
    | with_reducible refine .ite ?_ ?_
    | (with_reducible apply logFault_only <;> [skip; decide])
    | (with_reducible apply raise_only <;> [skip; decide])
    | (with_reducible apply countFault_only <;> [skip; decide])

theorem raiseTimes_only {L R s e n} (hR : Only L R s) (hL : [.outputs, .events] ⊆ L) : Only L R (raiseTimes s e n) := by
  refine hR.step ?_ hL
  unfold raiseTimes
  repeat' first
    | dsimp only
    | with_reducible exact .refl
    | with_reducible refine .ite ?_ ?_
    | (with_reducible apply raise_only <;> [skip; decide])
    | with_reducible refine .foldl (fun _ _ => ?_) _ ?_

theorem noteSeen_only {L R s k ev kind subj} (hR : Only L R s)
    (hL : [.outputs, .events, .faults] ⊆ L) : Only L R (noteSeen s k ev kind subj) := by
  refine hR.step ?_ hL
  unfold noteSeen
  repeat' first
    | dsimp only
    | with_reducible exact .refl
    | with_reducible refine .ite ?_ ?_
    | (with_reducible apply raise_only <;> [skip; decide])
    | (with_reducible apply raiseTimes_only <;> [skip; decide])
    | simp (disch := (intro (q : Part) hq; cases q <;> first | (simp [Part.same, fnOf]; done) | exact absurd (by decide) hq)) only
        [Only.mk_iff]

theorem noteBmu_only {L R s} (hR : Only L R s) (hL : [.outputs, .events, .faults] ⊆ L) : Only L R (noteBmu s) := by
  refine hR.step ?_ hL
  unfold noteBmu
  repeat' first
    | dsimp only
    | with_reducible exact .refl
    | with_reducible refine .ite ?_ ?_
    | (with_reducible apply noteSeen_only <;> [skip; decide])

theorem updCmd_only {L R s id f} (hR : Only L R s) (hL : [.commands] ⊆ L) : Only L R (updCmd s id f) := by
  refine hR.step ?_ hL
  unfold updCmd
  repeat' first
    | dsimp only
    | with_reducible exact .refl
    | with_reducible refine .ite ?_ ?_
    | simp (disch := (intro (q : Part) hq; cases q <;> first | (simp [Part.same, fnOf]; done) | exact absurd (by decide) hq)) only
        [Only.mk_iff]

theorem setProg_only {L R s id p} (hR : Only L R s) (hL : [.commands] ⊆ L) : Only L R (setProg s id p) := by
  refine hR.step ?_ hL
  unfold setProg
  repeat' first
    | dsimp only
    | with_reducible exact .refl
    | with_reducible refine .ite ?_ ?_
    | (with_reducible apply updCmd_only <;> [skip; decide])

theorem updCtx_only {L R s k f} (hR : Only L R s) (hL : [.contexts] ⊆ L) : Only L R (updCtx s k f) := by
  refine hR.step ?_ hL
  unfold updCtx
  repeat' first
    | dsimp only
    | with_reducible exact .refl
    | with_reducible refine .ite ?_ ?_
    | simp (disch := (intro (q : Part) hq; cases q <;> first | (simp [Part.same, fnOf]; done) | exact absurd (by decide) hq)) only
        [Only.mk_iff]

theorem freeSlot_only {L R s id} (hR : Only L R s) (hL : [.commands, .headwind] ⊆ L) : Only L R (freeSlot s id) := by
  refine hR.step ?_ hL
  unfold freeSlot
  repeat' first
    | dsimp only
    | with_reducible exact .refl
    | with_reducible refine .ite ?_ ?_
    | (with_reducible apply updCmd_only <;> [skip; decide])
    | simp (disch := (intro (q : Part) hq; cases q <;> first | (simp [Part.same, fnOf]; done) | exact absurd (by decide) hq)) only
        [Only.mk_iff]
    | split

theorem noteLatency_only {L R s c k} (hR : Only L R s) (hL : [.contexts] ⊆ L) : Only L R (noteLatency s c k) := by
  refine hR.step ?_ hL
  unfold noteLatency
  repeat' first
    | dsimp only
    | with_reducible exact .refl
    | with_reducible refine .ite ?_ ?_
    | (with_reducible apply updCtx_only <;> [skip; decide])
    | split

theorem postOne_only {L R s c k} (hR : Only L R s)
    (hL : [.outputs, .rings, .events, .contexts] ⊆ L) : Only L R (postOne s c k) := by
  refine hR.step ?_ hL
  unfold postOne
  repeat' first
    | dsimp only
    | with_reducible exact .refl
    | with_reducible refine .ite ?_ ?_
    | (with_reducible apply raiseRing_only <;> [skip; decide])
    | (with_reducible apply noteLatency_only <;> [skip; decide])
    | simp (disch := (intro (q : Part) hq; cases q <;> first | (simp [Part.same, fnOf]; done) | exact absurd (by decide) hq)) only
        [Only.mk_iff]
    | split

theorem postStep_only {p c} : Only [.outputs, .rings, .events, .contexts] p.1 (postStep p c).1 := by
  unfold postStep
  split
  · split
    · exact postOne_only .refl (by decide)
    · exact .refl
  · exact .refl

theorem foldl_postStep_only (l : List Cmd) {s : State} (p : State × List Cmd)
    (h : Only [.outputs, .rings, .events, .contexts] s p.1) :
    Only [.outputs, .rings, .events, .contexts] s (l.foldl postStep p).1 := by
  induction l generalizing p with
  | nil => exact h
  | cons c r ih => exact ih _ (h.trans postStep_only)

theorem postAll_only {L R s} (hR : Only L R s) (hL : [.outputs, .rings, .commands, .events, .contexts] ⊆ L) :
    Only L R (postAll s) := by
  refine hR.step ?_ hL
  unfold postAll
  dsimp only
  simp (disch := (intro (q : Part) hq; cases q <;> first | (simp [Part.same, fnOf]; done) | exact absurd (by decide) hq)) only
    [Only.mk_iff]
  exact (foldl_postStep_only _ _ .refl).mono (by decide)

theorem fixDone_only {L R s id k} (hR : Only L R s) (hL : [.commands, .headwind] ⊆ L) : Only L R (fixDone s id k) := by
  refine hR.step ?_ hL
  unfold fixDone
  repeat' first
    | dsimp only
    | with_reducible exact .refl
    | with_reducible refine .ite ?_ ?_
    | (with_reducible apply updCmd_only <;> [skip; decide])
    | (with_reducible apply freeSlot_only <;> [skip; decide])

theorem complete_only {L R s id k} (hR : Only L R s)
    (hL : [.outputs, .rings, .commands, .events, .contexts, .headwind] ⊆ L) : Only L R (complete s id k) := by
  refine hR.step ?_ hL
  unfold complete
  repeat' first
    | dsimp only
    | with_reducible exact .refl
    | with_reducible refine .ite ?_ ?_
    | (with_reducible apply fixDone_only <;> [skip; decide])
    | (with_reducible apply postAll_only <;> [skip; decide])

theorem putMbx_only {L R s off b} (hR : Only L R s) (hL : [.mailboxData] ⊆ L) : Only L R (putMbx s off b) := by
  refine hR.step ?_ hL
  unfold putMbx
  repeat' first
    | dsimp only
    | with_reducible exact .refl
    | with_reducible refine .ite ?_ ?_
    | simp (disch := (intro (q : Part) hq; cases q <;> first | (simp [Part.same, fnOf]; done) | exact absurd (by decide) hq)) only
        [Only.mk_iff]

theorem cmdWrite_only {L R s c addr b relaxed} (hR : Only L R s)
    (hL : [.outputs, .mailboxData] ⊆ L) : Only L R (cmdWrite s c addr b relaxed) := by
  refine hR.step ?_ hL
  unfold cmdWrite
  repeat' first
    | dsimp only
    | with_reducible exact .refl
    | with_reducible refine .ite ?_ ?_
    | (with_reducible apply putMbx_only <;> [skip; decide])
    | simp (disch := (intro (q : Part) hq; cases q <;> first | (simp [Part.same, fnOf]; done) | exact absurd (by decide) hq)) only
        [Only.mk_iff]

theorem cmdRead_only {L R s c addr len} (hR : Only L R s) (hL : [.outputs] ⊆ L) : Only L R (cmdRead s c addr len) := by
  refine hR.step ?_ hL
  unfold cmdRead
  repeat' first
    | dsimp only
    | with_reducible exact .refl
    | with_reducible refine .ite ?_ ?_
    | simp (disch := (intro (q : Part) hq; cases q <;> first | (simp [Part.same, fnOf]; done) | exact absurd (by decide) hq)) only
        [Only.mk_iff]

theorem answer_only {L R s c off b k} (hR : Only L R s)
    (hL : [.outputs, .rings, .commands, .events, .contexts, .headwind, .mailboxData] ⊆ L) : Only L R (answer s c off b k) := by
  refine hR.step ?_ hL
  unfold answer
  repeat' first
    | dsimp only
    | with_reducible exact .refl
    | with_reducible refine .ite ?_ ?_
    | (with_reducible apply cmdWrite_only <;> [skip; decide])
    | (with_reducible apply complete_only <;> [skip; decide])

theorem withCmd_only {L R s id op} {f : Cmd → State} (hR : Only L R s) (hf : ∀ c, Only L R (f c)) :
    Only L R (withCmd s id op f) := by
  unfold withCmd
  repeat' first | exact hR | exact hf _ | split

theorem withCmdW_only {L R s id op} {f : Cmd → State} (hR : Only L R s) (hf : ∀ c, Only L R (f c)) :
    Only L R (withCmdW s id op f) := by
  unfold withCmdW
  repeat' first | exact hR | exact hf _ | split

theorem pspTurn_only {L R s port} (hR : Only L R s) (hL : [.outputs, .peripherals] ⊆ L) : Only L R (pspTurn s port) := by
  refine hR.step ?_ hL
  unfold pspTurn
  repeat' first
    | dsimp only
    | with_reducible exact .refl
    | with_reducible refine .ite ?_ ?_
    | simp (disch := (intro (q : Part) hq; cases q <;> first | (simp [Part.same, fnOf]; done) | exact absurd (by decide) hq)) only
        [Only.mk_iff]
    | split

theorem sendPsp_only {L R s t k n v} (hR : Only L R s) (hL : [.outputs] ⊆ L) : Only L R (sendPsp s t k n v) := by
  refine hR.step ?_ hL
  unfold sendPsp
  repeat' first
    | dsimp only
    | with_reducible exact .refl
    | with_reducible refine .ite ?_ ?_
    | simp (disch := (intro (q : Part) hq; cases q <;> first | (simp [Part.same, fnOf]; done) | exact absurd (by decide) hq)) only
        [Only.mk_iff]

theorem pspQueue_only {L R s port l} (hR : Only L R s) (hL : [.outputs, .peripherals] ⊆ L) : Only L R (pspQueue s port l) := by
  refine hR.step ?_ hL
  unfold pspQueue
  repeat' first
    | dsimp only
    | with_reducible exact .refl
    | with_reducible refine .ite ?_ ?_
    | (with_reducible apply pspTurn_only <;> [skip; decide])
    | simp (disch := (intro (q : Part) hq; cases q <;> first | (simp [Part.same, fnOf]; done) | exact absurd (by decide) hq)) only
        [Only.mk_iff]

theorem pspDone_only {L R s port l} (hR : Only L R s) (hL : [.outputs, .peripherals] ⊆ L) : Only L R (pspDone s port l) := by
  refine hR.step ?_ hL
  unfold pspDone
  repeat' first
    | dsimp only
    | with_reducible exact .refl
    | with_reducible refine .ite ?_ ?_
    | simp (disch := (intro (q : Part) hq; cases q <;> first | (simp [Part.same, fnOf]; done) | exact absurd (by decide) hq)) only
        [Only.mk_iff]

theorem cmdScatter_only {L R s c ps o b relaxed} (hR : Only L R s)
    (hL : [.outputs, .mailboxData] ⊆ L) : Only L R (cmdScatter s c ps o b relaxed) := by
  refine hR.step ?_ hL
  unfold cmdScatter
  repeat' first
    | dsimp only
    | with_reducible exact .refl
    | with_reducible refine .ite ?_ ?_
    | (with_reducible apply cmdWrite_only <;> [skip; decide])
    | with_reducible refine .foldl (fun _ _ => ?_) _ ?_

theorem updXp_only {L R s t f} (hR : Only L R s) (hL : [.transports] ⊆ L) : Only L R (updXp s t f) := by
  refine hR.step ?_ hL
  unfold updXp
  repeat' first
    | dsimp only
    | with_reducible exact .refl
    | with_reducible refine .ite ?_ ?_
    | simp (disch := (intro (q : Part) hq; cases q <;> first | (simp [Part.same, fnOf]; done) | exact absurd (by decide) hq)) only
        [Only.mk_iff]

theorem updMount_only {L R s t f} (hR : Only L R s) (hL : [.transports] ⊆ L) : Only L R (updMount s t f) := by
  refine hR.step ?_ hL
  unfold updMount
  repeat' first
    | dsimp only
    | with_reducible exact .refl
    | with_reducible refine .ite ?_ ?_
    | (with_reducible apply updXp_only <;> [skip; decide])

theorem takeSlot_only {L R s d k} (hR : Only L R s) (hL : [.headwind] ⊆ L) : Only L R (takeSlot s d k) := by
  refine hR.step ?_ hL
  unfold takeSlot
  repeat' first
    | dsimp only
    | with_reducible exact .refl
    | with_reducible refine .ite ?_ ?_
    | simp (disch := (intro (q : Part) hq; cases q <;> first | (simp [Part.same, fnOf]; done) | exact absurd (by decide) hq)) only
        [Only.mk_iff]

theorem refill_only {L R s} (hR : Only L R s) (hL : [.contexts, .headwind] ⊆ L) : Only L R (refill s) := by
  refine hR.step ?_ hL
  unfold refill
  repeat' first
    | dsimp only
    | with_reducible exact .refl
    | with_reducible refine .ite ?_ ?_
    | simp (disch := (intro (q : Part) hq; cases q <;> first | (simp [Part.same, fnOf]; done) | exact absurd (by decide) hq)) only
        [Only.mk_iff]

theorem countHw_only {L R before s k} (hR : Only L R s) (hL : [.contexts] ⊆ L) : Only L R (countHw before s k) := by
  refine hR.step ?_ hL
  unfold countHw
  repeat' first
    | dsimp only
    | with_reducible exact .refl
    | with_reducible refine .ite ?_ ?_
    | (with_reducible apply updCtx_only <;> [skip; decide])

theorem advance_only {L R s dt} (hR : Only L R s)
    (hL : [.time, .rings, .contexts, .pool, .timeBase] ⊆ L) : Only L R (advance s dt) := by
  refine hR.step ?_ hL
  unfold advance
  repeat' first
    | dsimp only
    | with_reducible exact .refl
    | with_reducible refine .ite ?_ ?_
    | simp (disch := (intro (q : Part) hq; cases q <;> first | (simp [Part.same, fnOf]; done) | exact absurd (by decide) hq)) only
        [Only.mk_iff]

theorem discardBytes_only {L R s k staged vol} (hR : Only L R s)
    (hL : [.contexts] ⊆ L) : Only L R (discardBytes s k staged vol) := by
  refine hR.step ?_ hL
  unfold discardBytes
  repeat' first
    | dsimp only
    | with_reducible exact .refl
    | with_reducible refine .ite ?_ ?_
    | (with_reducible apply countHw_only <;> [skip; decide])
    | (with_reducible apply updCtx_only <;> [skip; decide])

theorem discardFrom_only {L R s c i vol} (hR : Only L R s)
    (hL : [.commands, .contexts] ⊆ L) : Only L R (discardFrom s c i vol) := by
  refine hR.step ?_ hL
  unfold discardFrom
  repeat' first
    | dsimp only
    | with_reducible exact .refl
    | with_reducible refine .ite ?_ ?_
    | (with_reducible apply updCmd_only <;> [skip; decide])
    | (with_reducible apply discardBytes_only <;> [skip; decide])

theorem dropRecords_only {L R s c} (hR : Only L R s) (hL : [.commands, .contexts] ⊆ L) : Only L R (dropRecords s c) := by
  refine hR.step ?_ hL
  unfold dropRecords
  repeat' first
    | dsimp only
    | with_reducible exact .refl
    | with_reducible refine .ite ?_ ?_
    | (with_reducible apply discardFrom_only <;> [skip; decide])

theorem fixAgain_only {L R s id k} (hR : Only L R s) (hL : [.commands, .headwind] ⊆ L) : Only L R (fixAgain s id k) := by
  refine hR.step ?_ hL
  unfold fixAgain
  repeat' first
    | dsimp only
    | with_reducible exact .refl
    | with_reducible refine .ite ?_ ?_
    | (with_reducible apply freeSlot_only <;> [skip; decide])
    | (with_reducible apply updCmd_only <;> [skip; decide])

theorem abortJob_only {L R st s c} (hR : Only L R s)
    (hL : [.outputs, .commands, .headwind, .mailboxData] ⊆ L) : Only L R (abortJob st s c) := by
  refine hR.step ?_ hL
  unfold abortJob
  repeat' first
    | dsimp only
    | with_reducible exact .refl
    | with_reducible refine .ite ?_ ?_
    | (with_reducible apply cmdWrite_only <;> [skip; decide])
    | (with_reducible apply fixAgain_only <;> [skip; decide])

theorem abortOne_only {L R st by_ s c} (hR : Only L R s)
    (hL : [.outputs, .commands, .contexts, .headwind, .jobs, .mailboxData] ⊆ L) : Only L R (abortOne st by_ s c) := by
  refine hR.step ?_ hL
  unfold abortOne
  repeat' first
    | dsimp only
    | with_reducible exact .refl
    | with_reducible refine .ite ?_ ?_
    | (with_reducible apply dropRecords_only <;> [skip; decide])
    | (with_reducible apply fixAgain_only <;> [skip; decide])
    | (with_reducible apply abortJob_only <;> [skip; decide])
    | simp (disch := (intro (q : Part) hq; cases q <;> first | (simp [Part.same, fnOf]; done) | exact absurd (by decide) hq)) only
        [Only.mk_iff]
    | split

theorem abortList_only {L R s st by_ l} (hR : Only L R s)
    (hL : [.outputs, .commands, .contexts, .headwind, .jobs, .mailboxData] ⊆ L) : Only L R (abortList s st by_ l) := by
  refine hR.step ?_ hL
  unfold abortList
  repeat' first
    | dsimp only
    | with_reducible exact .refl
    | with_reducible refine .ite ?_ ?_
    | (with_reducible apply abortOne_only <;> [skip; decide])
    | with_reducible refine .foldl (fun _ _ => ?_) _ ?_

theorem uncount_only {L R s by_} (hR : Only L R s) (hL : [.commands, .engines] ⊆ L) : Only L R (uncount s by_) := by
  refine hR.step ?_ hL
  unfold uncount
  repeat' first
    | dsimp only
    | with_reducible exact .refl
    | with_reducible refine .ite ?_ ?_
    | (with_reducible apply updCmd_only <;> [skip; decide])
    | simp (disch := (intro (q : Part) hq; cases q <;> first | (simp [Part.same, fnOf]; done) | exact absurd (by decide) hq)) only
        [Only.mk_iff]
    | split

theorem addOcc_only {L R s t n} (hR : Only L R s) (hL : [.transports] ⊆ L) : Only L R (addOcc s t n) := by
  refine hR.step ?_ hL
  unfold addOcc
  repeat' first
    | dsimp only
    | with_reducible exact .refl
    | with_reducible refine .ite ?_ ?_
    | (with_reducible apply updXp_only <;> [skip; decide])

theorem closeDataset_only {L R s t spanOut} (hR : Only L R s)
    (hL : [.transports] ⊆ L) : Only L R (closeDataset s t spanOut) := by
  refine hR.step ?_ hL
  unfold closeDataset
  repeat' first
    | dsimp only
    | with_reducible exact .refl
    | with_reducible refine .ite ?_ ?_
    | (with_reducible apply updXp_only <;> [skip; decide])
    | (with_reducible apply updMount_only <;> [skip; decide])
    | with_reducible refine .elim ?_ fun _ => ?_
    | split

theorem openWindow_only {L R s t} (hR : Only L R s) (hL : [.transports] ⊆ L) : Only L R (openWindow s t) := by
  refine hR.step ?_ hL
  unfold openWindow
  repeat' first
    | dsimp only
    | with_reducible exact .refl
    | with_reducible refine .ite ?_ ?_
    | (with_reducible apply updMount_only <;> [skip; decide])

theorem updStrm_only {L R s k f} (hR : Only L R s) (hL : [.streams] ⊆ L) : Only L R (updStrm s k f) := by
  refine hR.step ?_ hL
  unfold updStrm
  repeat' first
    | dsimp only
    | with_reducible exact .refl
    | with_reducible refine .ite ?_ ?_
    | simp (disch := (intro (q : Part) hq; cases q <;> first | (simp [Part.same, fnOf]; done) | exact absurd (by decide) hq)) only
        [Only.mk_iff]

theorem dropStream_only {L R s k} (hR : Only L R s) (hL : [.streams, .transports] ⊆ L) : Only L R (dropStream s k) := by
  refine hR.step ?_ hL
  unfold dropStream
  repeat' first
    | dsimp only
    | with_reducible exact .refl
    | with_reducible refine .ite ?_ ?_
    | (with_reducible apply openWindow_only <;> [skip; decide])
    | simp (disch := (intro (q : Part) hq; cases q <;> first | (simp [Part.same, fnOf]; done) | exact absurd (by decide) hq)) only
        [Only.mk_iff]
    | split

theorem dropStreams_only {L R s p} (hR : Only L R s) (hL : [.streams, .transports] ⊆ L) : Only L R (dropStreams s p) := by
  refine hR.step ?_ hL
  unfold dropStreams
  repeat' first
    | dsimp only
    | with_reducible exact .refl
    | with_reducible refine .ite ?_ ?_
    | (with_reducible apply dropStream_only <;> [skip; decide])
    | with_reducible refine .foldl (fun _ _ => ?_) _ ?_

theorem openFor_only {L R s c} (hR : Only L R s) (hL : [.commands, .streams, .transports] ⊆ L) : Only L R (openFor s c) := by
  refine hR.step ?_ hL
  unfold openFor
  repeat' first
    | dsimp only
    | with_reducible exact .refl
    | with_reducible refine .ite ?_ ?_
    | (with_reducible apply setProg_only <;> [skip; decide])
    | (with_reducible apply updStrm_only <;> [skip; decide])
    | (with_reducible apply openWindow_only <;> [skip; decide])
    | with_reducible refine .elim ?_ fun _ => ?_
    | split

theorem settleOne_only {L R s id} (hR : Only L R s)
    (hL : [.free, .commands, .headwind, .streams, .transports] ⊆ L) : Only L R (settleOne s id) := by
  refine hR.step ?_ hL
  unfold settleOne
  repeat' first
    | dsimp only
    | with_reducible exact .refl
    | with_reducible refine .ite ?_ ?_
    | (with_reducible apply drawFree_only <;> [skip; decide])
    | (with_reducible apply updStrm_only <;> [skip; decide])
    | (with_reducible apply fixDone_only <;> [skip; decide])
    | (with_reducible apply openFor_only <;> [skip; decide])
    | with_reducible refine .elim ?_ fun _ => ?_
    | simp (disch := (intro (q : Part) hq; cases q <;> first | (simp [Part.same, fnOf]; done) | exact absurd (by decide) hq)) only
        [Only.mk_iff]
    | split

theorem reap_only {L R s} (hR : Only L R s) (hL : [.streams] ⊆ L) : Only L R (reap s) := by
  refine hR.step ?_ hL
  unfold reap
  repeat' first
    | dsimp only
    | with_reducible exact .refl
    | with_reducible refine .ite ?_ ?_
    | simp (disch := (intro (q : Part) hq; cases q <;> first | (simp [Part.same, fnOf]; done) | exact absurd (by decide) hq)) only
        [Only.mk_iff]

theorem settle_only {L R s} (hR : Only L R s)
    (hL : [.free, .outputs, .rings, .commands, .events, .contexts, .headwind, .streams, .transports] ⊆ L) :
    Only L R (settle s) := by
  refine hR.step ?_ hL
  unfold settle
  repeat' first
    | dsimp only
    | with_reducible exact .refl
    | with_reducible refine .ite ?_ ?_
    | (with_reducible apply settleOne_only <;> [skip; decide])
    | (with_reducible apply reap_only <;> [skip; decide])
    | (with_reducible apply postAll_only <;> [skip; decide])
    | with_reducible refine .foldl (fun _ _ => ?_) _ ?_

theorem dsSynced_only {L R s t n} (hR : Only L R s)
    (hL : [.free, .outputs, .rings, .commands, .events, .contexts, .headwind, .streams, .transports] ⊆ L) :
    Only L R (dsSynced s t n) := by
  refine hR.step ?_ hL
  unfold dsSynced
  repeat' first
    | dsimp only
    | with_reducible exact .refl
    | with_reducible refine .ite ?_ ?_
    | (with_reducible apply settle_only <;> [skip; decide])
    | (with_reducible apply updXp_only <;> [skip; decide])
    | (with_reducible apply updMount_only <;> [skip; decide])
    | simp (disch := (intro (q : Part) hq; cases q <;> first | (simp [Part.same, fnOf]; done) | exact absurd (by decide) hq)) only
        [Only.mk_iff]
    | split

theorem setCond_only {L R s t c} (hR : Only L R s) (hL : [.outputs, .events, .transports] ⊆ L) : Only L R (setCond s t c) := by
  refine hR.step ?_ hL
  unfold setCond
  repeat' first
    | dsimp only
    | with_reducible exact .refl
    | with_reducible refine .ite ?_ ?_
    | (with_reducible apply raise_only <;> [skip; decide])
    | with_reducible refine .foldl (fun _ _ => ?_) _ ?_
    | simp (disch := (intro (q : Part) hq; cases q <;> first | (simp [Part.same, fnOf]; done) | exact absurd (by decide) hq)) only
        [Only.mk_iff]
    | split

theorem setCause_only {L R s t k v} (hR : Only L R s)
    (hL : [.outputs, .events, .transports] ⊆ L) : Only L R (setCause s t k v) := by
  refine hR.step ?_ hL
  unfold setCause
  repeat' first
    | dsimp only
    | with_reducible exact .refl
    | with_reducible refine .ite ?_ ?_
    | (with_reducible apply setCond_only <;> [skip; decide])
    | split

theorem setForce_only {L R s t v} (hR : Only L R s)
    (hL : [.outputs, .events, .transports] ⊆ L) : Only L R (setForce s t v) := by
  refine hR.step ?_ hL
  unfold setForce
  repeat' first
    | dsimp only
    | with_reducible exact .refl
    | with_reducible refine .ite ?_ ?_
    | (with_reducible apply updXp_only <;> [skip; decide])
    | (with_reducible apply setCause_only <;> [skip; decide])

theorem clearPage_only {L R s page param n} (hR : Only L R s)
    (hL : [.ringLog, .events, .transports, .lanes, .pool, .faults] ⊆ L) : Only L R (clearPage s page param n) := by
  refine hR.step ?_ hL
  unfold clearPage
  repeat' first
    | dsimp only
    | with_reducible exact .refl
    | with_reducible refine .ite ?_ ?_
    | (with_reducible apply updXp_only <;> [skip; decide])
    | simp (disch := (intro (q : Part) hq; cases q <;> first | (simp [Part.same, fnOf]; done) | exact absurd (by decide) hq)) only
        [Only.mk_iff]
    | split

theorem consume_only {L R s n r e id charge slot} (hR : Only L R s)
    (hL : [.rings, .commands, .streams, .jobs] ⊆ L) : Only L R (consume s n r e id charge slot) := by
  refine hR.step ?_ hL
  unfold consume
  repeat' first
    | dsimp only
    | with_reducible exact .refl
    | with_reducible refine .ite ?_ ?_
    | (with_reducible apply updStrm_only <;> [skip; decide])
    | simp (disch := (intro (q : Part) hq; cases q <;> first | (simp [Part.same, fnOf]; done) | exact absurd (by decide) hq)) only
        [Only.mk_iff]
    | split

theorem admitData_only {L R s d charge l op} (hR : Only L R s)
    (hL : [.contexts, .headwind] ⊆ L) : Only L R (admitData s d charge l op) := by
  refine hR.step ?_ hL
  unfold admitData
  repeat' first
    | dsimp only
    | with_reducible exact .refl
    | with_reducible refine .ite ?_ ?_
    | (with_reducible apply updCtx_only <;> [skip; decide])
    | (with_reducible apply takeSlot_only <;> [skip; decide])
    | simp (disch := (intro (q : Part) hq; cases q <;> first | (simp [Part.same, fnOf]; done) | exact absurd (by decide) hq)) only
        [Only.mk_iff]

theorem admitLook_only {L R s n r l id} (hR : Only L R s)
    (hL : [.outputs, .rings, .commands, .events, .contexts, .headwind, .streams, .jobs] ⊆ L) :
    Only L R (admitLook s n r l id) := by
  refine hR.step ?_ hL
  unfold admitLook
  repeat' first
    | dsimp only
    | with_reducible exact .refl
    | with_reducible refine .ite ?_ ?_
    | (with_reducible apply admitData_only <;> [skip; decide])
    | (with_reducible apply consume_only <;> [skip; decide])
    | (with_reducible apply complete_only <;> [skip; decide])
    | with_reducible refine .elim ?_ fun _ => ?_
    | split

theorem makeRing_only {L R s c n} (hR : Only L R s)
    (hL : [.outputs, .rings, .commands, .ringLog, .events, .contexts, .headwind] ⊆ L) : Only L R (makeRing s c n) := by
  refine hR.step ?_ hL
  unfold makeRing
  repeat' first
    | dsimp only
    | with_reducible exact .refl
    | with_reducible refine .ite ?_ ?_
    | (with_reducible apply complete_only <;> [skip; decide])
    | simp (disch := (intro (q : Part) hq; cases q <;> first | (simp [Part.same, fnOf]; done) | exact absurd (by decide) hq)) only
        [Only.mk_iff]

theorem removeRing_only {L R s n} (hR : Only L R s) (hL : [.rings, .events] ⊆ L) : Only L R (removeRing s n) := by
  refine hR.step ?_ hL
  unfold removeRing
  repeat' first
    | dsimp only
    | with_reducible exact .refl
    | with_reducible refine .ite ?_ ?_
    | simp (disch := (intro (q : Part) hq; cases q <;> first | (simp [Part.same, fnOf]; done) | exact absurd (by decide) hq)) only
        [Only.mk_iff]

theorem setGate_only {L R s k g} (hR : Only L R s) (hL : [.gates] ⊆ L) : Only L R (setGate s k g) := by
  refine hR.step ?_ hL
  unfold setGate
  repeat' first
    | dsimp only
    | with_reducible exact .refl
    | with_reducible refine .ite ?_ ?_
    | simp (disch := (intro (q : Part) hq; cases q <;> first | (simp [Part.same, fnOf]; done) | exact absurd (by decide) hq)) only
        [Only.mk_iff]

theorem openGates_only {L R s} (hR : Only L R s) (hL : [.gates] ⊆ L) : Only L R (openGates s) := by
  refine hR.step ?_ hL
  unfold openGates
  repeat' first
    | dsimp only
    | with_reducible exact .refl
    | with_reducible refine .ite ?_ ?_
    | simp (disch := (intro (q : Part) hq; cases q <;> first | (simp [Part.same, fnOf]; done) | exact absurd (by decide) hq)) only
        [Only.mk_iff]

theorem logPower_only {L R s e} (hR : Only L R s) (hL : [.outputs, .events, .power] ⊆ L) : Only L R (logPower s e) := by
  refine hR.step ?_ hL
  unfold logPower
  repeat' first
    | dsimp only
    | with_reducible exact .refl
    | with_reducible refine .ite ?_ ?_
    | (with_reducible apply raise_only <;> [skip; decide])
    | simp (disch := (intro (q : Part) hq; cases q <;> first | (simp [Part.same, fnOf]; done) | exact absurd (by decide) hq)) only
        [Only.mk_iff]

theorem deliverMbx_only {L R s cid k} (hR : Only L R s) (hL : [.events, .mailbox] ⊆ L) : Only L R (deliverMbx s cid k) := by
  refine hR.step ?_ hL
  unfold deliverMbx
  repeat' first
    | dsimp only
    | with_reducible exact .refl
    | with_reducible refine .ite ?_ ?_
    | (with_reducible apply startNotch_only <;> [skip; decide])
    | (with_reducible apply raiseAttn_only <;> [skip; decide])
    | simp (disch := (intro (q : Part) hq; cases q <;> first | (simp [Part.same, fnOf]; done) | exact absurd (by decide) hq)) only
        [Only.mk_iff]

theorem startMbx_only {L R s} (hR : Only L R s) (hL : [.commands, .headwind] ⊆ L) : Only L R (startMbx s) := by
  refine hR.step ?_ hL
  unfold startMbx
  repeat' first
    | dsimp only
    | with_reducible exact .refl
    | with_reducible refine .ite ?_ ?_
    | (with_reducible apply setProg_only <;> [skip; decide])
    | (with_reducible apply fixDone_only <;> [skip; decide])
    | split

theorem undoLull_only {L R s e wake st} (hR : Only L R s)
    (hL : [.outputs, .rings, .commands, .events, .contexts, .headwind, .power, .gates] ⊆ L) :
    Only L R (undoLull s e wake st) := by
  refine hR.step ?_ hL
  unfold undoLull
  repeat' first
    | dsimp only
    | with_reducible exact .refl
    | with_reducible refine .ite ?_ ?_
    | (with_reducible apply complete_only <;> [skip; decide])
    | (with_reducible apply startMbx_only <;> [skip; decide])
    | (with_reducible apply logPower_only <;> [skip; decide])
    | (with_reducible apply openGates_only <;> [skip; decide])
    | simp (disch := (intro (q : Part) hq; cases q <;> first | (simp [Part.same, fnOf]; done) | exact absurd (by decide) hq)) only
        [Only.mk_iff]

theorem beginExit_only {L R s e code} (hR : Only L R s) (hL : [.link, .power] ⊆ L) : Only L R (beginExit s e code) := by
  refine hR.step ?_ hL
  unfold beginExit
  repeat' first
    | dsimp only
    | with_reducible exact .refl
    | with_reducible refine .ite ?_ ?_
    | simp (disch := (intro (q : Part) hq; cases q <;> first | (simp [Part.same, fnOf]; done) | exact absurd (by decide) hq)) only
        [Only.mk_iff]

theorem wake_only {L R s code} (hR : Only L R s)
    (hL : [.outputs, .link, .rings, .commands, .events, .contexts, .headwind, .power, .gates] ⊆ L) :
    Only L R (wake s code) := by
  refine hR.step ?_ hL
  unfold wake
  repeat' first
    | dsimp only
    | with_reducible exact .refl
    | with_reducible refine .ite ?_ ?_
    | (with_reducible apply beginExit_only <;> [skip; decide])
    | (with_reducible apply undoLull_only <;> [skip; decide])
    | simp (disch := (intro (q : Part) hq; cases q <;> first | (simp [Part.same, fnOf]; done) | exact absurd (by decide) hq)) only
        [Only.mk_iff]
    | split

theorem cfgDo_only {L R s fn t} (hS : Only L R s) (hT : Only L R t) (hL : [.outputs] ⊆ L) :
    Only L R (cfgDo s fn t) := by
  unfold cfgDo
  refine .ite hT (.ite (hS.step ?_ hL) hS)
  simp (disch := (intro (q : Part) hq; cases q <;> first | (simp [Part.same, fnOf]; done) | exact absurd (by decide) hq)) only
    [Only.mk_iff]
  exact .refl

theorem whenReached_only {L R s fn t} (hS : Only L R s) (hT : Only L R t) (hL : [.free, .functions] ⊆ L) :
    Only L R (whenReached s fn t) := by
  unfold whenReached
  exact .ite hT (.ite (logUnc_only hS hL) hS)

theorem refuseRead_only {L R s fn} (hR : Only L R s) (hL : [.free, .outputs, .functions] ⊆ L) : Only L R (refuseRead s fn) := by
  refine hR.step ?_ hL
  unfold refuseRead
  repeat' first
    | dsimp only
    | with_reducible exact .refl
    | with_reducible refine .ite ?_ ?_
    | (with_reducible apply logUnc_only <;> [skip; decide])
    | simp (disch := (intro (q : Part) hq; cases q <;> first | (simp [Part.same, fnOf]; done) | exact absurd (by decide) hq)) only
        [Only.mk_iff]

theorem reply_only {L R s fn v} (hR : Only L R s) (hL : [.outputs] ⊆ L) : Only L R (reply s fn v) := by
  refine hR.step ?_ hL
  unfold reply
  repeat' first
    | dsimp only
    | with_reducible exact .refl
    | with_reducible refine .ite ?_ ?_
    | simp (disch := (intro (q : Part) hq; cases q <;> first | (simp [Part.same, fnOf]; done) | exact absurd (by decide) hq)) only
        [Only.mk_iff]

end Sys2Proof.Machine
end

