-- ==== Sys2Proof/Laws/FramesHost.lean ====
section
/-! SUPPORT. Frames of the copy engine, the host link, contexts, faults, power, update and keys: which parts of the
state each operation may change, one lemma per operation, in the form in which such lemmas chain. -/

namespace Sys2Proof.Machine

theorem setAce_only {L R s c a} (hR : Only L R s) (hL : [.copyEngine] ⊆ L) : Only L R (setAce s c a) := by
  refine hR.step ?_ hL
  unfold setAce
  repeat' first
    | dsimp only
    | with_reducible exact .refl
    | with_reducible refine .ite ?_ ?_
    | simp (disch := (intro (q : Part) hq; cases q <;> first | (simp [Part.same, fnOf]; done) | exact absurd (by decide) hq)) only
        [Only.mk_iff]

theorem haltAce_only {L R s c err domain} (hR : Only L R s)
    (hL : [.outputs, .events, .copyEngine] ⊆ L) : Only L R (haltAce s c err domain) := by
  refine hR.step ?_ hL
  unfold haltAce
  repeat' first
    | dsimp only
    | with_reducible exact .refl
    | with_reducible refine .ite ?_ ?_
    | (with_reducible apply raise_only <;> [skip; decide])
    | (with_reducible apply setAce_only <;> [skip; decide])

theorem aceHostReset_only {L R s} (hR : Only L R s) (hL : [.copyEngine] ⊆ L) : Only L R (aceHostReset s) := by
  refine hR.step ?_ hL
  unfold aceHostReset
  repeat' first
    | dsimp only
    | with_reducible exact .refl
    | with_reducible refine .ite ?_ ?_
    | (with_reducible apply setAce_only <;> [skip; decide])
    | with_reducible refine .foldl (fun _ _ => ?_) _ ?_

theorem startIter_only {L R s c} (hR : Only L R s) (hL : [.copyEngine] ⊆ L) : Only L R (startIter s c) := by
  refine hR.step ?_ hL
  unfold startIter
  repeat' first
    | dsimp only
    | with_reducible exact .refl
    | with_reducible refine .ite ?_ ?_
    | (with_reducible apply setAce_only <;> [skip; decide])

theorem overrun_only {L R s c} (hR : Only L R s) (hL : [.copyEngine] ⊆ L) : Only L R (overrun s c) := by
  refine hR.step ?_ hL
  unfold overrun
  repeat' first
    | dsimp only
    | with_reducible exact .refl
    | with_reducible refine .ite ?_ ?_
    | (with_reducible apply setAce_only <;> [skip; decide])

theorem trigger_only {L R s c} (hR : Only L R s) (hL : [.copyEngine] ⊆ L) : Only L R (trigger s c) := by
  refine hR.step ?_ hL
  unfold trigger
  repeat' first
    | dsimp only
    | with_reducible exact .refl
    | with_reducible refine .ite ?_ ?_
    | (with_reducible apply setAce_only <;> [skip; decide])
    | (with_reducible apply startIter_only <;> [skip; decide])
    | (with_reducible apply overrun_only <;> [skip; decide])

theorem fireSource_only {L R s v} (hR : Only L R s) (hL : [.copyEngine] ⊆ L) : Only L R (fireSource s v) := by
  refine hR.step ?_ hL
  unfold fireSource
  repeat' first
    | dsimp only
    | with_reducible exact .refl
    | with_reducible refine .ite ?_ ?_
    | (with_reducible apply trigger_only <;> [skip; decide])
    | with_reducible refine .foldl (fun _ _ => ?_) _ ?_

theorem armChannel_only {L R s c} (hR : Only L R s)
    (hL : [.outputs, .events, .copyEngine] ⊆ L) : Only L R (armChannel s c) := by
  refine hR.step ?_ hL
  unfold armChannel
  repeat' first
    | dsimp only
    | with_reducible exact .refl
    | with_reducible refine .ite ?_ ?_
    | (with_reducible apply setAce_only <;> [skip; decide])
    | (with_reducible apply raise_only <;> [skip; decide])

theorem disarmChannel_only {L R s c} (hR : Only L R s) (hL : [.copyEngine] ⊆ L) : Only L R (disarmChannel s c) := by
  refine hR.step ?_ hL
  unfold disarmChannel
  repeat' first
    | dsimp only
    | with_reducible exact .refl
    | with_reducible refine .ite ?_ ?_
    | (with_reducible apply setAce_only <;> [skip; decide])

theorem goChannel_only {L R s c} (hR : Only L R s) (hL : [.copyEngine] ⊆ L) : Only L R (goChannel s c) := by
  refine hR.step ?_ hL
  unfold goChannel
  repeat' first
    | dsimp only
    | with_reducible exact .refl
    | with_reducible refine .ite ?_ ?_
    | (with_reducible apply trigger_only <;> [skip; decide])
    | (with_reducible apply startIter_only <;> [skip; decide])

theorem raiseGate_only {L R s k} (hR : Only L R s)
    (hL : [.free, .outputs, .events, .gates] ⊆ L) : Only L R (raiseGate s k) := by
  refine hR.step ?_ hL
  unfold raiseGate
  repeat' first
    | dsimp only
    | with_reducible exact .refl
    | with_reducible refine .ite ?_ ?_
    | (with_reducible apply raise_only <;> [skip; decide])
    | (with_reducible apply drawFree_only <;> [skip; decide])
    | simp (disch := (intro (q : Part) hq; cases q <;> first | (simp [Part.same, fnOf]; done) | exact absurd (by decide) hq)) only
        [Only.mk_iff]

theorem refusePosted_only {L R s k origin} (hR : Only L R s)
    (hL : [.free, .outputs, .events, .gates] ⊆ L) : Only L R (refusePosted s k origin) := by
  refine hR.step ?_ hL
  unfold refusePosted
  repeat' first
    | dsimp only
    | with_reducible exact .refl
    | with_reducible refine .ite ?_ ?_
    | (with_reducible apply raiseGate_only <;> [skip; decide])
    | (with_reducible apply setGate_only <;> [skip; decide])

theorem ctrlWrite_only {L R s c origin} {f : State → Nat → State} (hf : ∀ s, Only [.outputs, .events, .copyEngine] s (f s c))
    (hR : Only L R s) (hL : [.free, .outputs, .events, .copyEngine, .gates] ⊆ L) : Only L R (ctrlWrite s c origin f) := by
  refine hR.step ?_ hL
  unfold ctrlWrite
  repeat' first
    | dsimp only
    | with_reducible exact .refl
    | exact (hf _).mono (by decide)
    | with_reducible refine .ite ?_ ?_
    | (with_reducible apply refusePosted_only <;> [skip; decide])
    | simp (disch := (intro (q : Part) hq; cases q <;> first | (simp [Part.same, fnOf]; done) | exact absurd (by decide) hq)) only
        [Only.mk_iff]

theorem putBuf_only {L R s addr b fixed} (hR : Only L R s) (hL : [.buffer] ⊆ L) : Only L R (putBuf s addr b fixed) := by
  refine hR.step ?_ hL
  unfold putBuf
  repeat' first
    | dsimp only
    | with_reducible exact .refl
    | with_reducible refine .ite ?_ ?_
    | simp (disch := (intro (q : Part) hq; cases q <;> first | (simp [Part.same, fnOf]; done) | exact absurd (by decide) hq)) only
        [Only.mk_iff]

theorem burstSink_only {L R s a o b} (hR : Only L R s) (hL : [.outputs, .buffer] ⊆ L) : Only L R (burstSink s a o b) := by
  refine hR.step ?_ hL
  unfold burstSink
  repeat' first
    | dsimp only
    | with_reducible exact .refl
    | with_reducible refine .ite ?_ ?_
    | (with_reducible apply putBuf_only <;> [skip; decide])
    | simp (disch := (intro (q : Part) hq; cases q <;> first | (simp [Part.same, fnOf]; done) | exact absurd (by decide) hq)) only
        [Only.mk_iff]
    | split

theorem burstsSink_only {L R s a o b n} (hR : Only L R s) (hL : [.outputs, .buffer] ⊆ L) : Only L R (burstsSink s a o b n) := by
  refine hR.step ?_ hL
  clear hR hL
  induction n generalizing s a o b with
  | zero =>
    unfold burstsSink
    repeat' first
      | dsimp only
      | with_reducible exact .refl
  | succ n ih =>
    unfold burstsSink
    repeat' first
      | dsimp only
      | with_reducible exact .refl
      | with_reducible refine Only.trans ?_ ih
      | with_reducible refine .ite ?_ ?_
      | (with_reducible apply burstSink_only <;> [skip; decide])

theorem serveBurst_only {L R s c} (hR : Only L R s)
    (hL : [.outputs, .copyEngine, .buffer] ⊆ L) : Only L R (serveBurst s c) := by
  refine hR.step ?_ hL
  unfold serveBurst
  repeat' first
    | dsimp only
    | with_reducible exact .refl
    | with_reducible refine .ite ?_ ?_
    | (with_reducible apply burstSink_only <;> [skip; decide])
    | (with_reducible apply setAce_only <;> [skip; decide])
    | simp (disch := (intro (q : Part) hq; cases q <;> first | (simp [Part.same, fnOf]; done) | exact absurd (by decide) hq)) only
        [Only.mk_iff]

theorem serveTo_only {L R s c goal n} (hR : Only L R s)
    (hL : [.outputs, .copyEngine, .buffer] ⊆ L) : Only L R (serveTo s c goal n) := by
  refine hR.step ?_ hL
  clear hR hL
  induction n generalizing s c goal with
  | zero =>
    unfold serveTo
    repeat' first
      | dsimp only
      | with_reducible exact .refl
  | succ n ih =>
    unfold serveTo
    repeat' first
      | dsimp only
      | with_reducible exact .refl
      | with_reducible refine Only.trans ?_ ih
      | with_reducible refine .ite ?_ ?_
      | (with_reducible apply serveBurst_only <;> [skip; decide])
      | split

theorem writeHost_only {L R s c goal data} (hR : Only L R s)
    (hL : [.outputs, .buffer] ⊆ L) : Only L R (writeHost s c goal data) := by
  refine hR.step ?_ hL
  unfold writeHost
  repeat' first
    | dsimp only
    | with_reducible exact .refl
    | with_reducible refine .ite ?_ ?_
    | (with_reducible apply burstsSink_only <;> [skip; decide])

theorem endIter_only {L R s c} (hR : Only L R s) (hL : [.outputs, .events, .copyEngine] ⊆ L) : Only L R (endIter s c) := by
  refine hR.step ?_ hL
  unfold endIter
  repeat' first
    | dsimp only
    | with_reducible exact .refl
    | with_reducible refine .ite ?_ ?_
    | (with_reducible apply startIter_only <;> [skip; decide])
    | (with_reducible apply fireSource_only <;> [skip; decide])
    | (with_reducible apply raise_only <;> [skip; decide])
    | (with_reducible apply setAce_only <;> [skip; decide])

theorem recordFnErr_only {L R s fn range noRing resv size slot} (hR : Only L R s)
    (hL : [.outputs, .functions, .events] ⊆ L) : Only L R (recordFnErr s fn range noRing resv size slot) := by
  refine hR.step ?_ hL
  unfold recordFnErr
  repeat' first
    | dsimp only
    | with_reducible exact .refl
    | with_reducible refine .ite ?_ ?_
    | (with_reducible apply raise_only <;> [skip; decide])
    | with_reducible refine setFn_kept rfl ?_ (by decide)

theorem applyTail_only {L R s n r v} (hR : Only L R s) (hL : [.rings] ⊆ L) : Only L R (applyTail s n r v) := by
  refine hR.step ?_ hL
  unfold applyTail
  repeat' first
    | dsimp only
    | with_reducible exact .refl
    | with_reducible refine .ite ?_ ?_
    | simp (disch := (intro (q : Part) hq; cases q <;> first | (simp [Part.same, fnOf]; done) | exact absurd (by decide) hq)) only
        [Only.mk_iff]

theorem applyHead_only {L R s n r v} (hR : Only L R s) (hL : [.rings] ⊆ L) : Only L R (applyHead s n r v) := by
  refine hR.step ?_ hL
  unfold applyHead
  repeat' first
    | dsimp only
    | with_reducible exact .refl
    | with_reducible refine .ite ?_ ?_
    | simp (disch := (intro (q : Part) hq; cases q <;> first | (simp [Part.same, fnOf]; done) | exact absurd (by decide) hq)) only
        [Only.mk_iff]

theorem applyStore_only {L R s fn} (hR : Only L R s) (hL : [.functions, .rings] ⊆ L) : Only L R (applyStore s fn) := by
  refine hR.step ?_ hL
  unfold applyStore
  repeat' first
    | dsimp only
    | with_reducible exact .refl
    | with_reducible refine .ite ?_ ?_
    | (with_reducible apply applyTail_only <;> [skip; decide])
    | (with_reducible apply applyHead_only <;> [skip; decide])
    | with_reducible refine setFn_kept rfl ?_ (by decide)
    | with_reducible refine .foldl (fun _ _ => ?_) _ ?_
    | split

theorem storeBell_only {L R s fn slot isTail v} (hR : Only L R s)
    (hL : [.functions] ⊆ L) : Only L R (storeBell s fn slot isTail v) := by
  refine hR.step ?_ hL
  unfold storeBell
  repeat' first
    | dsimp only
    | with_reducible exact .refl
    | with_reducible refine .ite ?_ ?_
    | with_reducible refine setFn_kept (by split <;> rfl) ?_ (by decide)

theorem doorbell_only {L R s fn slot isTail w} (hR : Only L R s)
    (hL : [.outputs, .functions, .link, .rings, .commands, .events, .contexts, .headwind, .power, .gates] ⊆ L) :
    Only L R (doorbell s fn slot isTail w) := by
  refine hR.step ?_ hL
  unfold doorbell
  repeat' first
    | dsimp only
    | with_reducible exact .refl
    | with_reducible refine .ite ?_ ?_
    | (with_reducible apply applyStore_only <;> [skip; decide])
    | (with_reducible apply wake_only <;> [skip; decide])
    | (with_reducible apply storeBell_only <;> [skip; decide])
    | (with_reducible apply recordFnErr_only <;> [skip; decide])
    | split

theorem applyAll_only {L R s} (hR : Only L R s) (hL : [.functions, .rings] ⊆ L) : Only L R (applyAll s) := by
  refine hR.step ?_ hL
  unfold applyAll
  repeat' first
    | dsimp only
    | with_reducible exact .refl
    | with_reducible refine .ite ?_ ?_
    | (with_reducible apply applyStore_only <;> [skip; decide])
    | with_reducible refine .foldl (fun _ _ => ?_) _ ?_

theorem endPause_only {L R s} (hR : Only L R s)
    (hL : [.outputs, .functions, .link, .rings, .commands, .events, .contexts] ⊆ L) : Only L R (endPause s) := by
  refine hR.step ?_ hL
  unfold endPause
  repeat' first
    | dsimp only
    | with_reducible exact .refl
    | with_reducible refine .ite ?_ ?_
    | (with_reducible apply applyAll_only <;> [skip; decide])
    | (with_reducible apply postAll_only <;> [skip; decide])
    | simp (disch := (intro (q : Part) hq; cases q <;> first | (simp [Part.same, fnOf]; done) | exact absurd (by decide) hq)) only
        [Only.mk_iff]

theorem displace0_only {L R s} (hR : Only L R s) (hL : [.rings, .commands] ⊆ L) : Only L R (displace0 s) := by
  refine hR.step ?_ hL
  unfold displace0
  repeat' first
    | dsimp only
    | with_reducible exact .refl
    | with_reducible refine .ite ?_ ?_
    | simp (disch := (intro (q : Part) hq; cases q <;> first | (simp [Part.same, fnOf]; done) | exact absurd (by decide) hq)) only
        [Only.mk_iff]
    | split

theorem adminOn_only {L R s} (hR : Only L R s) (hL : [.config, .rings, .commands] ⊆ L) : Only L R (adminOn s) := by
  refine hR.step ?_ hL
  unfold adminOn
  repeat' first
    | dsimp only
    | with_reducible exact .refl
    | with_reducible refine .ite ?_ ?_
    | (with_reducible apply displace0_only <;> [skip; decide])
    | simp (disch := (intro (q : Part) hq; cases q <;> first | (simp [Part.same, fnOf]; done) | exact absurd (by decide) hq)) only
        [Only.mk_iff]

theorem adminGone_only {L R s} (hR : Only L R s)
    (hL : [.config, .rings, .streams, .transports] ⊆ L) : Only L R (adminGone s) := by
  refine hR.step ?_ hL
  unfold adminGone
  repeat' first
    | dsimp only
    | with_reducible exact .refl
    | with_reducible refine .ite ?_ ?_
    | (with_reducible apply dropStreams_only <;> [skip; decide])
    | simp (disch := (intro (q : Part) hq; cases q <;> first | (simp [Part.same, fnOf]; done) | exact absurd (by decide) hq)) only
        [Only.mk_iff]

theorem adminOff_only {L R s} (hR : Only L R s) (hL : [.config, .rings] ⊆ L) : Only L R (adminOff s) := by
  refine hR.step ?_ hL
  unfold adminOff
  repeat' first
    | dsimp only
    | with_reducible exact .refl
    | with_reducible refine .ite ?_ ?_
    | simp (disch := (intro (q : Part) hq; cases q <;> first | (simp [Part.same, fnOf]; done) | exact absurd (by decide) hq)) only
        [Only.mk_iff]

theorem forgetCmd_only {L R s id} (hR : Only L R s)
    (hL : [.outputs, .rings, .commands, .events, .contexts, .headwind, .transports, .jobs, .timeBase, .power, .gates,
      .firmware] ⊆ L) :
    Only L R (forgetCmd s id) := by
  refine hR.step ?_ hL
  unfold forgetCmd
  repeat' first
    | dsimp only
    | with_reducible exact .refl
    | with_reducible refine .ite ?_ ?_
    | (with_reducible apply updXp_only <;> [skip; decide])
    | (with_reducible apply undoLull_only <;> [skip; decide])
    | simp (disch := (intro (q : Part) hq; cases q <;> first | (simp [Part.same, fnOf]; done) | exact absurd (by decide) hq)) only
        [Only.mk_iff]
    | split

theorem flrLogOne_only {L R fn seq s c} (hR : Only L R s) (hL : [.ringLog] ⊆ L) : Only L R (flrLogOne fn seq s c) := by
  refine hR.step ?_ hL
  unfold flrLogOne
  repeat' first
    | dsimp only
    | with_reducible exact .refl
    | with_reducible refine .ite ?_ ?_
    | simp (disch := (intro (q : Part) hq; cases q <;> first | (simp [Part.same, fnOf]; done) | exact absurd (by decide) hq)) only
        [Only.mk_iff]

theorem flrAbortOne_only {L R fn seq s c} (hR : Only L R s)
    (hL : [.outputs, .rings, .commands, .ringLog, .events, .contexts, .headwind, .transports, .jobs, .timeBase, .power,
      .gates, .firmware] ⊆ L) :
    Only L R (flrAbortOne fn seq s c) := by
  refine hR.step ?_ hL
  unfold flrAbortOne
  repeat' first
    | dsimp only
    | with_reducible exact .refl
    | with_reducible refine .ite ?_ ?_
    | (with_reducible apply forgetCmd_only <;> [skip; decide])
    | (with_reducible apply freeSlot_only <;> [skip; decide])
    | (with_reducible apply dropRecords_only <;> [skip; decide])
    | (with_reducible apply flrLogOne_only <;> [skip; decide])

theorem loseLooks_only {L R s k} (hR : Only L R s) (hL : [.rings] ⊆ L) : Only L R (loseLooks s k) := by
  refine hR.step ?_ hL
  unfold loseLooks
  repeat' first
    | dsimp only
    | with_reducible exact .refl
    | with_reducible refine .ite ?_ ?_
    | simp (disch := (intro (q : Part) hq; cases q <;> first | (simp [Part.same, fnOf]; done) | exact absurd (by decide) hq)) only
        [Only.mk_iff]

theorem dyingStreams_only {L R s k} (hR : Only L R s) (hL : [.streams, .transports] ⊆ L) : Only L R (dyingStreams s k) := by
  refine hR.step ?_ hL
  unfold dyingStreams
  repeat' first
    | dsimp only
    | with_reducible exact .refl
    | with_reducible refine .ite ?_ ?_
    | (with_reducible apply openWindow_only <;> [skip; decide])
    | with_reducible refine .foldl (fun _ _ => ?_) _ ?_
    | simp (disch := (intro (q : Part) hq; cases q <;> first | (simp [Part.same, fnOf]; done) | exact absurd (by decide) hq)) only
        [Only.mk_iff]

theorem orphanOne_only {L R cs s k} (hR : Only L R s)
    (hL : [.outputs, .rings, .events, .contexts, .streams, .transports] ⊆ L) : Only L R (orphanOne cs s k) := by
  refine hR.step ?_ hL
  unfold orphanOne
  repeat' first
    | dsimp only
    | with_reducible exact .refl
    | with_reducible refine .ite ?_ ?_
    | (with_reducible apply raise_only <;> [skip; decide])
    | (with_reducible apply loseLooks_only <;> [skip; decide])
    | (with_reducible apply dyingStreams_only <;> [skip; decide])
    | (with_reducible apply updCtx_only <;> [skip; decide])

theorem flrSteps_only {L R s fn} (hR : Only L R s)
    (hL : [.free, .outputs, .rings, .commands, .ringLog, .events, .contexts, .headwind, .streams, .transports, .jobs,
      .timeBase, .power, .gates, .firmware] ⊆ L) :
    Only L R (flrSteps s fn) := by
  refine hR.step ?_ hL
  unfold flrSteps
  repeat' first
    | dsimp only
    | with_reducible exact .refl
    | with_reducible refine .ite ?_ ?_
    | (with_reducible apply raise_only <;> [skip; decide])
    | (with_reducible apply settle_only <;> [skip; decide])
    | (with_reducible apply fixDone_only <;> [skip; decide])
    | (with_reducible apply removeRing_only <;> [skip; decide])
    | (with_reducible apply dropStreams_only <;> [skip; decide])
    | (with_reducible apply orphanOne_only <;> [skip; decide])
    | (with_reducible apply flrAbortOne_only <;> [skip; decide])
    | with_reducible refine .foldl (fun _ _ => ?_) _ ?_
    | with_reducible refine .elim ?_ fun _ => ?_
    | simp (disch := (intro (q : Part) hq; cases q <;> first | (simp [Part.same, fnOf]; done) | exact absurd (by decide) hq)) only
        [Only.mk_iff]

theorem dropTagWaits_only {L R s fn} (hR : Only L R s)
    (hL : [.outputs, .rings, .commands, .ringLog, .events, .contexts, .headwind] ⊆ L) : Only L R (dropTagWaits s fn) := by
  refine hR.step ?_ hL
  unfold dropTagWaits
  repeat' first
    | dsimp only
    | with_reducible exact .refl
    | with_reducible refine .ite ?_ ?_
    | (with_reducible apply fixDone_only <;> [skip; decide])
    | (with_reducible apply postAll_only <;> [skip; decide])
    | with_reducible refine .foldl (fun _ _ => ?_) _ ?_
    | simp (disch := (intro (q : Part) hq; cases q <;> first | (simp [Part.same, fnOf]; done) | exact absurd (by decide) hq)) only
        [Only.mk_iff]

theorem dropMerged_only {L R s fn} (hR : Only L R s) (hL : [.events] ⊆ L) : Only L R (dropMerged s fn) := by
  refine hR.step ?_ hL
  unfold dropMerged
  repeat' first
    | dsimp only
    | with_reducible exact .refl
    | with_reducible refine .ite ?_ ?_
    | simp (disch := (intro (q : Part) hq; cases q <;> first | (simp [Part.same, fnOf]; done) | exact absurd (by decide) hq)) only
        [Only.mk_iff]

theorem flrOne_only {L R s fn} (hR : Only L R s)
    (hL : [.free, .outputs, .functions, .link, .rings, .commands, .ringLog, .events, .contexts, .headwind, .streams,
      .transports, .jobs, .timeBase, .power, .gates, .firmware] ⊆ L) :
    Only L R (flrOne s fn) := by
  refine hR.step ?_ hL
  unfold flrOne
  repeat' first
    | dsimp only
    | with_reducible exact .refl
    | with_reducible refine .ite ?_ ?_
    | (with_reducible apply flrSteps_only <;> [skip; decide])
    | with_reducible refine setFn_kept rfl ?_ (by decide)
    | (with_reducible apply setFn_only <;> [skip; decide])
    | (with_reducible apply dropMerged_only <;> [skip; decide])
    | (with_reducible apply dropTagWaits_only <;> [skip; decide])
    | with_reducible refine .elim ?_ fun _ => ?_
    | simp (disch := (intro (q : Part) hq; cases q <;> first | (simp [Part.same, fnOf]; done) | exact absurd (by decide) hq)) only
        [Only.mk_iff]

theorem removeVfs_only {L R s} (hR : Only L R s)
    (hL : [.free, .outputs, .functions, .config, .link, .rings, .commands, .ringLog, .events, .contexts, .headwind,
      .streams, .transports, .jobs, .timeBase, .power, .gates, .firmware] ⊆ L) :
    Only L R (removeVfs s) := by
  refine hR.step ?_ hL
  unfold removeVfs
  repeat' first
    | dsimp only
    | with_reducible exact .refl
    | with_reducible refine .ite ?_ ?_
    | (with_reducible apply flrOne_only <;> [skip; decide])
    | with_reducible refine .foldl (fun _ _ => ?_) _ ?_
    | simp (disch := (intro (q : Part) hq; cases q <;> first | (simp [Part.same, fnOf]; done) | exact absurd (by decide) hq)) only
        [Only.mk_iff]

theorem flrStart_only {L R s fn} (hR : Only L R s)
    (hL : [.free, .outputs, .functions, .config, .link, .rings, .commands, .ringLog, .events, .contexts, .headwind,
      .streams, .transports, .jobs, .copyEngine, .timeBase, .power, .gates, .firmware] ⊆ L) :
    Only L R (flrStart s fn) := by
  refine hR.step ?_ hL
  unfold flrStart
  repeat' first
    | dsimp only
    | with_reducible exact .refl
    | with_reducible refine .ite ?_ ?_
    | (with_reducible apply aceHostReset_only <;> [skip; decide])
    | (with_reducible apply removeVfs_only <;> [skip; decide])
    | (with_reducible apply flrOne_only <;> [skip; decide])
    | simp (disch := (intro (q : Part) hq; cases q <;> first | (simp [Part.same, fnOf]; done) | exact absurd (by decide) hq)) only
        [Only.mk_iff]

theorem hostLostOne_only {L R s c} (hR : Only L R s)
    (hL : [.commands, .contexts, .headwind, .transports, .jobs, .engines] ⊆ L) : Only L R (hostLostOne s c) := by
  refine hR.step ?_ hL
  unfold hostLostOne
  repeat' first
    | dsimp only
    | with_reducible exact .refl
    | with_reducible refine .ite ?_ ?_
    | (with_reducible apply dropRecords_only <;> [skip; decide])
    | (with_reducible apply fixDone_only <;> [skip; decide])
    | (with_reducible apply uncount_only <;> [skip; decide])
    | with_reducible refine .elim ?_ fun _ => ?_
    | simp (disch := (intro (q : Part) hq; cases q <;> first | (simp [Part.same, fnOf]; done) | exact absurd (by decide) hq)) only
        [Only.mk_iff]

theorem hostLost_only {L R s fn} (hR : Only L R s)
    (hL : [.commands, .contexts, .headwind, .transports, .jobs, .engines] ⊆ L) : Only L R (hostLost s fn) := by
  refine hR.step ?_ hL
  unfold hostLost
  repeat' first
    | dsimp only
    | with_reducible exact .refl
    | with_reducible refine .ite ?_ ?_
    | (with_reducible apply hostLostOne_only <;> [skip; decide])
    | with_reducible refine .foldl (fun _ _ => ?_) _ ?_

theorem pasidLost_only {L R s} (hR : Only L R s)
    (hL : [.free, .outputs, .rings, .commands, .events, .contexts, .headwind, .streams, .transports, .jobs, .engines] ⊆ L) :
    Only L R (pasidLost s) := by
  refine hR.step ?_ hL
  unfold pasidLost
  repeat' first
    | dsimp only
    | with_reducible exact .refl
    | with_reducible refine .ite ?_ ?_
    | (with_reducible apply hostLostOne_only <;> [skip; decide])
    | (with_reducible apply settle_only <;> [skip; decide])
    | with_reducible refine .foldl (fun _ _ => ?_) _ ?_

theorem hostBack_only {L R s} (hR : Only L R s)
    (hL : [.outputs, .rings, .commands, .events, .contexts] ⊆ L) : Only L R (hostBack s) := by
  refine hR.step ?_ hL
  unfold hostBack
  repeat' first
    | dsimp only
    | with_reducible exact .refl
    | with_reducible refine .ite ?_ ?_
    | (with_reducible apply flushPba_only <;> [skip; decide])
    | (with_reducible apply postAll_only <;> [skip; decide])
    | with_reducible refine .foldl (fun _ _ => ?_) _ ?_

theorem fwUp_only {L R s} (hR : Only L R s) (hL : [.functions, .link, .rings] ⊆ L) : Only L R (fwUp s) := by
  refine hR.step ?_ hL
  unfold fwUp
  repeat' first
    | dsimp only
    | with_reducible exact .refl
    | with_reducible refine .ite ?_ ?_
    | (with_reducible apply applyAll_only <;> [skip; decide])
    | simp (disch := (intro (q : Part) hq; cases q <;> first | (simp [Part.same, fnOf]; done) | exact absurd (by decide) hq)) only
        [Only.mk_iff]

theorem hostSideReset_only {L R s} (hR : Only L R s)
    (hL : [.functions, .config, .link, .rings, .events, .copyEngine] ⊆ L) : Only L R (hostSideReset s) := by
  refine hR.step ?_ hL
  unfold hostSideReset
  repeat' first
    | dsimp only
    | with_reducible exact .refl
    | with_reducible refine .ite ?_ ?_
    | (with_reducible apply aceHostReset_only <;> [skip; decide])
    | simp (disch := (intro (q : Part) hq; cases q <;> first | (simp [Part.same, fnOf]; done) | exact absurd (by decide) hq)) only
        [Only.mk_iff]

theorem openWindow900_only {L R s} (hR : Only L R s) (hL : [.functions, .link, .rings] ⊆ L) : Only L R (openWindow900 s) := by
  refine hR.step ?_ hL
  unfold openWindow900
  repeat' first
    | dsimp only
    | with_reducible exact .refl
    | with_reducible refine .ite ?_ ?_
    | (with_reducible apply fwUp_only <;> [skip; decide])
    | simp (disch := (intro (q : Part) hq; cases q <;> first | (simp [Part.same, fnOf]; done) | exact absurd (by decide) hq)) only
        [Only.mk_iff]

theorem startDelete_only {L R s c} (hR : Only L R s)
    (hL : [.outputs, .rings, .commands, .events, .contexts, .headwind, .jobs, .mailboxData] ⊆ L) :
    Only L R (startDelete s c) := by
  refine hR.step ?_ hL
  unfold startDelete
  repeat' first
    | dsimp only
    | with_reducible exact .refl
    | with_reducible refine .ite ?_ ?_
    | (with_reducible apply setProg_only <;> [skip; decide])
    | (with_reducible apply postAll_only <;> [skip; decide])
    | (with_reducible apply abortOne_only <;> [skip; decide])
    | (with_reducible apply updCtx_only <;> [skip; decide])
    | (with_reducible apply loseLooks_only <;> [skip; decide])
    | with_reducible refine .foldl (fun _ _ => ?_) _ ?_

theorem continueDelete_only {L R s c n} (hR : Only L R s)
    (hL : [.outputs, .rings, .commands, .events, .contexts, .headwind, .streams, .transports] ⊆ L) :
    Only L R (continueDelete s c n) := by
  refine hR.step ?_ hL
  unfold continueDelete
  repeat' first
    | dsimp only
    | with_reducible exact .refl
    | with_reducible refine .ite ?_ ?_
    | (with_reducible apply complete_only <;> [skip; decide])
    | (with_reducible apply dropStreams_only <;> [skip; decide])
    | (with_reducible apply openWindow_only <;> [skip; decide])
    | with_reducible refine .foldl (fun _ _ => ?_) _ ?_
    | simp (disch := (intro (q : Part) hq; cases q <;> first | (simp [Part.same, fnOf]; done) | exact absurd (by decide) hq)) only
        [Only.mk_iff]

theorem retirePage_only {L R s page} (hR : Only L R s)
    (hL : [.outputs, .events, .firmware] ⊆ L) : Only L R (retirePage s page) := by
  refine hR.step ?_ hL
  unfold retirePage
  repeat' first
    | dsimp only
    | with_reducible exact .refl
    | with_reducible refine .ite ?_ ?_
    | (with_reducible apply raise_only <;> [skip; decide])
    | simp (disch := (intro (q : Part) hq; cases q <;> first | (simp [Part.same, fnOf]; done) | exact absurd (by decide) hq)) only
        [Only.mk_iff]

theorem noteCopy_only {L R s k} (hR : Only L R s) (hL : [.outputs, .events, .faults] ⊆ L) : Only L R (noteCopy s k) := by
  refine hR.step ?_ hL
  unfold noteCopy
  repeat' first
    | dsimp only
    | with_reducible exact .refl
    | with_reducible refine .ite ?_ ?_
    | (with_reducible apply noteSeen_only <;> [skip; decide])

theorem breakChain_only {L R s l} (hR : Only L R s)
    (hL : [.free, .outputs, .commands, .events, .contexts, .headwind, .jobs, .mailboxData, .faults] ⊆ L) :
    Only L R (breakChain s l) := by
  refine hR.step ?_ hL
  unfold breakChain
  repeat' first
    | dsimp only
    | with_reducible exact .refl
    | with_reducible refine .ite ?_ ?_
    | (with_reducible apply logFault_only <;> [skip; decide])
    | (with_reducible apply drawFree_only <;> [skip; decide])
    | (with_reducible apply abortOne_only <;> [skip; decide])
    | (with_reducible apply raise_only <;> [skip; decide])
    | (with_reducible apply updCmd_only <;> [skip; decide])
    | with_reducible refine .foldl (fun _ _ => ?_) _ ?_
    | simp (disch := (intro (q : Part) hq; cases q <;> first | (simp [Part.same, fnOf]; done) | exact absurd (by decide) hq)) only
        [Only.mk_iff]
    | split

theorem examineOne_only {L R s id} (hR : Only L R s)
    (hL : [.free, .outputs, .commands, .events, .contexts, .headwind, .jobs, .mailboxData, .faults] ⊆ L) :
    Only L R (examineOne s id) := by
  refine hR.step ?_ hL
  unfold examineOne
  repeat' first
    | dsimp only
    | with_reducible exact .refl
    | with_reducible refine .ite ?_ ?_
    | (with_reducible apply breakChain_only <;> [skip; decide])
    | split

theorem applyThermal_only {L R s} (hR : Only L R s)
    (hL : [.outputs, .events, .transports] ⊆ L) : Only L R (applyThermal s) := by
  refine hR.step ?_ hL
  unfold applyThermal
  repeat' first
    | dsimp only
    | with_reducible exact .refl
    | with_reducible refine .ite ?_ ?_
    | (with_reducible apply raise_only <;> [skip; decide])
    | (with_reducible apply updXp_only <;> [skip; decide])
    | with_reducible refine .foldl (fun _ _ => ?_) _ ?_
    | split

theorem shutDown_only {L R s} (hR : Only L R s)
    (hL : [.outputs, .functions, .link, .rings, .commands, .events, .contexts, .transports, .thermal, .firmware] ⊆ L) :
    Only L R (shutDown s) := by
  refine hR.step ?_ hL
  unfold shutDown
  repeat' first
    | dsimp only
    | with_reducible exact .refl
    | with_reducible refine .ite ?_ ?_
    | (with_reducible apply endPause_only <;> [skip; decide])
    | (with_reducible apply setForce_only <;> [skip; decide])
    | (with_reducible apply updXp_only <;> [skip; decide])
    | with_reducible refine .foldl (fun _ _ => ?_) _ ?_
    | simp (disch := (intro (q : Part) hq; cases q <;> first | (simp [Part.same, fnOf]; done) | exact absurd (by decide) hq)) only
        [Only.mk_iff]

theorem changeLevel_only {L R s l} (hR : Only L R s)
    (hL : [.outputs, .functions, .link, .rings, .commands, .events, .contexts, .transports, .thermal, .firmware] ⊆ L) :
    Only L R (changeLevel s l) := by
  refine hR.step ?_ hL
  unfold changeLevel
  repeat' first
    | dsimp only
    | with_reducible exact .refl
    | with_reducible refine .ite ?_ ?_
    | (with_reducible apply shutDown_only <;> [skip; decide])
    | (with_reducible apply raise_only <;> [skip; decide])
    | simp (disch := (intro (q : Part) hq; cases q <;> first | (simp [Part.same, fnOf]; done) | exact absurd (by decide) hq)) only
        [Only.mk_iff]

theorem startClose_only {L R s k} (hR : Only L R s) (hL : [.gates] ⊆ L) : Only L R (startClose s k) := by
  refine hR.step ?_ hL
  unfold startClose
  repeat' first
    | dsimp only
    | with_reducible exact .refl
    | with_reducible refine .ite ?_ ?_
    | (with_reducible apply setGate_only <;> [skip; decide])

theorem commitLull_only {L R s e} (hR : Only L R s)
    (hL : [.outputs, .rings, .commands, .events, .contexts, .headwind, .mailbox, .power, .gates] ⊆ L) :
    Only L R (commitLull s e) := by
  refine hR.step ?_ hL
  unfold commitLull
  repeat' first
    | dsimp only
    | with_reducible exact .refl
    | with_reducible refine .ite ?_ ?_
    | (with_reducible apply startClose_only <;> [skip; decide])
    | (with_reducible apply complete_only <;> [skip; decide])
    | (with_reducible apply deliverMbx_only <;> [skip; decide])
    | simp (disch := (intro (q : Part) hq; cases q <;> first | (simp [Part.same, fnOf]; done) | exact absurd (by decide) hq)) only
        [Only.mk_iff]
    | split

theorem gateDone_only {L R s k forced} (hR : Only L R s)
    (hL : [.outputs, .rings, .commands, .events, .contexts, .headwind, .mailbox, .power, .gates] ⊆ L) :
    Only L R (gateDone s k forced) := by
  refine hR.step ?_ hL
  unfold gateDone
  repeat' first
    | dsimp only
    | with_reducible exact .refl
    | with_reducible refine .ite ?_ ?_
    | (with_reducible apply commitLull_only <;> [skip; decide])
    | (with_reducible apply startClose_only <;> [skip; decide])
    | (with_reducible apply setGate_only <;> [skip; decide])
    | simp (disch := (intro (q : Part) hq; cases q <;> first | (simp [Part.same, fnOf]; done) | exact absurd (by decide) hq)) only
        [Only.mk_iff]
    | split

theorem forceLose_only {L R s k waiting} (hR : Only L R s)
    (hL : [.outputs, .rings, .commands, .events, .contexts, .headwind, .copyEngine, .indirect] ⊆ L) :
    Only L R (forceLose s k waiting) := by
  refine hR.step ?_ hL
  unfold forceLose
  repeat' first
    | dsimp only
    | with_reducible exact .refl
    | with_reducible refine .ite ?_ ?_
    | (with_reducible apply postAll_only <;> [skip; decide])
    | (with_reducible apply haltAce_only <;> [skip; decide])
    | (with_reducible apply fixDone_only <;> [skip; decide])
    | with_reducible refine .foldl (fun _ _ => ?_) _ ?_
    | simp (disch := (intro (q : Part) hq; cases q <;> first | (simp [Part.same, fnOf]; done) | exact absurd (by decide) hq)) only
        [Only.mk_iff]
    | split

theorem closeAllOpen_only {L R s} (hR : Only L R s) (hL : [.transports] ⊆ L) : Only L R (closeAllOpen s) := by
  refine hR.step ?_ hL
  unfold closeAllOpen
  repeat' first
    | dsimp only
    | with_reducible exact .refl
    | with_reducible refine .ite ?_ ?_
    | (with_reducible apply closeDataset_only <;> [skip; decide])
    | with_reducible refine .foldl (fun _ _ => ?_) _ ?_

theorem enterState_only {L R s target} (hR : Only L R s)
    (hL : [.link, .rings, .keySlots, .copyEngine, .power] ⊆ L) : Only L R (enterState s target) := by
  refine hR.step ?_ hL
  unfold enterState
  repeat' first
    | dsimp only
    | with_reducible exact .refl
    | with_reducible refine .ite ?_ ?_
    | simp (disch := (intro (q : Part) hq; cases q <;> first | (simp [Part.same, fnOf]; done) | exact absurd (by decide) hq)) only
        [Only.mk_iff]

theorem startJournal_only {L R s b} (hR : Only L R s)
    (hL : [.outputs, .nonces, .peripherals] ⊆ L) : Only L R (startJournal s b) := by
  refine hR.step ?_ hL
  unfold startJournal
  repeat' first
    | dsimp only
    | with_reducible exact .refl
    | with_reducible refine .ite ?_ ?_
    | (with_reducible apply pspQueue_only <;> [skip; decide])
    | simp (disch := (intro (q : Part) hq; cases q <;> first | (simp [Part.same, fnOf]; done) | exact absurd (by decide) hq)) only
        [Only.mk_iff]

theorem requestReserve_only {L R s b} (hR : Only L R s)
    (hL : [.outputs, .nonces, .peripherals] ⊆ L) : Only L R (requestReserve s b) := by
  refine hR.step ?_ hL
  unfold requestReserve
  repeat' first
    | dsimp only
    | with_reducible exact .refl
    | with_reducible refine .ite ?_ ?_
    | (with_reducible apply startJournal_only <;> [skip; decide])

theorem startNonce_only {L R s} (hR : Only L R s) (hL : [.outputs, .nonces, .peripherals] ⊆ L) : Only L R (startNonce s) := by
  refine hR.step ?_ hL
  unfold startNonce
  repeat' first
    | dsimp only
    | with_reducible exact .refl
    | with_reducible refine .ite ?_ ?_
    | (with_reducible apply requestReserve_only <;> [skip; decide])
    | simp (disch := (intro (q : Part) hq; cases q <;> first | (simp [Part.same, fnOf]; done) | exact absurd (by decide) hq)) only
        [Only.mk_iff]

theorem loadPeriph_only {L R s} (hR : Only L R s) (hL : [.outputs, .events, .peripherals] ⊆ L) : Only L R (loadPeriph s) := by
  refine hR.step ?_ hL
  unfold loadPeriph
  repeat' first
    | dsimp only
    | with_reducible exact .refl
    | with_reducible refine .ite ?_ ?_
    | (with_reducible apply raise_only <;> [skip; decide])
    | with_reducible refine .foldl (fun _ _ => ?_) _ ?_
    | simp (disch := (intro (q : Part) hq; cases q <;> first | (simp [Part.same, fnOf]; done) | exact absurd (by decide) hq)) only
        [Only.mk_iff]

theorem firmwareStarts_only {L R s} (hR : Only L R s)
    (hL : [.outputs, .events, .nonces, .transports, .pool, .peripherals, .engines, .thermal] ⊆ L) :
    Only L R (firmwareStarts s) := by
  refine hR.step ?_ hL
  unfold firmwareStarts
  repeat' first
    | dsimp only
    | with_reducible exact .refl
    | with_reducible refine .ite ?_ ?_
    | (with_reducible apply raise_only <;> [skip; decide])
    | (with_reducible apply startNonce_only <;> [skip; decide])
    | (with_reducible apply loadPeriph_only <;> [skip; decide])
    | with_reducible refine .foldl (fun _ _ => ?_) _ ?_
    | simp (disch := (intro (q : Part) hq; cases q <;> first | (simp [Part.same, fnOf]; done) | exact absurd (by decide) hq)) only
        [Only.mk_iff]

theorem leaveLull3_only {L R s} (hR : Only L R s)
    (hL : [.functions, .config, .link, .rings, .events, .keySlots, .copyEngine, .telemetry, .buffer, .timeBase] ⊆ L) :
    Only L R (leaveLull3 s) := by
  refine hR.step ?_ hL
  unfold leaveLull3
  repeat' first
    | dsimp only
    | with_reducible exact .refl
    | with_reducible refine .ite ?_ ?_
    | (with_reducible apply hostSideReset_only <;> [skip; decide])
    | with_reducible refine .foldl (fun _ _ => ?_) _ ?_
    | with_reducible refine .elim ?_ fun _ => ?_
    | simp (disch := (intro (q : Part) hq; cases q <;> first | (simp [Part.same, fnOf]; done) | exact absurd (by decide) hq)) only
        [Only.mk_iff]

theorem runOwed_only {L R s} (hR : Only L R s)
    (hL : [.free, .outputs, .link, .rings, .commands, .ringLog, .events, .contexts, .headwind, .streams, .transports, .jobs,
      .timeBase, .power, .gates, .firmware] ⊆ L) :
    Only L R (runOwed s) := by
  refine hR.step ?_ hL
  unfold runOwed
  repeat' first
    | dsimp only
    | with_reducible exact .refl
    | with_reducible refine .ite ?_ ?_
    | (with_reducible apply flrSteps_only <;> [skip; decide])
    | (with_reducible apply hostBack_only <;> [skip; decide])
    | with_reducible refine .foldl (fun _ _ => ?_) _ ?_
    | simp (disch := (intro (q : Part) hq; cases q <;> first | (simp [Part.same, fnOf]; done) | exact absurd (by decide) hq)) only
        [Only.mk_iff]

theorem raiseHeld_only {L R s} (hR : Only L R s) (hL : [.outputs, .events] ⊆ L) : Only L R (raiseHeld s) := by
  refine hR.step ?_ hL
  unfold raiseHeld
  repeat' first
    | dsimp only
    | with_reducible exact .refl
    | with_reducible refine .ite ?_ ?_
    | (with_reducible apply raiseNow_only <;> [skip; decide])
    | with_reducible refine .foldl (fun _ _ => ?_) _ ?_
    | simp (disch := (intro (q : Part) hq; cases q <;> first | (simp [Part.same, fnOf]; done) | exact absurd (by decide) hq)) only
        [Only.mk_iff]

theorem setEng_only {L R s cls idx e} (hR : Only L R s)
    (hL : [.outputs, .events, .engines] ⊆ L) : Only L R (setEng s cls idx e) := by
  refine hR.step ?_ hL
  unfold setEng
  repeat' first
    | dsimp only
    | with_reducible exact .refl
    | with_reducible refine .ite ?_ ?_
    | (with_reducible apply raise_only <;> [skip; decide])
    | simp (disch := (intro (q : Part) hq; cases q <;> first | (simp [Part.same, fnOf]; done) | exact absurd (by decide) hq)) only
        [Only.mk_iff]

theorem fenceDone_only {L R s cls idx} (hR : Only L R s)
    (hL : [.outputs, .rings, .commands, .events, .contexts, .headwind, .engines] ⊆ L) : Only L R (fenceDone s cls idx) := by
  refine hR.step ?_ hL
  unfold fenceDone
  repeat' first
    | dsimp only
    | with_reducible exact .refl
    | with_reducible refine .ite ?_ ?_
    | (with_reducible apply fixDone_only <;> [skip; decide])
    | (with_reducible apply postAll_only <;> [skip; decide])
    | (with_reducible apply setEng_only <;> [skip; decide])
    | with_reducible refine .foldl (fun _ _ => ?_) _ ?_

theorem stopWork_only {L R s cls idx} (hR : Only L R s)
    (hL : [.lanes, .pool, .jobs] ⊆ L) : Only L R (stopWork s cls idx).1 := by
  refine hR.step ?_ hL
  unfold stopWork
  repeat' first
    | dsimp only
    | with_reducible exact .refl
    | with_reducible refine .ite ?_ ?_
    | simp (disch := (intro (q : Part) hq; cases q <;> first | (simp [Part.same, fnOf]; done) | exact absurd (by decide) hq)) only
        [Only.mk_iff]
    | split

theorem logUpdate_only {L R s u outcome rtMask} (hR : Only L R s)
    (hL : [.outputs, .events, .firmware] ⊆ L) : Only L R (logUpdate s u outcome rtMask) := by
  refine hR.step ?_ hL
  unfold logUpdate
  repeat' first
    | dsimp only
    | with_reducible exact .refl
    | with_reducible refine .ite ?_ ?_
    | (with_reducible apply raise_only <;> [skip; decide])
    | simp (disch := (intro (q : Part) hq; cases q <;> first | (simp [Part.same, fnOf]; done) | exact absurd (by decide) hq)) only
        [Only.mk_iff]

theorem updateAbortOne_only {L R s c} (hR : Only L R s)
    (hL : [.outputs, .commands, .ringLog, .contexts, .headwind, .transports, .jobs, .mailboxData, .timeBase, .firmware] ⊆ L)
      :
    Only L R (updateAbortOne s c) := by
  refine hR.step ?_ hL
  unfold updateAbortOne
  repeat' first
    | dsimp only
    | with_reducible exact .refl
    | with_reducible refine .ite ?_ ?_
    | (with_reducible apply abortOne_only <;> [skip; decide])
    | (with_reducible apply updXp_only <;> [skip; decide])
    | simp (disch := (intro (q : Part) hq; cases q <;> first | (simp [Part.same, fnOf]; done) | exact absurd (by decide) hq)) only
        [Only.mk_iff]
    | split

theorem switchImage_only {L R s u carry img r} (hR : Only L R s)
    (hL : [.free, .outputs, .functions, .link, .rings, .commands, .ringLog, .events, .contexts, .headwind, .streams,
      .transports, .jobs, .mailboxData, .timeBase, .firmware] ⊆ L) :
    Only L R (switchImage s u carry img r).1 := by
  refine hR.step ?_ hL
  unfold switchImage
  repeat' first
    | dsimp only
    | with_reducible exact .refl
    | with_reducible refine .ite ?_ ?_
    | (with_reducible apply endPause_only <;> [skip; decide])
    | (with_reducible apply settle_only <;> [skip; decide])
    | (with_reducible apply startMbx_only <;> [skip; decide])
    | (with_reducible apply updateAbortOne_only <;> [skip; decide])
    | with_reducible refine .foldl (fun _ _ => ?_) _ ?_
    | simp (disch := (intro (q : Part) hq; cases q <;> first | (simp [Part.same, fnOf]; done) | exact absurd (by decide) hq)) only
        [Only.mk_iff]

theorem endUpdate_only {L R s u outcome rtMask back} (hR : Only L R s)
    (hL : [.outputs, .rings, .commands, .events, .contexts, .headwind, .firmware] ⊆ L) :
    Only L R (endUpdate s u outcome rtMask back) := by
  refine hR.step ?_ hL
  unfold endUpdate
  repeat' first
    | dsimp only
    | with_reducible exact .refl
    | with_reducible refine .ite ?_ ?_
    | (with_reducible apply complete_only <;> [skip; decide])
    | (with_reducible apply logUpdate_only <;> [skip; decide])
    | simp (disch := (intro (q : Part) hq; cases q <;> first | (simp [Part.same, fnOf]; done) | exact absurd (by decide) hq)) only
        [Only.mk_iff]

theorem doSwitch_only {L R s u} (hR : Only L R s)
    (hL : [.free, .outputs, .functions, .link, .rings, .commands, .ringLog, .events, .contexts, .headwind, .streams,
      .transports, .jobs, .mailboxData, .timeBase, .firmware] ⊆ L) :
    Only L R (doSwitch s u) := by
  refine hR.step ?_ hL
  unfold doSwitch
  repeat' first
    | dsimp only
    | with_reducible exact .refl
    | with_reducible refine .ite ?_ ?_
    | (with_reducible apply endUpdate_only <;> [skip; decide])
    | (with_reducible apply switchImage_only <;> [skip; decide])
    | simp (disch := (intro (q : Part) hq; cases q <;> first | (simp [Part.same, fnOf]; done) | exact absurd (by decide) hq)) only
        [Only.mk_iff]
    | split

theorem trySwitch_only {L R s u} (hR : Only L R s)
    (hL : [.free, .outputs, .functions, .link, .rings, .commands, .ringLog, .events, .contexts, .headwind, .streams,
      .transports, .jobs, .mailboxData, .timeBase, .firmware] ⊆ L) :
    Only L R (trySwitch s u) := by
  refine hR.step ?_ hL
  unfold trySwitch
  repeat' first
    | dsimp only
    | with_reducible exact .refl
    | with_reducible refine .ite ?_ ?_
    | (with_reducible apply abortOne_only <;> [skip; decide])
    | (with_reducible apply doSwitch_only <;> [skip; decide])
    | with_reducible refine .foldl (fun _ _ => ?_) _ ?_
    | simp (disch := (intro (q : Part) hq; cases q <;> first | (simp [Part.same, fnOf]; done) | exact absurd (by decide) hq)) only
        [Only.mk_iff]

theorem resumeSwitch_only {L R s} (hR : Only L R s)
    (hL : [.free, .outputs, .functions, .link, .rings, .commands, .ringLog, .events, .contexts, .headwind, .streams,
      .transports, .jobs, .mailboxData, .timeBase, .firmware] ⊆ L) :
    Only L R (resumeSwitch s) := by
  refine hR.step ?_ hL
  unfold resumeSwitch
  repeat' first
    | dsimp only
    | with_reducible exact .refl
    | with_reducible refine .ite ?_ ?_
    | (with_reducible apply doSwitch_only <;> [skip; decide])
    | split

theorem startPause_only {L R s id} (hR : Only L R s)
    (hL : [.outputs, .link, .rings, .commands, .events, .contexts, .headwind, .power, .gates, .firmware] ⊆ L) :
    Only L R (startPause s id) := by
  refine hR.step ?_ hL
  unfold startPause
  repeat' first
    | dsimp only
    | with_reducible exact .refl
    | with_reducible refine .ite ?_ ?_
    | (with_reducible apply setProg_only <;> [skip; decide])
    | (with_reducible apply undoLull_only <;> [skip; decide])
    | simp (disch := (intro (q : Part) hq; cases q <;> first | (simp [Part.same, fnOf]; done) | exact absurd (by decide) hq)) only
        [Only.mk_iff]
    | split

theorem rollBack_only {L R s u outcome} (hR : Only L R s)
    (hL : [.free, .outputs, .functions, .link, .rings, .commands, .ringLog, .events, .contexts, .headwind, .streams,
      .transports, .jobs, .mailboxData, .timeBase, .firmware] ⊆ L) :
    Only L R (rollBack s u outcome) := by
  refine hR.step ?_ hL
  unfold rollBack
  repeat' first
    | dsimp only
    | with_reducible exact .refl
    | with_reducible refine .ite ?_ ?_
    | (with_reducible apply trySwitch_only <;> [skip; decide])
    | simp (disch := (intro (q : Part) hq; cases q <;> first | (simp [Part.same, fnOf]; done) | exact absurd (by decide) hq)) only
        [Only.mk_iff]

theorem noteNstate_only {L R before_ s} (hR : Only L R s) (hL : [.outputs, .events] ⊆ L) : Only L R (noteNstate before_ s) := by
  refine hR.step ?_ hL
  unfold noteNstate
  repeat' first
    | dsimp only
    | with_reducible exact .refl
    | with_reducible refine .ite ?_ ?_
    | (with_reducible apply raise_only <;> [skip; decide])

theorem nextIv_only {L R s} (hR : Only L R s)
    (hL : [.outputs, .events, .nonces, .peripherals] ⊆ L) : Only L R (nextIv s).2 := by
  refine hR.step ?_ hL
  unfold nextIv
  repeat' first
    | dsimp only
    | with_reducible exact .refl
    | with_reducible refine .ite ?_ ?_
    | (with_reducible apply noteNstate_only <;> [skip; decide])
    | (with_reducible apply requestReserve_only <;> [skip; decide])
    | simp (disch := (intro (q : Part) hq; cases q <;> first | (simp [Part.same, fnOf]; done) | exact absurd (by decide) hq)) only
        [Only.mk_iff]
    | split

theorem nextIv_pair {L R s i z} (h : nextIv s = (i, z)) (hR : Only L R s)
    (hL : [.outputs, .events, .nonces, .peripherals] ⊆ L) : Only L R z := by
  have := nextIv_only (s := s) hR hL
  rwa [h] at this

theorem countReject_only {L R s} (hR : Only L R s) (hL : [.nonces] ⊆ L) : Only L R (countReject s) := by
  refine hR.step ?_ hL
  unfold countReject
  repeat' first
    | dsimp only
    | with_reducible exact .refl
    | with_reducible refine .ite ?_ ?_
    | simp (disch := (intro (q : Part) hq; cases q <;> first | (simp [Part.same, fnOf]; done) | exact absurd (by decide) hq)) only
        [Only.mk_iff]

theorem eraseSlot_only {L R s kind slot} (hR : Only L R s) (hL : [.keySlots] ⊆ L) : Only L R (eraseSlot s kind slot) := by
  refine hR.step ?_ hL
  unfold eraseSlot
  repeat' first
    | dsimp only
    | with_reducible exact .refl
    | with_reducible refine .ite ?_ ?_
    | simp (disch := (intro (q : Part) hq; cases q <;> first | (simp [Part.same, fnOf]; done) | exact absurd (by decide) hq)) only
        [Only.mk_iff]

theorem updSk_only {L R s n f} (hR : Only L R s) (hL : [.rings] ⊆ L) : Only L R (updSk s n f) := by
  refine hR.step ?_ hL
  unfold updSk
  repeat' first
    | dsimp only
    | with_reducible exact .refl
    | with_reducible refine .ite ?_ ?_
    | simp (disch := (intro (q : Part) hq; cases q <;> first | (simp [Part.same, fnOf]; done) | exact absurd (by decide) hq)) only
        [Only.mk_iff]

theorem skCommit_only {L R s n r v} (hR : Only L R s) (hL : [.outputs, .rings, .events] ⊆ L) : Only L R (skCommit s n r v) := by
  refine hR.step ?_ hL
  unfold skCommit
  repeat' first
    | dsimp only
    | with_reducible exact .refl
    | with_reducible refine .ite ?_ ?_
    | (with_reducible apply updSk_only <;> [skip; decide])
    | (with_reducible apply raise_only <;> [skip; decide])

theorem windowCommit_only {L R s fn slot v} (hR : Only L R s)
    (hL : [.outputs, .rings, .events] ⊆ L) : Only L R (windowCommit s fn slot v) := by
  refine hR.step ?_ hL
  unfold windowCommit
  repeat' first
    | dsimp only
    | with_reducible exact .refl
    | with_reducible refine .ite ?_ ?_
    | (with_reducible apply skCommit_only <;> [skip; decide])
    | split

theorem cryptReads_only {L R s c inSgl} (hR : Only L R s) (hL : [.outputs] ⊆ L) : Only L R (cryptReads s c inSgl) := by
  refine hR.step ?_ hL
  unfold cryptReads
  repeat' first
    | dsimp only
    | with_reducible exact .refl
    | with_reducible refine .ite ?_ ?_
    | (with_reducible apply cmdRead_only <;> [skip; decide])
    | with_reducible refine .foldl (fun _ _ => ?_) _ ?_

end Sys2Proof.Machine
end

