-- ==== Sys2Proof/Laws/FramesTape.lean ====
section
/-! SUPPORT. Frames of recording, restoring, the read channel and the service: which parts of the
state each operation may change, one lemma per operation, in the form in which such lemmas chain. -/

namespace Sys2Proof.Machine

theorem readSgl_only {L R s c addr n} (hR : Only L R s) (hL : [.outputs] ⊆ L) : Only L R (readSgl s c addr n) := by
  refine hR.step ?_ hL
  unfold readSgl
  repeat' first
    | dsimp only
    | with_reducible exact .refl
    | with_reducible refine .ite ?_ ?_
    | (with_reducible apply cmdRead_only <;> [skip; decide])

theorem readBuf_only {L R s c ps n} (hR : Only L R s) (hL : [.outputs] ⊆ L) : Only L R (readBuf s c ps n) := by
  refine hR.step ?_ hL
  clear hR hL
  induction ps generalizing s n with
  | nil => exact .refl
  | cons p r ih => exact (cmdRead_only .refl (by decide)).trans ih

theorem endWrite_only {L R s c k} (hR : Only L R s)
    (hL : [.outputs, .rings, .commands, .events, .contexts, .headwind] ⊆ L) : Only L R (endWrite s c k) := by
  refine hR.step ?_ hL
  unfold endWrite
  repeat' first
    | dsimp only
    | with_reducible exact .refl
    | with_reducible refine .ite ?_ ?_
    | (with_reducible apply dropRecords_only <;> [skip; decide])
    | (with_reducible apply complete_only <;> [skip; decide])

theorem finishWrite_only {L R s id} (hR : Only L R s)
    (hL : [.outputs, .rings, .commands, .events, .contexts, .headwind] ⊆ L) : Only L R (finishWrite s id) := by
  refine hR.step ?_ hL
  unfold finishWrite
  repeat' first
    | dsimp only
    | with_reducible exact .refl
    | with_reducible refine .ite ?_ ?_
    | (with_reducible apply endWrite_only <;> [skip; decide])
    | split

theorem failRec_only {L R s c i k} (hR : Only L R s)
    (hL : [.outputs, .rings, .commands, .events, .contexts, .headwind] ⊆ L) : Only L R (failRec s c i k) := by
  refine hR.step ?_ hL
  unfold failRec
  repeat' first
    | dsimp only
    | with_reducible exact .refl
    | with_reducible refine .ite ?_ ?_
    | (with_reducible apply finishWrite_only <;> [skip; decide])
    | (with_reducible apply updCmd_only <;> [skip; decide])
    | (with_reducible apply discardFrom_only <;> [skip; decide])

theorem updRec_only {L R s id i f} (hR : Only L R s) (hL : [.commands] ⊆ L) : Only L R (updRec s id i f) := by
  refine hR.step ?_ hL
  unfold updRec
  repeat' first
    | dsimp only
    | with_reducible exact .refl
    | with_reducible refine .ite ?_ ?_
    | (with_reducible apply updCmd_only <;> [skip; decide])

theorem ingestFault_only {L R s c r k reread ev} (hR : Only L R s)
    (hL : [.outputs, .rings, .commands, .events, .contexts, .headwind, .faults] ⊆ L) :
    Only L R (ingestFault s c r k reread ev) := by
  refine hR.step ?_ hL
  unfold ingestFault
  repeat' first
    | dsimp only
    | with_reducible exact .refl
    | with_reducible refine .ite ?_ ?_
    | (with_reducible apply failRec_only <;> [skip; decide])
    | (with_reducible apply faultSpent_only <;> [skip; decide])
    | (with_reducible apply updRec_only <;> [skip; decide])
    | (with_reducible apply countFault_only <;> [skip; decide])

theorem damageOne_only {L R s t r n k} (hR : Only L R s)
    (hL : [.free, .outputs, .events, .streams, .transports, .faults] ⊆ L) : Only L R (damageOne s t r n k) := by
  refine hR.step ?_ hL
  unfold damageOne
  repeat' first
    | dsimp only
    | with_reducible exact .refl
    | with_reducible refine .ite ?_ ?_
    | (with_reducible apply faultSpent_only <;> [skip; decide])
    | (with_reducible apply updXp_only <;> [skip; decide])
    | (with_reducible apply drawFree_only <;> [skip; decide])
    | with_reducible refine .elim ?_ fun _ => ?_
    | simp (disch := (intro (q : Part) hq; cases q <;> first | (simp [Part.same, fnOf]; done) | exact absurd (by decide) hq)) only
        [Only.mk_iff]

theorem noteRow_only {L R s r} (hR : Only L R s) (hL : [.outputs, .events, .faults] ⊆ L) : Only L R (noteRow s r) := by
  refine hR.step ?_ hL
  unfold noteRow
  repeat' first
    | dsimp only
    | with_reducible exact .refl
    | with_reducible refine .ite ?_ ?_
    | (with_reducible apply countFault_only <;> [skip; decide])
    | (with_reducible apply noteSeen_only <;> [skip; decide])
    | with_reducible refine .foldl (fun _ _ => ?_) _ ?_

theorem damageRows_only {L R s t n rows} (hR : Only L R s)
    (hL : [.free, .outputs, .events, .streams, .transports, .faults] ⊆ L) : Only L R (damageRows s t n rows) := by
  refine hR.step ?_ hL
  unfold damageRows
  repeat' first
    | dsimp only
    | with_reducible exact .refl
    | with_reducible refine .ite ?_ ?_
    | (with_reducible apply faultSpent_only <;> [skip; decide])
    | (with_reducible apply damageOne_only <;> [skip; decide])
    | (with_reducible apply noteRow_only <;> [skip; decide])
    | with_reducible refine .foldl (fun _ _ => ?_) _ ?_
    | split

theorem atEop_only {L R s c t i} (hR : Only L R s)
    (hL : [.outputs, .rings, .commands, .events, .contexts, .headwind, .transports] ⊆ L) : Only L R (atEop s c t i) := by
  refine hR.step ?_ hL
  unfold atEop
  repeat' first
    | dsimp only
    | with_reducible exact .refl
    | with_reducible refine .ite ?_ ?_
    | (with_reducible apply failRec_only <;> [skip; decide])
    | (with_reducible apply raise_only <;> [skip; decide])
    | (with_reducible apply updMount_only <;> [skip; decide])

theorem ackRecord_only {L R s c x k st r m m' seq ds off last} (hR : Only L R s)
    (hL : [.outputs, .commands, .contexts, .streams, .transports, .mailboxData, .faults] ⊆ L) :
    Only L R (ackRecord s c x k st r m m' seq ds off last) := by
  refine hR.step ?_ hL
  unfold ackRecord
  repeat' first
    | dsimp only
    | with_reducible exact .refl
    | with_reducible refine .ite ?_ ?_
    | (with_reducible apply countFault_only <;> [skip; decide])
    | (with_reducible apply countHw_only <;> [skip; decide])
    | (with_reducible apply updCtx_only <;> [skip; decide])
    | (with_reducible apply updCmd_only <;> [skip; decide])
    | (with_reducible apply updStrm_only <;> [skip; decide])
    | (with_reducible apply cmdWrite_only <;> [skip; decide])
    | (with_reducible apply updMount_only <;> [skip; decide])
    | (with_reducible apply addOcc_only <;> [skip; decide])

theorem sendLane_only {L R s t l b} (hR : Only L R s) (hL : [.outputs] ⊆ L) : Only L R (sendLane s t l b) := by
  refine hR.step ?_ hL
  unfold sendLane
  repeat' first
    | dsimp only
    | with_reducible exact .refl
    | with_reducible refine .ite ?_ ?_
    | simp (disch := (intro (q : Part) hq; cases q <;> first | (simp [Part.same, fnOf]; done) | exact absurd (by decide) hq)) only
        [Only.mk_iff]

theorem sendAll_only {L R s t b} (hR : Only L R s) (hL : [.outputs] ⊆ L) : Only L R (sendAll s t b) := by
  refine hR.step ?_ hL
  unfold sendAll
  repeat' first
    | dsimp only
    | with_reducible exact .refl
    | with_reducible refine .ite ?_ ?_
    | (with_reducible apply sendLane_only <;> [skip; decide])
    | with_reducible refine .foldl (fun _ _ => ?_) _ ?_

theorem sendCm_only {L R old s t} (hR : Only L R s) (hL : [.outputs, .peripherals] ⊆ L) : Only L R (sendCm old s t) := by
  refine hR.step ?_ hL
  unfold sendCm
  repeat' first
    | dsimp only
    | with_reducible exact .refl
    | with_reducible refine .ite ?_ ?_
    | (with_reducible apply pspQueue_only <;> [skip; decide])
    | split

theorem storeCm_only {L R s t f} (hR : Only L R s)
    (hL : [.outputs, .transports, .peripherals] ⊆ L) : Only L R (storeCm s t f) := by
  refine hR.step ?_ hL
  unfold storeCm
  repeat' first
    | dsimp only
    | with_reducible exact .refl
    | with_reducible refine .ite ?_ ?_
    | (with_reducible apply updXp_only <;> [skip; decide])
    | (with_reducible apply sendCm_only <;> [skip; decide])

theorem failWriters_only {L R s t} (hR : Only L R s)
    (hL : [.free, .outputs, .rings, .commands, .events, .contexts, .headwind, .streams, .transports] ⊆ L) :
    Only L R (failWriters s t) := by
  refine hR.step ?_ hL
  unfold failWriters
  repeat' first
    | dsimp only
    | with_reducible exact .refl
    | with_reducible refine .ite ?_ ?_
    | (with_reducible apply failRec_only <;> [skip; decide])
    | (with_reducible apply settle_only <;> [skip; decide])
    | with_reducible refine .foldl (fun _ _ => ?_) _ ?_

theorem faultXport_only {L R s t cls tries ds} (hR : Only L R s)
    (hL : [.free, .outputs, .rings, .commands, .events, .contexts, .headwind, .streams, .transports, .faults] ⊆ L) :
    Only L R (faultXport s t cls tries ds) := by
  refine hR.step ?_ hL
  unfold faultXport
  repeat' first
    | dsimp only
    | with_reducible exact .refl
    | with_reducible refine .ite ?_ ?_
    | (with_reducible apply failWriters_only <;> [skip; decide])
    | (with_reducible apply faultSpent_only <;> [skip; decide])
    | (with_reducible apply updXp_only <;> [skip; decide])

theorem abandon_only {L R s t n cause} (hR : Only L R s)
    (hL : [.free, .outputs, .rings, .commands, .events, .contexts, .headwind, .streams, .transports, .faults] ⊆ L) :
    Only L R (abandon s t n cause) := by
  refine hR.step ?_ hL
  unfold abandon
  repeat' first
    | dsimp only
    | with_reducible exact .refl
    | with_reducible refine .ite ?_ ?_
    | (with_reducible apply faultXport_only <;> [skip; decide])
    | (with_reducible apply updMount_only <;> [skip; decide])
    | (with_reducible apply raise_only <;> [skip; decide])
    | (with_reducible apply updXp_only <;> [skip; decide])
    | split

theorem dropPrev_only {L R s t n cause} (hR : Only L R s)
    (hL : [.free, .outputs, .rings, .commands, .events, .contexts, .headwind, .streams, .transports, .faults] ⊆ L) :
    Only L R (dropPrev s t n cause) := by
  refine hR.step ?_ hL
  unfold dropPrev
  repeat' first
    | dsimp only
    | with_reducible exact .refl
    | with_reducible refine .ite ?_ ?_
    | (with_reducible apply abandon_only <;> [skip; decide])
    | split

theorem sendCodeword_only {L R s t l n cw rewrite deferred} (hR : Only L R s)
    (hL : [.outputs] ⊆ L) : Only L R (sendCodeword s t l n cw rewrite deferred) := by
  refine hR.step ?_ hL
  unfold sendCodeword
  repeat' first
    | dsimp only
    | with_reducible exact .refl
    | with_reducible refine .ite ?_ ?_
    | (with_reducible apply sendLane_only <;> [skip; decide])
    | with_reducible refine .elim ?_ fun _ => ?_
    | split

theorem fly_only {L R s t l w} (hR : Only L R s) (hL : [.lanes] ⊆ L) : Only L R (fly s t l w) := by
  refine hR.step ?_ hL
  unfold fly
  repeat' first
    | dsimp only
    | with_reducible exact .refl
    | with_reducible refine .ite ?_ ?_
    | simp (disch := (intro (q : Part) hq; cases q <;> first | (simp [Part.same, fnOf]; done) | exact absurd (by decide) hq)) only
        [Only.mk_iff]

theorem laneSegment_only {L R t c s l} (hR : Only L R s)
    (hL : [.outputs, .transports, .lanes] ⊆ L) : Only L R (laneSegment t c s l) := by
  refine hR.step ?_ hL
  unfold laneSegment
  repeat' first
    | dsimp only
    | with_reducible exact .refl
    | with_reducible refine .ite ?_ ?_
    | (with_reducible apply updXp_only <;> [skip; decide])
    | (with_reducible apply updMount_only <;> [skip; decide])
    | (with_reducible apply sendLane_only <;> [skip; decide])
    | (with_reducible apply sendCodeword_only <;> [skip; decide])
    | (with_reducible apply fly_only <;> [skip; decide])
    | simp (disch := (intro (q : Part) hq; cases q <;> first | (simp [Part.same, fnOf]; done) | exact absurd (by decide) hq)) only
        [Only.mk_iff]
    | split

theorem cutFlight_only {L R s t} (hR : Only L R s) (hL : [.lanes] ⊆ L) : Only L R (cutFlight s t) := by
  refine hR.step ?_ hL
  unfold cutFlight
  repeat' first
    | dsimp only
    | with_reducible exact .refl
    | with_reducible refine .ite ?_ ?_
    | with_reducible refine .foldl (fun _ _ => ?_) _ ?_
    | simp (disch := (intro (q : Part) hq; cases q <;> first | (simp [Part.same, fnOf]; done) | exact absurd (by decide) hq)) only
        [Only.mk_iff]

theorem interrupt_only {L R s t} (hR : Only L R s)
    (hL : [.free, .outputs, .rings, .commands, .events, .contexts, .headwind, .streams, .transports, .faults] ⊆ L) :
    Only L R (interrupt s t) := by
  refine hR.step ?_ hL
  unfold interrupt
  repeat' first
    | dsimp only
    | with_reducible exact .refl
    | with_reducible refine .ite ?_ ?_
    | (with_reducible apply dropPrev_only <;> [skip; decide])
    | (with_reducible apply abandon_only <;> [skip; decide])
    | (with_reducible apply settle_only <;> [skip; decide])
    | (with_reducible apply updMount_only <;> [skip; decide])
    | (with_reducible apply updXp_only <;> [skip; decide])
    | with_reducible refine .elim ?_ fun _ => ?_
    | split

theorem recompute_only {L R s d rate tds2} (hR : Only L R s) (hL : [.contexts] ⊆ L) : Only L R (recompute s d rate tds2) := by
  refine hR.step ?_ hL
  unfold recompute
  repeat' first
    | dsimp only
    | with_reducible exact .refl
    | with_reducible refine .ite ?_ ?_
    | (with_reducible apply updCtx_only <;> [skip; decide])
    | with_reducible refine .foldl (fun _ _ => ?_) _ ?_

theorem pushMax_only {L R s d} (hR : Only L R s) (hL : [.contexts] ⊆ L) : Only L R (pushMax s d) := by
  refine hR.step ?_ hL
  unfold pushMax
  repeat' first
    | dsimp only
    | with_reducible exact .refl
    | with_reducible refine .ite ?_ ?_
    | simp (disch := (intro (q : Part) hq; cases q <;> first | (simp [Part.same, fnOf]; done) | exact absurd (by decide) hq)) only
        [Only.mk_iff]

theorem recomputeXport_only {L R s t} (hR : Only L R s)
    (hL : [.contexts, .transports] ⊆ L) : Only L R (recomputeXport s t) := by
  refine hR.step ?_ hL
  unfold recomputeXport
  repeat' first
    | dsimp only
    | with_reducible exact .refl
    | with_reducible refine .ite ?_ ?_
    | (with_reducible apply recompute_only <;> [skip; decide])
    | (with_reducible apply updXp_only <;> [skip; decide])
    | split

theorem takeBlocks_only {L R s t} (hR : Only L R s) (hL : [.transports, .pool] ⊆ L) : Only L R (takeBlocks s t) := by
  refine hR.step ?_ hL
  unfold takeBlocks
  repeat' first
    | dsimp only
    | with_reducible exact .refl
    | with_reducible refine .ite ?_ ?_
    | (with_reducible apply updXp_only <;> [skip; decide])
    | with_reducible refine .foldl (fun _ _ => ?_) _ ?_
    | simp (disch := (intro (q : Part) hq; cases q <;> first | (simp [Part.same, fnOf]; done) | exact absurd (by decide) hq)) only
        [Only.mk_iff]
    | split

theorem noteEw_only {L R s t} (hR : Only L R s) (hL : [.outputs, .events, .transports] ⊆ L) : Only L R (noteEw s t) := by
  refine hR.step ?_ hL
  unfold noteEw
  repeat' first
    | dsimp only
    | with_reducible exact .refl
    | with_reducible refine .ite ?_ ?_
    | (with_reducible apply updMount_only <;> [skip; decide])
    | (with_reducible apply raise_only <;> [skip; decide])
    | split

theorem exhaust_only {L R s t} (hR : Only L R s)
    (hL : [.free, .outputs, .rings, .commands, .events, .contexts, .headwind, .streams, .transports] ⊆ L) :
    Only L R (exhaust s t) := by
  refine hR.step ?_ hL
  unfold exhaust
  repeat' first
    | dsimp only
    | with_reducible exact .refl
    | with_reducible refine .ite ?_ ?_
    | (with_reducible apply updMount_only <;> [skip; decide])
    | (with_reducible apply settle_only <;> [skip; decide])
    | (with_reducible apply updXp_only <;> [skip; decide])

theorem afterBoundary_only {L R s t} (hR : Only L R s)
    (hL : [.free, .outputs, .rings, .commands, .events, .contexts, .headwind, .streams, .transports] ⊆ L) :
    Only L R (afterBoundary s t) := by
  refine hR.step ?_ hL
  unfold afterBoundary
  repeat' first
    | dsimp only
    | with_reducible exact .refl
    | with_reducible refine .ite ?_ ?_
    | (with_reducible apply exhaust_only <;> [skip; decide])
    | (with_reducible apply updMount_only <;> [skip; decide])
    | (with_reducible apply updXp_only <;> [skip; decide])
    | split

theorem endPosition_only {L R s t m c d} (hR : Only L R s)
    (hL : [.free, .outputs, .rings, .commands, .events, .contexts, .headwind, .streams, .transports, .faults] ⊆ L) :
    Only L R (endPosition s t m c d) := by
  refine hR.step ?_ hL
  unfold endPosition
  repeat' first
    | dsimp only
    | with_reducible exact .refl
    | with_reducible refine .ite ?_ ?_
    | (with_reducible apply settle_only <;> [skip; decide])
    | (with_reducible apply dropPrev_only <;> [skip; decide])
    | (with_reducible apply faultXport_only <;> [skip; decide])
    | (with_reducible apply updMount_only <;> [skip; decide])
    | (with_reducible apply sendAll_only <;> [skip; decide])
    | (with_reducible apply updXp_only <;> [skip; decide])

theorem startWriting_only {L R s t} (hR : Only L R s)
    (hL : [.outputs, .contexts, .transports, .pool, .peripherals] ⊆ L) : Only L R (startWriting s t) := by
  refine hR.step ?_ hL
  unfold startWriting
  repeat' first
    | dsimp only
    | with_reducible exact .refl
    | with_reducible refine .ite ?_ ?_
    | (with_reducible apply takeBlocks_only <;> [skip; decide])
    | (with_reducible apply storeCm_only <;> [skip; decide])
    | (with_reducible apply recomputeXport_only <;> [skip; decide])

theorem setLane_only {L R s l x} (hR : Only L R s) (hL : [.lanes] ⊆ L) : Only L R (setLane s l x) := by
  refine hR.step ?_ hL
  unfold setLane
  repeat' first
    | dsimp only
    | with_reducible exact .refl
    | with_reducible refine .ite ?_ ?_
    | simp (disch := (intro (q : Part) hq; cases q <;> first | (simp [Part.same, fnOf]; done) | exact absurd (by decide) hq)) only
        [Only.mk_iff]

theorem adapt_only {L R s l} (hR : Only L R s) (hL : [.free, .lanes] ⊆ L) : Only L R (adapt s l) := by
  refine hR.step ?_ hL
  unfold adapt
  repeat' first
    | dsimp only
    | with_reducible exact .refl
    | with_reducible refine .ite ?_ ?_
    | (with_reducible apply setLane_only <;> [skip; decide])
    | simp (disch := (intro (q : Part) hq; cases q <;> first | (simp [Part.same, fnOf]; done) | exact absurd (by decide) hq)) only
        [Only.mk_iff]

theorem squall_only {L R s t l n} (hR : Only L R s)
    (hL : [.free, .outputs, .rings, .commands, .events, .contexts, .headwind, .streams, .transports, .lanes, .faults] ⊆ L) :
    Only L R (squall s t l n) := by
  refine hR.step ?_ hL
  unfold squall
  repeat' first
    | dsimp only
    | with_reducible exact .refl
    | with_reducible refine .ite ?_ ?_
    | (with_reducible apply raise_only <;> [skip; decide])
    | (with_reducible apply abandon_only <;> [skip; decide])
    | (with_reducible apply updMount_only <;> [skip; decide])
    | (with_reducible apply setLane_only <;> [skip; decide])

theorem failCodeword_only {L R s t l w cause d} (hR : Only L R s)
    (hL : [.free, .outputs, .rings, .commands, .events, .contexts, .headwind, .streams, .transports, .lanes, .pool, .faults]
      ⊆ L) :
    Only L R (failCodeword s t l w cause d) := by
  refine hR.step ?_ hL
  unfold failCodeword
  repeat' first
    | dsimp only
    | with_reducible exact .refl
    | with_reducible refine .ite ?_ ?_
    | (with_reducible apply abandon_only <;> [skip; decide])
    | (with_reducible apply squall_only <;> [skip; decide])
    | (with_reducible apply updMount_only <;> [skip; decide])
    | with_reducible refine .elim ?_ fun _ => ?_
    | simp (disch := (intro (q : Part) hq; cases q <;> first | (simp [Part.same, fnOf]; done) | exact absurd (by decide) hq)) only
        [Only.mk_iff]

theorem judge_only {L R s t l w cause} (hR : Only L R s)
    (hL : [.free, .outputs, .rings, .commands, .events, .contexts, .headwind, .streams, .transports, .lanes, .pool, .faults]
      ⊆ L) :
    Only L R (judge s t l w cause) := by
  refine hR.step ?_ hL
  unfold judge
  repeat' first
    | dsimp only
    | with_reducible exact .refl
    | with_reducible refine .ite ?_ ?_
    | (with_reducible apply dsSynced_only <;> [skip; decide])
    | (with_reducible apply updXp_only <;> [skip; decide])
    | (with_reducible apply updMount_only <;> [skip; decide])
    | (with_reducible apply failCodeword_only <;> [skip; decide])
    | (with_reducible apply setLane_only <;> [skip; decide])
    | split

theorem bring_only {L R s l w} (hR : Only L R s) (hL : [.transports] ⊆ L) : Only L R (bring s l w) := by
  refine hR.step ?_ hL
  unfold bring
  repeat' first
    | dsimp only
    | with_reducible exact .refl
    | with_reducible refine .ite ?_ ?_
    | (with_reducible apply updXp_only <;> [skip; decide])

theorem endUnconverged_only {L R s l a} (hR : Only L R s)
    (hL : [.transports, .lanes] ⊆ L) : Only L R (endUnconverged s l a) := by
  refine hR.step ?_ hL
  unfold endUnconverged
  repeat' first
    | dsimp only
    | with_reducible exact .refl
    | with_reducible refine .ite ?_ ?_
    | (with_reducible apply bring_only <;> [skip; decide])
    | (with_reducible apply setLane_only <;> [skip; decide])

theorem endConverged_only {L R s l a post} (hR : Only L R s) (hL : [.transports] ⊆ L) : Only L R (endConverged s l a post) := by
  refine hR.step ?_ hL
  unfold endConverged
  repeat' first
    | dsimp only
    | with_reducible exact .refl
    | with_reducible refine .ite ?_ ?_
    | (with_reducible apply bring_only <;> [skip; decide])

theorem evictOldest_only {L R s l} (hR : Only L R s)
    (hL : [.free, .outputs, .rings, .commands, .events, .contexts, .headwind, .streams, .transports, .lanes, .pool, .faults]
      ⊆ L) :
    Only L R (evictOldest s l) := by
  refine hR.step ?_ hL
  unfold evictOldest
  repeat' first
    | dsimp only
    | with_reducible exact .refl
    | with_reducible refine .ite ?_ ?_
    | (with_reducible apply endUnconverged_only <;> [skip; decide])
    | (with_reducible apply judge_only <;> [skip; decide])
    | (with_reducible apply setLane_only <;> [skip; decide])
    | split

theorem arrive_only {L R s l cls w y gaps} (hR : Only L R s)
    (hL : [.free, .outputs, .rings, .commands, .events, .contexts, .headwind, .streams, .transports, .lanes, .pool, .faults]
      ⊆ L) :
    Only L R (arrive s l cls w y gaps) := by
  refine hR.step ?_ hL
  unfold arrive
  repeat' first
    | dsimp only
    | with_reducible exact .refl
    | with_reducible refine .ite ?_ ?_
    | (with_reducible apply adapt_only <;> [skip; decide])
    | (with_reducible apply setLane_only <;> [skip; decide])
    | (with_reducible apply evictOldest_only <;> [skip; decide])
    | simp (disch := (intro (q : Part) hq; cases q <;> first | (simp [Part.same, fnOf]; done) | exact absurd (by decide) hq)) only
        [Only.mk_iff]

theorem updSample_only {L R s l k f} (hR : Only L R s) (hL : [.lanes] ⊆ L) : Only L R (updSample s l k f) := by
  refine hR.step ?_ hL
  unfold updSample
  repeat' first
    | dsimp only
    | with_reducible exact .refl
    | with_reducible refine .ite ?_ ?_
    | (with_reducible apply setLane_only <;> [skip; decide])

theorem dropSample_only {L R s l k} (hR : Only L R s) (hL : [.lanes] ⊆ L) : Only L R (dropSample s l k) := by
  refine hR.step ?_ hL
  unfold dropSample
  repeat' first
    | dsimp only
    | with_reducible exact .refl
    | with_reducible refine .ite ?_ ?_
    | (with_reducible apply setLane_only <;> [skip; decide])

theorem countIters_only {L R s l n c} (hR : Only L R s) (hL : [.lanes, .pool] ⊆ L) : Only L R (countIters s l n c) := by
  refine hR.step ?_ hL
  unfold countIters
  repeat' first
    | dsimp only
    | with_reducible exact .refl
    | with_reducible refine .ite ?_ ?_
    | (with_reducible apply setLane_only <;> [skip; decide])
    | simp (disch := (intro (q : Part) hq; cases q <;> first | (simp [Part.same, fnOf]; done) | exact absurd (by decide) hq)) only
        [Only.mk_iff]
    | split

theorem noteScanIters_only {L R s t n} (hR : Only L R s) (hL : [.commands] ⊆ L) : Only L R (noteScanIters s t n) := by
  refine hR.step ?_ hL
  unfold noteScanIters
  repeat' first
    | dsimp only
    | with_reducible exact .refl
    | with_reducible refine .ite ?_ ?_
    | simp (disch := (intro (q : Part) hq; cases q <;> first | (simp [Part.same, fnOf]; done) | exact absurd (by decide) hq)) only
        [Only.mk_iff]

theorem endPass_only {L R s l a llr post iters converged} (hR : Only L R s)
    (hL : [.commands, .transports, .lanes] ⊆ L) : Only L R (endPass s l a llr post iters converged) := by
  refine hR.step ?_ hL
  unfold endPass
  repeat' first
    | dsimp only
    | with_reducible exact .refl
    | with_reducible refine .ite ?_ ?_
    | (with_reducible apply updSample_only <;> [skip; decide])
    | (with_reducible apply endUnconverged_only <;> [skip; decide])
    | (with_reducible apply dropSample_only <;> [skip; decide])
    | (with_reducible apply endConverged_only <;> [skip; decide])
    | (with_reducible apply noteScanIters_only <;> [skip; decide])

theorem closePart_only {L R s t} (hR : Only L R s) (hL : [.transports] ⊆ L) : Only L R (closePart s t) := by
  refine hR.step ?_ hL
  unfold closePart
  repeat' first
    | dsimp only
    | with_reducible exact .refl
    | with_reducible refine .ite ?_ ?_
    | (with_reducible apply updMount_only <;> [skip; decide])
    | (with_reducible apply closeDataset_only <;> [skip; decide])

theorem openNow_only {L R s c} (hR : Only L R s)
    (hL : [.outputs, .rings, .commands, .events, .contexts, .headwind, .streams] ⊆ L) : Only L R (openNow s c) := by
  refine hR.step ?_ hL
  unfold openNow
  repeat' first
    | dsimp only
    | with_reducible exact .refl
    | with_reducible refine .ite ?_ ?_
    | (with_reducible apply complete_only <;> [skip; decide])
    | simp (disch := (intro (q : Part) hq; cases q <;> first | (simp [Part.same, fnOf]; done) | exact absurd (by decide) hq)) only
        [Only.mk_iff]
    | split

theorem startFlush_only {L R s c} (hR : Only L R s)
    (hL : [.free, .outputs, .rings, .commands, .events, .contexts, .headwind, .streams, .transports] ⊆ L) :
    Only L R (startFlush s c) := by
  refine hR.step ?_ hL
  unfold startFlush
  repeat' first
    | dsimp only
    | with_reducible exact .refl
    | with_reducible refine .ite ?_ ?_
    | (with_reducible apply setProg_only <;> [skip; decide])
    | (with_reducible apply settle_only <;> [skip; decide])
    | (with_reducible apply complete_only <;> [skip; decide])
    | split

theorem startLane_only {L R s l} (hR : Only L R s) (hL : [.lanes] ⊆ L) : Only L R (startLane s l) := by
  refine hR.step ?_ hL
  unfold startLane
  repeat' first
    | dsimp only
    | with_reducible exact .refl
    | with_reducible refine .ite ?_ ?_
    | (with_reducible apply setLane_only <;> [skip; decide])

theorem mountGo_only {L R s t c} (hR : Only L R s)
    (hL : [.outputs, .rings, .commands, .events, .contexts, .headwind, .transports, .lanes, .mailboxData] ⊆ L) :
    Only L R (mountGo s t c) := by
  refine hR.step ?_ hL
  unfold mountGo
  repeat' first
    | dsimp only
    | with_reducible exact .refl
    | with_reducible refine .ite ?_ ?_
    | (with_reducible apply answer_only <;> [skip; decide])
    | (with_reducible apply startLane_only <;> [skip; decide])
    | (with_reducible apply applyThermal_only <;> [skip; decide])
    | (with_reducible apply recomputeXport_only <;> [skip; decide])
    | (with_reducible apply updXp_only <;> [skip; decide])
    | (with_reducible apply complete_only <;> [skip; decide])
    | with_reducible refine .foldl (fun _ _ => ?_) _ ?_
    | split

theorem cmFail_only {L R s t id} (hR : Only L R s) (hL : [.transports, .faults] ⊆ L) : Only L R (cmFail s t id) := by
  refine hR.step ?_ hL
  unfold cmFail
  repeat' first
    | dsimp only
    | with_reducible exact .refl
    | with_reducible refine .ite ?_ ?_
    | (with_reducible apply updXp_only <;> [skip; decide])
    | (with_reducible apply countFault_only <;> [skip; decide])

theorem endSettling_only {L R s t st} (hR : Only L R s) (hL : [.commands, .headwind] ⊆ L) : Only L R (endSettling s t st) := by
  refine hR.step ?_ hL
  unfold endSettling
  repeat' first
    | dsimp only
    | with_reducible exact .refl
    | with_reducible refine .ite ?_ ?_
    | (with_reducible apply fixDone_only <;> [skip; decide])
    | with_reducible refine .foldl (fun _ _ => ?_) _ ?_

theorem dismount_only {L R s t eject} (hR : Only L R s)
    (hL : [.outputs, .events, .streams, .transports, .lanes] ⊆ L) : Only L R (dismount s t eject) := by
  refine hR.step ?_ hL
  unfold dismount
  repeat' first
    | dsimp only
    | with_reducible exact .refl
    | with_reducible refine .ite ?_ ?_
    | (with_reducible apply setLane_only <;> [skip; decide])
    | (with_reducible apply updXp_only <;> [skip; decide])
    | (with_reducible apply raise_only <;> [skip; decide])
    | with_reducible refine .foldl (fun _ _ => ?_) _ ?_
    | simp (disch := (intro (q : Part) hq; cases q <;> first | (simp [Part.same, fnOf]; done) | exact absurd (by decide) hq)) only
        [Only.mk_iff]

theorem unmountEnd_only {L R s t c n written} (hR : Only L R s)
    (hL : [.outputs, .rings, .commands, .events, .contexts, .headwind, .streams, .transports, .lanes, .peripherals] ⊆ L) :
    Only L R (unmountEnd s t c n written) := by
  refine hR.step ?_ hL
  unfold unmountEnd
  repeat' first
    | dsimp only
    | with_reducible exact .refl
    | with_reducible refine .ite ?_ ?_
    | (with_reducible apply dismount_only <;> [skip; decide])
    | (with_reducible apply complete_only <;> [skip; decide])
    | (with_reducible apply storeCm_only <;> [skip; decide])
    | (with_reducible apply endSettling_only <;> [skip; decide])

theorem unmountGo_only {L R s t c n cmOk} (hR : Only L R s)
    (hL : [.outputs, .rings, .commands, .events, .contexts, .headwind, .streams, .transports, .lanes, .peripherals, .faults]
      ⊆ L) :
    Only L R (unmountGo s t c n cmOk) := by
  refine hR.step ?_ hL
  unfold unmountGo
  repeat' first
    | dsimp only
    | with_reducible exact .refl
    | with_reducible refine .ite ?_ ?_
    | (with_reducible apply cmFail_only <;> [skip; decide])
    | (with_reducible apply unmountEnd_only <;> [skip; decide])
    | (with_reducible apply closePart_only <;> [skip; decide])
    | (with_reducible apply endSettling_only <;> [skip; decide])
    | (with_reducible apply dismount_only <;> [skip; decide])
    | (with_reducible apply complete_only <;> [skip; decide])
    | split

theorem cmResume_only {L R s t id} (hR : Only L R s)
    (hL : [.outputs, .rings, .commands, .events, .contexts, .headwind, .streams, .transports, .lanes, .mailboxData,
      .peripherals] ⊆ L) :
    Only L R (cmResume s t id) := by
  refine hR.step ?_ hL
  unfold cmResume
  repeat' first
    | dsimp only
    | with_reducible exact .refl
    | with_reducible refine .ite ?_ ?_
    | (with_reducible apply storeCm_only <;> [skip; decide])
    | (with_reducible apply unmountEnd_only <;> [skip; decide])
    | (with_reducible apply mountGo_only <;> [skip; decide])
    | split

theorem cmGiveUp_only {L R s t id} (hR : Only L R s)
    (hL : [.outputs, .rings, .commands, .events, .contexts, .headwind, .streams, .transports, .lanes, .peripherals] ⊆ L) :
    Only L R (cmGiveUp s t id) := by
  refine hR.step ?_ hL
  unfold cmGiveUp
  repeat' first
    | dsimp only
    | with_reducible exact .refl
    | with_reducible refine .ite ?_ ?_
    | (with_reducible apply updMount_only <;> [skip; decide])
    | (with_reducible apply unmountEnd_only <;> [skip; decide])
    | (with_reducible apply complete_only <;> [skip; decide])
    | split

theorem wakeLane_only {L R s l} (hR : Only L R s) (hL : [.lanes] ⊆ L) : Only L R (wakeLane s l) := by
  refine hR.step ?_ hL
  unfold wakeLane
  repeat' first
    | dsimp only
    | with_reducible exact .refl
    | with_reducible refine .ite ?_ ?_
    | (with_reducible apply setLane_only <;> [skip; decide])

theorem wakeLanes_only {L R s t} (hR : Only L R s) (hL : [.lanes] ⊆ L) : Only L R (wakeLanes s t) := by
  refine hR.step ?_ hL
  unfold wakeLanes
  repeat' first
    | dsimp only
    | with_reducible exact .refl
    | with_reducible refine .ite ?_ ?_
    | (with_reducible apply wakeLane_only <;> [skip; decide])
    | with_reducible refine .foldl (fun _ _ => ?_) _ ?_

theorem readBoundary_only {L R s t} (hR : Only L R s)
    (hL : [.contexts, .transports, .lanes, .pool] ⊆ L) : Only L R (readBoundary s t) := by
  refine hR.step ?_ hL
  unfold readBoundary
  repeat' first
    | dsimp only
    | with_reducible exact .refl
    | with_reducible refine .ite ?_ ?_
    | (with_reducible apply updXp_only <;> [skip; decide])
    | (with_reducible apply pushMax_only <;> [skip; decide])
    | (with_reducible apply recomputeXport_only <;> [skip; decide])
    | (with_reducible apply wakeLane_only <;> [skip; decide])
    | (with_reducible apply takeBlocks_only <;> [skip; decide])
    | with_reducible refine .foldl (fun _ _ => ?_) _ ?_

theorem moveTape_only {L R s t p n} (hR : Only L R s) (hL : [.transports, .pool] ⊆ L) : Only L R (moveTape s t p n) := by
  refine hR.step ?_ hL
  unfold moveTape
  repeat' first
    | dsimp only
    | with_reducible exact .refl
    | with_reducible refine .ite ?_ ?_
    | (with_reducible apply takeBlocks_only <;> [skip; decide])
    | (with_reducible apply updXp_only <;> [skip; decide])

theorem followTape_only {L R s t} (hR : Only L R s) (hL : [.transports, .lanes] ⊆ L) : Only L R (followTape s t) := by
  refine hR.step ?_ hL
  unfold followTape
  repeat' first
    | dsimp only
    | with_reducible exact .refl
    | with_reducible refine .ite ?_ ?_
    | (with_reducible apply updXp_only <;> [skip; decide])
    | (with_reducible apply wakeLanes_only <;> [skip; decide])
    | split

theorem takeTape_only {L R s t id} (hR : Only L R s) (hL : [.transports] ⊆ L) : Only L R (takeTape s t id).2 := by
  refine hR.step ?_ hL
  unfold takeTape
  repeat' first
    | dsimp only
    | with_reducible exact .refl
    | with_reducible refine .ite ?_ ?_
    | (with_reducible apply closeDataset_only <;> [skip; decide])
    | split

theorem takeTape_pair {L R s t id i z} (h : takeTape s t id = (i, z)) (hR : Only L R s)
    (hL : [.transports] ⊆ L) : Only L R z := by
  have := takeTape_only (s := s) (t := t) (id := id) hR hL
  rwa [h] at this

theorem waitTape_only {L R s c} (hR : Only L R s) (hL : [.commands] ⊆ L) : Only L R (waitTape s c) := by
  refine hR.step ?_ hL
  unfold waitTape
  repeat' first
    | dsimp only
    | with_reducible exact .refl
    | with_reducible refine .ite ?_ ?_
    | (with_reducible apply setProg_only <;> [skip; decide])
    | split

theorem restTape_only {L R s t} (hR : Only L R s) (hL : [.transports] ⊆ L) : Only L R (restTape s t) := by
  refine hR.step ?_ hL
  unfold restTape
  repeat' first
    | dsimp only
    | with_reducible exact .refl
    | with_reducible refine .ite ?_ ?_
    | (with_reducible apply updXp_only <;> [skip; decide])

theorem notePins_only {L R s t r} (hR : Only L R s) (hL : [.lanes, .pool] ⊆ L) : Only L R (notePins s t r) := by
  refine hR.step ?_ hL
  unfold notePins
  repeat' first
    | dsimp only
    | with_reducible exact .refl
    | with_reducible refine .ite ?_ ?_
    | (with_reducible apply setLane_only <;> [skip; decide])
    | with_reducible refine .foldl (fun _ _ => ?_) _ ?_
    | simp (disch := (intro (q : Part) hq; cases q <;> first | (simp [Part.same, fnOf]; done) | exact absurd (by decide) hq)) only
        [Only.mk_iff]

theorem countRecover_only {L R s t n r} (hR : Only L R s)
    (hL : [.outputs, .events, .transports, .faults] ⊆ L) : Only L R (countRecover s t n r) := by
  refine hR.step ?_ hL
  unfold countRecover
  repeat' first
    | dsimp only
    | with_reducible exact .refl
    | with_reducible refine .ite ?_ ?_
    | (with_reducible apply faultSpent_only <;> [skip; decide])
    | (with_reducible apply updXp_only <;> [skip; decide])
    | split

theorem retryDs_only {L R s t p n} (hR : Only L R s) (hL : [.transports, .faults] ⊆ L) : Only L R (retryDs s t p n).2 := by
  refine hR.step ?_ hL
  unfold retryDs
  repeat' first
    | dsimp only
    | with_reducible exact .refl
    | with_reducible refine .ite ?_ ?_
    | (with_reducible apply updXp_only <;> [skip; decide])
    | (with_reducible apply countFault_only <;> [skip; decide])
    | split

theorem retryDs_pair {L R s t p n i z} (h : retryDs s t p n = (i, z)) (hR : Only L R s)
    (hL : [.transports, .faults] ⊆ L) : Only L R z := by
  have := retryDs_only (s := s) (t := t) (p := p) (n := n) hR hL
  rwa [h] at this

theorem settleDs_only {L R s t n good} (hR : Only L R s)
    (hL : [.transports, .faults] ⊆ L) : Only L R (settleDs s t n good) := by
  refine hR.step ?_ hL
  unfold settleDs
  repeat' first
    | dsimp only
    | with_reducible exact .refl
    | with_reducible refine .ite ?_ ?_
    | (with_reducible apply updXp_only <;> [skip; decide])
    | (with_reducible apply countFault_only <;> [skip; decide])
    | split

theorem releaseRestored_only {L R s t part lo} (hR : Only L R s)
    (hL : [.transports] ⊆ L) : Only L R (releaseRestored s t part lo) := by
  refine hR.step ?_ hL
  unfold releaseRestored
  repeat' first
    | dsimp only
    | with_reducible exact .refl
    | with_reducible refine .ite ?_ ?_
    | (with_reducible apply updXp_only <;> [skip; decide])

theorem endRead_only {L R s c t k} (hR : Only L R s)
    (hL : [.outputs, .rings, .commands, .events, .contexts, .headwind, .transports] ⊆ L) : Only L R (endRead s c t k) := by
  refine hR.step ?_ hL
  unfold endRead
  repeat' first
    | dsimp only
    | with_reducible exact .refl
    | with_reducible refine .ite ?_ ?_
    | (with_reducible apply complete_only <;> [skip; decide])
    | (with_reducible apply restTape_only <;> [skip; decide])
    | (with_reducible apply updXp_only <;> [skip; decide])

theorem restoreRetry_some {L R s c st need z} (h : restoreRetry s c st need = some z) (hR : Only L R s)
    (hL : [.commands, .transports, .pool, .faults] ⊆ L) : Only L R z := by
  refine hR.step ?_ hL
  unfold restoreRetry at h
  repeat' first
    | dsimp only at h
    | split at h
    | (cases h)
    | with_reducible exact .refl
    | (with_reducible apply moveTape_only <;> [skip; decide])
    | (with_reducible apply updXp_only <;> [skip; decide])
    | (with_reducible apply countFault_only <;> [skip; decide])
    | (with_reducible apply setProg_only <;> [skip; decide])

theorem hdrFault_only {L R s c st need d n} (hR : Only L R s)
    (hL : [.outputs, .rings, .commands, .events, .contexts, .headwind, .transports, .pool, .faults] ⊆ L) :
    Only L R (hdrFault s c st need d n) := by
  refine hR.step ?_ hL
  unfold hdrFault
  repeat' first
    | dsimp only
    | with_reducible exact .refl
    | with_reducible refine .ite ?_ ?_
    | (with_reducible apply endRead_only <;> [skip; decide])
    | (with_reducible apply faultSpent_only <;> [skip; decide])
    | with_reducible refine restoreRetry_some (by assumption) ?_ (by decide)
    | split

theorem setOut_only {L R s t p l} (hR : Only L R s) (hL : [.transports, .pool] ⊆ L) : Only L R (setOut s t p l) := by
  refine hR.step ?_ hL
  unfold setOut
  repeat' first
    | dsimp only
    | with_reducible exact .refl
    | with_reducible refine .ite ?_ ?_
    | (with_reducible apply moveTape_only <;> [skip; decide])

theorem readStep_only {L R s c st} (hR : Only L R s)
    (hL : [.outputs, .rings, .commands, .events, .contexts, .headwind, .transports, .pool, .faults] ⊆ L) :
    Only L R (readStep s c st) := by
  refine hR.step ?_ hL
  unfold readStep
  repeat' first
    | dsimp only
    | with_reducible exact .refl
    | with_reducible refine .ite ?_ ?_
    | (with_reducible apply setProg_only <;> [skip; decide])
    | (with_reducible apply hdrFault_only <;> [skip; decide])
    | (with_reducible apply setOut_only <;> [skip; decide])
    | (with_reducible apply releaseRestored_only <;> [skip; decide])
    | (with_reducible apply endRead_only <;> [skip; decide])
    | with_reducible refine .foldl (fun _ _ => ?_) _ ?_
    | split

theorem returnRec_only {L R s c k st r status data} (hR : Only L R s)
    (hL : [.outputs, .rings, .commands, .events, .contexts, .headwind, .streams, .transports, .pool, .mailboxData, .faults]
      ⊆ L) :
    Only L R (returnRec s c k st r status data) := by
  refine hR.step ?_ hL
  unfold returnRec
  repeat' first
    | dsimp only
    | with_reducible exact .refl
    | with_reducible refine .ite ?_ ?_
    | (with_reducible apply readStep_only <;> [skip; decide])
    | (with_reducible apply endRead_only <;> [skip; decide])
    | (with_reducible apply setProg_only <;> [skip; decide])
    | (with_reducible apply updStrm_only <;> [skip; decide])
    | (with_reducible apply cmdWrite_only <;> [skip; decide])
    | (with_reducible apply cmdScatter_only <;> [skip; decide])
    | (with_reducible apply countFault_only <;> [skip; decide])
    | with_reducible refine .elim ?_ fun _ => ?_
    | split

theorem openSpent_only {L R s c st r status ev} (hR : Only L R s)
    (hL : [.outputs, .events, .faults] ⊆ L) : Only L R (openSpent s c st r status ev) := by
  refine hR.step ?_ hL
  unfold openSpent
  repeat' first
    | dsimp only
    | with_reducible exact .refl
    | with_reducible refine .ite ?_ ?_
    | (with_reducible apply faultSpent_only <;> [skip; decide])

theorem restoreFault_only {L R s c k st r seen ev} (hR : Only L R s)
    (hL : [.outputs, .rings, .commands, .events, .contexts, .headwind, .streams, .transports, .pool, .mailboxData, .faults]
      ⊆ L) :
    Only L R (restoreFault s c k st r seen ev) := by
  refine hR.step ?_ hL
  unfold restoreFault
  repeat' first
    | dsimp only
    | with_reducible exact .refl
    | with_reducible refine .ite ?_ ?_
    | (with_reducible apply returnRec_only <;> [skip; decide])
    | (with_reducible apply faultSpent_only <;> [skip; decide])
    | with_reducible refine restoreRetry_some (by assumption) ?_ (by decide)
    | split

theorem foldl_scan_only {α β : Type} {l : List Part} {s : State} (f : State × β → α → State × β)
    (hf : ∀ q r, Only l q.1 (f q r).1) (xs : List α) (q : State × β) (h : Only l s q.1) : Only l s (xs.foldl f q).1 := by
  induction xs generalizing q with
  | nil => exact h
  | cons x r ih => exact ih _ (h.trans (hf q x))

theorem scanTags_only {L R s c st x ds rep} (hR : Only L R s)
    (hL : [.outputs, .events, .faults] ⊆ L) : Only L R (scanTags s c st x ds rep).1 := by
  refine hR.step ?_ hL
  unfold scanTags
  split
  · refine foldl_scan_only _ (fun q r => ?_) _ _ .refl
    split
    · exact .refl
    · exact openSpent_only (countFault_only .refl (by decide)) (by decide)
  · exact .refl

theorem endScan_only {L R s c k st rep} (hR : Only L R s)
    (hL : [.outputs, .rings, .commands, .events, .contexts, .headwind, .streams, .transports, .mailboxData] ⊆ L) :
    Only L R (endScan s c k st rep) := by
  refine hR.step ?_ hL
  unfold endScan
  repeat' first
    | dsimp only
    | with_reducible exact .refl
    | with_reducible refine .ite ?_ ?_
    | (with_reducible apply answer_only <;> [skip; decide])
    | (with_reducible apply restTape_only <;> [skip; decide])
    | (with_reducible apply updStrm_only <;> [skip; decide])

theorem addRestored_only {L R s t part n r need} (hR : Only L R s)
    (hL : [.transports] ⊆ L) : Only L R (addRestored s t part n r need) := by
  refine hR.step ?_ hL
  unfold addRestored
  repeat' first
    | dsimp only
    | with_reducible exact .refl
    | with_reducible refine .ite ?_ ?_
    | (with_reducible apply updXp_only <;> [skip; decide])

theorem recoverLater_some {L R s t p n r z} (h : recoverLater s t p n r = some z) (hR : Only L R s)
    (hL : [.transports, .faults] ⊆ L) : Only L R z := by
  refine hR.step ?_ hL
  unfold recoverLater at h
  repeat' first
    | dsimp only at h
    | split at h
    | (cases h)
    | with_reducible exact .refl
    | with_reducible refine .ite ?_ ?_
    | (with_reducible apply updXp_only <;> [skip; decide])
    | (with_reducible apply retryDs_only <;> [skip; decide])

theorem startJob_only {L R s c inSgl outSgl j} (hR : Only L R s)
    (hL : [.outputs, .rings, .commands, .events, .contexts, .headwind, .jobs] ⊆ L) :
    Only L R (startJob s c inSgl outSgl j) := by
  refine hR.step ?_ hL
  unfold startJob
  repeat' first
    | dsimp only
    | with_reducible exact .refl
    | with_reducible refine .ite ?_ ?_
    | (with_reducible apply setProg_only <;> [skip; decide])
    | (with_reducible apply cmdRead_only <;> [skip; decide])
    | (with_reducible apply complete_only <;> [skip; decide])
    | with_reducible refine .foldl (fun _ _ => ?_) _ ?_
    | simp (disch := (intro (q : Part) hq; cases q <;> first | (simp [Part.same, fnOf]; done) | exact absurd (by decide) hq)) only
        [Only.mk_iff]
    | split

theorem secondDecode_only {L R s c j r o} (hR : Only L R s)
    (hL : [.outputs, .events, .faults] ⊆ L) : Only L R (secondDecode s c j r o).1 := by
  refine hR.step ?_ hL
  unfold secondDecode
  repeat' first
    | dsimp only
    | with_reducible exact .refl
    | with_reducible refine .ite ?_ ?_
    | (with_reducible apply faultSpent_only <;> [skip; decide])
    | (with_reducible apply countFault_only <;> [skip; decide])
    | split

theorem leaveLane_only {L R s id j o} (hR : Only L R s)
    (hL : [.free, .outputs, .functions, .link, .rings, .commands, .ringLog, .events, .contexts, .headwind, .streams,
      .transports, .jobs, .mailboxData, .timeBase, .engines, .firmware] ⊆ L) :
    Only L R (leaveLane s id j o) := by
  refine hR.step ?_ hL
  unfold leaveLane
  repeat' first
    | dsimp only
    | with_reducible exact .refl
    | with_reducible refine .ite ?_ ?_
    | (with_reducible apply resumeSwitch_only <;> [skip; decide])
    | (with_reducible apply uncount_only <;> [skip; decide])
    | simp (disch := (intro (q : Part) hq; cases q <;> first | (simp [Part.same, fnOf]; done) | exact absurd (by decide) hq)) only
        [Only.mk_iff]

end Sys2Proof.Machine
end

