-- ==== Sys2Proof/Laws/FramesSystem.lean ====
section
/-! SUPPORT. Frames of blocks, servo, firmware, telemetry, the time base, BAR0 and the SMP: which parts of the
state each operation may change, one lemma per operation, in the form in which such lemmas chain. -/

namespace Sys2Proof.Machine

theorem calibrated_only {L R s t} (hR : Only L R s) (hL : [.transports] ⊆ L) : Only L R (calibrated s t) := by
  refine hR.step ?_ hL
  unfold calibrated
  repeat' first
    | dsimp only
    | with_reducible exact .refl
    | with_reducible refine .ite ?_ ?_
    | (with_reducible apply updXp_only <;> [skip; decide])

theorem startedUp_only {L R s t responds} (hR : Only L R s) (hL : [.transports] ⊆ L) : Only L R (startedUp s t responds) := by
  refine hR.step ?_ hL
  unfold startedUp
  repeat' first
    | dsimp only
    | with_reducible exact .refl
    | with_reducible refine .ite ?_ ?_
    | (with_reducible apply updXp_only <;> [skip; decide])
    | (with_reducible apply calibrated_only <;> [skip; decide])

theorem storeLoops_only {L R s t} (hR : Only L R s) (hL : [.free, .firmware] ⊆ L) : Only L R (storeLoops s t) := by
  refine hR.step ?_ hL
  unfold storeLoops
  repeat' first
    | dsimp only
    | with_reducible exact .refl
    | with_reducible refine .ite ?_ ?_
    | with_reducible refine .foldl (fun _ _ => ?_) _ ?_
    | simp (disch := (intro (q : Part) hq; cases q <;> first | (simp [Part.same, fnOf]; done) | exact absurd (by decide) hq)) only
        [Only.mk_iff]

theorem calibrateDone_only {L R s t p kind} (hR : Only L R s)
    (hL : [.free, .outputs, .events, .transports, .firmware] ⊆ L) : Only L R (calibrateDone s t p kind) := by
  refine hR.step ?_ hL
  unfold calibrateDone
  repeat' first
    | dsimp only
    | with_reducible exact .refl
    | with_reducible refine .ite ?_ ?_
    | (with_reducible apply raise_only <;> [skip; decide])
    | (with_reducible apply updXp_only <;> [skip; decide])
    | (with_reducible apply calibrated_only <;> [skip; decide])
    | (with_reducible apply storeLoops_only <;> [skip; decide])
    | (with_reducible apply startedUp_only <;> [skip; decide])
    | simp (disch := (intro (q : Part) hq; cases q <;> first | (simp [Part.same, fnOf]; done) | exact absurd (by decide) hq)) only
        [Only.mk_iff]

theorem noteLoss_only {L R s t} (hR : Only L R s) (hL : [.transports] ⊆ L) : Only L R (noteLoss s t) := by
  refine hR.step ?_ hL
  unfold noteLoss
  repeat' first
    | dsimp only
    | with_reducible exact .refl
    | with_reducible refine .ite ?_ ?_
    | (with_reducible apply updXp_only <;> [skip; decide])

theorem judgeServo_only {L R s t} (hR : Only L R s)
    (hL : [.outputs, .events, .transports] ⊆ L) : Only L R (judgeServo s t) := by
  refine hR.step ?_ hL
  unfold judgeServo
  repeat' first
    | dsimp only
    | with_reducible exact .refl
    | with_reducible refine .ite ?_ ?_
    | (with_reducible apply setCause_only <;> [skip; decide])
    | (with_reducible apply noteLoss_only <;> [skip; decide])
    | split

theorem gather_only {L R s t f} (hR : Only L R s) (hL : [.telemetry] ⊆ L) : Only L R (gather s t f) := by
  refine hR.step ?_ hL
  unfold gather
  repeat' first
    | dsimp only
    | with_reducible exact .refl
    | with_reducible refine .ite ?_ ?_
    | simp (disch := (intro (q : Part) hq; cases q <;> first | (simp [Part.same, fnOf]; done) | exact absurd (by decide) hq)) only
        [Only.mk_iff]

theorem noteMissing_only {L R s t gone} (hR : Only L R s) (hL : [.telemetry] ⊆ L) : Only L R (noteMissing s t gone) := by
  refine hR.step ?_ hL
  unfold noteMissing
  repeat' first
    | dsimp only
    | with_reducible exact .refl
    | with_reducible refine .ite ?_ ?_
    | simp (disch := (intro (q : Part) hq; cases q <;> first | (simp [Part.same, fnOf]; done) | exact absurd (by decide) hq)) only
        [Only.mk_iff]

theorem statusReads_only {L R s t} (hR : Only L R s)
    (hL : [.free, .outputs, .peripherals] ⊆ L) : Only L R (statusReads s t) := by
  refine hR.step ?_ hL
  unfold statusReads
  repeat' first
    | dsimp only
    | with_reducible exact .refl
    | with_reducible refine .ite ?_ ?_
    | (with_reducible apply pspQueue_only <;> [skip; decide])
    | (with_reducible apply drawFree_only <;> [skip; decide])

theorem recognised_only {L R s w} (hR : Only L R s) (hL : [.free] ⊆ L) : Only L R (recognised s w).2 := by
  refine hR.step ?_ hL
  unfold recognised
  repeat' first
    | dsimp only
    | with_reducible exact .refl
    | with_reducible refine .ite ?_ ?_
    | (with_reducible apply drawFree_only <;> [skip; decide])
    | split

theorem recognised_pair {L R s w i z} (h : recognised s w = (i, z)) (hR : Only L R s)
    (hL : [.free] ⊆ L) : Only L R z := by
  have := recognised_only (s := s) (w := w) hR hL
  rwa [h] at this

theorem clearWflt_only {L R s t} (hR : Only L R s) (hL : [.outputs, .events, .transports] ⊆ L) : Only L R (clearWflt s t) := by
  refine hR.step ?_ hL
  unfold clearWflt
  repeat' first
    | dsimp only
    | with_reducible exact .refl
    | with_reducible refine .ite ?_ ?_
    | (with_reducible apply setCause_only <;> [skip; decide])
    | (with_reducible apply updXp_only <;> [skip; decide])

theorem writeCause_only {L R s t v} (hR : Only L R s)
    (hL : [.outputs, .events, .transports] ⊆ L) : Only L R (writeCause s t v) := by
  refine hR.step ?_ hL
  unfold writeCause
  repeat' first
    | dsimp only
    | with_reducible exact .refl
    | with_reducible refine .ite ?_ ?_
    | (with_reducible apply clearWflt_only <;> [skip; decide])
    | (with_reducible apply updXp_only <;> [skip; decide])
    | split

theorem stageDone_only {L R s o} (hR : Only L R s)
    (hL : [.outputs, .rings, .commands, .events, .contexts, .headwind, .firmware] ⊆ L) : Only L R (stageDone s o) := by
  refine hR.step ?_ hL
  unfold stageDone
  repeat' first
    | dsimp only
    | with_reducible exact .refl
    | with_reducible refine .ite ?_ ?_
    | (with_reducible apply complete_only <;> [skip; decide])
    | with_reducible refine .elim ?_ fun _ => ?_
    | simp (disch := (intro (q : Part) hq; cases q <;> first | (simp [Part.same, fnOf]; done) | exact absurd (by decide) hq)) only
        [Only.mk_iff]

theorem resumeUpdate_only {L R s} (hR : Only L R s)
    (hL : [.free, .outputs, .functions, .link, .rings, .commands, .ringLog, .events, .contexts, .headwind, .streams,
      .transports, .jobs, .mailboxData, .timeBase, .firmware] ⊆ L) :
    Only L R (resumeUpdate s) := by
  refine hR.step ?_ hL
  unfold resumeUpdate
  repeat' first
    | dsimp only
    | with_reducible exact .refl
    | with_reducible refine .ite ?_ ?_
    | (with_reducible apply resumeSwitch_only <;> [skip; decide])
    | (with_reducible apply trySwitch_only <;> [skip; decide])
    | split

theorem startFirmware_only {L R s r img bytes} (hR : Only L R s)
    (hL : [.outputs, .link, .events, .keySlots, .nonces, .transports, .pool, .peripherals, .engines, .thermal, .firmware] ⊆
      L) :
    Only L R (startFirmware s r img bytes) := by
  refine hR.step ?_ hL
  unfold startFirmware
  repeat' first
    | dsimp only
    | with_reducible exact .refl
    | with_reducible refine .ite ?_ ?_
    | (with_reducible apply firmwareStarts_only <;> [skip; decide])
    | (with_reducible apply raiseAttn_only <;> [skip; decide])
    | with_reducible refine .elim ?_ fun _ => ?_
    | simp (disch := (intro (q : Part) hq; cases q <;> first | (simp [Part.same, fnOf]; done) | exact absurd (by decide) hq)) only
        [Only.mk_iff]

theorem logBoot_only {L R s r} (hR : Only L R s) (hL : [.outputs, .events, .firmware] ⊆ L) : Only L R (logBoot s r) := by
  refine hR.step ?_ hL
  unfold logBoot
  repeat' first
    | dsimp only
    | with_reducible exact .refl
    | with_reducible refine .ite ?_ ?_
    | (with_reducible apply logUpdate_only <;> [skip; decide])

theorem dropGates_only {L R s} (hR : Only L R s) (hL : [.transports, .firmware] ⊆ L) : Only L R (dropGates s) := by
  refine hR.step ?_ hL
  unfold dropGates
  repeat' first
    | dsimp only
    | with_reducible exact .refl
    | with_reducible refine .ite ?_ ?_
    | simp (disch := (intro (q : Part) hq; cases q <;> first | (simp [Part.same, fnOf]; done) | exact absurd (by decide) hq)) only
        [Only.mk_iff]

theorem closePeriod_only {L R s k} (hR : Only L R s) (hL : [.free, .telemetry] ⊆ L) : Only L R (closePeriod s k) := by
  refine hR.step ?_ hL
  unfold closePeriod
  repeat' first
    | dsimp only
    | with_reducible exact .refl
    | with_reducible refine .ite ?_ ?_
    | simp (disch := (intro (q : Part) hq; cases q <;> first | (simp [Part.same, fnOf]; done) | exact absurd (by decide) hq)) only
        [Only.mk_iff]
    | split

theorem stopStream_only {L R s k} (hR : Only L R s)
    (hL : [.copyEngine, .telemetry, .timeBase] ⊆ L) : Only L R (stopStream s k) := by
  refine hR.step ?_ hL
  unfold stopStream
  repeat' first
    | dsimp only
    | with_reducible exact .refl
    | with_reducible refine .ite ?_ ?_
    | (with_reducible apply setAce_only <;> [skip; decide])
    | simp (disch := (intro (q : Part) hq; cases q <;> first | (simp [Part.same, fnOf]; done) | exact absurd (by decide) hq)) only
        [Only.mk_iff]

theorem startStream_only {L R s k c} (hR : Only L R s)
    (hL : [.copyEngine, .telemetry, .timeBase] ⊆ L) : Only L R (startStream s k c) := by
  refine hR.step ?_ hL
  unfold startStream
  repeat' first
    | dsimp only
    | with_reducible exact .refl
    | with_reducible refine .ite ?_ ?_
    | (with_reducible apply setAce_only <;> [skip; decide])
    | simp (disch := (intro (q : Part) hq; cases q <;> first | (simp [Part.same, fnOf]; done) | exact absurd (by decide) hq)) only
        [Only.mk_iff]

theorem setPps_only {L R s p} (hR : Only L R s) (hL : [.outputs, .events, .timeBase] ⊆ L) : Only L R (setPps s p) := by
  refine hR.step ?_ hL
  unfold setPps
  repeat' first
    | dsimp only
    | with_reducible exact .refl
    | with_reducible refine .ite ?_ ?_
    | (with_reducible apply raise_only <;> [skip; decide])
    | simp (disch := (intro (q : Part) hq; cases q <;> first | (simp [Part.same, fnOf]; done) | exact absurd (by decide) hq)) only
        [Only.mk_iff]

theorem acquire_only {L R s} (hR : Only L R s) (hL : [.outputs, .events, .timeBase] ⊆ L) : Only L R (acquire s) := by
  refine hR.step ?_ hL
  unfold acquire
  repeat' first
    | dsimp only
    | with_reducible exact .refl
    | with_reducible refine .ite ?_ ?_
    | (with_reducible apply setPps_only <;> [skip; decide])
    | simp (disch := (intro (q : Part) hq; cases q <;> first | (simp [Part.same, fnOf]; done) | exact absurd (by decide) hq)) only
        [Only.mk_iff]

theorem fireTimer_only {L R s k} (hR : Only L R s) (hL : [.free, .copyEngine, .telemetry] ⊆ L) : Only L R (fireTimer s k) := by
  refine hR.step ?_ hL
  unfold fireTimer
  repeat' first
    | dsimp only
    | with_reducible exact .refl
    | with_reducible refine .ite ?_ ?_
    | (with_reducible apply fireSource_only <;> [skip; decide])
    | (with_reducible apply closePeriod_only <;> [skip; decide])

theorem risePpsOut_only {L R s} (hR : Only L R s) (hL : [.timeBase] ⊆ L) : Only L R (risePpsOut s) := by
  refine hR.step ?_ hL
  unfold risePpsOut
  repeat' first
    | dsimp only
    | with_reducible exact .refl
    | with_reducible refine .ite ?_ ?_
    | simp (disch := (intro (q : Part) hq; cases q <;> first | (simp [Part.same, fnOf]; done) | exact absurd (by decide) hq)) only
        [Only.mk_iff]

theorem stepForward_only {L R s t0 d} (hR : Only L R s)
    (hL : [.free, .copyEngine, .telemetry, .timeBase] ⊆ L) : Only L R (stepForward s t0 d) := by
  refine hR.step ?_ hL
  unfold stepForward
  repeat' first
    | dsimp only
    | with_reducible exact .refl
    | with_reducible refine .ite ?_ ?_
    | (with_reducible apply risePpsOut_only <;> [skip; decide])
    | (with_reducible apply fireTimer_only <;> [skip; decide])
    | with_reducible refine .foldl (fun _ _ => ?_) _ ?_
    | simp (disch := (intro (q : Part) hq; cases q <;> first | (simp [Part.same, fnOf]; done) | exact absurd (by decide) hq)) only
        [Only.mk_iff]

theorem stepTime_only {L R s d} (hR : Only L R s)
    (hL : [.free, .outputs, .events, .copyEngine, .telemetry, .timeBase] ⊆ L) : Only L R (stepTime s d) := by
  refine hR.step ?_ hL
  unfold stepTime
  repeat' first
    | dsimp only
    | with_reducible exact .refl
    | with_reducible refine .ite ?_ ?_
    | (with_reducible apply raise_only <;> [skip; decide])
    | (with_reducible apply stepForward_only <;> [skip; decide])
    | simp (disch := (intro (q : Part) hq; cases q <;> first | (simp [Part.same, fnOf]; done) | exact absurd (by decide) hq)) only
        [Only.mk_iff]

theorem stepBySet_only {L R s d} (hR : Only L R s)
    (hL : [.free, .outputs, .events, .copyEngine, .telemetry, .timeBase] ⊆ L) : Only L R (stepBySet s d) := by
  refine hR.step ?_ hL
  unfold stepBySet
  repeat' first
    | dsimp only
    | with_reducible exact .refl
    | with_reducible refine .ite ?_ ?_
    | (with_reducible apply acquire_only <;> [skip; decide])
    | (with_reducible apply stepTime_only <;> [skip; decide])

theorem setAtEdge_only {L R s} (hR : Only L R s)
    (hL : [.free, .outputs, .rings, .commands, .events, .contexts, .headwind, .copyEngine, .telemetry, .timeBase] ⊆ L) :
    Only L R (setAtEdge s) := by
  refine hR.step ?_ hL
  unfold setAtEdge
  repeat' first
    | dsimp only
    | with_reducible exact .refl
    | with_reducible refine .ite ?_ ?_
    | (with_reducible apply stepBySet_only <;> [skip; decide])
    | (with_reducible apply complete_only <;> [skip; decide])
    | simp (disch := (intro (q : Part) hq; cases q <;> first | (simp [Part.same, fnOf]; done) | exact absurd (by decide) hq)) only
        [Only.mk_iff]
    | split

theorem acceptEdge_only {L R s o} (hR : Only L R s)
    (hL : [.outputs, .events, .copyEngine, .timeBase] ⊆ L) : Only L R (acceptEdge s o) := by
  refine hR.step ?_ hL
  unfold acceptEdge
  repeat' first
    | dsimp only
    | with_reducible exact .refl
    | with_reducible refine .ite ?_ ?_
    | (with_reducible apply fireSource_only <;> [skip; decide])
    | (with_reducible apply setPps_only <;> [skip; decide])
    | (with_reducible apply acquire_only <;> [skip; decide])
    | simp (disch := (intro (q : Part) hq; cases q <;> first | (simp [Part.same, fnOf]; done) | exact absurd (by decide) hq)) only
        [Only.mk_iff]
    | split

theorem rejectEdge_only {L R s o gap} (hR : Only L R s)
    (hL : [.free, .outputs, .events, .copyEngine, .telemetry, .timeBase] ⊆ L) : Only L R (rejectEdge s o gap) := by
  refine hR.step ?_ hL
  unfold rejectEdge
  repeat' first
    | dsimp only
    | with_reducible exact .refl
    | with_reducible refine .ite ?_ ?_
    | (with_reducible apply stepTime_only <;> [skip; decide])
    | (with_reducible apply acquire_only <;> [skip; decide])
    | simp (disch := (intro (q : Part) hq; cases q <;> first | (simp [Part.same, fnOf]; done) | exact absurd (by decide) hq)) only
        [Only.mk_iff]

theorem writeTbuCfg_only {L R s v} (hR : Only L R s)
    (hL : [.outputs, .events, .timeBase] ⊆ L) : Only L R (writeTbuCfg s v) := by
  refine hR.step ?_ hL
  unfold writeTbuCfg
  repeat' first
    | dsimp only
    | with_reducible exact .refl
    | with_reducible refine .ite ?_ ?_
    | (with_reducible apply setPps_only <;> [skip; decide])
    | simp (disch := (intro (q : Part) hq; cases q <;> first | (simp [Part.same, fnOf]; done) | exact absurd (by decide) hq)) only
        [Only.mk_iff]

theorem writeTimer_only {L R s k isCtrl v} (hR : Only L R s) (hL : [.timeBase] ⊆ L) : Only L R (writeTimer s k isCtrl v) := by
  refine hR.step ?_ hL
  unfold writeTimer
  repeat' first
    | dsimp only
    | with_reducible exact .refl
    | with_reducible refine .ite ?_ ?_
    | simp (disch := (intro (q : Part) hq; cases q <;> first | (simp [Part.same, fnOf]; done) | exact absurd (by decide) hq)) only
        [Only.mk_iff]

theorem writeAlarm_only {L R s a v} (hR : Only L R s) (hL : [.timeBase] ⊆ L) : Only L R (writeAlarm s a v) := by
  refine hR.step ?_ hL
  unfold writeAlarm
  repeat' first
    | dsimp only
    | with_reducible exact .refl
    | with_reducible refine .ite ?_ ?_
    | simp (disch := (intro (q : Part) hq; cases q <;> first | (simp [Part.same, fnOf]; done) | exact absurd (by decide) hq)) only
        [Only.mk_iff]

theorem readTime_only {L R s} (hR : Only L R s) (hL : [.timeBase] ⊆ L) : Only L R (readTime s).2 := by
  refine hR.step ?_ hL
  unfold readTime
  repeat' first
    | dsimp only
    | with_reducible exact .refl
    | with_reducible refine .ite ?_ ?_
    | simp (disch := (intro (q : Part) hq; cases q <;> first | (simp [Part.same, fnOf]; done) | exact absurd (by decide) hq)) only
        [Only.mk_iff]

theorem readTime_pair {L R s i z} (h : readTime s = (i, z)) (hR : Only L R s)
    (hL : [.timeBase] ⊆ L) : Only L R z := by
  have := readTime_only (s := s) hR hL
  rwa [h] at this

theorem readFn_only {L R s fn off} (hR : Only L R s) (hL : [.functions] ⊆ L) : Only L R (readFn s fn off).2 := by
  refine hR.step ?_ hL
  unfold readFn
  repeat' first
    | dsimp only
    | with_reducible exact .refl
    | with_reducible refine .ite ?_ ?_
    | with_reducible refine setFn_kept rfl ?_ (by decide)
    | split

theorem readFn_pair {L R s fn off i z} (h : readFn s fn off = (i, z)) (hR : Only L R s)
    (hL : [.functions] ⊆ L) : Only L R z := by
  have := readFn_only (s := s) (fn := fn) (off := off) hR hL
  rwa [h] at this

theorem writeFn_only {L R s fn off v} (hR : Only L R s)
    (hL : [.functions, .config, .rings, .commands] ⊆ L) : Only L R (writeFn s fn off v) := by
  refine hR.step ?_ hL
  unfold writeFn
  repeat' first
    | dsimp only
    | with_reducible exact .refl
    | with_reducible refine .ite ?_ ?_
    | (with_reducible apply adminOff_only <;> [skip; decide])
    | (with_reducible apply adminOn_only <;> [skip; decide])
    | with_reducible refine setFn_kept rfl ?_ (by decide)
    | simp (disch := (intro (q : Part) hq; cases q <;> first | (simp [Part.same, fnOf]; done) | exact absurd (by decide) hq)) only
        [Only.mk_iff]
    | split

theorem writeMsix_only {L R s fn vec w v} (hR : Only L R s)
    (hL : [.outputs, .functions, .events] ⊆ L) : Only L R (writeMsix s fn vec w v) := by
  refine hR.step ?_ hL
  unfold writeMsix
  repeat' first
    | dsimp only
    | with_reducible exact .refl
    | with_reducible refine .ite ?_ ?_
    | with_reducible refine setFn_kept rfl ?_ (by decide)
    | (with_reducible apply flushPba_only <;> [skip; decide])

theorem writeSk_only {L R s fn slot off v} (hR : Only L R s)
    (hL : [.outputs, .rings, .events] ⊆ L) : Only L R (writeSk s fn slot off v) := by
  refine hR.step ?_ hL
  unfold writeSk
  repeat' first
    | dsimp only
    | with_reducible exact .refl
    | with_reducible refine .ite ?_ ?_
    | (with_reducible apply skCommit_only <;> [skip; decide])
    | (with_reducible apply updSk_only <;> [skip; decide])
    | split

theorem readEvr_only {L R s off} (hR : Only L R s) (hL : [.events] ⊆ L) : Only L R (readEvr s off).2 := by
  refine hR.step ?_ hL
  unfold readEvr
  repeat' first
    | dsimp only
    | with_reducible exact .refl
    | with_reducible refine .ite ?_ ?_
    | simp (disch := (intro (q : Part) hq; cases q <;> first | (simp [Part.same, fnOf]; done) | exact absurd (by decide) hq)) only
        [Only.mk_iff]
    | split

theorem readEvr_pair {L R s off i z} (h : readEvr s off = (i, z)) (hR : Only L R s)
    (hL : [.events] ⊆ L) : Only L R z := by
  have := readEvr_only (s := s) (off := off) hR hL
  rwa [h] at this

theorem writeRoute_only {L R s e w} (hR : Only L R s) (hL : [.events] ⊆ L) : Only L R (writeRoute s e w) := by
  refine hR.step ?_ hL
  unfold writeRoute
  repeat' first
    | dsimp only
    | with_reducible exact .refl
    | with_reducible refine .ite ?_ ?_
    | simp (disch := (intro (q : Part) hq; cases q <;> first | (simp [Part.same, fnOf]; done) | exact absurd (by decide) hq)) only
        [Only.mk_iff]

theorem writeEvr_only {L R s off v} (hR : Only L R s) (hL : [.events] ⊆ L) : Only L R (writeEvr s off v) := by
  refine hR.step ?_ hL
  unfold writeEvr
  repeat' first
    | dsimp only
    | with_reducible exact .refl
    | with_reducible refine .ite ?_ ?_
    | (with_reducible apply writeRoute_only <;> [skip; decide])
    | simp (disch := (intro (q : Part) hq; cases q <;> first | (simp [Part.same, fnOf]; done) | exact absurd (by decide) hq)) only
        [Only.mk_iff]

theorem readAceCh_only {L R s c r} (hR : Only L R s) (hL : [.copyEngine] ⊆ L) : Only L R (readAceCh s c r).2 := by
  refine hR.step ?_ hL
  unfold readAceCh
  repeat' first
    | dsimp only
    | with_reducible exact .refl
    | with_reducible refine .ite ?_ ?_
    | (with_reducible apply setAce_only <;> [skip; decide])
    | split

theorem readAceCh_pair {L R s c r i z} (h : readAceCh s c r = (i, z)) (hR : Only L R s)
    (hL : [.copyEngine] ⊆ L) : Only L R z := by
  have := readAceCh_only (s := s) (c := c) (r := r) hR hL
  rwa [h] at this

theorem readAce_only {L R s off} (hR : Only L R s) (hL : [.copyEngine] ⊆ L) : Only L R (readAce s off).2 := by
  refine hR.step ?_ hL
  unfold readAce
  repeat' first
    | dsimp only
    | with_reducible exact .refl
    | with_reducible refine .ite ?_ ?_
    | (with_reducible apply readAceCh_only <;> [skip; decide])
    | simp (disch := (intro (q : Part) hq; cases q <;> first | (simp [Part.same, fnOf]; done) | exact absurd (by decide) hq)) only
        [Only.mk_iff]
    | split

theorem readAce_pair {L R s off i z} (h : readAce s off = (i, z)) (hR : Only L R s)
    (hL : [.copyEngine] ⊆ L) : Only L R z := by
  have := readAce_only (s := s) (off := off) hR hL
  rwa [h] at this

theorem aceCtrl_only {L R w s c} (hR : Only L R s) (hL : [.outputs, .events, .copyEngine] ⊆ L) : Only L R (aceCtrl w s c) := by
  refine hR.step ?_ hL
  unfold aceCtrl
  repeat' first
    | dsimp only
    | with_reducible exact .refl
    | with_reducible refine .ite ?_ ?_
    | (with_reducible apply goChannel_only <;> [skip; decide])
    | (with_reducible apply armChannel_only <;> [skip; decide])
    | (with_reducible apply disarmChannel_only <;> [skip; decide])

theorem writeAce_only {L R s origin off v} (hR : Only L R s) (hL : [.free, .outputs, .events, .copyEngine, .gates] ⊆ L) :
    Only L R (writeAce s origin off v) := by
  refine hR.step ?_ hL
  unfold writeAce
  dsimp only
  refine .ite (refusePosted_only .refl (by decide)) (.ite .refl (.ite ?_ (.ite ?_ (.ite .refl (setAce_only .refl (by decide))))))
  · exact ctrlWrite_only (fun _ => aceCtrl_only .refl (by decide)) .refl (by decide)
  · simp (disch := (intro (q : Part) hq; cases q <;> first | (simp [Part.same, fnOf]; done) | exact absurd (by decide) hq)) only
      [Only.mk_iff]
    exact .refl

theorem tbuStatus_only {L R s} (hR : Only L R s) (hL : [.free] ⊆ L) : Only L R (tbuStatus s).2 := by
  refine hR.step ?_ hL
  unfold tbuStatus
  repeat' first
    | dsimp only
    | with_reducible exact .refl
    | with_reducible refine .ite ?_ ?_
    | (with_reducible apply drawFree_only <;> [skip; decide])

theorem tbuStatus_pair {L R s i z} (h : tbuStatus s = (i, z)) (hR : Only L R s)
    (hL : [.free] ⊆ L) : Only L R z := by
  have := tbuStatus_only (s := s) hR hL
  rwa [h] at this

theorem readTbu_only {L R s off} (hR : Only L R s) (hL : [.free, .timeBase] ⊆ L) : Only L R (readTbu s off).2 := by
  refine hR.step ?_ hL
  unfold readTbu
  repeat' first
    | dsimp only
    | with_reducible exact .refl
    | with_reducible refine .ite ?_ ?_
    | (with_reducible apply tbuStatus_only <;> [skip; decide])
    | (with_reducible apply readTime_only <;> [skip; decide])
    | simp (disch := (intro (q : Part) hq; cases q <;> first | (simp [Part.same, fnOf]; done) | exact absurd (by decide) hq)) only
        [Only.mk_iff]
    | split

theorem readTbu_pair {L R s off i z} (h : readTbu s off = (i, z)) (hR : Only L R s)
    (hL : [.free, .timeBase] ⊆ L) : Only L R z := by
  have := readTbu_only (s := s) (off := off) hR hL
  rwa [h] at this

theorem writeAlarmTime_only {L R s a r w} (hR : Only L R s) (hL : [.timeBase] ⊆ L) : Only L R (writeAlarmTime s a r w) := by
  refine hR.step ?_ hL
  unfold writeAlarmTime
  repeat' first
    | dsimp only
    | with_reducible exact .refl
    | with_reducible refine .ite ?_ ?_
    | simp (disch := (intro (q : Part) hq; cases q <;> first | (simp [Part.same, fnOf]; done) | exact absurd (by decide) hq)) only
        [Only.mk_iff]

theorem writeTbu_only {L R s off v} (hR : Only L R s)
    (hL : [.outputs, .events, .timeBase] ⊆ L) : Only L R (writeTbu s off v) := by
  refine hR.step ?_ hL
  unfold writeTbu
  repeat' first
    | dsimp only
    | with_reducible exact .refl
    | with_reducible refine .ite ?_ ?_
    | (with_reducible apply writeAlarmTime_only <;> [skip; decide])
    | (with_reducible apply writeAlarm_only <;> [skip; decide])
    | (with_reducible apply writeTimer_only <;> [skip; decide])
    | (with_reducible apply writeTbuCfg_only <;> [skip; decide])
    | simp (disch := (intro (q : Part) hq; cases q <;> first | (simp [Part.same, fnOf]; done) | exact absurd (by decide) hq)) only
        [Only.mk_iff]
    | split

theorem readGate_only {L R s off} (hR : Only L R s) (hL : [.gates] ⊆ L) : Only L R (readGate s off).2 := by
  refine hR.step ?_ hL
  unfold readGate
  repeat' first
    | dsimp only
    | with_reducible exact .refl
    | with_reducible refine .ite ?_ ?_
    | (with_reducible apply setGate_only <;> [skip; decide])
    | split

theorem readGate_pair {L R s off i z} (h : readGate s off = (i, z)) (hR : Only L R s)
    (hL : [.gates] ⊆ L) : Only L R z := by
  have := readGate_only (s := s) (off := off) hR hL
  rwa [h] at this

theorem writeGate_only {L R s off v} (hR : Only L R s) (hL : [.gates] ⊆ L) : Only L R (writeGate s off v) := by
  refine hR.step ?_ hL
  unfold writeGate
  repeat' first
    | dsimp only
    | with_reducible exact .refl
    | with_reducible refine .ite ?_ ?_
    | simp (disch := (intro (q : Part) hq; cases q <;> first | (simp [Part.same, fnOf]; done) | exact absurd (by decide) hq)) only
        [Only.mk_iff]

theorem writeWi_only {L R s t r v} (hR : Only L R s)
    (hL : [.outputs, .events, .transports] ⊆ L) : Only L R (writeWi s t r v) := by
  refine hR.step ?_ hL
  unfold writeWi
  repeat' first
    | dsimp only
    | with_reducible exact .refl
    | with_reducible refine .ite ?_ ?_
    | (with_reducible apply writeCause_only <;> [skip; decide])
    | (with_reducible apply setForce_only <;> [skip; decide])
    | (with_reducible apply updXp_only <;> [skip; decide])
    | split

theorem readDev_only {L R s off} (hR : Only L R s)
    (hL : [.free, .events, .copyEngine, .timeBase, .gates] ⊆ L) : Only L R (readDev s off).2 := by
  refine hR.step ?_ hL
  unfold readDev
  repeat' first
    | dsimp only
    | with_reducible exact .refl
    | with_reducible refine .ite ?_ ?_
    | (with_reducible apply readGate_only <;> [skip; decide])
    | (with_reducible apply readTbu_only <;> [skip; decide])
    | (with_reducible apply readAce_only <;> [skip; decide])
    | (with_reducible apply setGate_only <;> [skip; decide])
    | (with_reducible apply readEvr_only <;> [skip; decide])
    | split

theorem readDev_pair {L R s off i z} (h : readDev s off = (i, z)) (hR : Only L R s)
    (hL : [.free, .events, .copyEngine, .timeBase, .gates] ⊆ L) : Only L R z := by
  have := readDev_only (s := s) (off := off) hR hL
  rwa [h] at this

theorem writeDev_only {L R s origin off v} (hR : Only L R s)
    (hL : [.free, .outputs, .events, .transports, .copyEngine, .timeBase, .gates] ⊆ L) :
    Only L R (writeDev s origin off v) := by
  refine hR.step ?_ hL
  unfold writeDev
  repeat' first
    | dsimp only
    | with_reducible exact .refl
    | with_reducible refine .ite ?_ ?_
    | (with_reducible apply writeWi_only <;> [skip; decide])
    | (with_reducible apply writeGate_only <;> [skip; decide])
    | (with_reducible apply writeTbu_only <;> [skip; decide])
    | (with_reducible apply writeAce_only <;> [skip; decide])
    | (with_reducible apply writeEvr_only <;> [skip; decide])

theorem readBar0_only {L R s fn off} (hR : Only L R s)
    (hL : [.free, .functions, .events, .copyEngine, .timeBase, .gates] ⊆ L) : Only L R (readBar0 s fn off).2 := by
  refine hR.step ?_ hL
  unfold readBar0
  repeat' first
    | dsimp only
    | with_reducible exact .refl
    | with_reducible refine .ite ?_ ?_
    | (with_reducible apply readDev_only <;> [skip; decide])
    | (with_reducible apply readFn_only <;> [skip; decide])
    | split

theorem readBar0_pair {L R s fn off i z} (h : readBar0 s fn off = (i, z)) (hR : Only L R s)
    (hL : [.free, .functions, .events, .copyEngine, .timeBase, .gates] ⊆ L) : Only L R z := by
  have := readBar0_only (s := s) (fn := fn) (off := off) hR hL
  rwa [h] at this

theorem writeBar0_only {L R s fn off v} (hR : Only L R s)
    (hL : [.free, .outputs, .functions, .config, .link, .rings, .commands, .events, .contexts, .headwind, .transports,
      .copyEngine, .timeBase, .power, .gates] ⊆ L) :
    Only L R (writeBar0 s fn off v) := by
  refine hR.step ?_ hL
  unfold writeBar0
  repeat' first
    | dsimp only
    | with_reducible exact .refl
    | with_reducible refine .ite ?_ ?_
    | (with_reducible apply writeDev_only <;> [skip; decide])
    | (with_reducible apply writeSk_only <;> [skip; decide])
    | (with_reducible apply writeMsix_only <;> [skip; decide])
    | (with_reducible apply doorbell_only <;> [skip; decide])
    | (with_reducible apply writeFn_only <;> [skip; decide])

theorem hostWrite_only {L R s fn off size v} (hR : Only L R s)
    (hL : [.free, .outputs, .functions, .config, .link, .rings, .commands, .events, .contexts, .headwind, .transports,
      .copyEngine, .timeBase, .power, .gates] ⊆ L) :
    Only L R (hostWrite s fn off size v) := by
  refine hR.step ?_ hL
  unfold hostWrite
  repeat' first
    | dsimp only
    | with_reducible exact .refl
    | with_reducible refine .ite ?_ ?_
    | (with_reducible apply writeBar0_only <;> [skip; decide])
    | (with_reducible apply recordFnErr_only <;> [skip; decide])

theorem barWrite_only {L R s fn off size v poisoned ecrc} (hR : Only L R s)
    (hL : [.free, .outputs, .functions, .config, .link, .rings, .commands, .events, .contexts, .headwind, .transports,
      .copyEngine, .timeBase, .power, .gates] ⊆ L) :
    Only L R (barWrite s fn off size v poisoned ecrc) := by
  refine hR.step ?_ hL
  unfold barWrite
  repeat' first
    | dsimp only
    | with_reducible exact .refl
    | with_reducible refine .ite ?_ ?_
    | (with_reducible apply hostWrite_only <;> [skip; decide])
    | (with_reducible apply logUnc_only <;> [skip; decide])

theorem writeCfg_only {L R s fn f v} (hR : Only L R s)
    (hL : [.free, .outputs, .functions, .config, .rings, .commands, .events, .contexts, .headwind, .streams, .transports,
      .jobs, .engines] ⊆ L) :
    Only L R (writeCfg s fn f v) := by
  refine hR.step ?_ hL
  unfold writeCfg
  repeat' first
    | dsimp only
    | with_reducible exact .refl
    | with_reducible refine .ite ?_ ?_
    | (with_reducible apply pasidLost_only <;> [skip; decide])
    | with_reducible refine setFn_kept rfl ?_ (by decide)
    | (with_reducible apply flushPba_only <;> [skip; decide])
    | simp (disch := (intro (q : Part) hq; cases q <;> first | (simp [Part.same, fnOf]; done) | exact absurd (by decide) hq)) only
        [Only.mk_iff]
    | split

theorem writeAer_only {L R s fn r v} (hR : Only L R s) (hL : [.functions] ⊆ L) : Only L R (writeAer s fn r v) := by
  refine hR.step ?_ hL
  unfold writeAer
  repeat' first
    | dsimp only
    | with_reducible exact .refl
    | with_reducible refine .ite ?_ ?_
    | with_reducible refine setFn_kept rfl ?_ (by decide)

theorem busError_only {L R s fn e} (hR : Only L R s)
    (hL : [.free, .outputs, .functions, .faults] ⊆ L) : Only L R (busError s fn e) := by
  refine hR.step ?_ hL
  unfold busError
  repeat' first
    | dsimp only
    | with_reducible exact .refl
    | with_reducible refine .ite ?_ ?_
    | (with_reducible apply refuseRead_only <;> [skip; decide])
    | (with_reducible apply logUnc_only <;> [skip; decide])
    | (with_reducible apply logCor_only <;> [skip; decide])
    | simp (disch := (intro (q : Part) hq; cases q <;> first | (simp [Part.same, fnOf]; done) | exact absurd (by decide) hq)) only
        [Only.mk_iff]
    | split

theorem cfgRead_only {L R s fn i} (hR : Only L R s) (hL : [.free, .outputs] ⊆ L) : Only L R (cfgRead s fn i) := by
  refine hR.step ?_ hL
  unfold cfgRead
  repeat' first
    | dsimp only
    | with_reducible exact .refl
    | with_reducible refine .ite ?_ ?_
    | (with_reducible apply reply_only <;> [skip; decide])
    | simp (disch := (intro (q : Part) hq; cases q <;> first | (simp [Part.same, fnOf]; done) | exact absurd (by decide) hq)) only
        [Only.mk_iff]

theorem hostRead_only {L R s fn off size} (hR : Only L R s)
    (hL : [.free, .outputs, .functions, .events, .copyEngine, .timeBase, .gates] ⊆ L) : Only L R (hostRead s fn off size) := by
  refine hR.step ?_ hL
  unfold hostRead
  repeat' first
    | dsimp only
    | with_reducible exact .refl
    | with_reducible refine .ite ?_ ?_
    | (with_reducible apply reply_only <;> [skip; decide])
    | (with_reducible apply readBar0_only <;> [skip; decide])

theorem barRead_only {L R s fn off size} (hR : Only L R s)
    (hL : [.free, .outputs, .functions, .events, .copyEngine, .timeBase, .gates] ⊆ L) : Only L R (barRead s fn off size) := by
  refine hR.step ?_ hL
  unfold barRead
  repeat' first
    | dsimp only
    | with_reducible exact .refl
    | with_reducible refine .ite ?_ ?_
    | (with_reducible apply hostRead_only <;> [skip; decide])
    | (with_reducible apply reply_only <;> [skip; decide])
    | (with_reducible apply refuseRead_only <;> [skip; decide])
    | simp (disch := (intro (q : Part) hq; cases q <;> first | (simp [Part.same, fnOf]; done) | exact absurd (by decide) hq)) only
        [Only.mk_iff]

theorem setErr_only {L R s k} (hR : Only L R s) (hL : [.outputs, .events, .smpPort] ⊆ L) : Only L R (setErr s k) := by
  refine hR.step ?_ hL
  unfold setErr
  repeat' first
    | dsimp only
    | with_reducible exact .refl
    | with_reducible refine .ite ?_ ?_
    | (with_reducible apply raise_only <;> [skip; decide])
    | simp (disch := (intro (q : Part) hq; cases q <;> first | (simp [Part.same, fnOf]; done) | exact absurd (by decide) hq)) only
        [Only.mk_iff]

theorem endInd_only {L R s write inc err v} (hR : Only L R s)
    (hL : [.events, .indirect] ⊆ L) : Only L R (endInd s write inc err v) := by
  refine hR.step ?_ hL
  unfold endInd
  repeat' first
    | dsimp only
    | with_reducible exact .refl
    | with_reducible refine .ite ?_ ?_
    | (with_reducible apply raiseAttn_only <;> [skip; decide])
    | (with_reducible apply startNotch_only <;> [skip; decide])
    | simp (disch := (intro (q : Part) hq; cases q <;> first | (simp [Part.same, fnOf]; done) | exact absurd (by decide) hq)) only
        [Only.mk_iff]

theorem startInd_only {L R s write inc} (hR : Only L R s)
    (hL : [.events, .indirect] ⊆ L) : Only L R (startInd s write inc) := by
  refine hR.step ?_ hL
  unfold startInd
  repeat' first
    | dsimp only
    | with_reducible exact .refl
    | with_reducible refine .ite ?_ ?_
    | (with_reducible apply endInd_only <;> [skip; decide])
    | simp (disch := (intro (q : Part) hq; cases q <;> first | (simp [Part.same, fnOf]; done) | exact absurd (by decide) hq)) only
        [Only.mk_iff]

theorem writeIndCtrl_only {L R s v} (hR : Only L R s)
    (hL : [.outputs, .events, .smpPort, .indirect] ⊆ L) : Only L R (writeIndCtrl s v) := by
  refine hR.step ?_ hL
  unfold writeIndCtrl
  repeat' first
    | dsimp only
    | with_reducible exact .refl
    | with_reducible refine .ite ?_ ?_
    | (with_reducible apply startInd_only <;> [skip; decide])
    | (with_reducible apply setErr_only <;> [skip; decide])

theorem mailboxGo_only {L R s} (hR : Only L R s)
    (hL : [.outputs, .commands, .events, .headwind, .smpPort, .mailbox] ⊆ L) : Only L R (mailboxGo s) := by
  refine hR.step ?_ hL
  unfold mailboxGo
  repeat' first
    | dsimp only
    | with_reducible exact .refl
    | with_reducible refine .ite ?_ ?_
    | (with_reducible apply startMbx_only <;> [skip; decide])
    | (with_reducible apply deliverMbx_only <;> [skip; decide])
    | (with_reducible apply setErr_only <;> [skip; decide])
    | simp (disch := (intro (q : Part) hq; cases q <;> first | (simp [Part.same, fnOf]; done) | exact absurd (by decide) hq)) only
        [Only.mk_iff]

theorem writePage0_only {L R s a b} (hR : Only L R s)
    (hL : [.outputs, .events, .smpPort, .indirect] ⊆ L) : Only L R (writePage0 s a b) := by
  refine hR.step ?_ hL
  unfold writePage0
  repeat' first
    | dsimp only
    | with_reducible exact .refl
    | with_reducible refine .ite ?_ ?_
    | (with_reducible apply setErr_only <;> [skip; decide])
    | (with_reducible apply writeIndCtrl_only <;> [skip; decide])
    | (with_reducible apply setAttn_only <;> [skip; decide])
    | simp (disch := (intro (q : Part) hq; cases q <;> first | (simp [Part.same, fnOf]; done) | exact absurd (by decide) hq)) only
        [Only.mk_iff]
    | split

theorem commit_only {L R s p a b} (hR : Only L R s)
    (hL : [.outputs, .commands, .events, .headwind, .smpPort, .indirect, .mailbox, .mailboxData] ⊆ L) :
    Only L R (commit s p a b) := by
  refine hR.step ?_ hL
  unfold commit
  repeat' first
    | dsimp only
    | with_reducible exact .refl
    | with_reducible refine .ite ?_ ?_
    | (with_reducible apply setErr_only <;> [skip; decide])
    | (with_reducible apply putMbx_only <;> [skip; decide])
    | (with_reducible apply mailboxGo_only <;> [skip; decide])
    | (with_reducible apply writePage0_only <;> [skip; decide])
    | simp (disch := (intro (q : Part) hq; cases q <;> first | (simp [Part.same, fnOf]; done) | exact absurd (by decide) hq)) only
        [Only.mk_iff]

theorem byteOut_only {L R s} (hR : Only L R s) (hL : [.smpPort] ⊆ L) : Only L R (byteOut s) := by
  refine hR.step ?_ hL
  unfold byteOut
  repeat' first
    | dsimp only
    | with_reducible exact .refl
    | with_reducible refine .ite ?_ ?_
    | simp (disch := (intro (q : Part) hq; cases q <;> first | (simp [Part.same, fnOf]; done) | exact absurd (by decide) hq)) only
        [Only.mk_iff]

theorem sendByte_only {L R s} (hR : Only L R s) (hL : [.outputs, .events, .smpPort] ⊆ L) : Only L R (sendByte s) := by
  refine hR.step ?_ hL
  unfold sendByte
  repeat' first
    | dsimp only
    | with_reducible exact .refl
    | with_reducible refine .ite ?_ ?_
    | (with_reducible apply setErr_only <;> [skip; decide])
    | simp (disch := (intro (q : Part) hq; cases q <;> first | (simp [Part.same, fnOf]; done) | exact absurd (by decide) hq)) only
        [Only.mk_iff]

theorem applyChange_only {L R port s p} (hR : Only L R s)
    (hL : [.outputs, .events, .transports] ⊆ L) : Only L R (applyChange port s p) := by
  refine hR.step ?_ hL
  unfold applyChange
  repeat' first
    | dsimp only
    | with_reducible exact .refl
    | with_reducible refine .ite ?_ ?_
    | (with_reducible apply raise_only <;> [skip; decide])
    | (with_reducible apply updXp_only <;> [skip; decide])
    | split

theorem irqReads_only {L R s port} (hR : Only L R s)
    (hL : [.free, .outputs, .peripherals] ⊆ L) : Only L R (irqReads s port) := by
  refine hR.step ?_ hL
  unfold irqReads
  repeat' first
    | dsimp only
    | with_reducible exact .refl
    | with_reducible refine .ite ?_ ?_
    | (with_reducible apply pspDone_only <;> [skip; decide])
    | (with_reducible apply drawFree_only <;> [skip; decide])

theorem notePeer_only {L R s k b} (hR : Only L R s)
    (hL : [.outputs, .events, .peripherals] ⊆ L) : Only L R (notePeer s k b) := by
  refine hR.step ?_ hL
  unfold notePeer
  repeat' first
    | dsimp only
    | with_reducible exact .refl
    | with_reducible refine .ite ?_ ?_
    | (with_reducible apply raise_only <;> [skip; decide])
    | simp (disch := (intro (q : Part) hq; cases q <;> first | (simp [Part.same, fnOf]; done) | exact absurd (by decide) hq)) only
        [Only.mk_iff]
    | split

theorem peerFail_only {L R s k} (hR : Only L R s) (hL : [.peripherals, .faults] ⊆ L) : Only L R (peerFail s k) := by
  refine hR.step ?_ hL
  unfold peerFail
  repeat' first
    | dsimp only
    | with_reducible exact .refl
    | with_reducible refine .ite ?_ ?_
    | (with_reducible apply countFault_only <;> [skip; decide])
    | simp (disch := (intro (q : Part) hq; cases q <;> first | (simp [Part.same, fnOf]; done) | exact absurd (by decide) hq)) only
        [Only.mk_iff]

theorem peerRead_only {L R s k} (hR : Only L R s) (hL : [.outputs, .peripherals] ⊆ L) : Only L R (peerRead s k) := by
  refine hR.step ?_ hL
  unfold peerRead
  repeat' first
    | dsimp only
    | with_reducible exact .refl
    | with_reducible refine .ite ?_ ?_
    | (with_reducible apply pspDone_only <;> [skip; decide])

theorem pollPeer_only {L R answers s k} (hR : Only L R s)
    (hL : [.outputs, .events, .peripherals, .faults] ⊆ L) : Only L R (pollPeer answers s k) := by
  refine hR.step ?_ hL
  unfold pollPeer
  repeat' first
    | dsimp only
    | with_reducible exact .refl
    | with_reducible refine .ite ?_ ?_
    | (with_reducible apply peerFail_only <;> [skip; decide])
    | (with_reducible apply peerRead_only <;> [skip; decide])
    | (with_reducible apply notePeer_only <;> [skip; decide])
    | split

theorem peerLost_only {L R s k} (hR : Only L R s)
    (hL : [.outputs, .events, .peripherals, .faults] ⊆ L) : Only L R (peerLost s k) := by
  refine hR.step ?_ hL
  unfold peerLost
  repeat' first
    | dsimp only
    | with_reducible exact .refl
    | with_reducible refine .ite ?_ ?_
    | (with_reducible apply raise_only <;> [skip; decide])
    | (with_reducible apply faultSpent_only <;> [skip; decide])
    | simp (disch := (intro (q : Part) hq; cases q <;> first | (simp [Part.same, fnOf]; done) | exact absurd (by decide) hq)) only
        [Only.mk_iff]

end Sys2Proof.Machine
end

