-- ==== Sys2Proof/Laws/Memory.lean ====
section
/-! SUPPORT. Memory operations keep the canonical form; a read after a write. -/

namespace Sys2Proof.Machine

/-- A byte write keeps the canonical form. -/
theorem Memory.wf_write (m : Memory) (a : Nat) (b : Byte) (h : Memory.wf m = true) : Memory.wf (Memory.write m a b) = true := by
  simp only [Memory.wf, Bool.and_eq_true, List.all_eq_true, bne_iff_ne] at h ⊢
  unfold Memory.write
  split
  · exact ⟨Tbl.wf_del m a h.1, fun x hx => h.2 x (Tbl.mem_of_mem_del m a hx)⟩
  · rename_i ne
    refine ⟨Tbl.wf_put m a b h.1, fun x hx => ?_⟩
    rcases Tbl.mem_put m a b hx with rfl | hx
    · exact ne
    · exact h.2 x hx

/-- Writing bytes at rising addresses keeps the canonical form. -/
theorem Memory.wf_writeAll (m : Memory) (a : Nat) (b : Bytes) (h : Memory.wf m = true) : Memory.wf (Memory.writeAll m a b) = true := by
  induction b generalizing m a with
  | nil => exact h
  | cons x r ih => exact ih _ _ (Memory.wf_write m a x h)

/-- Writing bytes at one address keeps the canonical form. -/
theorem Memory.wf_writeSame (m : Memory) (a : Nat) (b : Bytes) (h : Memory.wf m = true) : Memory.wf (Memory.writeSame m a b) = true := by
  induction b generalizing m with
  | nil => exact h
  | cons x r ih => exact ih _ (Memory.wf_write m a x h)

/-- A byte that was written is read back, from a canonical memory. -/
theorem Memory.read_write_self (m : Memory) (a : Nat) (b : Byte) (h : Memory.wf m = true) :
    Memory.read (Memory.write m a b) a = b := by
  simp only [Memory.wf, Bool.and_eq_true] at h
  unfold Memory.write Memory.read
  split
  · rename_i e; simp [Tbl.get?_del_self m a h.1, e]
  · simp

/-- Other addresses keep their bytes. -/
theorem Memory.read_write_of_ne (m : Memory) {a p : Nat} (b : Byte) (h : p ≠ a) :
    Memory.read (Memory.write m a b) p = Memory.read m p := by
  unfold Memory.write Memory.read
  split
  · rw [Tbl.get?_del_of_ne m h]
  · rw [Tbl.get?_put_of_ne m b h]

/-- Addresses outside the bytes written keep theirs. -/
theorem Memory.read_writeAll_outside (m : Memory) (a p : Nat) (b : Bytes) (h : p < a ∨ a + b.length ≤ p) :
    Memory.read (Memory.writeAll m a b) p = Memory.read m p := by
  induction b generalizing m a with
  | nil => rfl
  | cons x r ih =>
    simp only [List.length_cons] at h
    rw [Memory.writeAll, ih _ _ (by omega), Memory.read_write_of_ne m x (by omega)]

/-- The bytes written are read back, from a canonical memory. -/
theorem Memory.read_writeAll_inside (m : Memory) (a i : Nat) (b : Bytes) (h : Memory.wf m = true) (hi : i < b.length) :
    Memory.read (Memory.writeAll m a b) (a + i) = b[i] := by
  induction b generalizing m a i with
  | nil => simp at hi
  | cons x r ih =>
    rw [Memory.writeAll]
    cases i with
    | zero =>
      rw [Memory.read_writeAll_outside _ _ _ _ (by omega)]
      simpa using Memory.read_write_self m a x h
    | succ j =>
      have := ih (Memory.write m a x) (a + 1) j (Memory.wf_write m a x h) (by simpa using hi)
      rw [show a + (j + 1) = a + 1 + j by omega, this]
      rfl

/-- Reading `n` bytes gives `n` bytes. -/
@[simp] theorem Memory.length_readAll (m : Memory) (a n : Nat) : (Memory.readAll m a n).length = n := by
  induction n generalizing a with
  | zero => rfl
  | succ n ih => simp [Memory.readAll, ih]

/-- Byte `i` of a read of several bytes. -/
theorem Memory.getElem_readAll (m : Memory) (a n i : Nat) (h : i < (Memory.readAll m a n).length) :
    (Memory.readAll m a n)[i] = Memory.read m (a + i) := by
  induction n generalizing a i with
  | zero => simp at h
  | succ n ih =>
    cases i with
    | zero => rfl
    | succ j =>
      have := ih (a + 1) j (by simpa using h)
      simpa [Memory.readAll, Nat.add_comm, Nat.add_left_comm] using this

end Sys2Proof.Machine
end

