-- ==== Sys2Proof/Laws/Keeps.lean ====
section
/-! SUPPORT. The invariant StateOk: how its preservation composes, and that a change of other parts keeps it. -/

namespace Sys2Proof.Machine

variable {R s t u : State} {α : Type}

/-- `t` meets the invariant when `s` does. -/
def Keeps (s t : State) : Prop := StateOk s → StateOk t

/-- The parts of which StateOk speaks. -/
abbrev okParts : List Part := [.smpPort, .indirect, .mailboxData, .timeBase, .buffer]

/-- A state keeps what it has. -/
theorem Keeps.refl : Keeps s s := id

/-- Keeping composes. -/
theorem Keeps.trans (h : Keeps s u) (k : Keeps u t) : Keeps s t := fun x => k (h x)

/-- A change of other parts keeps the invariant. -/
theorem Keeps.of_only (h : Keeps s u) (k : Only (but okParts) u t) : Keeps s t := by
  intro x
  have a := k .smpPort (by decide)
  have b := k .indirect (by decide)
  have c := k .mailboxData (by decide)
  have d := k .timeBase (by decide)
  have e := k .buffer (by decide)
  simp only [Part.same] at a b c d e
  have y := h x
  simp only [StateOk, SmpOk] at y ⊢
  simpa [a, b, c, d, e] using y

/-- Either branch. -/
theorem Keeps.ite {c : Prop} {d : Decidable c} (h : Keeps s t) (k : Keeps s u) : Keeps s (if c then t else u) := by
  split
  · exact h
  · exact k

/-- With or without a value. -/
theorem Keeps.elim {o : Option α} {f : α → State} (h : Keeps s t) (k : ∀ x, Keeps s (f x)) : Keeps s (o.elim t f) := by
  cases o with
  | none => exact h
  | some x => exact k x

/-- A change for each element of a list. -/
theorem Keeps.foldl {f : State → α → State} (hf : ∀ u x, Keeps u (f u x)) (xs : List α) (h : Keeps s u) :
    Keeps s (xs.foldl f u) := by
  induction xs generalizing u with
  | nil => exact h
  | cons x r ih => exact ih (h.trans (hf u x))

/-- A new state that agrees on what StateOk speaks of. -/
theorem Keeps.mk_iff {a2 a3 a4 a5 a6 a7 a8 a9 a10 a11 a12 a13 a14 a15 a16 a17} (k : SmpOk a13 ↔ SmpOk u.smp)
    (l : TbuOk a14 ↔ TbuOk u.tbu) (m : Memory.wf a12.buf ↔ Memory.wf u.ace.buf) :
    Keeps s ⟨u.pending, a2, a3, a4, a5, a6, a7, a8, a9, a10, a11, a12, a13, a14, a15, a16, a17⟩ ↔ Keeps s u :=
  ⟨fun h x => have y := h x; ⟨k.1 y.1, l.1 y.2.1, m.1 y.2.2⟩, fun h x => have y := h x; ⟨k.2 y.1, l.2 y.2.1, m.2 y.2.2⟩⟩

end Sys2Proof.Machine
end

