-- ==== Sys2Proof/Laws/KeepsOps.lean ====
section
/-! SUPPORT. Every shared operation keeps StateOk: one lemma per operation, in the form in which such lemmas chain. -/

namespace Sys2Proof.Machine

theorem drawFree_keeps {R s} (hR : Keeps R s) : Keeps R (drawFree s).2 :=
  hR.of_only (drawFree_only .refl (by decide))

theorem drawFree_kpair {R s i z} (h : drawFree s = (i, z)) (hR : Keeps R s) : Keeps R z := by
  have := drawFree_keeps (s := s) hR
  rwa [h] at this

theorem setFn_keeps {R s n f} (hR : Keeps R s) : Keeps R (setFn s n f) :=
  hR.of_only (setFn_only .refl (by decide))

theorem logUnc_keeps {R s n b} (hR : Keeps R s) : Keeps R (logUnc s n b) :=
  hR.of_only (logUnc_only .refl (by decide))

theorem logReadErr_keeps {R s n k} (hR : Keeps R s) : Keeps R (logReadErr s n k) :=
  hR.of_only (logReadErr_only .refl (by decide))

theorem sendMsix_keeps {R s n v} (hR : Keeps R s) : Keeps R (sendMsix s n v) :=
  hR.of_only (sendMsix_only .refl (by decide))

theorem setAttn_keeps {R s attn en} (hR : Keeps R s) : Keeps R (setAttn s attn en) :=
  hR.of_only (setAttn_only .refl (by decide))

theorem raiseAttn_keeps {R s m} (hR : Keeps R s) : Keeps R (raiseAttn s m) :=
  hR.of_only (raiseAttn_only .refl (by decide))

theorem startNotch_keeps {R s} (hR : Keeps R s) : Keeps R (startNotch s) :=
  hR.of_only (startNotch_only .refl (by decide))

theorem raise_keeps {R s e kind subj detail} (hR : Keeps R s) : Keeps R (raise s e kind subj detail) :=
  hR.of_only (raise_only .refl (by decide))

theorem countFault_keeps {R s c det fixed rep ret} (hR : Keeps R s) : Keeps R (countFault s c det fixed rep ret) :=
  hR.of_only (countFault_only .refl (by decide))

theorem logFault_keeps {R s e} (hR : Keeps R s) : Keeps R (logFault s e) :=
  hR.of_only (logFault_only .refl (by decide))

theorem faultSpent_keeps {R s e kind subj} (hR : Keeps R s) : Keeps R (faultSpent s e kind subj) :=
  hR.of_only (faultSpent_only .refl (by decide))

theorem noteSeen_keeps {R s k ev kind subj} (hR : Keeps R s) : Keeps R (noteSeen s k ev kind subj) :=
  hR.of_only (noteSeen_only .refl (by decide))

theorem noteBmu_keeps {R s} (hR : Keeps R s) : Keeps R (noteBmu s) :=
  hR.of_only (noteBmu_only .refl (by decide))

theorem updCmd_keeps {R s id f} (hR : Keeps R s) : Keeps R (updCmd s id f) :=
  hR.of_only (updCmd_only .refl (by decide))

theorem setProg_keeps {R s id p} (hR : Keeps R s) : Keeps R (setProg s id p) :=
  hR.of_only (setProg_only .refl (by decide))

theorem updCtx_keeps {R s k f} (hR : Keeps R s) : Keeps R (updCtx s k f) :=
  hR.of_only (updCtx_only .refl (by decide))

theorem freeSlot_keeps {R s id} (hR : Keeps R s) : Keeps R (freeSlot s id) :=
  hR.of_only (freeSlot_only .refl (by decide))

theorem postAll_keeps {R s} (hR : Keeps R s) : Keeps R (postAll s) :=
  hR.of_only (postAll_only .refl (by decide))

theorem fixDone_keeps {R s id k} (hR : Keeps R s) : Keeps R (fixDone s id k) :=
  hR.of_only (fixDone_only .refl (by decide))

theorem complete_keeps {R s id k} (hR : Keeps R s) : Keeps R (complete s id k) :=
  hR.of_only (complete_only .refl (by decide))

theorem putMbx_keeps {R s off b} (hR : Keeps R s) : Keeps R (putMbx s off b) := by
  intro x
  obtain ⟨⟨a1, a2, a3, a4, a5, a6, a7, a8, a9, a10⟩, b, c⟩ := hR x
  exact ⟨⟨a1, a2, a3, a4, a5, a6, a7, a8, a9, Memory.wf_writeAll _ _ _ a10⟩, b, c⟩

theorem cmdWrite_keeps {R s c addr b relaxed} (hR : Keeps R s) : Keeps R (cmdWrite s c addr b relaxed) := by
  refine hR.trans ?_
  unfold cmdWrite
  repeat' first
    | dsimp only
    | with_reducible exact .refl
    | with_reducible refine .ite ?_ ?_
    | with_reducible apply putMbx_keeps
    | simp (disch := (first | with_reducible exact Iff.rfl | (dsimp only [SmpOk]; with_reducible exact Iff.rfl) | (dsimp only [TbuOk]; with_reducible exact Iff.rfl) | (dsimp only; with_reducible exact Iff.rfl))) only
        [Keeps.mk_iff]

theorem answer_keeps {R s c off b k} (hR : Keeps R s) : Keeps R (answer s c off b k) := by
  refine hR.trans ?_
  unfold answer
  repeat' first
    | dsimp only
    | with_reducible exact .refl
    | with_reducible refine .ite ?_ ?_
    | with_reducible apply cmdWrite_keeps
    | with_reducible apply complete_keeps

theorem pspQueue_keeps {R s port l} (hR : Keeps R s) : Keeps R (pspQueue s port l) :=
  hR.of_only (pspQueue_only .refl (by decide))

theorem cmdScatter_keeps {R s c ps o b relaxed} (hR : Keeps R s) : Keeps R (cmdScatter s c ps o b relaxed) := by
  refine hR.trans ?_
  unfold cmdScatter
  repeat' first
    | dsimp only
    | with_reducible exact .refl
    | with_reducible refine .ite ?_ ?_
    | with_reducible apply cmdWrite_keeps
    | with_reducible refine .foldl (fun _ _ => ?_) _ ?_

theorem updXp_keeps {R s t f} (hR : Keeps R s) : Keeps R (updXp s t f) :=
  hR.of_only (updXp_only .refl (by decide))

theorem updMount_keeps {R s t f} (hR : Keeps R s) : Keeps R (updMount s t f) :=
  hR.of_only (updMount_only .refl (by decide))

theorem countHw_keeps {R before s k} (hR : Keeps R s) : Keeps R (countHw before s k) :=
  hR.of_only (countHw_only .refl (by decide))

theorem tickTime_ok {u : Tbu} {dt : Nat} (h : TbuOk u) : TbuOk (tickTime u dt) := by
  obtain ⟨a1, a2, a3⟩ := h
  exact ⟨Nat.mod_lt _ (by decide), Nat.mod_lt _ (by decide), a3⟩

theorem advance_keeps {R s dt} (hR : Keeps R s) : Keeps R (advance s dt) := by
  intro x
  obtain ⟨a, b, c⟩ := hR x
  unfold advance
  split
  · exact ⟨a, b, c⟩
  · exact ⟨a, tickTime_ok b, c⟩

theorem dropRecords_keeps {R s c} (hR : Keeps R s) : Keeps R (dropRecords s c) :=
  hR.of_only (dropRecords_only .refl (by decide))

theorem fixAgain_keeps {R s id k} (hR : Keeps R s) : Keeps R (fixAgain s id k) :=
  hR.of_only (fixAgain_only .refl (by decide))

theorem abortJob_keeps {R st s c} (hR : Keeps R s) : Keeps R (abortJob st s c) := by
  refine hR.trans ?_
  unfold abortJob
  repeat' first
    | dsimp only
    | with_reducible exact .refl
    | with_reducible refine .ite ?_ ?_
    | with_reducible apply cmdWrite_keeps
    | with_reducible apply fixAgain_keeps

theorem abortOne_keeps {R st by_ s c} (hR : Keeps R s) : Keeps R (abortOne st by_ s c) := by
  refine hR.trans ?_
  unfold abortOne
  repeat' first
    | dsimp only
    | with_reducible exact .refl
    | with_reducible refine .ite ?_ ?_
    | with_reducible apply dropRecords_keeps
    | with_reducible apply fixAgain_keeps
    | with_reducible apply abortJob_keeps
    | simp (disch := (first | with_reducible exact Iff.rfl | (dsimp only [SmpOk]; with_reducible exact Iff.rfl) | (dsimp only [TbuOk]; with_reducible exact Iff.rfl) | (dsimp only; with_reducible exact Iff.rfl))) only
        [Keeps.mk_iff]
    | split

theorem abortList_keeps {R s st by_ l} (hR : Keeps R s) : Keeps R (abortList s st by_ l) := by
  refine hR.trans ?_
  unfold abortList
  repeat' first
    | dsimp only
    | with_reducible exact .refl
    | with_reducible refine .ite ?_ ?_
    | with_reducible apply abortOne_keeps
    | with_reducible refine .foldl (fun _ _ => ?_) _ ?_

theorem uncount_keeps {R s by_} (hR : Keeps R s) : Keeps R (uncount s by_) :=
  hR.of_only (uncount_only .refl (by decide))

theorem addOcc_keeps {R s t n} (hR : Keeps R s) : Keeps R (addOcc s t n) :=
  hR.of_only (addOcc_only .refl (by decide))

theorem closeDataset_keeps {R s t spanOut} (hR : Keeps R s) : Keeps R (closeDataset s t spanOut) :=
  hR.of_only (closeDataset_only .refl (by decide))

theorem updStrm_keeps {R s k f} (hR : Keeps R s) : Keeps R (updStrm s k f) :=
  hR.of_only (updStrm_only .refl (by decide))

theorem dropStreams_keeps {R s p} (hR : Keeps R s) : Keeps R (dropStreams s p) :=
  hR.of_only (dropStreams_only .refl (by decide))

theorem settle_keeps {R s} (hR : Keeps R s) : Keeps R (settle s) :=
  hR.of_only (settle_only .refl (by decide))

theorem setCause_keeps {R s t k v} (hR : Keeps R s) : Keeps R (setCause s t k v) :=
  hR.of_only (setCause_only .refl (by decide))

theorem setForce_keeps {R s t v} (hR : Keeps R s) : Keeps R (setForce s t v) :=
  hR.of_only (setForce_only .refl (by decide))

theorem clearPage_keeps {R s page param n} (hR : Keeps R s) : Keeps R (clearPage s page param n) :=
  hR.of_only (clearPage_only .refl (by decide))

theorem removeRing_keeps {R s n} (hR : Keeps R s) : Keeps R (removeRing s n) :=
  hR.of_only (removeRing_only .refl (by decide))

theorem setGate_keeps {R s k g} (hR : Keeps R s) : Keeps R (setGate s k g) :=
  hR.of_only (setGate_only .refl (by decide))

theorem openGates_keeps {R s} (hR : Keeps R s) : Keeps R (openGates s) :=
  hR.of_only (openGates_only .refl (by decide))

theorem logPower_keeps {R s e} (hR : Keeps R s) : Keeps R (logPower s e) :=
  hR.of_only (logPower_only .refl (by decide))

theorem deliverMbx_keeps {R s cid k} (hR : Keeps R s) : Keeps R (deliverMbx s cid k) :=
  hR.of_only (deliverMbx_only .refl (by decide))

theorem startMbx_keeps {R s} (hR : Keeps R s) : Keeps R (startMbx s) :=
  hR.of_only (startMbx_only .refl (by decide))

theorem undoLull_keeps {R s e wake st} (hR : Keeps R s) : Keeps R (undoLull s e wake st) :=
  hR.of_only (undoLull_only .refl (by decide))

theorem wake_keeps {R s code} (hR : Keeps R s) : Keeps R (wake s code) :=
  hR.of_only (wake_only .refl (by decide))

theorem refuseRead_keeps {R s fn} (hR : Keeps R s) : Keeps R (refuseRead s fn) :=
  hR.of_only (refuseRead_only .refl (by decide))

theorem reply_keeps {R s fn v} (hR : Keeps R s) : Keeps R (reply s fn v) :=
  hR.of_only (reply_only .refl (by decide))

theorem setAce_keeps {R s c a} (hR : Keeps R s) : Keeps R (setAce s c a) :=
  hR.of_only (setAce_only .refl (by decide))

theorem haltAce_keeps {R s c err domain} (hR : Keeps R s) : Keeps R (haltAce s c err domain) :=
  hR.of_only (haltAce_only .refl (by decide))

theorem aceHostReset_keeps {R s} (hR : Keeps R s) : Keeps R (aceHostReset s) :=
  hR.of_only (aceHostReset_only .refl (by decide))

theorem overrun_keeps {R s c} (hR : Keeps R s) : Keeps R (overrun s c) :=
  hR.of_only (overrun_only .refl (by decide))

theorem fireSource_keeps {R s v} (hR : Keeps R s) : Keeps R (fireSource s v) :=
  hR.of_only (fireSource_only .refl (by decide))

theorem raiseGate_keeps {R s k} (hR : Keeps R s) : Keeps R (raiseGate s k) :=
  hR.of_only (raiseGate_only .refl (by decide))

theorem refusePosted_keeps {R s k origin} (hR : Keeps R s) : Keeps R (refusePosted s k origin) :=
  hR.of_only (refusePosted_only .refl (by decide))

theorem setNs_ok {u : Tbu} {t : Int} (h : TbuOk u) : TbuOk (setNs u t) := by
  obtain ⟨a1, a2, a3⟩ := h
  refine ⟨Nat.mod_lt _ (by decide), ?_, a3⟩
  have : (t % timeMod).toNat < 2 ^ 48 * 1000000000 := by
    have := Int.emod_lt_of_pos t (show (0:Int) < timeMod by decide)
    have := Int.emod_nonneg t (show timeMod ≠ 0 by decide)
    unfold timeMod at *
    omega
  exact (Nat.div_lt_iff_lt_mul (by decide)).2 this

theorem clamp_ok {u : Tbu} {f : Int} (h : TbuOk u) : TbuOk { u with f := clampPpb f } := by
  obtain ⟨a1, a2, a3, a4, a5⟩ := h
  refine ⟨a1, a2, ?_, ?_, a5⟩ <;> simp only [clampPpb] <;> omega

theorem putBuf_keeps {R s addr b fixed} (hR : Keeps R s) : Keeps R (putBuf s addr b fixed) := by
  intro x
  obtain ⟨a, b, c⟩ := hR x
  refine ⟨a, b, ?_⟩
  unfold putBuf
  cases fixed
  · exact Memory.wf_writeAll _ _ _ c
  · exact Memory.wf_writeSame _ _ _ c

theorem burstSink_keeps {R s a o b} (hR : Keeps R s) : Keeps R (burstSink s a o b) := by
  refine hR.trans ?_
  unfold burstSink
  repeat' first
    | dsimp only
    | with_reducible exact .refl
    | with_reducible refine .ite ?_ ?_
    | with_reducible apply putBuf_keeps
    | simp (disch := (first | with_reducible exact Iff.rfl | (dsimp only [SmpOk]; with_reducible exact Iff.rfl) | (dsimp only [TbuOk]; with_reducible exact Iff.rfl) | (dsimp only; with_reducible exact Iff.rfl))) only
        [Keeps.mk_iff]
    | split

theorem burstsSink_keeps {R s a o b n} (hR : Keeps R s) : Keeps R (burstsSink s a o b n) := by
  refine hR.trans ?_
  clear hR
  induction n generalizing s a o b with
  | zero =>
    unfold burstsSink
    repeat' first
      | dsimp only
      | with_reducible exact .refl
      | with_reducible refine .ite ?_ ?_
      | with_reducible apply burstSink_keeps
      | split
  | succ n ih =>
    unfold burstsSink
    repeat' first
      | dsimp only
      | with_reducible exact .refl
      | with_reducible refine Keeps.trans ?_ ih
      | with_reducible refine .ite ?_ ?_
      | with_reducible apply burstSink_keeps
      | split

theorem serveBurst_keeps {R s c} (hR : Keeps R s) : Keeps R (serveBurst s c) := by
  refine hR.trans ?_
  unfold serveBurst
  repeat' first
    | dsimp only
    | with_reducible exact .refl
    | with_reducible refine .ite ?_ ?_
    | with_reducible apply burstSink_keeps
    | with_reducible apply setAce_keeps
    | simp (disch := (first | with_reducible exact Iff.rfl | (dsimp only [SmpOk]; with_reducible exact Iff.rfl) | (dsimp only [TbuOk]; with_reducible exact Iff.rfl) | (dsimp only; with_reducible exact Iff.rfl))) only
        [Keeps.mk_iff]

theorem serveTo_keeps {R s c goal n} (hR : Keeps R s) : Keeps R (serveTo s c goal n) := by
  refine hR.trans ?_
  clear hR
  induction n generalizing s c goal with
  | zero =>
    unfold serveTo
    repeat' first
      | dsimp only
      | with_reducible exact .refl
      | with_reducible refine .ite ?_ ?_
      | with_reducible apply serveBurst_keeps
      | split
  | succ n ih =>
    unfold serveTo
    repeat' first
      | dsimp only
      | with_reducible exact .refl
      | with_reducible refine Keeps.trans ?_ ih
      | with_reducible refine .ite ?_ ?_
      | with_reducible apply serveBurst_keeps
      | split

theorem writeHost_keeps {R s c goal data} (hR : Keeps R s) : Keeps R (writeHost s c goal data) := by
  refine hR.trans ?_
  unfold writeHost
  repeat' first
    | dsimp only
    | with_reducible exact .refl
    | with_reducible refine .ite ?_ ?_
    | with_reducible apply burstsSink_keeps

theorem endIter_keeps {R s c} (hR : Keeps R s) : Keeps R (endIter s c) :=
  hR.of_only (endIter_only .refl (by decide))

theorem recordFnErr_keeps {R s fn range noRing resv size slot} (hR : Keeps R s) : Keeps R (recordFnErr s fn range noRing resv size slot) :=
  hR.of_only (recordFnErr_only .refl (by decide))

theorem doorbell_keeps {R s fn slot isTail w} (hR : Keeps R s) : Keeps R (doorbell s fn slot isTail w) :=
  hR.of_only (doorbell_only .refl (by decide))

theorem applyAll_keeps {R s} (hR : Keeps R s) : Keeps R (applyAll s) :=
  hR.of_only (applyAll_only .refl (by decide))

theorem endPause_keeps {R s} (hR : Keeps R s) : Keeps R (endPause s) :=
  hR.of_only (endPause_only .refl (by decide))

theorem forgetCmd_keeps {R s id} (hR : Keeps R s) : Keeps R (forgetCmd s id) := by
  refine hR.trans ?_
  unfold forgetCmd
  repeat' first
    | dsimp only
    | with_reducible exact .refl
    | with_reducible refine .ite ?_ ?_
    | with_reducible apply updXp_keeps
    | with_reducible apply undoLull_keeps
    | simp (disch := (first | with_reducible exact Iff.rfl | (dsimp only [SmpOk]; with_reducible exact Iff.rfl) | (dsimp only [TbuOk]; with_reducible exact Iff.rfl) | (dsimp only; with_reducible exact Iff.rfl))) only
        [Keeps.mk_iff]
    | split

theorem flrLogOne_keeps {R fn seq s c} (hR : Keeps R s) : Keeps R (flrLogOne fn seq s c) :=
  hR.of_only (flrLogOne_only .refl (by decide))

theorem flrAbortOne_keeps {R fn seq s c} (hR : Keeps R s) : Keeps R (flrAbortOne fn seq s c) := by
  refine hR.trans ?_
  unfold flrAbortOne
  repeat' first
    | dsimp only
    | with_reducible exact .refl
    | with_reducible refine .ite ?_ ?_
    | with_reducible apply forgetCmd_keeps
    | with_reducible apply freeSlot_keeps
    | with_reducible apply dropRecords_keeps
    | with_reducible apply flrLogOne_keeps

theorem loseLooks_keeps {R s k} (hR : Keeps R s) : Keeps R (loseLooks s k) :=
  hR.of_only (loseLooks_only .refl (by decide))

theorem orphanOne_keeps {R cs s k} (hR : Keeps R s) : Keeps R (orphanOne cs s k) :=
  hR.of_only (orphanOne_only .refl (by decide))

theorem flrSteps_keeps {R s fn} (hR : Keeps R s) : Keeps R (flrSteps s fn) := by
  refine hR.trans ?_
  unfold flrSteps
  repeat' first
    | dsimp only
    | with_reducible exact .refl
    | with_reducible refine .ite ?_ ?_
    | with_reducible apply raise_keeps
    | with_reducible apply settle_keeps
    | with_reducible apply fixDone_keeps
    | with_reducible apply removeRing_keeps
    | with_reducible apply dropStreams_keeps
    | with_reducible apply orphanOne_keeps
    | with_reducible apply flrAbortOne_keeps
    | with_reducible refine .foldl (fun _ _ => ?_) _ ?_
    | with_reducible refine .elim ?_ fun _ => ?_
    | simp (disch := (first | with_reducible exact Iff.rfl | (dsimp only [SmpOk]; with_reducible exact Iff.rfl) | (dsimp only [TbuOk]; with_reducible exact Iff.rfl) | (dsimp only; with_reducible exact Iff.rfl))) only
        [Keeps.mk_iff]
    | split

theorem dropTagWaits_keeps {R s fn} (hR : Keeps R s) : Keeps R (dropTagWaits s fn) :=
  hR.of_only (dropTagWaits_only .refl (by decide))

theorem dropMerged_keeps {R s fn} (hR : Keeps R s) : Keeps R (dropMerged s fn) :=
  hR.of_only (dropMerged_only .refl (by decide))

theorem flrOne_keeps {R s fn} (hR : Keeps R s) : Keeps R (flrOne s fn) := by
  refine hR.trans ?_
  unfold flrOne
  repeat' first
    | dsimp only
    | with_reducible exact .refl
    | with_reducible refine .ite ?_ ?_
    | with_reducible apply flrSteps_keeps
    | with_reducible apply setFn_keeps
    | with_reducible apply dropMerged_keeps
    | with_reducible apply dropTagWaits_keeps
    | with_reducible refine .elim ?_ fun _ => ?_
    | simp (disch := (first | with_reducible exact Iff.rfl | (dsimp only [SmpOk]; with_reducible exact Iff.rfl) | (dsimp only [TbuOk]; with_reducible exact Iff.rfl) | (dsimp only; with_reducible exact Iff.rfl))) only
        [Keeps.mk_iff]

theorem removeVfs_keeps {R s} (hR : Keeps R s) : Keeps R (removeVfs s) := by
  refine hR.trans ?_
  unfold removeVfs
  repeat' first
    | dsimp only
    | with_reducible exact .refl
    | with_reducible refine .ite ?_ ?_
    | with_reducible apply flrOne_keeps
    | with_reducible refine .foldl (fun _ _ => ?_) _ ?_
    | simp (disch := (first | with_reducible exact Iff.rfl | (dsimp only [SmpOk]; with_reducible exact Iff.rfl) | (dsimp only [TbuOk]; with_reducible exact Iff.rfl) | (dsimp only; with_reducible exact Iff.rfl))) only
        [Keeps.mk_iff]

theorem flrStart_keeps {R s fn} (hR : Keeps R s) : Keeps R (flrStart s fn) := by
  refine hR.trans ?_
  unfold flrStart
  repeat' first
    | dsimp only
    | with_reducible exact .refl
    | with_reducible refine .ite ?_ ?_
    | with_reducible apply aceHostReset_keeps
    | with_reducible apply removeVfs_keeps
    | with_reducible apply flrOne_keeps
    | simp (disch := (first | with_reducible exact Iff.rfl | (dsimp only [SmpOk]; with_reducible exact Iff.rfl) | (dsimp only [TbuOk]; with_reducible exact Iff.rfl) | (dsimp only; with_reducible exact Iff.rfl))) only
        [Keeps.mk_iff]

theorem hostBack_keeps {R s} (hR : Keeps R s) : Keeps R (hostBack s) :=
  hR.of_only (hostBack_only .refl (by decide))

theorem fwUp_keeps {R s} (hR : Keeps R s) : Keeps R (fwUp s) :=
  hR.of_only (fwUp_only .refl (by decide))

theorem hostSideReset_keeps {R s} (hR : Keeps R s) : Keeps R (hostSideReset s) :=
  hR.of_only (hostSideReset_only .refl (by decide))

theorem openWindow900_keeps {R s} (hR : Keeps R s) : Keeps R (openWindow900 s) :=
  hR.of_only (openWindow900_only .refl (by decide))

theorem startDelete_keeps {R s c} (hR : Keeps R s) : Keeps R (startDelete s c) := by
  refine hR.trans ?_
  unfold startDelete
  repeat' first
    | dsimp only
    | with_reducible exact .refl
    | with_reducible refine .ite ?_ ?_
    | with_reducible apply setProg_keeps
    | with_reducible apply postAll_keeps
    | with_reducible apply abortOne_keeps
    | with_reducible apply updCtx_keeps
    | with_reducible apply loseLooks_keeps
    | with_reducible refine .foldl (fun _ _ => ?_) _ ?_

theorem continueDelete_keeps {R s c n} (hR : Keeps R s) : Keeps R (continueDelete s c n) :=
  hR.of_only (continueDelete_only .refl (by decide))

theorem breakChain_keeps {R s l} (hR : Keeps R s) : Keeps R (breakChain s l) := by
  refine hR.trans ?_
  unfold breakChain
  repeat' first
    | dsimp only
    | with_reducible exact .refl
    | with_reducible refine .ite ?_ ?_
    | with_reducible apply logFault_keeps
    | with_reducible apply drawFree_keeps
    | with_reducible apply abortOne_keeps
    | with_reducible apply raise_keeps
    | with_reducible apply updCmd_keeps
    | with_reducible refine .foldl (fun _ _ => ?_) _ ?_
    | simp (disch := (first | with_reducible exact Iff.rfl | (dsimp only [SmpOk]; with_reducible exact Iff.rfl) | (dsimp only [TbuOk]; with_reducible exact Iff.rfl) | (dsimp only; with_reducible exact Iff.rfl))) only
        [Keeps.mk_iff]
    | split

theorem examineOne_keeps {R s id} (hR : Keeps R s) : Keeps R (examineOne s id) := by
  refine hR.trans ?_
  unfold examineOne
  repeat' first
    | dsimp only
    | with_reducible exact .refl
    | with_reducible refine .ite ?_ ?_
    | with_reducible apply breakChain_keeps
    | split

theorem applyThermal_keeps {R s} (hR : Keeps R s) : Keeps R (applyThermal s) :=
  hR.of_only (applyThermal_only .refl (by decide))

theorem changeLevel_keeps {R s l} (hR : Keeps R s) : Keeps R (changeLevel s l) :=
  hR.of_only (changeLevel_only .refl (by decide))

theorem gateDone_keeps {R s k forced} (hR : Keeps R s) : Keeps R (gateDone s k forced) :=
  hR.of_only (gateDone_only .refl (by decide))

theorem forceLose_keeps {R s k waiting} (hR : Keeps R s) : Keeps R (forceLose s k waiting) := by
  refine hR.trans ?_
  unfold forceLose
  repeat' first
    | dsimp only
    | with_reducible exact .refl
    | with_reducible refine .ite ?_ ?_
    | with_reducible apply postAll_keeps
    | with_reducible apply haltAce_keeps
    | with_reducible apply fixDone_keeps
    | with_reducible refine .foldl (fun _ _ => ?_) _ ?_
    | simp (disch := (first | with_reducible exact Iff.rfl | (dsimp only [SmpOk]; with_reducible exact Iff.rfl) | (dsimp only [TbuOk]; with_reducible exact Iff.rfl) | (dsimp only; with_reducible exact Iff.rfl))) only
        [Keeps.mk_iff]
    | split

theorem startJournal_keeps {R s b} (hR : Keeps R s) : Keeps R (startJournal s b) :=
  hR.of_only (startJournal_only .refl (by decide))

theorem firmwareStarts_keeps {R s} (hR : Keeps R s) : Keeps R (firmwareStarts s) :=
  hR.of_only (firmwareStarts_only .refl (by decide))

theorem leaveLull3_keeps {R s} (hR : Keeps R s) : Keeps R (leaveLull3 s) := by
  intro x
  have h1 : Keeps R (hostSideReset s) := hR.of_only (hostSideReset_only .refl (by decide))
  obtain ⟨a, b, c⟩ := h1 x
  exact ⟨a, b, rfl⟩

theorem runOwed_keeps {R s} (hR : Keeps R s) : Keeps R (runOwed s) := by
  refine hR.trans ?_
  unfold runOwed
  repeat' first
    | dsimp only
    | with_reducible exact .refl
    | with_reducible refine .ite ?_ ?_
    | with_reducible apply flrSteps_keeps
    | with_reducible apply hostBack_keeps
    | with_reducible refine .foldl (fun _ _ => ?_) _ ?_
    | simp (disch := (first | with_reducible exact Iff.rfl | (dsimp only [SmpOk]; with_reducible exact Iff.rfl) | (dsimp only [TbuOk]; with_reducible exact Iff.rfl) | (dsimp only; with_reducible exact Iff.rfl))) only
        [Keeps.mk_iff]

theorem raiseHeld_keeps {R s} (hR : Keeps R s) : Keeps R (raiseHeld s) :=
  hR.of_only (raiseHeld_only .refl (by decide))

theorem fenceDone_keeps {R s cls idx} (hR : Keeps R s) : Keeps R (fenceDone s cls idx) :=
  hR.of_only (fenceDone_only .refl (by decide))

theorem stopWork_keeps {R s cls idx} (hR : Keeps R s) : Keeps R (stopWork s cls idx).1 :=
  hR.of_only (stopWork_only .refl (by decide))

theorem updateAbortOne_keeps {R s c} (hR : Keeps R s) : Keeps R (updateAbortOne s c) := by
  refine hR.trans ?_
  unfold updateAbortOne
  repeat' first
    | dsimp only
    | with_reducible exact .refl
    | with_reducible refine .ite ?_ ?_
    | with_reducible apply abortOne_keeps
    | with_reducible apply updXp_keeps
    | simp (disch := (first | with_reducible exact Iff.rfl | (dsimp only [SmpOk]; with_reducible exact Iff.rfl) | (dsimp only [TbuOk]; with_reducible exact Iff.rfl) | (dsimp only; with_reducible exact Iff.rfl))) only
        [Keeps.mk_iff]
    | split

theorem switchImage_keeps {R s u carry img r} (hR : Keeps R s) : Keeps R (switchImage s u carry img r).1 := by
  refine hR.trans ?_
  unfold switchImage
  repeat' first
    | dsimp only
    | with_reducible exact .refl
    | with_reducible refine .ite ?_ ?_
    | with_reducible apply endPause_keeps
    | with_reducible apply settle_keeps
    | with_reducible apply startMbx_keeps
    | with_reducible apply updateAbortOne_keeps
    | with_reducible refine .foldl (fun _ _ => ?_) _ ?_
    | simp (disch := (first | with_reducible exact Iff.rfl | (dsimp only [SmpOk]; with_reducible exact Iff.rfl) | (dsimp only [TbuOk]; with_reducible exact Iff.rfl) | (dsimp only; with_reducible exact Iff.rfl))) only
        [Keeps.mk_iff]
    | split

theorem endUpdate_keeps {R s u outcome rtMask back} (hR : Keeps R s) : Keeps R (endUpdate s u outcome rtMask back) :=
  hR.of_only (endUpdate_only .refl (by decide))

theorem doSwitch_keeps {R s u} (hR : Keeps R s) : Keeps R (doSwitch s u) := by
  refine hR.trans ?_
  unfold doSwitch
  repeat' first
    | dsimp only
    | with_reducible exact .refl
    | with_reducible refine .ite ?_ ?_
    | with_reducible apply endUpdate_keeps
    | with_reducible apply switchImage_keeps
    | simp (disch := (first | with_reducible exact Iff.rfl | (dsimp only [SmpOk]; with_reducible exact Iff.rfl) | (dsimp only [TbuOk]; with_reducible exact Iff.rfl) | (dsimp only; with_reducible exact Iff.rfl))) only
        [Keeps.mk_iff]
    | split

theorem trySwitch_keeps {R s u} (hR : Keeps R s) : Keeps R (trySwitch s u) := by
  refine hR.trans ?_
  unfold trySwitch
  repeat' first
    | dsimp only
    | with_reducible exact .refl
    | with_reducible refine .ite ?_ ?_
    | with_reducible apply abortOne_keeps
    | with_reducible apply doSwitch_keeps
    | with_reducible refine .foldl (fun _ _ => ?_) _ ?_
    | simp (disch := (first | with_reducible exact Iff.rfl | (dsimp only [SmpOk]; with_reducible exact Iff.rfl) | (dsimp only [TbuOk]; with_reducible exact Iff.rfl) | (dsimp only; with_reducible exact Iff.rfl))) only
        [Keeps.mk_iff]

theorem resumeSwitch_keeps {R s} (hR : Keeps R s) : Keeps R (resumeSwitch s) := by
  refine hR.trans ?_
  unfold resumeSwitch
  repeat' first
    | dsimp only
    | with_reducible exact .refl
    | with_reducible refine .ite ?_ ?_
    | with_reducible apply doSwitch_keeps
    | split

theorem startPause_keeps {R s id} (hR : Keeps R s) : Keeps R (startPause s id) :=
  hR.of_only (startPause_only .refl (by decide))

theorem rollBack_keeps {R s u outcome} (hR : Keeps R s) : Keeps R (rollBack s u outcome) := by
  refine hR.trans ?_
  unfold rollBack
  repeat' first
    | dsimp only
    | with_reducible exact .refl
    | with_reducible refine .ite ?_ ?_
    | with_reducible apply trySwitch_keeps
    | simp (disch := (first | with_reducible exact Iff.rfl | (dsimp only [SmpOk]; with_reducible exact Iff.rfl) | (dsimp only [TbuOk]; with_reducible exact Iff.rfl) | (dsimp only; with_reducible exact Iff.rfl))) only
        [Keeps.mk_iff]

theorem nextIv_keeps {R s} (hR : Keeps R s) : Keeps R (nextIv s).2 :=
  hR.of_only (nextIv_only .refl (by decide))

theorem nextIv_kpair {R s i z} (h : nextIv s = (i, z)) (hR : Keeps R s) : Keeps R z := by
  have := nextIv_keeps (s := s) hR
  rwa [h] at this

theorem countReject_keeps {R s} (hR : Keeps R s) : Keeps R (countReject s) :=
  hR.of_only (countReject_only .refl (by decide))

theorem eraseSlot_keeps {R s kind slot} (hR : Keeps R s) : Keeps R (eraseSlot s kind slot) :=
  hR.of_only (eraseSlot_only .refl (by decide))

theorem cryptReads_keeps {R s c inSgl} (hR : Keeps R s) : Keeps R (cryptReads s c inSgl) :=
  hR.of_only (cryptReads_only .refl (by decide))

theorem finishWrite_keeps {R s id} (hR : Keeps R s) : Keeps R (finishWrite s id) :=
  hR.of_only (finishWrite_only .refl (by decide))

theorem failRec_keeps {R s c i k} (hR : Keeps R s) : Keeps R (failRec s c i k) :=
  hR.of_only (failRec_only .refl (by decide))

theorem ingestFault_keeps {R s c r k reread ev} (hR : Keeps R s) : Keeps R (ingestFault s c r k reread ev) :=
  hR.of_only (ingestFault_only .refl (by decide))

theorem damageRows_keeps {R s t n rows} (hR : Keeps R s) : Keeps R (damageRows s t n rows) :=
  hR.of_only (damageRows_only .refl (by decide))

theorem atEop_keeps {R s c t i} (hR : Keeps R s) : Keeps R (atEop s c t i) :=
  hR.of_only (atEop_only .refl (by decide))

theorem ackRecord_keeps {R s c x k st r m m' seq ds off last} (hR : Keeps R s) : Keeps R (ackRecord s c x k st r m m' seq ds off last) := by
  refine hR.trans ?_
  unfold ackRecord
  repeat' first
    | dsimp only
    | with_reducible exact .refl
    | with_reducible refine .ite ?_ ?_
    | with_reducible apply countFault_keeps
    | with_reducible apply countHw_keeps
    | with_reducible apply updCtx_keeps
    | with_reducible apply updCmd_keeps
    | with_reducible apply updStrm_keeps
    | with_reducible apply cmdWrite_keeps
    | with_reducible apply updMount_keeps
    | with_reducible apply addOcc_keeps
    | split

theorem sendAll_keeps {R s t b} (hR : Keeps R s) : Keeps R (sendAll s t b) :=
  hR.of_only (sendAll_only .refl (by decide))

theorem storeCm_keeps {R s t f} (hR : Keeps R s) : Keeps R (storeCm s t f) :=
  hR.of_only (storeCm_only .refl (by decide))

theorem faultXport_keeps {R s t cls tries ds} (hR : Keeps R s) : Keeps R (faultXport s t cls tries ds) :=
  hR.of_only (faultXport_only .refl (by decide))

theorem abandon_keeps {R s t n cause} (hR : Keeps R s) : Keeps R (abandon s t n cause) :=
  hR.of_only (abandon_only .refl (by decide))

theorem laneSegment_keeps {R t c s l} (hR : Keeps R s) : Keeps R (laneSegment t c s l) :=
  hR.of_only (laneSegment_only .refl (by decide))

theorem cutFlight_keeps {R s t} (hR : Keeps R s) : Keeps R (cutFlight s t) :=
  hR.of_only (cutFlight_only .refl (by decide))

theorem interrupt_keeps {R s t} (hR : Keeps R s) : Keeps R (interrupt s t) :=
  hR.of_only (interrupt_only .refl (by decide))

theorem recompute_keeps {R s d rate tds2} (hR : Keeps R s) : Keeps R (recompute s d rate tds2) :=
  hR.of_only (recompute_only .refl (by decide))

theorem recomputeXport_keeps {R s t} (hR : Keeps R s) : Keeps R (recomputeXport s t) :=
  hR.of_only (recomputeXport_only .refl (by decide))

theorem startLane_keeps {R s l} (hR : Keeps R s) : Keeps R (startLane s l) :=
  hR.of_only (startLane_only .refl (by decide))

theorem mountGo_keeps {R s t c} (hR : Keeps R s) : Keeps R (mountGo s t c) := by
  refine hR.trans ?_
  unfold mountGo
  repeat' first
    | dsimp only
    | with_reducible exact .refl
    | with_reducible refine .ite ?_ ?_
    | with_reducible apply answer_keeps
    | with_reducible apply startLane_keeps
    | with_reducible apply applyThermal_keeps
    | with_reducible apply recomputeXport_keeps
    | with_reducible apply updXp_keeps
    | with_reducible apply complete_keeps
    | with_reducible refine .foldl (fun _ _ => ?_) _ ?_
    | split

theorem cmFail_keeps {R s t id} (hR : Keeps R s) : Keeps R (cmFail s t id) :=
  hR.of_only (cmFail_only .refl (by decide))

theorem unmountEnd_keeps {R s t c n written} (hR : Keeps R s) : Keeps R (unmountEnd s t c n written) :=
  hR.of_only (unmountEnd_only .refl (by decide))

theorem unmountGo_keeps {R s t c n cmOk} (hR : Keeps R s) : Keeps R (unmountGo s t c n cmOk) :=
  hR.of_only (unmountGo_only .refl (by decide))

theorem cmResume_keeps {R s t id} (hR : Keeps R s) : Keeps R (cmResume s t id) := by
  refine hR.trans ?_
  unfold cmResume
  repeat' first
    | dsimp only
    | with_reducible exact .refl
    | with_reducible refine .ite ?_ ?_
    | with_reducible apply storeCm_keeps
    | with_reducible apply unmountEnd_keeps
    | with_reducible apply mountGo_keeps
    | split

theorem cmGiveUp_keeps {R s t id} (hR : Keeps R s) : Keeps R (cmGiveUp s t id) :=
  hR.of_only (cmGiveUp_only .refl (by decide))

theorem readBoundary_keeps {R s t} (hR : Keeps R s) : Keeps R (readBoundary s t) :=
  hR.of_only (readBoundary_only .refl (by decide))

theorem moveTape_keeps {R s t p n} (hR : Keeps R s) : Keeps R (moveTape s t p n) :=
  hR.of_only (moveTape_only .refl (by decide))

theorem takeTape_keeps {R s t id} (hR : Keeps R s) : Keeps R (takeTape s t id).2 :=
  hR.of_only (takeTape_only .refl (by decide))

theorem takeTape_kpair {R s t id i z} (h : takeTape s t id = (i, z)) (hR : Keeps R s) : Keeps R z := by
  have := takeTape_keeps (s := s) (t := t) (id := id) hR
  rwa [h] at this

theorem waitTape_keeps {R s c} (hR : Keeps R s) : Keeps R (waitTape s c) :=
  hR.of_only (waitTape_only .refl (by decide))

theorem restTape_keeps {R s t} (hR : Keeps R s) : Keeps R (restTape s t) :=
  hR.of_only (restTape_only .refl (by decide))

theorem notePins_keeps {R s t r} (hR : Keeps R s) : Keeps R (notePins s t r) :=
  hR.of_only (notePins_only .refl (by decide))

theorem countRecover_keeps {R s t n r} (hR : Keeps R s) : Keeps R (countRecover s t n r) :=
  hR.of_only (countRecover_only .refl (by decide))

theorem settleDs_keeps {R s t n good} (hR : Keeps R s) : Keeps R (settleDs s t n good) :=
  hR.of_only (settleDs_only .refl (by decide))

theorem releaseRestored_keeps {R s t part lo} (hR : Keeps R s) : Keeps R (releaseRestored s t part lo) :=
  hR.of_only (releaseRestored_only .refl (by decide))

theorem endRead_keeps {R s c t k} (hR : Keeps R s) : Keeps R (endRead s c t k) :=
  hR.of_only (endRead_only .refl (by decide))

theorem readStep_keeps {R s c st} (hR : Keeps R s) : Keeps R (readStep s c st) :=
  hR.of_only (readStep_only .refl (by decide))

theorem returnRec_keeps {R s c k st r status data} (hR : Keeps R s) : Keeps R (returnRec s c k st r status data) := by
  refine hR.trans ?_
  unfold returnRec
  repeat' first
    | dsimp only
    | with_reducible exact .refl
    | with_reducible refine .ite ?_ ?_
    | with_reducible apply readStep_keeps
    | with_reducible apply endRead_keeps
    | with_reducible apply setProg_keeps
    | with_reducible apply updStrm_keeps
    | with_reducible apply cmdWrite_keeps
    | with_reducible apply cmdScatter_keeps
    | with_reducible apply countFault_keeps
    | with_reducible refine .elim ?_ fun _ => ?_
    | split

theorem openSpent_keeps {R s c st r status ev} (hR : Keeps R s) : Keeps R (openSpent s c st r status ev) :=
  hR.of_only (openSpent_only .refl (by decide))

theorem restoreFault_keeps {R s c k st r seen ev} (hR : Keeps R s) : Keeps R (restoreFault s c k st r seen ev) := by
  refine hR.trans ?_
  unfold restoreFault
  repeat' first
    | dsimp only
    | with_reducible exact .refl
    | with_reducible refine .ite ?_ ?_
    | with_reducible apply returnRec_keeps
    | with_reducible apply faultSpent_keeps
    | with_reducible refine Keeps.of_only .refl (restoreRetry_some (by assumption) .refl (by decide))
    | split

theorem scanTags_keeps {R s c st x ds rep} (hR : Keeps R s) : Keeps R (scanTags s c st x ds rep).1 :=
  hR.of_only (scanTags_only .refl (by decide))

theorem endScan_keeps {R s c k st rep} (hR : Keeps R s) : Keeps R (endScan s c k st rep) := by
  refine hR.trans ?_
  unfold endScan
  repeat' first
    | dsimp only
    | with_reducible exact .refl
    | with_reducible refine .ite ?_ ?_
    | with_reducible apply answer_keeps
    | with_reducible apply restTape_keeps
    | with_reducible apply updStrm_keeps
    | split

theorem addRestored_keeps {R s t part n r need} (hR : Keeps R s) : Keeps R (addRestored s t part n r need) :=
  hR.of_only (addRestored_only .refl (by decide))

theorem secondDecode_keeps {R s c j r o} (hR : Keeps R s) : Keeps R (secondDecode s c j r o).1 :=
  hR.of_only (secondDecode_only .refl (by decide))

theorem leaveLane_keeps {R s id j o} (hR : Keeps R s) : Keeps R (leaveLane s id j o) := by
  refine hR.trans ?_
  unfold leaveLane
  repeat' first
    | dsimp only
    | with_reducible exact .refl
    | with_reducible refine .ite ?_ ?_
    | with_reducible apply resumeSwitch_keeps
    | with_reducible apply uncount_keeps
    | simp (disch := (first | with_reducible exact Iff.rfl | (dsimp only [SmpOk]; with_reducible exact Iff.rfl) | (dsimp only [TbuOk]; with_reducible exact Iff.rfl) | (dsimp only; with_reducible exact Iff.rfl))) only
        [Keeps.mk_iff]

theorem clearWflt_keeps {R s t} (hR : Keeps R s) : Keeps R (clearWflt s t) :=
  hR.of_only (clearWflt_only .refl (by decide))

theorem resumeUpdate_keeps {R s} (hR : Keeps R s) : Keeps R (resumeUpdate s) := by
  refine hR.trans ?_
  unfold resumeUpdate
  repeat' first
    | dsimp only
    | with_reducible exact .refl
    | with_reducible refine .ite ?_ ?_
    | with_reducible apply resumeSwitch_keeps
    | with_reducible apply trySwitch_keeps
    | split

theorem dropGates_keeps {R s} (hR : Keeps R s) : Keeps R (dropGates s) :=
  hR.of_only (dropGates_only .refl (by decide))

theorem stopStream_keeps {R s k} (hR : Keeps R s) : Keeps R (stopStream s k) := by
  refine hR.trans ?_
  unfold stopStream
  repeat' first
    | dsimp only
    | with_reducible exact .refl
    | with_reducible refine .ite ?_ ?_
    | with_reducible apply setAce_keeps
    | simp (disch := (first | with_reducible exact Iff.rfl | (dsimp only [SmpOk]; with_reducible exact Iff.rfl) | (dsimp only [TbuOk]; with_reducible exact Iff.rfl) | (dsimp only; with_reducible exact Iff.rfl))) only
        [Keeps.mk_iff]

theorem startStream_keeps {R s k c} (hR : Keeps R s) : Keeps R (startStream s k c) := by
  refine hR.trans ?_
  unfold startStream
  repeat' first
    | dsimp only
    | with_reducible exact .refl
    | with_reducible refine .ite ?_ ?_
    | with_reducible apply setAce_keeps
    | with_reducible apply overrun_keeps
    | simp (disch := (first | with_reducible exact Iff.rfl | (dsimp only [SmpOk]; with_reducible exact Iff.rfl) | (dsimp only [TbuOk]; with_reducible exact Iff.rfl) | (dsimp only; with_reducible exact Iff.rfl))) only
        [Keeps.mk_iff]

theorem setPps_keeps {R s p} (hR : Keeps R s) : Keeps R (setPps s p) := by
  refine hR.trans ?_
  unfold setPps
  repeat' first
    | dsimp only
    | with_reducible exact .refl
    | with_reducible refine .ite ?_ ?_
    | with_reducible apply raise_keeps
    | simp (disch := (first | with_reducible exact Iff.rfl | (dsimp only [SmpOk]; with_reducible exact Iff.rfl) | (dsimp only [TbuOk]; with_reducible exact Iff.rfl) | (dsimp only; with_reducible exact Iff.rfl))) only
        [Keeps.mk_iff]

theorem acquire_keeps {R s} (hR : Keeps R s) : Keeps R (acquire s) := by
  refine hR.trans ?_
  unfold acquire
  repeat' first
    | dsimp only
    | with_reducible exact .refl
    | with_reducible refine .ite ?_ ?_
    | with_reducible apply setPps_keeps
    | simp (disch := (first | with_reducible exact Iff.rfl | (dsimp only [SmpOk]; with_reducible exact Iff.rfl) | (dsimp only [TbuOk]; with_reducible exact Iff.rfl) | (dsimp only; with_reducible exact Iff.rfl))) only
        [Keeps.mk_iff]

theorem fireTimer_keeps {R s k} (hR : Keeps R s) : Keeps R (fireTimer s k) :=
  hR.of_only (fireTimer_only .refl (by decide))

theorem risePpsOut_keeps {R s} (hR : Keeps R s) : Keeps R (risePpsOut s) := by
  refine hR.trans ?_
  unfold risePpsOut
  repeat' first
    | dsimp only
    | with_reducible exact .refl
    | with_reducible refine .ite ?_ ?_
    | simp (disch := (first | with_reducible exact Iff.rfl | (dsimp only [SmpOk]; with_reducible exact Iff.rfl) | (dsimp only [TbuOk]; with_reducible exact Iff.rfl) | (dsimp only; with_reducible exact Iff.rfl))) only
        [Keeps.mk_iff]

theorem stepForward_keeps {R s t0 d} (hR : Keeps R s) : Keeps R (stepForward s t0 d) := by
  refine hR.trans ?_
  unfold stepForward
  repeat' first
    | dsimp only
    | with_reducible exact .refl
    | with_reducible refine .ite ?_ ?_
    | with_reducible apply risePpsOut_keeps
    | with_reducible apply fireTimer_keeps
    | with_reducible refine .foldl (fun _ _ => ?_) _ ?_
    | simp (disch := (first | with_reducible exact Iff.rfl | (dsimp only [SmpOk]; with_reducible exact Iff.rfl) | (dsimp only [TbuOk]; with_reducible exact Iff.rfl) | (dsimp only; with_reducible exact Iff.rfl))) only
        [Keeps.mk_iff]

theorem stepTime_keeps {R s d} (hR : Keeps R s) : Keeps R (stepTime s d) := by
  refine hR.trans ?_
  unfold stepTime
  have k : Keeps s { s with tbu := { setNs s.tbu (timeNs s + d) with
      steps := satAdd 32 (setNs s.tbu (timeNs s + d)).steps 1, run := [], prev := (setNs s.tbu (timeNs s + d)).prev.map (· + d) } } := by
    intro x
    obtain ⟨a, b, c⟩ := x
    exact ⟨a, (show TbuOk (setNs s.tbu (timeNs s + d)) from setNs_ok b), c⟩
  split
  · exact .refl
  · dsimp only
    refine raise_keeps ?_
    split
    · exact stepForward_keeps k
    · exact k

theorem stepBySet_keeps {R s d} (hR : Keeps R s) : Keeps R (stepBySet s d) := by
  refine hR.trans ?_
  unfold stepBySet
  repeat' first
    | dsimp only
    | with_reducible exact .refl
    | with_reducible refine .ite ?_ ?_
    | with_reducible apply acquire_keeps
    | with_reducible apply stepTime_keeps

theorem setAtEdge_keeps {R s} (hR : Keeps R s) : Keeps R (setAtEdge s) := by
  refine hR.trans ?_
  unfold setAtEdge
  split
  · exact complete_keeps (stepBySet_keeps ((Keeps.mk_iff Iff.rfl Iff.rfl Iff.rfl).2 .refl))
  · exact .refl

theorem acceptEdge_keeps {R s o} (hR : Keeps R s) : Keeps R (acceptEdge s o) := by
  refine hR.trans ?_
  unfold acceptEdge
  dsimp only
  have k : Keeps s { s with tbu := { s.tbu with
      f := (if s.tbu.manual then s.tbu.f else clampPpb (s.tbu.f - o / (2 ^ s.tbu.shift : Int))), slew := -o,
      slewAt := now s + secTicks, accepted := satAdd 32 s.tbu.accepted 1, run := [], accAt := now s } } := by
    intro x
    obtain ⟨a, b, c⟩ := x
    refine ⟨a, ?_, c⟩
    split
    · exact b
    · exact clamp_ok b
  refine fireSource_keeps ?_
  repeat' first
    | exact k
    | with_reducible refine acquire_keeps ?_
    | with_reducible refine setPps_keeps ?_
    | simp (disch := (first | with_reducible exact Iff.rfl | (dsimp only [SmpOk]; with_reducible exact Iff.rfl) | (dsimp only [TbuOk]; with_reducible exact Iff.rfl) | (dsimp only; with_reducible exact Iff.rfl))) only
        [Keeps.mk_iff]
    | split

theorem rejectEdge_keeps {R s o gap} (hR : Keeps R s) : Keeps R (rejectEdge s o gap) := by
  refine hR.trans ?_
  have k : ∀ (u : Tbu) (f : Int), u.ns = s.tbu.ns → u.sec = s.tbu.sec → u.f = f → u.shift = s.tbu.shift → u.win = s.tbu.win →
      u.outWidth = s.tbu.outWidth → (f = s.tbu.f ∨ ∃ g, f = clampPpb g) → Keeps s { s with tbu := u } := by
    intro u f a1 a2 a3 a4 a5 a6 hf ⟨a, b, c⟩
    refine ⟨a, ?_, c⟩
    have b' : TbuOk { s.tbu with f := f } := by
      rcases hf with rfl | ⟨g, rfl⟩
      · exact b
      · exact clamp_ok b
    simp only [TbuOk] at b' ⊢
    rw [a1, a2, a3, a4, a5, a6]
    exact b'
  have q : ∀ g, (match gap with
      | some g => if s.tbu.pps != PpsSt.locked && !s.tbu.manual && decide (|g - 1000000000| ≤ 250000) then clampPpb (s.tbu.f - (g - 1000000000)) else s.tbu.f
      | none => s.tbu.f) = g → (g = s.tbu.f ∨ ∃ h, g = clampPpb h) := by
    rintro g rfl
    split
    · split
      · exact .inr ⟨_, rfl⟩
      · exact .inl rfl
    · exact .inl rfl
  unfold rejectEdge
  dsimp only
  split
  · refine acquire_keeps (stepTime_keeps (k _ _ rfl rfl rfl rfl rfl rfl (q _ rfl)))
  · exact k _ _ rfl rfl rfl rfl rfl rfl (q _ rfl)

theorem writeTbuCfg_keeps {R s v} (hR : Keeps R s) : Keeps R (writeTbuCfg s v) := by
  refine hR.trans ?_
  have k : ∀ (u : Tbu) n, u.ns = s.tbu.ns → u.sec = s.tbu.sec → u.f = s.tbu.f → u.shift = n → n < 16 → u.win = s.tbu.win →
      u.outWidth = s.tbu.outWidth → Keeps s { s with tbu := u } := by
    intro u n a1 a2 a3 a4 a5 a6 a7 ⟨a, b, c⟩
    refine ⟨a, ?_, c⟩
    simp only [TbuOk] at b ⊢
    rw [a1, a2, a3, a4, a6, a7]
    exact ⟨b.1, b.2.1, b.2.2.1, b.2.2.2.1, a5, b.2.2.2.2.2⟩
  have q : bitsOf v.toNat 3 4 < 16 := Nat.mod_lt _ (by decide)
  unfold writeTbuCfg
  dsimp only
  split
  · exact k _ _ rfl rfl rfl rfl q rfl rfl
  · exact setPps_keeps (k _ _ rfl rfl rfl rfl q rfl rfl)

theorem writeTimer_keeps {R s k isCtrl v} (hR : Keeps R s) : Keeps R (writeTimer s k isCtrl v) := by
  refine hR.trans ?_
  unfold writeTimer
  repeat' first
    | dsimp only
    | with_reducible exact .refl
    | with_reducible refine .ite ?_ ?_
    | simp (disch := (first | with_reducible exact Iff.rfl | (dsimp only [SmpOk]; with_reducible exact Iff.rfl) | (dsimp only [TbuOk]; with_reducible exact Iff.rfl) | (dsimp only; with_reducible exact Iff.rfl))) only
        [Keeps.mk_iff]

theorem writeAlarm_keeps {R s a v} (hR : Keeps R s) : Keeps R (writeAlarm s a v) := by
  refine hR.trans ?_
  unfold writeAlarm
  repeat' first
    | dsimp only
    | with_reducible exact .refl
    | with_reducible refine .ite ?_ ?_
    | simp (disch := (first | with_reducible exact Iff.rfl | (dsimp only [SmpOk]; with_reducible exact Iff.rfl) | (dsimp only [TbuOk]; with_reducible exact Iff.rfl) | (dsimp only; with_reducible exact Iff.rfl))) only
        [Keeps.mk_iff]

theorem readTime_keeps {R s} (hR : Keeps R s) : Keeps R (readTime s).2 := by
  refine hR.trans ?_
  unfold readTime
  repeat' first
    | dsimp only
    | with_reducible exact .refl
    | with_reducible refine .ite ?_ ?_
    | simp (disch := (first | with_reducible exact Iff.rfl | (dsimp only [SmpOk]; with_reducible exact Iff.rfl) | (dsimp only [TbuOk]; with_reducible exact Iff.rfl) | (dsimp only; with_reducible exact Iff.rfl))) only
        [Keeps.mk_iff]
    | split

theorem readTime_kpair {R s i z} (h : readTime s = (i, z)) (hR : Keeps R s) : Keeps R z := by
  have := readTime_keeps (s := s) hR
  rwa [h] at this

theorem readFn_keeps {R s fn off} (hR : Keeps R s) : Keeps R (readFn s fn off).2 :=
  hR.of_only (readFn_only .refl (by decide))

theorem readFn_kpair {R s fn off i z} (h : readFn s fn off = (i, z)) (hR : Keeps R s) : Keeps R z := by
  have := readFn_keeps (s := s) (fn := fn) (off := off) hR
  rwa [h] at this

theorem writeFn_keeps {R s fn off v} (hR : Keeps R s) : Keeps R (writeFn s fn off v) :=
  hR.of_only (writeFn_only .refl (by decide))

theorem writeMsix_keeps {R s fn vec w v} (hR : Keeps R s) : Keeps R (writeMsix s fn vec w v) :=
  hR.of_only (writeMsix_only .refl (by decide))

theorem writeSk_keeps {R s fn slot off v} (hR : Keeps R s) : Keeps R (writeSk s fn slot off v) :=
  hR.of_only (writeSk_only .refl (by decide))

theorem readEvr_keeps {R s off} (hR : Keeps R s) : Keeps R (readEvr s off).2 :=
  hR.of_only (readEvr_only .refl (by decide))

theorem readEvr_kpair {R s off i z} (h : readEvr s off = (i, z)) (hR : Keeps R s) : Keeps R z := by
  have := readEvr_keeps (s := s) (off := off) hR
  rwa [h] at this

theorem writeEvr_keeps {R s off v} (hR : Keeps R s) : Keeps R (writeEvr s off v) :=
  hR.of_only (writeEvr_only .refl (by decide))

theorem readAce_keeps {R s off} (hR : Keeps R s) : Keeps R (readAce s off).2 :=
  hR.of_only (readAce_only .refl (by decide))

theorem readAce_kpair {R s off i z} (h : readAce s off = (i, z)) (hR : Keeps R s) : Keeps R z := by
  have := readAce_keeps (s := s) (off := off) hR
  rwa [h] at this

theorem writeAce_keeps {R s origin off v} (hR : Keeps R s) : Keeps R (writeAce s origin off v) :=
  hR.of_only (writeAce_only .refl (by decide))

theorem tbuStatus_keeps {R s} (hR : Keeps R s) : Keeps R (tbuStatus s).2 :=
  hR.of_only (tbuStatus_only .refl (by decide))

theorem tbuStatus_kpair {R s i z} (h : tbuStatus s = (i, z)) (hR : Keeps R s) : Keeps R z := by
  have := tbuStatus_keeps (s := s) hR
  rwa [h] at this

theorem readTbu_keeps {R s off} (hR : Keeps R s) : Keeps R (readTbu s off).2 := by
  refine hR.trans ?_
  unfold readTbu
  repeat' first
    | dsimp only
    | with_reducible exact .refl
    | with_reducible refine .ite ?_ ?_
    | with_reducible apply tbuStatus_keeps
    | with_reducible apply readTime_keeps
    | simp (disch := (first | with_reducible exact Iff.rfl | (dsimp only [SmpOk]; with_reducible exact Iff.rfl) | (dsimp only [TbuOk]; with_reducible exact Iff.rfl) | (dsimp only; with_reducible exact Iff.rfl))) only
        [Keeps.mk_iff]
    | split

theorem readTbu_kpair {R s off i z} (h : readTbu s off = (i, z)) (hR : Keeps R s) : Keeps R z := by
  have := readTbu_keeps (s := s) (off := off) hR
  rwa [h] at this

theorem writeAlarmTime_keeps {R s a r w} (hR : Keeps R s) : Keeps R (writeAlarmTime s a r w) := by
  refine hR.trans ?_
  unfold writeAlarmTime
  repeat' first
    | dsimp only
    | with_reducible exact .refl
    | with_reducible refine .ite ?_ ?_
    | simp (disch := (first | with_reducible exact Iff.rfl | (dsimp only [SmpOk]; with_reducible exact Iff.rfl) | (dsimp only [TbuOk]; with_reducible exact Iff.rfl) | (dsimp only; with_reducible exact Iff.rfl))) only
        [Keeps.mk_iff]
    | split

theorem writeTbu_keeps {R s off v} (hR : Keeps R s) : Keeps R (writeTbu s off v) := by
  refine hR.trans ?_
  unfold writeTbu
  dsimp only
  split
  · exact writeTbuCfg_keeps .refl
  · split
    · intro ⟨a, b, c⟩
      rename_i h
      obtain ⟨b1, b2, b3, b4, b5, b6, b7, b8⟩ := b
      exact ⟨a, ⟨b1, b2, b3, b4, b5, h.1, h.2, b8⟩, c⟩
    · exact .refl
  · split
    · exact id
    · exact .refl
  · split
    · intro ⟨a, b, c⟩
      rename_i h
      obtain ⟨b1, b2, b3, b4, b5⟩ := b
      have := abs_le.1 h.2
      exact ⟨a, ⟨b1, b2, this.1, this.2, b5⟩, c⟩
    · exact .refl
  · split
    · exact id
    · exact .refl
  · split
    · intro ⟨a, b, c⟩
      rename_i h
      obtain ⟨b1, b2, b3, b4, b5, b6, b7, b8⟩ := b
      exact ⟨a, ⟨b1, b2, b3, b4, b5, b6, b7, h⟩, c⟩
    · exact .refl
  · split
    · exact writeTimer_keeps .refl
    · split
      · split
        · exact writeAlarm_keeps .refl
        · exact writeAlarmTime_keeps .refl
      · exact .refl

theorem readGate_keeps {R s off} (hR : Keeps R s) : Keeps R (readGate s off).2 :=
  hR.of_only (readGate_only .refl (by decide))

theorem readGate_kpair {R s off i z} (h : readGate s off = (i, z)) (hR : Keeps R s) : Keeps R z := by
  have := readGate_keeps (s := s) (off := off) hR
  rwa [h] at this

theorem writeGate_keeps {R s off v} (hR : Keeps R s) : Keeps R (writeGate s off v) :=
  hR.of_only (writeGate_only .refl (by decide))

theorem writeWi_keeps {R s t r v} (hR : Keeps R s) : Keeps R (writeWi s t r v) :=
  hR.of_only (writeWi_only .refl (by decide))

theorem readDev_keeps {R s off} (hR : Keeps R s) : Keeps R (readDev s off).2 := by
  refine hR.trans ?_
  unfold readDev
  repeat' first
    | dsimp only
    | with_reducible exact .refl
    | with_reducible refine .ite ?_ ?_
    | with_reducible apply readGate_keeps
    | with_reducible apply readTbu_keeps
    | with_reducible apply readAce_keeps
    | with_reducible apply setGate_keeps
    | with_reducible apply readEvr_keeps
    | split

theorem readDev_kpair {R s off i z} (h : readDev s off = (i, z)) (hR : Keeps R s) : Keeps R z := by
  have := readDev_keeps (s := s) (off := off) hR
  rwa [h] at this

theorem writeDev_keeps {R s origin off v} (hR : Keeps R s) : Keeps R (writeDev s origin off v) := by
  refine hR.trans ?_
  unfold writeDev
  repeat' first
    | dsimp only
    | with_reducible exact .refl
    | with_reducible refine .ite ?_ ?_
    | with_reducible apply writeWi_keeps
    | with_reducible apply writeGate_keeps
    | with_reducible apply writeTbu_keeps
    | with_reducible apply writeAce_keeps
    | with_reducible apply writeEvr_keeps

theorem readBar0_keeps {R s fn off} (hR : Keeps R s) : Keeps R (readBar0 s fn off).2 := by
  refine hR.trans ?_
  unfold readBar0
  repeat' first
    | dsimp only
    | with_reducible exact .refl
    | with_reducible refine .ite ?_ ?_
    | with_reducible apply readDev_keeps
    | with_reducible apply readFn_keeps
    | split

theorem readBar0_kpair {R s fn off i z} (h : readBar0 s fn off = (i, z)) (hR : Keeps R s) : Keeps R z := by
  have := readBar0_keeps (s := s) (fn := fn) (off := off) hR
  rwa [h] at this

theorem writeBar0_keeps {R s fn off v} (hR : Keeps R s) : Keeps R (writeBar0 s fn off v) := by
  refine hR.trans ?_
  unfold writeBar0
  repeat' first
    | dsimp only
    | with_reducible exact .refl
    | with_reducible refine .ite ?_ ?_
    | with_reducible apply writeDev_keeps
    | with_reducible apply writeSk_keeps
    | with_reducible apply writeMsix_keeps
    | with_reducible apply doorbell_keeps
    | with_reducible apply writeFn_keeps

theorem hostWrite_keeps {R s fn off size v} (hR : Keeps R s) : Keeps R (hostWrite s fn off size v) := by
  refine hR.trans ?_
  unfold hostWrite
  repeat' first
    | dsimp only
    | with_reducible exact .refl
    | with_reducible refine .ite ?_ ?_
    | with_reducible apply writeBar0_keeps
    | with_reducible apply recordFnErr_keeps

theorem barWrite_keeps {R s fn off size v poisoned ecrc} (hR : Keeps R s) : Keeps R (barWrite s fn off size v poisoned ecrc) := by
  refine hR.trans ?_
  unfold barWrite
  repeat' first
    | dsimp only
    | with_reducible exact .refl
    | with_reducible refine .ite ?_ ?_
    | with_reducible apply hostWrite_keeps
    | with_reducible apply logUnc_keeps

theorem writeCfg_keeps {R s fn f v} (hR : Keeps R s) : Keeps R (writeCfg s fn f v) :=
  hR.of_only (writeCfg_only .refl (by decide))

theorem writeAer_keeps {R s fn r v} (hR : Keeps R s) : Keeps R (writeAer s fn r v) :=
  hR.of_only (writeAer_only .refl (by decide))

theorem busError_keeps {R s fn e} (hR : Keeps R s) : Keeps R (busError s fn e) :=
  hR.of_only (busError_only .refl (by decide))

theorem cfgRead_keeps {R s fn i} (hR : Keeps R s) : Keeps R (cfgRead s fn i) :=
  hR.of_only (cfgRead_only .refl (by decide))

theorem hostRead_keeps {R s fn off size} (hR : Keeps R s) : Keeps R (hostRead s fn off size) := by
  refine hR.trans ?_
  unfold hostRead
  repeat' first
    | dsimp only
    | with_reducible exact .refl
    | with_reducible refine .ite ?_ ?_
    | with_reducible apply reply_keeps
    | with_reducible apply readBar0_keeps

theorem barRead_keeps {R s fn off size} (hR : Keeps R s) : Keeps R (barRead s fn off size) := by
  refine hR.trans ?_
  unfold barRead
  repeat' first
    | dsimp only
    | with_reducible exact .refl
    | with_reducible refine .ite ?_ ?_
    | with_reducible apply hostRead_keeps
    | with_reducible apply reply_keeps
    | with_reducible apply refuseRead_keeps
    | simp (disch := (first | with_reducible exact Iff.rfl | (dsimp only [SmpOk]; with_reducible exact Iff.rfl) | (dsimp only [TbuOk]; with_reducible exact Iff.rfl) | (dsimp only; with_reducible exact Iff.rfl))) only
        [Keeps.mk_iff]

theorem setErr_keeps {R s k} (hR : Keeps R s) (hk : k < 6) : Keeps R (setErr s k) := by
  refine hR.trans ?_
  have h : Keeps s { s with smp.err := s.smp.err ||| BitVec.ofNat 8 (2 ^ k), smp.errCount := satAdd 8 s.smp.errCount 1 } := by
    intro ⟨⟨a1, a2, a3, a4, a5, a6, a7⟩, b⟩
    refine ⟨⟨a1, a2, a3, a4, Nat.min_le_right _ _, ?_, a7⟩, b⟩
    have : s.smp.err ||| BitVec.ofNat 8 (2 ^ k) < 64 := by
      generalize s.smp.err = e at a6
      revert k e
      decide
    exact this
  unfold setErr
  dsimp only
  split
  · exact h
  · exact raise_keeps h

theorem endInd_keeps {R s write inc err v} (hR : Keeps R s) (he : err < 4) : Keeps R (endInd s write inc err v) := by
  refine hR.trans ?_
  unfold endInd
  dsimp only
  refine startNotch_keeps (raiseAttn_keeps ?_)
  intro ⟨⟨a1, a2, a3, a4, a5, a6, a7, a8, a9, a10⟩, b⟩
  have h : ∀ a : Word, (a = s.smp.indAddr ∨ a = BitVec.ofNat 32 ((s.smp.indAddr.toNat + 4) % 2 ^ 24)) →
      a.toNat < 2 ^ 24 ∧ a.toNat % 4 = 0 := by
    rintro a (rfl | rfl)
    · exact ⟨a8, a9⟩
    · rw [BitVec.toNat_ofNat]; omega
  have g := h (if err = 0 && inc then BitVec.ofNat 32 ((s.smp.indAddr.toNat + 4) % 2 ^ 24) else s.smp.indAddr) (by
    split
    · exact .inr rfl
    · exact .inl rfl)
  exact ⟨⟨a1, a2, a3, a4, a5, a6, he, g.1, g.2, a10⟩, b⟩

theorem startInd_keeps {R s write inc} (hR : Keeps R s) : Keeps R (startInd s write inc) := by
  refine hR.trans ?_
  unfold startInd
  split
  · exact id
  · exact endInd_keeps .refl (by decide)

theorem writeIndCtrl_keeps {R s v} (hR : Keeps R s) : Keeps R (writeIndCtrl s v) := by
  refine hR.trans ?_
  unfold writeIndCtrl
  split
  · exact setErr_keeps .refl (by decide)
  · split
    · exact setErr_keeps .refl (by decide)
    · exact startInd_keeps .refl

theorem mailboxGo_keeps {R s} (hR : Keeps R s) : Keeps R (mailboxGo s) := by
  refine hR.trans ?_
  unfold mailboxGo
  split
  · exact setErr_keeps .refl (by decide)
  · dsimp only
    split
    · refine deliverMbx_keeps ?_
      exact id
    · refine startMbx_keeps ?_
      exact id

theorem writePage0_keeps {R s a b} (hR : Keeps R s) : Keeps R (writePage0 s a b) := by
  refine hR.trans ?_
  unfold writePage0
  split
  · intro ⟨⟨a1, a2, a3, a4, a5, a6, a7⟩, c⟩
    refine ⟨⟨a1, a2, a3, a4, a5, ?_, a7⟩, c⟩
    have : s.smp.err &&& ~~~b ≤ s.smp.err := by
      rw [BitVec.le_def, BitVec.toNat_and]
      exact Nat.and_le_left
    exact Nat.lt_of_le_of_lt this a6
  · exact setAttn_keeps .refl
  · exact setAttn_keeps .refl
  · exact id
  · exact writeIndCtrl_keeps .refl
  · split
    · split
      · exact setErr_keeps .refl (by decide)
      · split
        · intro ⟨⟨a1, a2, a3, a4, a5, a6, a7, a8, a9, a10⟩, c⟩
          have e : (putByte s.smp.indAddr (a - 16) b.toNat &&& 0x00FFFFFC).toNat < 2 ^ 24 ∧
              (putByte s.smp.indAddr (a - 16) b.toNat &&& 0x00FFFFFC).toNat % 4 = 0 := by
            rw [BitVec.toNat_and]
            refine ⟨Nat.lt_of_le_of_lt Nat.and_le_right (by decide), ?_⟩
            rw [show 4 = 2 ^ 2 from rfl, Nat.and_mod_two_pow]
            exact Nat.and_zero _
          exact ⟨⟨a1, a2, a3, a4, a5, a6, a7, e.1, e.2, a10⟩, c⟩
        · exact id
    · exact .refl

theorem setErr_wb (s : State) (k : Nat) : (setErr s k).smp.wb = s.smp.wb := by
  unfold setErr
  dsimp only
  split
  · rfl
  · exact (raise_only (L := [.outputs, .events]) .refl (by decide) .smpPort (by decide)).2.2.2.2.1

theorem endInd_wb (s : State) (w i : Bool) (e v : Nat) : (endInd s w i e v).smp.wb = s.smp.wb := by
  unfold endInd
  dsimp only
  exact (startNotch_only (L := [.events]) (raiseAttn_only .refl (by decide)) (by decide) .smpPort (by decide)).2.2.2.2.1

theorem commit_wb (s : State) (p a : Nat) (b : Byte) : (commit s p a b).smp.wb = s.smp.wb := by
  have hi : ∀ v, (writeIndCtrl s v).smp.wb = s.smp.wb := by
    intro v
    unfold writeIndCtrl startInd
    repeat' first | exact setErr_wb _ _ | exact endInd_wb _ _ _ _ _ | rfl | split
  have hm : (mailboxGo s).smp.wb = s.smp.wb := by
    unfold mailboxGo
    dsimp only
    split
    · exact setErr_wb _ _
    · split
      · exact (deliverMbx_only (L := [.events, .mailbox]) .refl (by decide) .smpPort (by decide)).2.2.2.2.1
      · exact (startMbx_only (L := [.commands, .headwind]) .refl (by decide) .smpPort (by decide)).2.2.2.2.1
  have ha : ∀ x y, (setAttn s x y).smp.wb = s.smp.wb := fun x y =>
    (setAttn_only (L := [.events]) .refl (by decide) .smpPort (by decide)).2.2.2.2.1
  unfold commit writePage0
  dsimp only
  repeat' first | exact hi _ | exact hm | exact ha _ _ | exact setErr_wb _ _ | rfl | split

theorem commit_keeps {R s p a b} (hR : Keeps R s) : Keeps R (commit s p a b) := by
  refine hR.trans ?_
  unfold commit
  split
  · intro ⟨⟨a1, a2, a3, a4, a5⟩, c⟩
    exact ⟨⟨a1, a2, a3, b.isLt, a5⟩, c⟩
  · split
    · exact writePage0_keeps .refl
    · split
      · split
        · exact id
        · split
          · exact mailboxGo_keeps .refl
          · exact .refl
      · split
        · split
          · exact putMbx_keeps .refl
          · exact .refl
        · exact setErr_keeps .refl (by decide)

theorem nextAddr_lt {a : Nat} (h : a < 128) : nextAddr a < 128 := by
  unfold nextAddr
  split <;> omega

theorem byteOut_keeps {R s} (hR : Keeps R s) : Keeps R (byteOut s) := by
  refine hR.trans ?_
  unfold byteOut
  split
  · intro ⟨⟨a1, a2, a3, a4, a5, a6⟩, c⟩
    exact ⟨⟨a1, a2, a3, a4, Nat.zero_le _, a6⟩, c⟩
  · exact .refl

theorem sendByte_keeps {R s} (hR : Keeps R s) : Keeps R (sendByte s) := by
  refine hR.trans ?_
  unfold sendByte
  dsimp only
  intro h
  have g := h.1.2.2.1
  have k : StateOk (if s.smp.addr ≠ 0x7F ∧ !pageKnown s.smp.page then setErr s errBadPage else s) := by
    split
    · exact setErr_keeps .refl (by decide) h
    · exact h
  obtain ⟨⟨a1, a2, a3, a4⟩, c⟩ := k
  exact ⟨⟨a1, a2, nextAddr_lt g, a4⟩, c⟩

theorem notePeer_keeps {R s k b} (hR : Keeps R s) : Keeps R (notePeer s k b) :=
  hR.of_only (notePeer_only .refl (by decide))

theorem peerRead_keeps {R s k} (hR : Keeps R s) : Keeps R (peerRead s k) :=
  hR.of_only (peerRead_only .refl (by decide))

theorem peerLost_keeps {R s k} (hR : Keeps R s) : Keeps R (peerLost s k) :=
  hR.of_only (peerLost_only .refl (by decide))

end Sys2Proof.Machine
end

