-- ==== Sys2Proof/Laws/State.lean ====
section
/-! SUPPORT. What each plain update of the state leaves as it was, field by field, and what is read back after it. -/

namespace Sys2Proof.Machine

/-! ### setFn -/

@[simp] theorem setFn_pending (s : State) (n : Nat) (f : FnState) : (setFn s n f).pending = s.pending := rfl
@[simp] theorem setFn_clk (s : State) (n : Nat) (f : FnState) : (setFn s n f).clk = s.clk := rfl
@[simp] theorem setFn_out (s : State) (n : Nat) (f : FnState) : (setFn s n f).out = s.out := rfl
@[simp] theorem setFn_rings (s : State) (n : Nat) (f : FnState) : (setFn s n f).rings = s.rings := rfl
@[simp] theorem setFn_ten (s : State) (n : Nat) (f : FnState) : (setFn s n f).ten = s.ten := rfl
@[simp] theorem setFn_keys (s : State) (n : Nat) (f : FnState) : (setFn s n f).keys = s.keys := rfl
@[simp] theorem setFn_strm (s : State) (n : Nat) (f : FnState) : (setFn s n f).strm = s.strm := rfl
@[simp] theorem setFn_xp (s : State) (n : Nat) (f : FnState) : (setFn s n f).xp = s.xp := rfl
@[simp] theorem setFn_rc (s : State) (n : Nat) (f : FnState) : (setFn s n f).rc = s.rc := rfl
@[simp] theorem setFn_svc (s : State) (n : Nat) (f : FnState) : (setFn s n f).svc = s.svc := rfl
@[simp] theorem setFn_ace (s : State) (n : Nat) (f : FnState) : (setFn s n f).ace = s.ace := rfl
@[simp] theorem setFn_smp (s : State) (n : Nat) (f : FnState) : (setFn s n f).smp = s.smp := rfl
@[simp] theorem setFn_tbu (s : State) (n : Nat) (f : FnState) : (setFn s n f).tbu = s.tbu := rfl
@[simp] theorem setFn_pmu (s : State) (n : Nat) (f : FnState) : (setFn s n f).pmu = s.pmu := rfl
@[simp] theorem setFn_evr (s : State) (n : Nat) (f : FnState) : (setFn s n f).evr = s.evr := rfl
@[simp] theorem setFn_flt (s : State) (n : Nat) (f : FnState) : (setFn s n f).flt = s.flt := rfl

/-! ### updXp -/

@[simp] theorem updXp_pending (s : State) (t : Nat) (f : Xport → Xport) : (updXp s t f).pending = s.pending := rfl
@[simp] theorem updXp_clk (s : State) (t : Nat) (f : Xport → Xport) : (updXp s t f).clk = s.clk := rfl
@[simp] theorem updXp_out (s : State) (t : Nat) (f : Xport → Xport) : (updXp s t f).out = s.out := rfl
@[simp] theorem updXp_host (s : State) (t : Nat) (f : Xport → Xport) : (updXp s t f).host = s.host := rfl
@[simp] theorem updXp_rings (s : State) (t : Nat) (f : Xport → Xport) : (updXp s t f).rings = s.rings := rfl
@[simp] theorem updXp_ten (s : State) (t : Nat) (f : Xport → Xport) : (updXp s t f).ten = s.ten := rfl
@[simp] theorem updXp_keys (s : State) (t : Nat) (f : Xport → Xport) : (updXp s t f).keys = s.keys := rfl
@[simp] theorem updXp_strm (s : State) (t : Nat) (f : Xport → Xport) : (updXp s t f).strm = s.strm := rfl
@[simp] theorem updXp_rc (s : State) (t : Nat) (f : Xport → Xport) : (updXp s t f).rc = s.rc := rfl
@[simp] theorem updXp_svc (s : State) (t : Nat) (f : Xport → Xport) : (updXp s t f).svc = s.svc := rfl
@[simp] theorem updXp_ace (s : State) (t : Nat) (f : Xport → Xport) : (updXp s t f).ace = s.ace := rfl
@[simp] theorem updXp_smp (s : State) (t : Nat) (f : Xport → Xport) : (updXp s t f).smp = s.smp := rfl
@[simp] theorem updXp_tbu (s : State) (t : Nat) (f : Xport → Xport) : (updXp s t f).tbu = s.tbu := rfl
@[simp] theorem updXp_pmu (s : State) (t : Nat) (f : Xport → Xport) : (updXp s t f).pmu = s.pmu := rfl
@[simp] theorem updXp_evr (s : State) (t : Nat) (f : Xport → Xport) : (updXp s t f).evr = s.evr := rfl
@[simp] theorem updXp_flt (s : State) (t : Nat) (f : Xport → Xport) : (updXp s t f).flt = s.flt := rfl

/-! ### updMount -/

@[simp] theorem updMount_pending (s : State) (t : Nat) (f : Mount → Mount) : (updMount s t f).pending = s.pending := rfl
@[simp] theorem updMount_clk (s : State) (t : Nat) (f : Mount → Mount) : (updMount s t f).clk = s.clk := rfl
@[simp] theorem updMount_out (s : State) (t : Nat) (f : Mount → Mount) : (updMount s t f).out = s.out := rfl
@[simp] theorem updMount_host (s : State) (t : Nat) (f : Mount → Mount) : (updMount s t f).host = s.host := rfl
@[simp] theorem updMount_rings (s : State) (t : Nat) (f : Mount → Mount) : (updMount s t f).rings = s.rings := rfl
@[simp] theorem updMount_ten (s : State) (t : Nat) (f : Mount → Mount) : (updMount s t f).ten = s.ten := rfl
@[simp] theorem updMount_keys (s : State) (t : Nat) (f : Mount → Mount) : (updMount s t f).keys = s.keys := rfl
@[simp] theorem updMount_strm (s : State) (t : Nat) (f : Mount → Mount) : (updMount s t f).strm = s.strm := rfl
@[simp] theorem updMount_rc (s : State) (t : Nat) (f : Mount → Mount) : (updMount s t f).rc = s.rc := rfl
@[simp] theorem updMount_svc (s : State) (t : Nat) (f : Mount → Mount) : (updMount s t f).svc = s.svc := rfl
@[simp] theorem updMount_ace (s : State) (t : Nat) (f : Mount → Mount) : (updMount s t f).ace = s.ace := rfl
@[simp] theorem updMount_smp (s : State) (t : Nat) (f : Mount → Mount) : (updMount s t f).smp = s.smp := rfl
@[simp] theorem updMount_tbu (s : State) (t : Nat) (f : Mount → Mount) : (updMount s t f).tbu = s.tbu := rfl
@[simp] theorem updMount_pmu (s : State) (t : Nat) (f : Mount → Mount) : (updMount s t f).pmu = s.pmu := rfl
@[simp] theorem updMount_evr (s : State) (t : Nat) (f : Mount → Mount) : (updMount s t f).evr = s.evr := rfl
@[simp] theorem updMount_flt (s : State) (t : Nat) (f : Mount → Mount) : (updMount s t f).flt = s.flt := rfl

/-! ### updCmd -/

@[simp] theorem updCmd_pending (s : State) (id : Nat) (f : Cmd → Cmd) : (updCmd s id f).pending = s.pending := rfl
@[simp] theorem updCmd_clk (s : State) (id : Nat) (f : Cmd → Cmd) : (updCmd s id f).clk = s.clk := rfl
@[simp] theorem updCmd_out (s : State) (id : Nat) (f : Cmd → Cmd) : (updCmd s id f).out = s.out := rfl
@[simp] theorem updCmd_host (s : State) (id : Nat) (f : Cmd → Cmd) : (updCmd s id f).host = s.host := rfl
@[simp] theorem updCmd_ten (s : State) (id : Nat) (f : Cmd → Cmd) : (updCmd s id f).ten = s.ten := rfl
@[simp] theorem updCmd_keys (s : State) (id : Nat) (f : Cmd → Cmd) : (updCmd s id f).keys = s.keys := rfl
@[simp] theorem updCmd_strm (s : State) (id : Nat) (f : Cmd → Cmd) : (updCmd s id f).strm = s.strm := rfl
@[simp] theorem updCmd_xp (s : State) (id : Nat) (f : Cmd → Cmd) : (updCmd s id f).xp = s.xp := rfl
@[simp] theorem updCmd_rc (s : State) (id : Nat) (f : Cmd → Cmd) : (updCmd s id f).rc = s.rc := rfl
@[simp] theorem updCmd_svc (s : State) (id : Nat) (f : Cmd → Cmd) : (updCmd s id f).svc = s.svc := rfl
@[simp] theorem updCmd_ace (s : State) (id : Nat) (f : Cmd → Cmd) : (updCmd s id f).ace = s.ace := rfl
@[simp] theorem updCmd_smp (s : State) (id : Nat) (f : Cmd → Cmd) : (updCmd s id f).smp = s.smp := rfl
@[simp] theorem updCmd_tbu (s : State) (id : Nat) (f : Cmd → Cmd) : (updCmd s id f).tbu = s.tbu := rfl
@[simp] theorem updCmd_pmu (s : State) (id : Nat) (f : Cmd → Cmd) : (updCmd s id f).pmu = s.pmu := rfl
@[simp] theorem updCmd_evr (s : State) (id : Nat) (f : Cmd → Cmd) : (updCmd s id f).evr = s.evr := rfl
@[simp] theorem updCmd_flt (s : State) (id : Nat) (f : Cmd → Cmd) : (updCmd s id f).flt = s.flt := rfl

/-! ### setProg -/

@[simp] theorem setProg_pending (s : State) (id : Nat) (p : Prog) : (setProg s id p).pending = s.pending := rfl
@[simp] theorem setProg_clk (s : State) (id : Nat) (p : Prog) : (setProg s id p).clk = s.clk := rfl
@[simp] theorem setProg_out (s : State) (id : Nat) (p : Prog) : (setProg s id p).out = s.out := rfl
@[simp] theorem setProg_host (s : State) (id : Nat) (p : Prog) : (setProg s id p).host = s.host := rfl
@[simp] theorem setProg_ten (s : State) (id : Nat) (p : Prog) : (setProg s id p).ten = s.ten := rfl
@[simp] theorem setProg_keys (s : State) (id : Nat) (p : Prog) : (setProg s id p).keys = s.keys := rfl
@[simp] theorem setProg_strm (s : State) (id : Nat) (p : Prog) : (setProg s id p).strm = s.strm := rfl
@[simp] theorem setProg_xp (s : State) (id : Nat) (p : Prog) : (setProg s id p).xp = s.xp := rfl
@[simp] theorem setProg_rc (s : State) (id : Nat) (p : Prog) : (setProg s id p).rc = s.rc := rfl
@[simp] theorem setProg_svc (s : State) (id : Nat) (p : Prog) : (setProg s id p).svc = s.svc := rfl
@[simp] theorem setProg_ace (s : State) (id : Nat) (p : Prog) : (setProg s id p).ace = s.ace := rfl
@[simp] theorem setProg_smp (s : State) (id : Nat) (p : Prog) : (setProg s id p).smp = s.smp := rfl
@[simp] theorem setProg_tbu (s : State) (id : Nat) (p : Prog) : (setProg s id p).tbu = s.tbu := rfl
@[simp] theorem setProg_pmu (s : State) (id : Nat) (p : Prog) : (setProg s id p).pmu = s.pmu := rfl
@[simp] theorem setProg_evr (s : State) (id : Nat) (p : Prog) : (setProg s id p).evr = s.evr := rfl
@[simp] theorem setProg_flt (s : State) (id : Nat) (p : Prog) : (setProg s id p).flt = s.flt := rfl

/-! ### updRec -/

@[simp] theorem updRec_pending (s : State) (id i : Nat) (f : RecWork → RecWork) : (updRec s id i f).pending = s.pending := rfl
@[simp] theorem updRec_clk (s : State) (id i : Nat) (f : RecWork → RecWork) : (updRec s id i f).clk = s.clk := rfl
@[simp] theorem updRec_out (s : State) (id i : Nat) (f : RecWork → RecWork) : (updRec s id i f).out = s.out := rfl
@[simp] theorem updRec_host (s : State) (id i : Nat) (f : RecWork → RecWork) : (updRec s id i f).host = s.host := rfl
@[simp] theorem updRec_ten (s : State) (id i : Nat) (f : RecWork → RecWork) : (updRec s id i f).ten = s.ten := rfl
@[simp] theorem updRec_keys (s : State) (id i : Nat) (f : RecWork → RecWork) : (updRec s id i f).keys = s.keys := rfl
@[simp] theorem updRec_strm (s : State) (id i : Nat) (f : RecWork → RecWork) : (updRec s id i f).strm = s.strm := rfl
@[simp] theorem updRec_xp (s : State) (id i : Nat) (f : RecWork → RecWork) : (updRec s id i f).xp = s.xp := rfl
@[simp] theorem updRec_rc (s : State) (id i : Nat) (f : RecWork → RecWork) : (updRec s id i f).rc = s.rc := rfl
@[simp] theorem updRec_svc (s : State) (id i : Nat) (f : RecWork → RecWork) : (updRec s id i f).svc = s.svc := rfl
@[simp] theorem updRec_ace (s : State) (id i : Nat) (f : RecWork → RecWork) : (updRec s id i f).ace = s.ace := rfl
@[simp] theorem updRec_smp (s : State) (id i : Nat) (f : RecWork → RecWork) : (updRec s id i f).smp = s.smp := rfl
@[simp] theorem updRec_tbu (s : State) (id i : Nat) (f : RecWork → RecWork) : (updRec s id i f).tbu = s.tbu := rfl
@[simp] theorem updRec_pmu (s : State) (id i : Nat) (f : RecWork → RecWork) : (updRec s id i f).pmu = s.pmu := rfl
@[simp] theorem updRec_evr (s : State) (id i : Nat) (f : RecWork → RecWork) : (updRec s id i f).evr = s.evr := rfl
@[simp] theorem updRec_flt (s : State) (id i : Nat) (f : RecWork → RecWork) : (updRec s id i f).flt = s.flt := rfl

/-! ### updSk -/

@[simp] theorem updSk_pending (s : State) (n : Nat) (f : SkWindow → SkWindow) : (updSk s n f).pending = s.pending := rfl
@[simp] theorem updSk_clk (s : State) (n : Nat) (f : SkWindow → SkWindow) : (updSk s n f).clk = s.clk := rfl
@[simp] theorem updSk_out (s : State) (n : Nat) (f : SkWindow → SkWindow) : (updSk s n f).out = s.out := rfl
@[simp] theorem updSk_host (s : State) (n : Nat) (f : SkWindow → SkWindow) : (updSk s n f).host = s.host := rfl
@[simp] theorem updSk_ten (s : State) (n : Nat) (f : SkWindow → SkWindow) : (updSk s n f).ten = s.ten := rfl
@[simp] theorem updSk_keys (s : State) (n : Nat) (f : SkWindow → SkWindow) : (updSk s n f).keys = s.keys := rfl
@[simp] theorem updSk_strm (s : State) (n : Nat) (f : SkWindow → SkWindow) : (updSk s n f).strm = s.strm := rfl
@[simp] theorem updSk_xp (s : State) (n : Nat) (f : SkWindow → SkWindow) : (updSk s n f).xp = s.xp := rfl
@[simp] theorem updSk_rc (s : State) (n : Nat) (f : SkWindow → SkWindow) : (updSk s n f).rc = s.rc := rfl
@[simp] theorem updSk_svc (s : State) (n : Nat) (f : SkWindow → SkWindow) : (updSk s n f).svc = s.svc := rfl
@[simp] theorem updSk_ace (s : State) (n : Nat) (f : SkWindow → SkWindow) : (updSk s n f).ace = s.ace := rfl
@[simp] theorem updSk_smp (s : State) (n : Nat) (f : SkWindow → SkWindow) : (updSk s n f).smp = s.smp := rfl
@[simp] theorem updSk_tbu (s : State) (n : Nat) (f : SkWindow → SkWindow) : (updSk s n f).tbu = s.tbu := rfl
@[simp] theorem updSk_pmu (s : State) (n : Nat) (f : SkWindow → SkWindow) : (updSk s n f).pmu = s.pmu := rfl
@[simp] theorem updSk_evr (s : State) (n : Nat) (f : SkWindow → SkWindow) : (updSk s n f).evr = s.evr := rfl
@[simp] theorem updSk_flt (s : State) (n : Nat) (f : SkWindow → SkWindow) : (updSk s n f).flt = s.flt := rfl

/-! ### updCtx -/

@[simp] theorem updCtx_pending (s : State) (k : Nat) (f : Ctx → Ctx) : (updCtx s k f).pending = s.pending := rfl
@[simp] theorem updCtx_clk (s : State) (k : Nat) (f : Ctx → Ctx) : (updCtx s k f).clk = s.clk := rfl
@[simp] theorem updCtx_out (s : State) (k : Nat) (f : Ctx → Ctx) : (updCtx s k f).out = s.out := rfl
@[simp] theorem updCtx_host (s : State) (k : Nat) (f : Ctx → Ctx) : (updCtx s k f).host = s.host := rfl
@[simp] theorem updCtx_rings (s : State) (k : Nat) (f : Ctx → Ctx) : (updCtx s k f).rings = s.rings := rfl
@[simp] theorem updCtx_keys (s : State) (k : Nat) (f : Ctx → Ctx) : (updCtx s k f).keys = s.keys := rfl
@[simp] theorem updCtx_strm (s : State) (k : Nat) (f : Ctx → Ctx) : (updCtx s k f).strm = s.strm := rfl
@[simp] theorem updCtx_xp (s : State) (k : Nat) (f : Ctx → Ctx) : (updCtx s k f).xp = s.xp := rfl
@[simp] theorem updCtx_rc (s : State) (k : Nat) (f : Ctx → Ctx) : (updCtx s k f).rc = s.rc := rfl
@[simp] theorem updCtx_svc (s : State) (k : Nat) (f : Ctx → Ctx) : (updCtx s k f).svc = s.svc := rfl
@[simp] theorem updCtx_ace (s : State) (k : Nat) (f : Ctx → Ctx) : (updCtx s k f).ace = s.ace := rfl
@[simp] theorem updCtx_smp (s : State) (k : Nat) (f : Ctx → Ctx) : (updCtx s k f).smp = s.smp := rfl
@[simp] theorem updCtx_tbu (s : State) (k : Nat) (f : Ctx → Ctx) : (updCtx s k f).tbu = s.tbu := rfl
@[simp] theorem updCtx_pmu (s : State) (k : Nat) (f : Ctx → Ctx) : (updCtx s k f).pmu = s.pmu := rfl
@[simp] theorem updCtx_evr (s : State) (k : Nat) (f : Ctx → Ctx) : (updCtx s k f).evr = s.evr := rfl
@[simp] theorem updCtx_flt (s : State) (k : Nat) (f : Ctx → Ctx) : (updCtx s k f).flt = s.flt := rfl

/-! ### updStrm -/

@[simp] theorem updStrm_pending (s : State) (k : Nat) (f : Stream → Stream) : (updStrm s k f).pending = s.pending := rfl
@[simp] theorem updStrm_clk (s : State) (k : Nat) (f : Stream → Stream) : (updStrm s k f).clk = s.clk := rfl
@[simp] theorem updStrm_out (s : State) (k : Nat) (f : Stream → Stream) : (updStrm s k f).out = s.out := rfl
@[simp] theorem updStrm_host (s : State) (k : Nat) (f : Stream → Stream) : (updStrm s k f).host = s.host := rfl
@[simp] theorem updStrm_rings (s : State) (k : Nat) (f : Stream → Stream) : (updStrm s k f).rings = s.rings := rfl
@[simp] theorem updStrm_ten (s : State) (k : Nat) (f : Stream → Stream) : (updStrm s k f).ten = s.ten := rfl
@[simp] theorem updStrm_keys (s : State) (k : Nat) (f : Stream → Stream) : (updStrm s k f).keys = s.keys := rfl
@[simp] theorem updStrm_xp (s : State) (k : Nat) (f : Stream → Stream) : (updStrm s k f).xp = s.xp := rfl
@[simp] theorem updStrm_rc (s : State) (k : Nat) (f : Stream → Stream) : (updStrm s k f).rc = s.rc := rfl
@[simp] theorem updStrm_svc (s : State) (k : Nat) (f : Stream → Stream) : (updStrm s k f).svc = s.svc := rfl
@[simp] theorem updStrm_ace (s : State) (k : Nat) (f : Stream → Stream) : (updStrm s k f).ace = s.ace := rfl
@[simp] theorem updStrm_smp (s : State) (k : Nat) (f : Stream → Stream) : (updStrm s k f).smp = s.smp := rfl
@[simp] theorem updStrm_tbu (s : State) (k : Nat) (f : Stream → Stream) : (updStrm s k f).tbu = s.tbu := rfl
@[simp] theorem updStrm_pmu (s : State) (k : Nat) (f : Stream → Stream) : (updStrm s k f).pmu = s.pmu := rfl
@[simp] theorem updStrm_evr (s : State) (k : Nat) (f : Stream → Stream) : (updStrm s k f).evr = s.evr := rfl
@[simp] theorem updStrm_flt (s : State) (k : Nat) (f : Stream → Stream) : (updStrm s k f).flt = s.flt := rfl

/-! ### setAce -/

@[simp] theorem setAce_pending (s : State) (c : Nat) (a : Ace) : (setAce s c a).pending = s.pending := rfl
@[simp] theorem setAce_clk (s : State) (c : Nat) (a : Ace) : (setAce s c a).clk = s.clk := rfl
@[simp] theorem setAce_out (s : State) (c : Nat) (a : Ace) : (setAce s c a).out = s.out := rfl
@[simp] theorem setAce_host (s : State) (c : Nat) (a : Ace) : (setAce s c a).host = s.host := rfl
@[simp] theorem setAce_rings (s : State) (c : Nat) (a : Ace) : (setAce s c a).rings = s.rings := rfl
@[simp] theorem setAce_ten (s : State) (c : Nat) (a : Ace) : (setAce s c a).ten = s.ten := rfl
@[simp] theorem setAce_keys (s : State) (c : Nat) (a : Ace) : (setAce s c a).keys = s.keys := rfl
@[simp] theorem setAce_strm (s : State) (c : Nat) (a : Ace) : (setAce s c a).strm = s.strm := rfl
@[simp] theorem setAce_xp (s : State) (c : Nat) (a : Ace) : (setAce s c a).xp = s.xp := rfl
@[simp] theorem setAce_rc (s : State) (c : Nat) (a : Ace) : (setAce s c a).rc = s.rc := rfl
@[simp] theorem setAce_svc (s : State) (c : Nat) (a : Ace) : (setAce s c a).svc = s.svc := rfl
@[simp] theorem setAce_smp (s : State) (c : Nat) (a : Ace) : (setAce s c a).smp = s.smp := rfl
@[simp] theorem setAce_tbu (s : State) (c : Nat) (a : Ace) : (setAce s c a).tbu = s.tbu := rfl
@[simp] theorem setAce_pmu (s : State) (c : Nat) (a : Ace) : (setAce s c a).pmu = s.pmu := rfl
@[simp] theorem setAce_evr (s : State) (c : Nat) (a : Ace) : (setAce s c a).evr = s.evr := rfl
@[simp] theorem setAce_flt (s : State) (c : Nat) (a : Ace) : (setAce s c a).flt = s.flt := rfl

/-! ### putBuf -/

@[simp] theorem putBuf_pending (s : State) (addr : Nat) (b : Bytes) (fixed : Bool) : (putBuf s addr b fixed).pending = s.pending := rfl
@[simp] theorem putBuf_clk (s : State) (addr : Nat) (b : Bytes) (fixed : Bool) : (putBuf s addr b fixed).clk = s.clk := rfl
@[simp] theorem putBuf_out (s : State) (addr : Nat) (b : Bytes) (fixed : Bool) : (putBuf s addr b fixed).out = s.out := rfl
@[simp] theorem putBuf_host (s : State) (addr : Nat) (b : Bytes) (fixed : Bool) : (putBuf s addr b fixed).host = s.host := rfl
@[simp] theorem putBuf_rings (s : State) (addr : Nat) (b : Bytes) (fixed : Bool) : (putBuf s addr b fixed).rings = s.rings := rfl
@[simp] theorem putBuf_ten (s : State) (addr : Nat) (b : Bytes) (fixed : Bool) : (putBuf s addr b fixed).ten = s.ten := rfl
@[simp] theorem putBuf_keys (s : State) (addr : Nat) (b : Bytes) (fixed : Bool) : (putBuf s addr b fixed).keys = s.keys := rfl
@[simp] theorem putBuf_strm (s : State) (addr : Nat) (b : Bytes) (fixed : Bool) : (putBuf s addr b fixed).strm = s.strm := rfl
@[simp] theorem putBuf_xp (s : State) (addr : Nat) (b : Bytes) (fixed : Bool) : (putBuf s addr b fixed).xp = s.xp := rfl
@[simp] theorem putBuf_rc (s : State) (addr : Nat) (b : Bytes) (fixed : Bool) : (putBuf s addr b fixed).rc = s.rc := rfl
@[simp] theorem putBuf_svc (s : State) (addr : Nat) (b : Bytes) (fixed : Bool) : (putBuf s addr b fixed).svc = s.svc := rfl
@[simp] theorem putBuf_smp (s : State) (addr : Nat) (b : Bytes) (fixed : Bool) : (putBuf s addr b fixed).smp = s.smp := rfl
@[simp] theorem putBuf_tbu (s : State) (addr : Nat) (b : Bytes) (fixed : Bool) : (putBuf s addr b fixed).tbu = s.tbu := rfl
@[simp] theorem putBuf_pmu (s : State) (addr : Nat) (b : Bytes) (fixed : Bool) : (putBuf s addr b fixed).pmu = s.pmu := rfl
@[simp] theorem putBuf_evr (s : State) (addr : Nat) (b : Bytes) (fixed : Bool) : (putBuf s addr b fixed).evr = s.evr := rfl
@[simp] theorem putBuf_flt (s : State) (addr : Nat) (b : Bytes) (fixed : Bool) : (putBuf s addr b fixed).flt = s.flt := rfl

/-! ### setGate -/

@[simp] theorem setGate_pending (s : State) (k : Nat) (g : Gate) : (setGate s k g).pending = s.pending := rfl
@[simp] theorem setGate_clk (s : State) (k : Nat) (g : Gate) : (setGate s k g).clk = s.clk := rfl
@[simp] theorem setGate_out (s : State) (k : Nat) (g : Gate) : (setGate s k g).out = s.out := rfl
@[simp] theorem setGate_host (s : State) (k : Nat) (g : Gate) : (setGate s k g).host = s.host := rfl
@[simp] theorem setGate_rings (s : State) (k : Nat) (g : Gate) : (setGate s k g).rings = s.rings := rfl
@[simp] theorem setGate_ten (s : State) (k : Nat) (g : Gate) : (setGate s k g).ten = s.ten := rfl
@[simp] theorem setGate_keys (s : State) (k : Nat) (g : Gate) : (setGate s k g).keys = s.keys := rfl
@[simp] theorem setGate_strm (s : State) (k : Nat) (g : Gate) : (setGate s k g).strm = s.strm := rfl
@[simp] theorem setGate_xp (s : State) (k : Nat) (g : Gate) : (setGate s k g).xp = s.xp := rfl
@[simp] theorem setGate_rc (s : State) (k : Nat) (g : Gate) : (setGate s k g).rc = s.rc := rfl
@[simp] theorem setGate_svc (s : State) (k : Nat) (g : Gate) : (setGate s k g).svc = s.svc := rfl
@[simp] theorem setGate_ace (s : State) (k : Nat) (g : Gate) : (setGate s k g).ace = s.ace := rfl
@[simp] theorem setGate_smp (s : State) (k : Nat) (g : Gate) : (setGate s k g).smp = s.smp := rfl
@[simp] theorem setGate_tbu (s : State) (k : Nat) (g : Gate) : (setGate s k g).tbu = s.tbu := rfl
@[simp] theorem setGate_evr (s : State) (k : Nat) (g : Gate) : (setGate s k g).evr = s.evr := rfl
@[simp] theorem setGate_flt (s : State) (k : Nat) (g : Gate) : (setGate s k g).flt = s.flt := rfl

/-! ### setLane -/

@[simp] theorem setLane_pending (s : State) (l : Nat) (x : Lane) : (setLane s l x).pending = s.pending := rfl
@[simp] theorem setLane_clk (s : State) (l : Nat) (x : Lane) : (setLane s l x).clk = s.clk := rfl
@[simp] theorem setLane_out (s : State) (l : Nat) (x : Lane) : (setLane s l x).out = s.out := rfl
@[simp] theorem setLane_host (s : State) (l : Nat) (x : Lane) : (setLane s l x).host = s.host := rfl
@[simp] theorem setLane_rings (s : State) (l : Nat) (x : Lane) : (setLane s l x).rings = s.rings := rfl
@[simp] theorem setLane_ten (s : State) (l : Nat) (x : Lane) : (setLane s l x).ten = s.ten := rfl
@[simp] theorem setLane_keys (s : State) (l : Nat) (x : Lane) : (setLane s l x).keys = s.keys := rfl
@[simp] theorem setLane_strm (s : State) (l : Nat) (x : Lane) : (setLane s l x).strm = s.strm := rfl
@[simp] theorem setLane_xp (s : State) (l : Nat) (x : Lane) : (setLane s l x).xp = s.xp := rfl
@[simp] theorem setLane_svc (s : State) (l : Nat) (x : Lane) : (setLane s l x).svc = s.svc := rfl
@[simp] theorem setLane_ace (s : State) (l : Nat) (x : Lane) : (setLane s l x).ace = s.ace := rfl
@[simp] theorem setLane_smp (s : State) (l : Nat) (x : Lane) : (setLane s l x).smp = s.smp := rfl
@[simp] theorem setLane_tbu (s : State) (l : Nat) (x : Lane) : (setLane s l x).tbu = s.tbu := rfl
@[simp] theorem setLane_pmu (s : State) (l : Nat) (x : Lane) : (setLane s l x).pmu = s.pmu := rfl
@[simp] theorem setLane_evr (s : State) (l : Nat) (x : Lane) : (setLane s l x).evr = s.evr := rfl
@[simp] theorem setLane_flt (s : State) (l : Nat) (x : Lane) : (setLane s l x).flt = s.flt := rfl

/-! ### putMbx -/

@[simp] theorem putMbx_pending (s : State) (off : Nat) (b : Bytes) : (putMbx s off b).pending = s.pending := rfl
@[simp] theorem putMbx_clk (s : State) (off : Nat) (b : Bytes) : (putMbx s off b).clk = s.clk := rfl
@[simp] theorem putMbx_out (s : State) (off : Nat) (b : Bytes) : (putMbx s off b).out = s.out := rfl
@[simp] theorem putMbx_host (s : State) (off : Nat) (b : Bytes) : (putMbx s off b).host = s.host := rfl
@[simp] theorem putMbx_rings (s : State) (off : Nat) (b : Bytes) : (putMbx s off b).rings = s.rings := rfl
@[simp] theorem putMbx_ten (s : State) (off : Nat) (b : Bytes) : (putMbx s off b).ten = s.ten := rfl
@[simp] theorem putMbx_keys (s : State) (off : Nat) (b : Bytes) : (putMbx s off b).keys = s.keys := rfl
@[simp] theorem putMbx_strm (s : State) (off : Nat) (b : Bytes) : (putMbx s off b).strm = s.strm := rfl
@[simp] theorem putMbx_xp (s : State) (off : Nat) (b : Bytes) : (putMbx s off b).xp = s.xp := rfl
@[simp] theorem putMbx_rc (s : State) (off : Nat) (b : Bytes) : (putMbx s off b).rc = s.rc := rfl
@[simp] theorem putMbx_svc (s : State) (off : Nat) (b : Bytes) : (putMbx s off b).svc = s.svc := rfl
@[simp] theorem putMbx_ace (s : State) (off : Nat) (b : Bytes) : (putMbx s off b).ace = s.ace := rfl
@[simp] theorem putMbx_tbu (s : State) (off : Nat) (b : Bytes) : (putMbx s off b).tbu = s.tbu := rfl
@[simp] theorem putMbx_pmu (s : State) (off : Nat) (b : Bytes) : (putMbx s off b).pmu = s.pmu := rfl
@[simp] theorem putMbx_evr (s : State) (off : Nat) (b : Bytes) : (putMbx s off b).evr = s.evr := rfl
@[simp] theorem putMbx_flt (s : State) (off : Nat) (b : Bytes) : (putMbx s off b).flt = s.flt := rfl

/-! ### countFault -/

@[simp] theorem countFault_pending (s : State) (c det fixed rep ret : Nat) : (countFault s c det fixed rep ret).pending = s.pending := rfl
@[simp] theorem countFault_clk (s : State) (c det fixed rep ret : Nat) : (countFault s c det fixed rep ret).clk = s.clk := rfl
@[simp] theorem countFault_out (s : State) (c det fixed rep ret : Nat) : (countFault s c det fixed rep ret).out = s.out := rfl
@[simp] theorem countFault_host (s : State) (c det fixed rep ret : Nat) : (countFault s c det fixed rep ret).host = s.host := rfl
@[simp] theorem countFault_rings (s : State) (c det fixed rep ret : Nat) : (countFault s c det fixed rep ret).rings = s.rings := rfl
@[simp] theorem countFault_ten (s : State) (c det fixed rep ret : Nat) : (countFault s c det fixed rep ret).ten = s.ten := rfl
@[simp] theorem countFault_keys (s : State) (c det fixed rep ret : Nat) : (countFault s c det fixed rep ret).keys = s.keys := rfl
@[simp] theorem countFault_strm (s : State) (c det fixed rep ret : Nat) : (countFault s c det fixed rep ret).strm = s.strm := rfl
@[simp] theorem countFault_xp (s : State) (c det fixed rep ret : Nat) : (countFault s c det fixed rep ret).xp = s.xp := rfl
@[simp] theorem countFault_rc (s : State) (c det fixed rep ret : Nat) : (countFault s c det fixed rep ret).rc = s.rc := rfl
@[simp] theorem countFault_svc (s : State) (c det fixed rep ret : Nat) : (countFault s c det fixed rep ret).svc = s.svc := rfl
@[simp] theorem countFault_ace (s : State) (c det fixed rep ret : Nat) : (countFault s c det fixed rep ret).ace = s.ace := rfl
@[simp] theorem countFault_smp (s : State) (c det fixed rep ret : Nat) : (countFault s c det fixed rep ret).smp = s.smp := rfl
@[simp] theorem countFault_tbu (s : State) (c det fixed rep ret : Nat) : (countFault s c det fixed rep ret).tbu = s.tbu := rfl
@[simp] theorem countFault_pmu (s : State) (c det fixed rep ret : Nat) : (countFault s c det fixed rep ret).pmu = s.pmu := rfl
@[simp] theorem countFault_evr (s : State) (c det fixed rep ret : Nat) : (countFault s c det fixed rep ret).evr = s.evr := rfl

/-! ### countReject -/

@[simp] theorem countReject_pending (s : State) : (countReject s).pending = s.pending := rfl
@[simp] theorem countReject_clk (s : State) : (countReject s).clk = s.clk := rfl
@[simp] theorem countReject_out (s : State) : (countReject s).out = s.out := rfl
@[simp] theorem countReject_host (s : State) : (countReject s).host = s.host := rfl
@[simp] theorem countReject_rings (s : State) : (countReject s).rings = s.rings := rfl
@[simp] theorem countReject_ten (s : State) : (countReject s).ten = s.ten := rfl
@[simp] theorem countReject_strm (s : State) : (countReject s).strm = s.strm := rfl
@[simp] theorem countReject_xp (s : State) : (countReject s).xp = s.xp := rfl
@[simp] theorem countReject_rc (s : State) : (countReject s).rc = s.rc := rfl
@[simp] theorem countReject_svc (s : State) : (countReject s).svc = s.svc := rfl
@[simp] theorem countReject_ace (s : State) : (countReject s).ace = s.ace := rfl
@[simp] theorem countReject_smp (s : State) : (countReject s).smp = s.smp := rfl
@[simp] theorem countReject_tbu (s : State) : (countReject s).tbu = s.tbu := rfl
@[simp] theorem countReject_pmu (s : State) : (countReject s).pmu = s.pmu := rfl
@[simp] theorem countReject_evr (s : State) : (countReject s).evr = s.evr := rfl
@[simp] theorem countReject_flt (s : State) : (countReject s).flt = s.flt := rfl

/-! ### Reading back -/

/-- A command after an update of it. -/
theorem cmdOf_updCmd (s : State) (id : Nat) (f : Cmd → Cmd) (hf : ∀ c, (f c).id = c.id) :
    cmdOf (updCmd s id f) id = (cmdOf s id).map f := by
  unfold cmdOf updCmd
  induction s.rings.cmds with
  | nil => rfl
  | cons c l ih =>
    by_cases h : c.id = id
    · simp [h, hf]
    · simpa [h] using ih

/-- A command after its progress is set. -/
@[simp] theorem cmdOf_setProg (s : State) (id : Nat) (p : Prog) :
    cmdOf (setProg s id p) id = (cmdOf s id).map fun c => { c with prog := p, moved := now s } :=
  cmdOf_updCmd s id _ fun _ => rfl

/-- A transport after an update of it. -/
@[simp] theorem xpOf_updXp_self (s : State) (t : Nat) (f : Xport → Xport) : xpOf (updXp s t f) t = (xpOf s t).map f := by
  simp [xpOf, updXp]

/-- Another transport after the update of one. -/
theorem xpOf_updXp_of_ne (s : State) {t k : Nat} (f : Xport → Xport) (h : k ≠ t) : xpOf (updXp s t f) k = xpOf s k := by
  simp [xpOf, updXp, Tbl.get?_upd_of_ne _ _ h]

/-- A context after an update of it. -/
@[simp] theorem ctxOf_updCtx_self (s : State) (k : Nat) (f : Ctx → Ctx) : ctxOf (updCtx s k f) k = (ctxOf s k).map f := by
  simp [ctxOf, updCtx]

/-- A function after it is set. -/
@[simp] theorem fnOf_setFn_self (s : State) (n : Nat) (f : FnState) : fnOf (setFn s n f) n = f := by
  simp [fnOf, setFn]

/-- Another function after one is set. -/
theorem fnOf_setFn_of_ne (s : State) {n k : Nat} (f : FnState) (h : k ≠ n) : fnOf (setFn s n f) k = fnOf s k := by
  simp [fnOf, setFn, Tbl.get?_put_of_ne _ _ h]

/-- A channel after it is set. -/
@[simp] theorem aceOf_setAce_self (s : State) (c : Nat) (a : Ace) : aceOf (setAce s c a) c = a := by
  simp [aceOf, setAce]

/-- Another channel after one is set. -/
theorem aceOf_setAce_of_ne (s : State) {c k : Nat} (a : Ace) (h : k ≠ c) : aceOf (setAce s c a) k = aceOf s k := by
  simp [aceOf, setAce, Tbl.get?_put_of_ne _ _ h]

/-- A gate after it is set. -/
@[simp] theorem gateOf_setGate_self (s : State) (k : Nat) (g : Gate) : gateOf (setGate s k g) k = g := by
  simp [gateOf, setGate]

/-- A lane after it is set. -/
@[simp] theorem laneAt_setLane_self (s : State) (l : Nat) (x : Lane) : laneAt (setLane s l x) l = x := by
  simp [laneAt, setLane]

/-- Another lane after one is set. -/
theorem laneAt_setLane_of_ne (s : State) {l k : Nat} (x : Lane) (h : k ≠ l) : laneAt (setLane s l x) k = laneAt s k := by
  simp [laneAt, setLane, Tbl.get?_put_of_ne _ _ h]

/-- The time after a plain update is the same. -/
theorem now_setProg (s : State) (id : Nat) (p : Prog) : now (setProg s id p) = now s := rfl

end Sys2Proof.Machine
end

