-- ==== Sys2Proof/WellFormed.lean ====
section
/-! DEFINITION. When a command's operands are in the ranges that the spec gives them. -/

namespace Sys2Proof

/-- A command identifier: one of 32,768 tags (R185), or 32,768 for the mailbox. -/
def idOk (id : Nat) : Bool := id ≤ 32768

/-- A function: the PF or one of 255 VFs (R110). -/
def fnOk (fn : Nat) : Bool := fn ≤ 255

/-- A doorbell slot of a function (R123). -/
def slotOk (fn slot : Nat) : Bool := fnOk fn && decide (slot < if fn = 0 then 1024 else 64)

/-- A vector of a function (R134). -/
def vecOk (fn vec : Nat) : Bool := fnOk fn && decide (vec < if fn = 0 then 2048 else 64)

/-- A ring number: 0 to 1,023 (R123). -/
def ringOk (n : Nat) : Bool := n < 1024

/-- A transport, T0 to T3. -/
def xpOk (t : Nat) : Bool := t < 4

/-- A global lane number (Numbers, units and byte order: 32·t + lane). -/
def laneOk (l : Nat) : Bool := l < 128

/-- An engine of Table 15-10. -/
def engineOk (cls idx : Nat) : Bool :=
  match cls with
  | 0 => idx < 8
  | 1 => idx < 8
  | 2 => idx < 12
  | 3 => idx < 40
  | 4 => idx < 4
  | 5 => idx < 4
  | _ => false

/-- An offset inside BAR0 of a function (Table 3-2). -/
def barOk (fn off : Nat) : Bool := fnOk fn && decide (off < if fn = 0 then 2 ^ 24 else 2 ^ 16)

/-- An AES engine. -/
def aesOk (e : Nat) : Bool := engineOk 2 e

/-- One change that a status read found: a transport. -/
def changesOk (port : Nat) (l : List (Nat × CartChange)) : Bool := l.all fun p => xpOk p.1 && p.1 / 2 == port

/-- Is every operand of the command in range? -/
def Instr.wellFormed (i : Instr) : Bool :=
  match i with
  | .identify id | .createRing id | .createRingTagsFreed id | .deleteRing id | .deleteRingDrained id | .abort id | .abortComplete id
  | .getLogPage id | .createContext id _ | .modifyContext id _ | .deleteContext id | .getContextStatus id | .keyLoadWrapped id _
  | .keyErase id | .domainJoin id _ | .getDeviceCert id | .nonceStatus id | .mount id _ | .unmount id _ | .formatPartitions id _
  | .transportConfig id _ | .getTransportStatus id | .calibrate id _ | .setTime id | .telemetryConfig id | .enterLull id
  | .fwStage id _ _ | .fwActivate id _ | .thermalConfig id | .fenceEngine id | .resetEngine id _ | .setWatchdog id | .getFaultLog id
  | .retireBufferPage id _ | .laneDisable id | .openStream id | .write id _ | .writeBatch id _ _ | .flush id | .sync id
  | .closeStream id | .read id _ | .locate id | .verifyScan id | .getPosition id | .compress id _ _ | .decompress id _ _
  | .resume id _ _ _ | .serviceJobEnd id _ | .sessionKeyClear id | .orderedStart id | .recordIngest id _ _ | .recordCompress id _ _
  | .recordPack id _ _ _ | .recordDecompress id _ | .hostReadError id _ => idOk id
  | .cryptBlock id e _ _ _ _ _ | .recordSeal id e | .checkBack id e _ | .recordOpen id e _ _ => idOk id && aesOk e
  | .entryFetch n _ _ | .entryAdmit n | .ringEntryReadError n _ => ringOk n
  | .submissionDoorbell fn slot _ | .completionDoorbell fn slot _ | .skCommitGo fn slot _ | .skCommitClear fn slot _ => slotOk fn slot
  | .registerWrite fn t => match t with
    | .bar0 off _ _ _ _ => barOk fn off
    | .cfg _ _ | .aer _ _ | .bus _ => fnOk fn
  | .rcRegisterRead fn t => match t with
    | .bar0 off _ => barOk fn off
    | .cfg _ => fnOk fn
  | .flrInitiate fn | .flrComplete fn | .busMasterDisable fn _ | .busMasterEnable fn _ => fnOk fn
  | .msixUnmask fn vec => match vec with
    | some v => vecOk fn v
    | none => fnOk fn
  | .holdoffEnd _ e => e < 1536
  | .startupCalibration t _ | .flushWindowExpire _ t _ | .datasetBoundary t | .cmUpdate t _ | .wrapTurnaround t | .speedMatchTick _ t
  | .transportRestart t | .writePositionReturn t | .datasetRecover t _ | .servoFrame t _ _ _ | .servoLossTimeout _ t
  | .velocityLoopTick t | .tensionLoopTick t _ | .shockInput t _ | .writeFaultInput t _ | .forceInhibitWrite t _ | .wiCauseWrite t _
  | .shockCleared t | .writeSegmentBoundary _ t _ | .cmAccessRetry _ t _ | .wfltClearRetry _ t => xpOk t
  | .lposWord t ch _ | .servoLockLoss t ch => xpOk t && decide (ch < 2)
  | .codewordArrival l _ _ _ | .syncWindowEnd l _ | .dropoutEntry l | .dropoutExit l | .syncAcquired l _ _ _
  | .separatorDetected l _ => laneOk l
  | .decoderGrant d | .decodeEnd d _ => engineOk 3 d
  | .aceArm c | .aceDisarm c | .aceGo c | .aceIterationComplete c _ | .aceBurstFail c _ _ _ _ | .aceRetryWaitEnd _ c => c < 32
  | .smpCsRise bits => bits < 8
  | .pspIrq port changes => decide (port < 2) && changesOk port changes
  | .peerPoll answers => answers.all fun p => decide (p.1 < 32)
  | .peripheralRetry _ port sel _ => decide (port < 2) && decide (sel < 16)
  | .pacingTimerFire _ k | .pacingTimerCtrlWrite k _ _ => k < 16
  | .alarmFire _ a | .alarmCtrlWrite a _ => a < 4
  | .gateClosed _ k | .gateForceClose _ k _ => k < 15
  | .engineDrained c i | .engineDrainTimeout _ c i => engineOk c i
  | .thermalSample _ temps _ => temps.length == 6
  | .adminRingEnable | .adminRingDisable | .adminRingDrained | .vfEnableSet | .vfEnableClear | .perstFall | .perstRise
  | .crsWindowEnd _ | .linkUp | .linkDown _ | .sysRstAssert | .sysRstRelease _ | .bootComplete _ _ | .poolEvaluation _
  | .serviceDomainTick _ | .watchdogExamine _ | .smpCsFall _ | .smpCommandByte _ | .smpWriteByte _ | .smpReadByte | .smpPageWrite _
  | .smpIndRead _ | .smpIndWrite _ | .smpIndDone | .mailboxGo | .mailboxComplete | .attentionNotchEnd | .nonceReserved
  | .nonceJournalFail | .nonceRetry _ | .ppsEdge _ | .slewEnd _ | .ppsHoldover _ | .setTimeTimeout _ | .secondBoundary _
  | .ppsOutRise _ | .ppsOutFall _ | .tbuCfgWrite _ | .tbuTimeRead _ | .sysClkLoss | .lullQuiesced | .quiesceTimeout _
  | .lullStateSaved | .hostLinkWake | .lullExitComplete _ _ | .shutdownPowerOff _ | .pfailQualified | .pfailRelease | .selfTestPass
  | .selfTestFail | .selfTestTimeout _ | .supplyOutOfRange _ | .flashOperationEnd _ => true

end Sys2Proof
end

