-- ==== Sys2Proof/Tests/Slice0.lean ====
section
/-! SUPPORT. Tests of the model and witnesses for the statements: small states, one command each. A theorem named witness_<what>
shows a state and operands that meet the hypotheses of a clause of the statement it names; a theorem named test_<what> checks one
field of a result against a number worked out by hand from the spec. -/

namespace Sys2Proof.Tests

open Sys2Proof Sys2Proof.Machine

set_option Elab.async false

/-! ### Operands out of range are refused -/

/-- Every check of WellFormed.lean refuses an ill-formed term: identifier 32,769 (R185). -/
theorem test_wf_id : (Instr.identify 32769).wellFormed = false ∧ (Instr.identify 32768).wellFormed = true := by decide
theorem test_wf_fn : (Instr.flrInitiate 256).wellFormed = false ∧ (Instr.flrInitiate 255).wellFormed = true := by decide
theorem test_wf_slot : (Instr.submissionDoorbell 1 64 0).wellFormed = false ∧
    (Instr.submissionDoorbell 0 1023 0).wellFormed = true := by decide
theorem test_wf_vec : (Instr.msixUnmask 0 (some 2048)).wellFormed = false ∧
    (Instr.msixUnmask 9 (some 63)).wellFormed = true := by decide
theorem test_wf_ring : (Instr.entryAdmit 1024).wellFormed = false ∧ (Instr.entryAdmit 1023).wellFormed = true := by decide
theorem test_wf_xp : (Instr.wrapTurnaround 4).wellFormed = false ∧ (Instr.wrapTurnaround 3).wellFormed = true := by decide
theorem test_wf_lane : (Instr.dropoutEntry 128).wellFormed = false ∧ (Instr.dropoutEntry 127).wellFormed = true := by decide
theorem test_wf_engine : (Instr.engineDrained 2 12).wellFormed = false ∧ (Instr.engineDrained 3 39).wellFormed = true ∧
    (Instr.engineDrained 6 0).wellFormed = false := by decide
theorem test_wf_bar : (Instr.rcRegisterRead 1 (.bar0 65536 4)).wellFormed = false ∧
    (Instr.rcRegisterRead 0 (.bar0 65536 4)).wellFormed = true := by decide +kernel
theorem test_wf_aes : (Instr.recordSeal 3 12).wellFormed = false ∧ (Instr.recordSeal 3 11).wellFormed = true := by decide
theorem test_wf_changes : (Instr.pspIrq 0 [(2, .removed)]).wellFormed = false ∧
    (Instr.pspIrq 1 [(2, .removed)]).wellFormed = true := by decide

/-! ### Small states -/

/-- A submission entry with fields (offset, size, value). -/
def ent (op : Nat) (fs : List (Nat × Nat × Nat)) : Entry := BitVec.ofNat 512 (leNat (pageOf 64 ((0, 1, op) :: fs)))

/-- A context that owns what it needs: function 0, all transports, up to 4 streams. -/
def desc0 : Desc :=
  { ownerFn := 0, weight := 1, rate := 0, gust := 1, staging := 64, pasid := 0, pasidEn := false, keySlot := 0,
    keySlotEn := false, cipher := 0, flags := 0, tag := 7, wrMask := 1, rdMask := 1, volQuota := 0, maxStreams := 4,
    maxLabel := 16, xpMask := 15 }

/-- The formatter in Run with the link up, ring 0 and a ring 5 of 64 entries of the PF, and context 1 ACTIVE. -/
def up : State :=
  { State.reset with
    host := { HostLink.reset with
      sysRst := true, perst := true, dlActive := true, fwReady := true, memEn := true,
      admin := ⟨0x1000, 0x2000, 6, true, false⟩,
      fns := [(0, { FnState.reset with bme := true, msixEn := true })] },
    rings := { RingEng.reset with
      tbl := [(0, newRing 0 0 6 0x1000 0x2000 0 63), (5, newRing 0 3 6 0x10000 0x20000 1 63)] },
    ten := { Tenants.reset with ctx := [(1, Ctx.fresh desc0)] },
    pmu := { State.reset.pmu with booted := true, bufBytes := 0x100000000 } }

/-- A command of ring `n` with identifier 1 and CID 9. -/
def cmdOn (n op : Nat) (fs : List (Nat × Nat × Nat)) (p : Prog) : Cmd :=
  { id := 1, ring := n, mailbox := false, entry := ent op ((2, 2, 9) :: fs), prog := p, done := none, stream := none,
    fetch := none, charge := 0, voided := 0, late := false, descs := [], bufs := [], recs := [], acked := 0, firstSeq := 0, at0 := 0, moved := 0, hot := false, retries := 0 }

/-- `s` with one command in flight. -/
def put (s : State) (c : Cmd) : State := { s with rings.cmds := [c] }

/-- The hypotheses `P` hold of `s` with command 1 of ring 0 in flight. -/
abbrev On (s : State) (op : Nat) (fs : List (Nat × Nat × Nat)) (p : Prog) (P : State → Cmd → Prop) : Prop :=
  P (put s (cmdOn 0 op fs p)) (cmdOn 0 op fs p)

/-- The state that a command answers. -/
def after (o : Host.Outcome State Fault Refusal) : State :=
  match o with
  | .next t => t
  | _ => State.reset

/-! ### The core: fetch, admission, ordering, rings -/

/-- Ring 5 with tail 1. -/
def tail1 (r : Option Look) : State :=
  { up with rings.tbl := Tbl.upd up.rings.tbl 5 fun q => { q with sqTail := 1, look := r } }

theorem witness_StepRunsFrontCommand : step { up with pending := [.linkUp, .linkUp] } = exec .linkUp { up with pending := [.linkUp] } := rfl
theorem witness_IdleStepIsOneTick : up.pending = [] ∧ up.clk.frozen = false := by decide +kernel
theorem witness_EveryStepKeepsInv : Memory.wf up.smp.mbxData = true ∧ Memory.wf up.ace.buf = true ∧ up.tbu.ns < 1000000000 := by
  decide +kernel

/-- RingEntriesFetchedAndConsumed: the fetch clauses. -/
theorem witness_fetch : ∃ r, Tbl.get? (tail1 none).rings.tbl 5 = some r ∧ ringOn (tail1 none) 5 r = true ∧ r.look = none ∧
    r.sqTail ≠ r.sqHead ∧ creditFree (tail1 none) 5 r = true := ⟨_, rfl, by decide +kernel⟩
/-- The consuming clauses: an unknown opcode, then an IDENTIFY on ring 5. -/
theorem witness_consume_error : ∃ r, Tbl.get? (tail1 (some ⟨ent 0xFF [], 0, false⟩)).rings.tbl 5 = some r ∧
    ringOn (tail1 (some ⟨ent 0xFF [], 0, false⟩)) 5 r = true ∧ tagFree (tail1 (some ⟨ent 0xFF [], 0, false⟩)) 5 r = true ∧
    freeTag (tail1 (some ⟨ent 0xFF [], 0, false⟩)) = some 0 ∧
    (entryCheck (refill (tail1 (some ⟨ent 0xFF [], 0, false⟩))) 0 5 false (ent 0xFF [])).isSome = true := ⟨_, rfl, by decide +kernel⟩
theorem witness_consume : let s := tail1 (some ⟨ent 0x01 [], 0, false⟩)
    ∃ r, Tbl.get? s.rings.tbl 5 = some r ∧ ringOn s 5 r = true ∧ tagFree s 5 r = true ∧ freeTag s = some 0 ∧
    entryCheck (refill s) r.owner 5 false (ent 0x01 []) = none ∧ dataOp (fieldOf (ent 0x01 []) 0 1) = false ∧
    entryDomain (refill s) 5 (ent 0x01 []) = none := ⟨_, rfl, by decide +kernel⟩
/-- The context of the entry left ACTIVE while it waited (R103). -/
theorem witness_consume_lost : let s := tail1 (some ⟨ent 0x01 [], 0, true⟩)
    ∃ r, Tbl.get? s.rings.tbl 5 = some r ∧ ringOn s 5 r = true ∧ tagFree s 5 r = true ∧ freeTag s = some 0 ∧
    entryCheck (refill s) r.owner 5 false (ent 0x01 []) = none := ⟨_, rfl, by decide +kernel⟩
/-- AdmitDataEntry: a COMPRESS of 4,096 bytes ranks first in the service domain. -/
def job5 : Entry := ent 0x80 [(4, 2, 1), (0x14, 4, 4096), (0x18, 8, 0x4000), (0x20, 8, 0x8000), (0x28, 4, 4096), (0x30, 8, 0xC000)]
theorem witness_admit : let s := tail1 (some ⟨job5, 0, false⟩)
    ∃ r, Tbl.get? s.rings.tbl 5 = some r ∧ ringOn s 5 r = true ∧ tagFree s 5 r = true ∧ freeTag s = some 0 ∧
    entryCheck (refill s) r.owner 5 false job5 = none ∧ entryDomain (refill s) 5 job5 = some 4 ∧
    lookCharge (refill s) 5 ⟨job5, 0, false⟩ ≠ 0 ∧ pick (refill s) 4 = some 5 ∧ (ctxOf (refill s) 1).isSome = true := ⟨_, rfl, by decide +kernel⟩
/-- Used fetch slots keep it waiting (R64). -/
theorem witness_admit_waits : let s := { tail1 (some ⟨job5, 0, false⟩) with ten.doms := [(4, ⟨0, 0, 0, 64⟩)] }
    pick (refill s) 4 ≠ some 5 ∧ entryDomain (refill s) 5 job5 = some 4 := by decide +kernel
/-- A WRITE of context 1, which has used its VOLUME_QUOTA of 1 GiB. -/
def write5 : Entry := ent 0x41 [(4, 2, 1), (8, 2, 0), (0x14, 4, 4), (0x18, 8, 0x4000)]
def haltedState : State :=
  { tail1 (some ⟨write5, 0, false⟩) with
    ten := { up.ten with ctx := [(1, { Ctx.fresh { desc0 with volQuota := 1 } with volUsed := 2 ^ 30 })] },
    strm := [(0, Stream.opened 1 5 0 0 false)] }
theorem witness_admit_halted : ∃ r, Tbl.get? haltedState.rings.tbl 5 = some r ∧ ringOn haltedState 5 r = true ∧
    tagFree haltedState 5 r = true ∧ freeTag haltedState = some 0 ∧ entryCheck (refill haltedState) r.owner 5 false write5 = none ∧
    (ctxOf (refill haltedState) 1).elim false halted = true := ⟨_, rfl, by decide +kernel⟩

/-- Two commands of ring 0: the second is ORDERED. -/
def two (d : Option Compl) : State :=
  { up with rings.cmds := [{ cmdOn 0 0x01 [(0x10, 8, 0x4000)] .fresh with id := 0, done := d }, cmdOn 0 0x01 [(1, 1, 1)] .ordered] }
theorem witness_ordered_starts : (∀ k ∈ before (two (some (Compl.ok 0 0))) 1, k.ring = 0 → k.mailbox = false → k.done ≠ none) ∧
    (cmdOf (two (some (Compl.ok 0 0))) 1).isSome = true := by decide +kernel
theorem witness_ordered_waits : (∃ k ∈ before (two none) 1, k.ring = 0 ∧ k.mailbox = false ∧ k.done = none) ∧
    executes (.identify 1) = some 1 := by decide +kernel
theorem test_ordered : (cmdOf (after (exec (.orderedStart 1) (two (some (Compl.ok 0 0))))) 1).map (·.prog) = some .fresh ∧
    (cmdOf (after (exec (.orderedStart 1) (two none))) 1).map (·.prog) = some .ordered := by decide +kernel
/-- A later command of the ring does not wait for the ORDERED one. -/
theorem witness_ordered_later : let s : State := { up with rings.cmds := [cmdOn 0 0x20 [(1, 1, 1)] .ordered,
      { cmdOn 0 0x01 [(0x10, 8, 0x4000)] .fresh with id := 2 }] }
    (∃ d, Started s 2 0x01 d ∧ d.ring = 0) ∧ (before s 2).length = 1 := ⟨⟨_, ⟨rfl, by decide +kernel⟩, rfl⟩, by decide +kernel⟩

/-- CommandsEndEarly: a job that nothing stops, a job that an ABORT stops, a WRITE. -/
theorem witness_host_read_error : On up 0x80 [] .fresh fun s c => cmdOf s 1 = some c ∧ readsHost c.opcode = true ∧
    c.mailbox = false ∧ c.done = none ∧ c.prog ≠ .ordered ∧ (∀ total stored bad, c.prog ≠ .writing total stored bad) ∧
    (Tbl.get? s.svc 1).elim true (·.stopBy == 0) = true := ⟨by decide +kernel, by decide +kernel, rfl, rfl, by decide, nofun, by decide +kernel⟩
theorem witness_host_read_error_stopping : let c := cmdOn 0 0x80 [] (.engine 4)
    let s := { put up c with svc := [(1, { Job.begin c true with stopBy := 0x47 })] }
    cmdOf s 1 = some c ∧ readsHost c.opcode = true ∧ c.done = none ∧ (∀ total stored bad, c.prog ≠ .writing total stored bad) ∧
    (Tbl.get? s.svc 1).map (·.stopBy) = some 0x47 := ⟨by decide +kernel, by decide +kernel, rfl, nofun, by decide +kernel⟩
theorem witness_host_read_error_write : On up 0x41 [] (.writing 1 0 none) fun s c => cmdOf s 1 = some c ∧ readsHost c.opcode = true ∧
    c.mailbox = false ∧ c.done = none ∧ c.prog ≠ .ordered := by decide +kernel
theorem witness_abort : On up 0x04 [(0x10, 2, 5)] .fresh fun s c => Started s 1 0x04 c ∧
    (Tbl.get? s.rings.tbl (c.fld 0x10 2)).isSome = true ∧ c.ring = 0 := by decide +kernel
/-- Ring 0 belongs to the PF; a ring 7 of VF 1 may not abort on it, and ring 9 does not exist. -/
theorem witness_abort_foreign : let s := put { up with rings.tbl := Tbl.put up.rings.tbl 7 (newRing 1 0 6 0 0 0 63) } (cmdOn 7 0x04 [] .fresh)
    Started s 1 0x04 (cmdOn 7 0x04 [] .fresh) ∧ (Tbl.get? s.rings.tbl 0).map (·.owner) = some 0 ∧ cmdFn s (cmdOn 7 0x04 [] .fresh) = 1 := by
  decide +kernel
theorem witness_abort_none : On up 0x04 [(0x10, 2, 9)] .fresh fun s c => Started s 1 0x04 c ∧
    Tbl.get? s.rings.tbl (c.fld 0x10 2) = none := by decide +kernel
theorem witness_abort_complete : On up 0x04 [(0x10, 2, 5)] (.abortWait [3] 1 0) fun s c => cmdOf s 1 = some c ∧
    c.done = none ∧ ∀ k ∈ s.rings.cmds, [3].elem k.id = false := by decide +kernel
theorem witness_abort_waits : let s : State := { up with rings.cmds := [{ cmdOn 5 0x01 [] .fresh with id := 3 },
      cmdOn 0 0x04 [(0x10, 2, 5)] (.abortWait [3] 1 0)] }
    (cmdOf s 1).isSome = true ∧ ∃ k ∈ s.rings.cmds, [3].elem k.id = true := by decide +kernel
/-- The completion of ABORT says how many it aborted (R199). -/
theorem test_abort_complete : On up 0x04 [(0x10, 2, 5)] (.abortWait [3] 2 1) fun s _ =>
    (after (exec (.abortComplete 1) s)).out.head? =
      some (.dma 0 none 0x2000 [9, 0, 0, 1, 2, 0, 0, 0, 1, 0, 0, 0, 0, 0, 0, 0] false) := by decide +kernel
/-- An ORDERED FLUSH that has not started is aborted and its completion posted at once. -/
theorem test_abort : let s : State := { up with rings.cmds := [{ cmdOn 5 0x43 [] .ordered with id := 3 }, cmdOn 0 0x04 [(0x10, 2, 5), (0x14, 4, 1)] .fresh] }
    (cmdOf (after (exec (.abort 1) s)) 1).map (·.prog) = some (.abortWait [] 1 0) := by decide +kernel

/-- StatusPages. -/
theorem witness_identify : On up 0x01 [(0x10, 8, 0x4000)] .fresh fun s c => Started s 1 0x01 c ∧ MayAnswer s c 0x10 4096 := by decide +kernel
theorem witness_get_context_status : On up 0x0B [(4, 2, 1), (0x10, 8, 0x4000)] .fresh fun s c => Started s 1 0x0B c := by decide +kernel
theorem witness_get_log_page : On up 0x05 [(0x10, 1, 0x30), (0x14, 4, 64), (0x18, 8, 0x4000)] .fresh fun s c => Started s 1 0x05 c ∧
    pageAllowed s (c.fld 0x10 1) (c.fld 0x12 2) c.ring (cmdFn s c) = true ∧ bitOf (c.fld 0x11 1) 0 = false ∧ dataOk s c = true := by
  decide +kernel
theorem witness_get_log_page_foreign : let s := put up (cmdOn 5 0x05 [(0x10, 1, 2)] .fresh)
    Started s 1 0x05 (cmdOn 5 0x05 [(0x10, 1, 2)] .fresh) ∧ pageAllowed s 2 0 5 0 = false := by decide +kernel
/-- FREE is 0 in the status of a context that was never created. -/
theorem test_context_status_code : ctxCode up 2 = 0 ∧ ctxCode up 1 = 1 := by decide +kernel

/-- RingsMadeAndRemoved. -/
def cr : List (Nat × Nat × Nat) := [(0x10, 8, 0x40000), (0x18, 8, 0x50000), (0x20, 1, 0), (0x21, 1, 7), (0x22, 2, 8), (0x24, 2, 2)]
theorem witness_create_ring : On up 0x02 cr .fresh fun s c => Started s 1 0x02 c ∧ (createChecks s c).toOption = some 1 ∧
    poolHas16 s = true := by decide +kernel
/-- No CREATE_RING for VF 200, which is not enabled. -/
theorem witness_create_ring_error : On up 0x02 [(0x20, 1, 200)] .fresh fun s c => Started s 1 0x02 c ∧
    (createChecks s c).toOption = none := by decide +kernel
/-- Ring 0 alone, with `n` commands in flight. -/
def crowded (n : Nat) : State :=
  { up with rings := { up.rings with tbl := [(0, newRing 0 0 6 0 0 0 63)], cmds := List.replicate n (cmdOn 0 0x02 cr .fresh) } }
theorem crowded_cmds (n : Nat) : (ringCmds (crowded n) 0).length = n := by
  simp [ringCmds, crowded, cmdOn]
/-- With 32,753 commands or more no 16 pool tags are free (R186). -/
theorem crowded_full (n : Nat) (h : 32753 ≤ n) : poolHas16 (crowded n) = false := by
  have hu : poolUsed (crowded n) = n - 16 := by
    show 0 + ((ringCmds (crowded n) 0).length - 16) = n - 16
    rw [crowded_cmds, Nat.zero_add]
  have hp : poolSize (crowded n) = 32752 := rfl
  simp only [poolHas16, hu, hp]
  exact decide_eq_false (by omega)
theorem crowded_started (m : Nat) : Started (crowded (m + 1)) 1 0x02 (cmdOn 0 0x02 cr .fresh) ∧
    (createChecks (crowded (m + 1)) (cmdOn 0 0x02 cr .fresh)).toOption = some 1 := by
  refine ⟨⟨by simp [cmdOf, crowded, List.replicate_succ, cmdOn], by decide +kernel, rfl, rfl⟩, ?_⟩
  change (createChecks (crowded 0) (cmdOn 0 0x02 cr .fresh)).toOption = some 1
  decide +kernel
theorem witness_create_ring_waits : ∃ s, (Started s 1 0x02 (cmdOn 0 0x02 cr .fresh) ∧
    (createChecks s (cmdOn 0 0x02 cr .fresh)).toOption = some 1) ∧ poolHas16 s = false := by
  have h := crowded_full (32752 + 1) (Nat.le_refl _)
  exact ⟨_, crowded_started _, h⟩

theorem witness_create_ring_freed : On up 0x02 cr (.tagWait 1) fun s c => cmdOf s 1 = some c ∧ c.done = none ∧
    fnEnabled s (c.fld 0x20 1) = true ∧ inFlr s (c.fld 0x20 1) = false ∧ poolHas16 s = true := by decide +kernel
theorem witness_create_ring_owner_gone : On up 0x02 [(0x20, 1, 1)] (.tagWait 1) fun s c => cmdOf s 1 = some c ∧ c.done = none ∧
    fnEnabled s (c.fld 0x20 1) = false := by decide +kernel
/-- The new ring has 128 entries and TAG_MAX 127 (R163, Table 4-13). -/
theorem test_create_ring : On up 0x02 cr .fresh fun s _ =>
    ((Tbl.get? (after (exec (.createRing 1) s)).rings.tbl 1).map fun r => (r.log2, r.tagMax, r.slot, r.vector)) = some (7, 127, 8, 2) := by
  decide +kernel
theorem witness_delete_ring : On up 0x03 [(0x10, 2, 5)] .fresh fun s c => Started s 1 0x03 c ∧
    (Tbl.get? s.rings.tbl (c.fld 0x10 2)).elim false (fun r => decide (r.st ≠ .deleting)) = true := by decide +kernel
theorem witness_delete_ring_none : On up 0x03 [(0x10, 2, 6)] .fresh fun s c => Started s 1 0x03 c ∧
    Tbl.get? s.rings.tbl (c.fld 0x10 2) = none := by decide +kernel
theorem witness_delete_ring_waits : On up 0x03 [(0x10, 2, 0)] (.ringDrain 0 0) fun s c => cmdOf s 1 = some c ∧ c.done = none ∧
    Tbl.has s.rings.tbl 0 = true ∧ ringCmds s 0 ≠ [] := by decide +kernel
theorem witness_delete_ring_drained : On up 0x03 [(0x10, 2, 5)] (.ringDrain 5 0) fun s c => cmdOf s 1 = some c ∧ c.done = none ∧
    Tbl.has s.rings.tbl 5 = true ∧ ringCmds s 5 = [] ∧ Tbl.has s.rings.tbl 6 = false := by decide +kernel
theorem test_delete_ring_drained : On up 0x03 [(0x10, 2, 5)] (.ringDrain 5 0) fun s _ =>
    Tbl.has (after (exec (.deleteRingDrained 1) s)).rings.tbl 5 = false := by decide +kernel

/-- CompletionPosted. The phase of pass 1 is 1 (R175), and the status lies at byte 2. -/
theorem witness_CompletionPosted : (Tbl.get? up.rings.tbl 5).isSome = true := by decide +kernel
theorem test_phase : (postOne up (cmdOn 5 0x01 [] .fresh) (Compl.of 0x41)).out.head? =
    some (.dma 0 none 0x20000 [9, 0, 0x41, 1, 0, 0, 0, 0, 0, 0, 0, 0, 0, 0, 0, 0] false) := by decide +kernel
/-- After the last entry of a pass the tail is 0 and the next pass writes phase 0 (R173, R175). -/
theorem test_phase_turns : let s : State := { up with rings.tbl := Tbl.upd up.rings.tbl 5 fun r => { r with cqTail := 63 } }
    ((Tbl.get? (postOne s (cmdOn 5 0x01 [] .fresh) (Compl.of 0)).rings.tbl 5).map fun r => (r.cqTail, r.pass)) = some (0, 2) := by decide +kernel

/-! ### Contexts -/

/-- A descriptor as host memory holds it (Table 2-1): weight 1, gust 1, staging 64, tag 9. -/
def descBits (tag : Nat) : BitVec 1024 :=
  BitVec.ofNat 1024 (leNat (pageOf 128 [(1, 1, 1), (4, 2, 1), (6, 2, 64), (0x10, 8, tag), (0x2C, 1, 4), (0x2D, 1, 16), (0x2E, 2, 15)]))

theorem witness_create_context : On up 0x08 [(4, 2, 2)] .fresh fun s c => Started s 1 0x08 c ∧ ctxOf s c.ctx = none ∧
    dataOk s c = true ∧ c.mailbox = false ∧ descReservedOk (descBits 9) 0xFFFF = true ∧
    descOk s c.ctx (readDesc (descBits 9)) true = true ∧ inFlr s (readDesc (descBits 9)).ownerFn = false := by decide +kernel
theorem witness_create_context_used : On up 0x08 [(4, 2, 1)] .fresh fun s c => Started s 1 0x08 c ∧ dataOk s c = true ∧
    (ctxOf s c.ctx).isSome = true := by decide +kernel
/-- The tag of another context, and an owner in an FLR. -/
theorem witness_create_context_bad : On up 0x08 [(4, 2, 2)] .fresh fun s c => Started s 1 0x08 c ∧ ctxOf s c.ctx = none ∧
    descOk s c.ctx (readDesc (descBits 7)) true = false := by decide +kernel
/-- VF 1 enabled, its FLR in progress. -/
def vfFlr : State :=
  { up with host := { up.host with
      vfEn := true, vfMse := true, numVfs := 1, vfCount := 1, fns := (1, { FnState.reset with flr := true }) :: up.host.fns } }
def descVf : BitVec 1024 := descBits 9 ||| 1
theorem witness_create_context_flr : On vfFlr 0x08 [(4, 2, 2)] .fresh fun s c => Started s 1 0x08 c ∧ ctxOf s c.ctx = none ∧
    dataOk s c = true ∧ descReservedOk descVf 0xFFFF = true ∧ descOk s c.ctx (readDesc descVf) true = true ∧
    inFlr s (readDesc descVf).ownerFn = true := by decide +kernel
/-- A new context is ACTIVE with a full bucket of GUST MiB (R68, R91). -/
theorem test_create_context : On up 0x08 [(4, 2, 2)] .fresh fun s _ =>
    ((ctxOf (after (exec (.createContext 1 (descBits 9)) s)) 2).map fun x => (x.st, x.bucket, x.volUsed)) = some (.active, 1048576, 0) := by
  decide +kernel
/-- TENANT_TAG 7 belongs to context 1 already (R105). -/
theorem test_create_context_tag : On up 0x08 [(4, 2, 2)] .fresh fun s _ =>
    ctxOf (after (exec (.createContext 1 (descBits 7)) s)) 2 = none := by decide +kernel
theorem witness_modify_context : On up 0x09 [(4, 2, 1), (0x18, 4, 2)] .fresh fun s c => Started s 1 0x09 c ∧
    (ctxOf s c.ctx).elim false (fun x => decide (x.st ≠ .deleting) && (
      let d := mergeDesc x.d (readDesc (descBits 9)) (c.fld 0x18 4)
      descOk s c.ctx d (sel (c.fld 0x18 4) 0) && !(sel (c.fld 0x18 4) 0 && inFlr s d.ownerFn) &&
        !(identityMask (c.fld 0x18 4) || withdraws s c.ctx x.d d))) = true ∧
    dataOk s c = true ∧ c.mailbox = false ∧ descReservedOk (descBits 9) (c.fld 0x18 4) = true := by decide +kernel
/-- A MODIFY of the owner is refused while a stream is open, and DELETE_CONTEXT too. -/
theorem witness_modify_context_busy : let s := { put up (cmdOn 0 0x09 [(4, 2, 1), (0x18, 4, 1)] .fresh) with strm := [(0, Stream.opened 1 5 0 0 true)] }
    let c := cmdOn 0 0x09 [(4, 2, 1), (0x18, 4, 1)] .fresh
    Started s 1 0x09 c ∧ (ctxOf s 1).isSome = true ∧ dataOk s c = true ∧ descReservedOk (descBits 9) 1 = true ∧
    descOk s 1 (mergeDesc desc0 (readDesc (descBits 9)) 1) (sel 1 0) = true ∧ identityMask 1 = true ∧ ctxStreams s 1 ≠ [] := by
  decide +kernel
theorem witness_delete_context_busy : let c := cmdOn 0 0x0A [(4, 2, 1)] .fresh
    let s := { put up c with strm := [(0, Stream.opened 1 5 0 0 true)] }
    Started s 1 0x0A c ∧ (ctxOf s c.ctx).isSome = true ∧ bitOf (c.fld 0x10 4) 0 = false ∧ ctxStreams s c.ctx ≠ [] := by decide +kernel
theorem witness_delete_context_idle : On up 0x0A [(4, 2, 1)] .fresh fun s c => Started s 1 0x0A c ∧
    (ctxOf s c.ctx).map (·.st) = some .active ∧ inFlight s c.ctx = [] ∧ ctxStreams s c.ctx = [] := by decide +kernel
theorem witness_delete_context_waits : let c := cmdOn 0 0x0A [(4, 2, 1)] (.waiting 0)
    let s : State := { up with rings.cmds := [c, { cmdOn 5 0x40 [(4, 2, 1)] .fresh with id := 2 }] }
    Waiting s 1 0x0A c (.waiting 0) ∧ inFlight s c.ctx ≠ [] := by decide +kernel
theorem witness_delete_context : On up 0x0A [(4, 2, 1)] (.waiting 0) fun s c => Waiting s 1 0x0A c (.waiting 0) ∧
    inFlight s c.ctx = [] ∧ ctxStreams s c.ctx = [] := by decide +kernel

/-! ### Keys, the domain and session keys -/

/-- The key 00 01 … 0F in slot 0, as RFC 3394 uses it. -/
def kek : KeyVal := ⟨false, 0xf0e0d0c0b0a09080706050403020100, 0⟩
/-- A formatter of a domain, with an operator key in slot 0. -/
def joined : State := { up with keys := { Keys.reset with oper := [(0, kek)], fid := 3, did := 5, pend := 16 } }
/-- A valid wrapped blob for KEY_ID 77 under slot 0 (Table 7-7). -/
def blob (kind : Nat) : BitVec 512 :=
  BitVec.ofNat 512 (leNat (pageOf 64 [(0, 4, 0x424B574B), (4, 1, 1), (5, 1, kind), (6, 1, 1), (8, 4, 77)]))

/-- FIPS-197 appendix C.1. -/
theorem test_aes : beNat (aesEnc [0x00, 0x01, 0x02, 0x03, 0x04, 0x05, 0x06, 0x07, 0x08, 0x09, 0x0a, 0x0b, 0x0c, 0x0d, 0x0e, 0x0f]
    [0x00, 0x11, 0x22, 0x33, 0x44, 0x55, 0x66, 0x77, 0x88, 0x99, 0xaa, 0xbb, 0xcc, 0xdd, 0xee, 0xff]) = 0x69c4e0d86a7b0430d8cdb78070b4c55a := by
  decide +kernel
theorem witness_key_load : On joined 0x10 [(0x18, 2, 8)] .fresh fun s c => Started s 1 0x10 c ∧ c.mailbox = false ∧ dataOk s c = true ∧
    blobOk (blob 1) = true ∧ fieldOf (blob 1) 5 1 = 1 ∧ Tbl.has s.keys.tenant (c.fld 0x18 2) = false ∧ bitOf (c.fld 0x1A 1) 0 = false := by
  decide +kernel
theorem witness_key_load_operator : On joined 0x10 [(0x18, 2, 62)] .fresh fun s c => Started s 1 0x10 c ∧ dataOk s c = true ∧
    blobOk (blob 2) = true ∧ fieldOf (blob 2) 5 1 = 2 ∧ 1 ≤ c.fld 0x18 2 ∧ c.fld 0x18 2 ≤ 62 ∧ fieldOf (blob 2) 7 1 ≠ c.fld 0x18 2 ∧
    Tbl.has s.keys.oper (c.fld 0x18 2) = false := by decide +kernel
theorem witness_key_load_bad : On joined 0x10 [(0x18, 2, 8)] .fresh fun s c => Started s 1 0x10 c ∧ dataOk s c = true ∧
    blobOk (blob 3) = false := by decide +kernel
theorem witness_key_load_full : On { joined with keys := { joined.keys with tenant := [(8, kek)] } } 0x10 [(0x18, 2, 8)] .fresh fun s c =>
    Started s 1 0x10 c ∧ dataOk s c = true ∧ blobOk (blob 1) = true ∧ fieldOf (blob 1) 5 1 = 1 ∧ bitOf (c.fld 0x1A 1) 0 = false ∧
    Tbl.has s.keys.tenant (c.fld 0x18 2) = true := by decide +kernel
/-- Context 1 bound to slot 8, with a WRITE in flight that uses it. -/
def keyUser : Cmd := { cmdOn 5 0x41 [(4, 2, 1)] .fresh with id := 2 }
def bound : State :=
  { joined with
    ten := { up.ten with ctx := [(1, Ctx.fresh { desc0 with cipher := 1, keySlot := 8, keySlotEn := true })] }
    keys := { joined.keys with tenant := [(8, kek)] } }
theorem witness_key_load_busy : let c := cmdOn 0 0x10 [(0x18, 2, 8), (0x1A, 1, 1)] .fresh
    let s : State := { bound with rings.cmds := [c, keyUser] }
    Started s 1 0x10 c ∧ dataOk s c = true ∧ slotBusy s (c.fld 0x18 2) = true ∧ bitOf (c.fld 0x1A 1) 0 = true := by decide +kernel
theorem witness_key_erase_fresh : On joined 0x11 [(0x10, 1, 1), (0x12, 2, 8)] .fresh fun s c => Started s 1 0x11 c ∧
    eraseUsers s c = [] := by decide +kernel
theorem witness_key_erase_busy : let c (p : Prog) := cmdOn 0 0x11 [(0x10, 1, 1), (0x12, 2, 8)] p
    let s (p : Prog) : State := { bound with rings.cmds := [c p, keyUser] }
    Started (s .fresh) 1 0x11 (c .fresh) ∧ eraseUsers (s .fresh) (c .fresh) ≠ [] ∧ bitOf ((c .fresh).fld 0x14 1) 0 = false ∧
    Waiting (s (.waiting 0)) 1 0x11 (c (.waiting 0)) (.waiting 0) ∧ eraseUsers (s (.waiting 0)) (c (.waiting 0)) ≠ [] := by decide +kernel
theorem witness_key_erase : On joined 0x11 [(0x10, 1, 1), (0x12, 2, 8)] (.waiting 0) fun s c => Waiting s 1 0x11 c (.waiting 0) ∧
    eraseUsers s c = [] := by decide +kernel
theorem test_key_erase : On { joined with keys := { joined.keys with tenant := [(8, kek)] } } 0x11 [(0x10, 1, 1), (0x12, 2, 8)] (.waiting 0)
    fun s _ => (after (exec (.keyErase 1) s)).keys.tenant = [] := by decide +kernel
theorem witness_domain_join : On up 0x12 [(0x10, 8, 0x4000)] .fresh fun s c => Started s 1 0x12 c ∧ c.mailbox = false ∧
    s.keys.resv = none ∧ s.pmu.pfail = false ∧ (s.strm.any fun p => !p.2.read) = false ∧ encrypting s = false ∧ bitOf (c.fld 0x18 1) 0 = false ∧
    dataOk s c = true := by decide +kernel
theorem witness_domain_busy : let c := cmdOn 0 0x12 [] .fresh
    let s := { put joined c with strm := [(0, Stream.opened 1 5 0 0 false)] }
    Started s 1 0x12 c ∧ s.keys.resv = none ∧ s.pmu.pfail = false ∧ (s.strm.any fun p => !p.2.read) = true := by decide +kernel
theorem witness_domain_leave : On joined 0x12 [(0x18, 1, 1)] .fresh fun s c => Started s 1 0x12 c ∧ s.keys.resv = none ∧
    (s.strm.any fun p => !p.2.read) = false ∧ encrypting s = false ∧ bitOf (c.fld 0x18 1) 0 = true := by decide +kernel
/-- LEAVE forgets the operator slots and FORMATTER_ID (R379). -/
theorem test_domain_leave : On joined 0x12 [(0x18, 1, 1)] .fresh fun s _ =>
    (after (exec (.domainJoin 1 0) s)).keys.oper = [] ∧ (after (exec (.domainJoin 1 0) s)).keys.fid = 0 := by decide +kernel
theorem witness_get_device_cert : On up 0x13 [(0x18, 4, 2048), (0x10, 8, 0x4000)] .fresh fun s c => Started s 1 0x13 c := by decide +kernel
/-- Ring 5 holds a 256-bit session key 2 and a recorded LOAD_ERR of index 3. -/
def keyed : State := updSk up 5 fun w => { w with keys := [(2, { kek with bits256 := true })], gens := [(2, 4)], loadErr := [3] }
theorem witness_session_key_clear : let s := put keyed (cmdOn 5 0x85 [(4, 2, 1), (0x10, 1, 4)] .fresh)
    Started s 1 0x85 (cmdOn 5 0x85 [(4, 2, 1), (0x10, 1, 4)] .fresh) ∧ (Tbl.get? s.rings.tbl 5).isSome = true ∧
    ∀ i, i < 4 → bitOf 4 i = true → skUsed s 5 i = false := by decide +kernel
/-- A CRYPT_BLOCK uses session key 2: KEY_SEL 3. -/
theorem witness_session_key_clear_waits : let c := cmdOn 5 0x85 [(4, 2, 1), (0x10, 1, 4)] .fresh
    let s : State := { updCtx keyed 1 fun x => { x with d := { desc0 with cipher := 1 } } with
      rings.cmds := [c, { cmdOn 5 0x84 [(4, 2, 1), (0x11, 1, 3)] .fresh with id := 2 }] }
    Started s 1 0x85 c ∧ (Tbl.get? s.rings.tbl c.ring).isSome = true ∧ bitOf (c.fld 0x10 1) 2 = true ∧ skUsed s c.ring 2 = true := by decide +kernel
/-- RESULT: key 2 loaded, of 256 bits, LOAD_ERR of index 3; generation 4 in field 2 (R405). -/
theorem test_session_key_clear : let s := put keyed (cmdOn 5 0x85 [(4, 2, 1), (0x10, 1, 4)] .fresh)
    (after (exec (.sessionKeyClear 1) s)).out.head? =
      some (.dma 0 none 0x20000 [9, 0, 0, 1, 0x44, 8, 0, 0, 0, 0, 0, 0, 4, 0, 0, 0] false) := by decide +kernel
/-- Ring 5's window with a staged key. -/
def staged : State := updSk up 5 fun w => { w with stage := 0x1234, keyId := 6 }
theorem witness_sk_commit_go : windowReach staged 0 = true ∧ (ringAt staged 0 3).map (·.1) = some 5 ∧ bitOf 0xA 3 = true ∧
    bitOf 0xA 4 = false ∧ skUsed staged 5 2 = false ∧ (ringAt staged 0 3).map (·.2.sk.keyId) = some 6 := by decide +kernel
theorem test_sk_commit_go : (Tbl.get? (after (exec (.skCommitGo 0 3 0xA#32) staged)).rings.tbl 5).map (fun r =>
    (r.sk.stage, r.sk.keys, r.sk.gens)) = some (0, [(2, ⟨false, 0x1234, 6⟩)], [(2, 1)]) := by decide +kernel
theorem witness_sk_commit_clear : windowReach keyed 0 = true ∧ (ringAt keyed 0 3).map (·.1) = some 5 ∧ bitOf 0x12 3 = false ∧
    bitOf 0x12 4 = true ∧ skUsed keyed 5 2 = false := by decide +kernel
theorem test_sk_commit_clear : (Tbl.get? (after (exec (.skCommitClear 0 3 0x12#32) keyed)).rings.tbl 5).map (·.sk.keys) = some [] := by
  decide +kernel
theorem witness_sk_commit_bad : windowReach staged 0 = true ∧ (ringAt staged 0 3).map (·.1) = some 5 ∧ bitOf 0x1A 3 = true ∧ bitOf 0x1A 4 = true := by
  decide +kernel
/-- GO and CLEAR together load nothing and record LOAD_ERR (R372). -/
theorem test_sk_commit_both : (Tbl.get? (after (exec (.skCommitGo 0 3 0x1A#32) staged)).rings.tbl 5).map (fun r =>
    (r.sk.stage, r.sk.loadErr)) = some (0, [2]) ∧ bitOf 0x1A 3 = true ∧ bitOf 0x1A 4 = true := by decide +kernel
/-- SessionKeyWindowReadsZero: slot 3 of the PF. -/
theorem witness_SessionKeyWindowReadsZero : inSk 0 0x10300 = true ∧ 0x10300 + 4 < barSize 0 ∧ 0x10300 % 8 = 0 ∧ inSk 0 0x10304 = true ∧
    hostReach staged 0 = true := by decide +kernel
theorem test_sk_window_read : (after (exec (.rcRegisterRead 0 (.bar0 0x10300 4)) staged)).out.head? = some (.cpl 0 0) := by decide +kernel

/-! ### Nonces -/

/-- A journal write for block 1 in progress. -/
def reserving : State := { joined with keys := { joined.keys with resv := some 1 } }
theorem witness_nonce_reserved : reserving.keys.resv = some 1 ∧ reserving.keys.retry = none := by decide +kernel
theorem test_nonce_reserved : (after (exec .nonceReserved reserving)).keys.pend = 33554432 := by decide +kernel
/-- The retry interval doubles from 10 ms (R359). -/
def failed : State := { joined with keys := { joined.keys with resv := some 1, retry := some (1, 10, 2500000) } }
theorem witness_nonce_journal_fail : failed.keys.resv = some 1 ∧ failed.keys.retry = some (1, 10, 2500000) := by decide +kernel
theorem test_nonce_journal_fail : (after (exec .nonceJournalFail failed)).keys.retry = some (1, 20, 5000000) := by decide +kernel
theorem witness_nonce_retry : let s : State := { failed with keys := { failed.keys with resv := none } }
    (advance s 2500000).keys.retry = some (1, 10, 2500000) ∧ (advance s 2500000).keys.resv = none ∧
    2500000 ≤ now (advance s 2500000) ∧ s.pmu.pfail = false := by decide +kernel
theorem witness_nonce_retry_early : let s : State := { failed with keys := { failed.keys with resv := none } }
    s.keys.retry = some (1, 10, 2500000) ∧ s.keys.resv = none ∧ now (advance s 1) < 2500000 := by decide +kernel
theorem witness_nonce_status : On joined 0x14 [(0x10, 8, 0x4000)] .fresh fun s c => Started s 1 0x14 c := by decide +kernel
/-- next_iv: counter 0 of a persisted range of 16, and none at its end. -/
theorem witness_next_iv : (nextIv joined).1 = some 0 ∧ joined.keys.ctr ≤ joined.keys.pend ∧ (nextIv (nextIv joined).2).1 = some 1 ∧
    (nextIv { joined with keys := { joined.keys with ctr := 16 } }).1 = none := by decide +kernel

/-! ### Mount sessions -/

/-- A partition of `n` wraps from wrap 0 with C3 or not, dirty or not, of policy 1. -/
def part (n : Nat) (c3 dirty : Bool) : PartEntry := ⟨1, c3, false, dirty, n, 0, 0, 0, 1, 0, 250000⟩
/-- A cartridge with one partition and an empty tape. -/
def cart (c3 dirty : Bool) : Cart := ⟨[], false, 1, some ⟨1, 7, [part 192 c3 dirty]⟩, none, [⟨[], []⟩]⟩
/-- A mount session of it that writes the partition. -/
def session (c3 : Bool) : Mount := { Mount.start (cmdOn 0 0x18 [] .fresh) false 7 [part 192 c3 true] with wrPart := some 0 }
/-- Transport 0 calibrated, with a cartridge and perhaps a mount session. -/
def xp0 (m : Option Mount) : Xport := { Xport.reset (some (cart false false)) with startup := true, motionOk := true, mount := m }
def withXp (s : State) (x : Xport) : State := { s with xp := Tbl.put s.xp 0 x }
def loaded : State := withXp up (xp0 none)
def mounted : State := withXp up (xp0 (some (session false)))

theorem witness_mount : On loaded 0x18 [(0x10, 1, 0), (0x18, 8, 0x4000)] .fresh fun s c => Started s 1 0x18 c ∧
    (xpOf s (c.fld 0x10 1)).elim false (fun x => x.startup && x.mount.isNone && x.cart.isSome && !x.calibrating && x.cmTry.isNone) = true ∧
    engRun s 4 (c.fld 0x10 1) = true ∧ dataOk s c = true ∧ c.mailbox = false ∧ (cart false false).format ≠ 0 ∧
    (cmTable (cart false false)).isSome = true := by decide +kernel
/-- RESULT: format 1 and one partition. -/
theorem test_mount : On loaded 0x18 [(0x10, 1, 0), (0x18, 8, 0x4000)] .fresh fun s _ =>
    (after (exec (.mount 1 true) s)).out.head? =
      some (.dma 0 none 0x2000 [9, 0, 0, 1, 1, 1, 0, 0, 0, 0, 0, 0, 0, 0, 0, 0] false) := by decide +kernel
theorem witness_mount_refused : On mounted 0x18 [] .fresh (fun s c => Started s 1 0x18 c ∧ (xpOf s 0).elim false (·.mount.isSome) = true) ∧
    On (withXp up { xp0 none with cart := none }) 0x18 [] .fresh (fun s c => Started s 1 0x18 c ∧ (xpOf s 0).map (·.cart) = some none) ∧
    On (withXp up { xp0 none with startup := false }) 0x18 [] .fresh (fun s c => Started s 1 0x18 c ∧
      (xpOf s 0).elim false (fun x => x.cart.isSome && x.mount.isNone && !x.startup) = true) := by decide +kernel
theorem witness_mount_no_table : let s := withXp up { xp0 none with cart := some { cart false false with cmA := none } }
    On s 0x18 [(0x10, 1, 0)] .fresh fun s c => Started s 1 0x18 c ∧ (xpOf s 0).bind (·.cart) = some { cart false false with cmA := none } ∧
      cmTable { cart false false with cmA := none } = none := by decide +kernel
theorem test_mount_no_table : let s := withXp up { xp0 none with cart := some { cart false false with cmA := none } }
    On s 0x18 [(0x10, 1, 0)] .fresh fun s _ => (after (exec (.mount 1 true) s)).out.head? =
      some (.dma 0 none 0x2000 [9, 0, 0x28, 1, 0, 0, 0, 0, 0, 0, 0, 0, 0, 0, 0, 0] false) := by decide +kernel
theorem witness_unmount : let s := withXp up (xp0 (some { session false with readOnly := true }))
    On s 0x19 [(0x10, 1, 0), (0x11, 1, 2)] (.waiting 0) fun s c => Waiting s 1 0x19 c (.waiting 0) ∧
      (xpOf s (c.fld 0x10 1)).elim false (fun x => !x.faulted && x.cmTry.isNone && x.mount.elim false fun m =>
        partIdle m && m.readOnly && !m.reserveOut) = true := by decide +kernel
theorem witness_unmount_begins : On loaded 0x19 [] .fresh (fun s c => Started s 1 0x19 c ∧ (xpOf s 0).elim false (·.mount.isNone) = true) ∧
    On mounted 0x19 [] .fresh (fun s c => Started s 1 0x19 c ∧ (xpOf s 0).elim false (·.mount.isSome) = true ∧ bitOf (c.fld 0x11 1) 0 = false ∧
      (s.strm.any fun p => p.2.xp == 0) = false) := by decide +kernel
theorem witness_unmount_streams : let c := cmdOn 0 0x19 [] .fresh
    let s := { put mounted c with strm := [(0, Stream.opened 1 5 0 0 true)] }
    Started s 1 0x19 c ∧ (xpOf s 0).elim false (·.mount.isSome) = true ∧ bitOf (c.fld 0x11 1) 0 = false ∧
    (s.strm.any fun p => p.2.xp == 0) = true := by decide +kernel
theorem witness_unmount_power : let s := { mounted with pmu := { mounted.pmu with pfail := true } }
    On s 0x19 [] (.waiting 0) fun s c => Waiting s 1 0x19 c (.waiting 0) ∧ s.pmu.pfail = true ∧
      (xpOf s 0).elim false (fun x => !x.faulted && x.cmTry.isNone && x.mount.elim false fun m =>
        partIdle m && !m.readOnly && !m.reserveOut) = true := by decide +kernel
theorem test_unmount_ejects : let s := withXp up (xp0 (some { session false with readOnly := true }))
    On s 0x19 [(0x10, 1, 0), (0x11, 1, 2)] (.waiting 0) fun s _ =>
      ((xpOf (after (exec (.unmount 1 true) s)) 0).map fun x => (x.mount.isNone, x.cart.isNone)) = some (true, true) := by decide +kernel
/-- Two wraps of OPEN policy 1. -/
def spec2 : BitVec 128 := BitVec.ofNat 128 (leNat (pageOf 16 [(0, 1, 1), (2, 2, 2)]))
theorem witness_format : On mounted 0x1A [(0x10, 1, 0), (0x11, 1, 2)] .fresh fun s c => Started s 1 0x1A c ∧
    ((xpOf s (c.fld 0x10 1)).bind (·.mount)).elim false (fun m => !m.readOnly) = true ∧
    (s.strm.any fun p => p.2.xp == c.fld 0x10 1) = false ∧ dataOk s c = true ∧ s.pmu.pfail = false ∧
    [spec2, spec2].length = c.fld 0x11 1 ∧ [spec2, spec2].all specOk = true ∧
    sumOf ([spec2, spec2].map fun b => fieldOf b 2 2) ≤ 192 := by decide +kernel
/-- 3 × 100 wraps do not fit. -/
def spec100 : BitVec 128 := BitVec.ofNat 128 (leNat (pageOf 16 [(0, 1, 1), (2, 2, 100)]))
theorem witness_format_bad : ¬ ([spec100, spec100, spec100].all specOk = true ∧
    sumOf ([spec100, spec100, spec100].map fun b => fieldOf b 2 2) ≤ 192) := by decide +kernel
/-- The second partition begins on wrap 2 and the generation rises (R239, R441). -/
theorem test_format : On mounted 0x1A [(0x10, 1, 0), (0x11, 1, 2)] .fresh fun s _ =>
    (((xpOf (after (exec (.formatPartitions 1 [spec2, spec2]) s)) 0).bind (·.mount)).map fun m =>
      (m.gen, m.parts.map (·.firstWrap))) = some (8, [0, 2]) := by decide +kernel
theorem witness_FormatEmptiesPartitions : [spec2, spec2][1]? = some spec2 := by decide +kernel
theorem witness_cm_update : let s := withXp up (xp0 (some { session false with dsSinceCm := 1024 }))
    ((xpOf s 0).bind (·.mount)).elim false (fun m => decide (1024 ≤ m.dsSinceCm) && !m.readOnly) = true ∧
    (xpOf s 0).elim false (·.cmTry.isNone) = true ∧ s.pmu.pfail = false := by decide +kernel
theorem test_cm_update : let s := withXp up (xp0 (some { session false with dsSinceCm := 1024 }))
    ((xpOf (after (exec (.cmUpdate 0 true) s)) 0).bind (·.mount)).map (·.dsSinceCm) = some 0 ∧
    (xpOf (after (exec (.cmUpdate 0 false) s)) 0).map (·.cmTry) = some (some (1, 25000000, noCmd)) := by decide +kernel
theorem witness_cm_retry : let s := withXp up { xp0 (some (session false)) with cmTry := some (1, 25000000, noCmd) }
    (xpOf s 0).map (·.cmTry) = some (some (1, 25000000, noCmd)) ∧ 25000000 ≤ now (advance s 25000000) ∧ s.pmu.pfail = false := by
  decide +kernel
theorem witness_cm_retry_early : let s := withXp up { xp0 (some (session false)) with cmTry := some (1, 25000000, noCmd) }
    (xpOf s 0).map (·.cmTry) = some (some (1, 25000000, noCmd)) ∧ now (advance s 1) < 25000000 := by decide +kernel
theorem witness_cm_give_up : let s := withXp up { xp0 (some (session false)) with cmTry := some (2, 25000000, noCmd) }
    (xpOf s 0).map (·.cmTry) = some (some (2, 25000000, noCmd)) ∧ 25000000 ≤ now (advance s 25000000) ∧
    (xpOf (after (exec (.cmAccessRetry 25000000 0 false) s)) 0).map (·.cmTry) = some none := by decide +kernel
/-- A C3-less partition of one wrap of zone B: 8,775,000 frames of 3,120 bits, 1,288,448 bits a dataset (R440, R442). -/
theorem test_wrap_capacity : wrapsCap 1 0 1 = 21248 ∧ capacityDs 1 (part 1 false false) = 21241 := by decide +kernel

/-! ### Streams -/

/-- A stream of context 1 on ring 5. -/
def stream (read : Bool) : Stream := Stream.opened 1 5 0 0 read
/-- A command of ring 5 and context 1 on stream 0. -/
def cmdSt (op : Nat) (fs : List (Nat × Nat × Nat)) (p : Prog) : Cmd := { cmdOn 5 op ((4, 2, 1) :: fs) p with stream := some 0 }
def withStream (s : State) (read : Bool) (c : Cmd) : State := { put s c with strm := [(0, stream read)] }
/-- The hypotheses `P` hold of command 1 on stream 0. -/
abbrev OnSt (s : State) (read : Bool) (op : Nat) (fs : List (Nat × Nat × Nat)) (p : Prog) (P : State → Cmd → Prop) : Prop :=
  P (withStream s read (cmdSt op fs p)) (cmdSt op fs p)

/-- A context that may write in the clear to a policy 0x02 partition. -/
def clearXp : Xport := xp0 (some { session false with parts := [{ part 192 false true with policy := 2, tag := 7 }] })
theorem witness_open_stream : let s := put (withXp up clearXp) (cmdSt 0x40 [] .fresh)
    Started s 1 0x40 (cmdSt 0x40 [] .fresh) ∧ (ctxOf s 1).map (·.d) = some desc0 ∧ openChecks s (cmdSt 0x40 [] .fresh) desc0 = none ∧
    ((xpOf s 0).bind (·.mount)).map (·.wrPart) = some (some 0) := by decide +kernel
theorem test_open_stream : let s := put (withXp up clearXp) (cmdSt 0x40 [] .fresh)
    ((Tbl.get? (after (exec (.openStream 1) s)).strm 0).map fun st => (st.ring, st.read, st.pos)) = some (5, false, 1) := by decide +kernel
/-- Policy 1 takes no clear records: CONTEXT_STATE (Table 5-1). -/
theorem test_open_stream_policy : openChecks (put mounted (cmdSt 0x40 [] .fresh)) (cmdSt 0x40 [] .fresh) desc0 = some (Compl.of 4) := by
  decide +kernel
/-- Partition 1 is asked for while partition 0 is written: at once when partition 0 is idle, after its closing when it is not. -/
def twoParts (o : Option OpenDs) : Xport :=
  xp0 (some { session false with parts := [{ part 96 false true with policy := 2, tag := 7 }, { part 96 false true with policy := 2, tag := 7 }],
                                 openDs := o })
def desc2 : Desc := { desc0 with wrMask := 3 }
def asking (o : Option OpenDs) : State := put (updCtx (withXp up (twoParts o)) 1 fun x => { x with d := desc2 }) (cmdSt 0x40 [(0x11, 1, 1)] .fresh)
theorem witness_open_stream_switches : openChecks (asking none) (cmdSt 0x40 [(0x11, 1, 1)] .fresh) desc2 = none ∧
    ((xpOf (asking none) 0).bind (·.mount)).elim false (fun m => decide (m.wrPart ≠ some 1) && partIdle m) = true ∧
    leastFree ((asking none).strm.map (·.1)) 0 16384 = some 0 := by decide +kernel
theorem witness_open_stream_closes : let o : OpenDs := ⟨0, 64, 1, 1, 0, 0, false, 0⟩
    openChecks (asking (some o)) (cmdSt 0x40 [(0x11, 1, 1)] .fresh) desc2 = none ∧
    ((xpOf (asking (some o)) 0).bind (·.mount)).elim false (fun m =>
      decide (m.wrPart ≠ some 1) && !partIdle m && !m.reserveOut) = true := by decide +kernel
/-- FLUSH, SYNC, CLOSE_STREAM and GET_POSITION without their stream, and under write-stop. -/
theorem witness_no_stream : On up 0x43 [(4, 2, 1)] .fresh (fun s c => Started s 1 0x43 c ∧ streamFor s c false = none) ∧
    On up 0x44 [(4, 2, 1)] .fresh (fun s c => Started s 1 0x44 c ∧ streamFor s c false = none) ∧
    On up 0x45 [(4, 2, 1)] .fresh (fun s c => Started s 1 0x45 c ∧ c.stream = none) ∧
    On up 0x4B [(4, 2, 1)] .fresh (fun s c => Started s 1 0x4B c ∧ c.stream = none) := by decide +kernel
theorem witness_flush_hot : let c (op : Nat) := { cmdSt op [] .fresh with hot := true }
    Started (withStream mounted false (c 0x43)) 1 0x43 (c 0x43) ∧ (streamFor (withStream mounted false (c 0x43)) (c 0x43) false).isSome = true ∧
    Started (withStream mounted false (c 0x44)) 1 0x44 (c 0x44) ∧ (streamFor (withStream mounted false (c 0x44)) (c 0x44) false).isSome = true := by
  decide +kernel
theorem witness_flush : OnSt mounted false 0x43 [] .fresh fun s c => Started s 1 0x43 c ∧ (streamFor s c false).isSome = true ∧
    (cmdSt 0x43 [] .fresh).hot = false := by decide +kernel
theorem witness_sync : OnSt mounted false 0x44 [] .fresh fun s c => Started s 1 0x44 c ∧ (streamFor s c false).isSome = true := by
  decide +kernel
theorem witness_close_stream : OnSt mounted true 0x45 [] .fresh fun s c => Started s 1 0x45 c ∧ c.stream = some 0 ∧
    (Tbl.get? s.strm 0).isSome = true := by decide +kernel
theorem test_close_stream : OnSt mounted true 0x45 [] .fresh fun s _ => (after (exec (.closeStream 1) s)).strm = [] := by decide +kernel
theorem witness_get_position : OnSt mounted true 0x4B [(0x18, 8, 0x4000)] .fresh fun s c => Started s 1 0x4B c ∧ c.stream = some 0 ∧
    (Tbl.get? s.strm 0).map (·.xp) = some 0 ∧ ((xpOf s 0).bind (·.mount)).isSome = true := by decide +kernel

/-! ### Records to tape -/

theorem witness_write : OnSt mounted false 0x41 [(0x14, 4, 4)] .fresh fun s c => (writeChecks s c).toOption.map (·.2) = some desc0 ∧
    dataOk s c = true ∧ Started s 1 0x41 c ∧ c.fld 0x22 1 ≤ desc0.maxLabel ∧ c.fld 0x14 4 ≤ desc0.staging * 1048576 ∧
    sglOk (c.fld 0x20 2) (c.fld 0x14 4) [] = true := by decide +kernel
/-- No open write stream; a scatter list of one element that is missing. -/
theorem witness_write_refused : On mounted 0x41 [(4, 2, 1)] .fresh (fun s c => (writeChecks s c).toOption.isNone = true ∧ Started s 1 0x41 c) ∧
    On mounted 0x42 [(4, 2, 1)] .fresh (fun s c => (writeChecks s c).toOption.isNone = true ∧ Started s 1 0x42 c) := by decide +kernel
theorem witness_write_bad_list : OnSt mounted false 0x41 [(0x14, 4, 4), (0x20, 2, 1)] .fresh fun s c =>
    (writeChecks s c).toOption.isSome = true ∧ dataOk s c = true ∧ Started s 1 0x41 c ∧ sglOk (c.fld 0x20 2) (c.fld 0x14 4) [] = false := by
  decide +kernel
/-- A descriptor of a 4-byte record (Table 5-10). -/
def desc4 : BitVec 256 := BitVec.ofNat 256 (leNat (pageOf 32 [(0, 8, 0x4000), (8, 4, 4)]))
theorem witness_write_batch : OnSt mounted false 0x42 [(0x12, 2, 2)] .fresh fun s c => (writeChecks s c).toOption.isSome = true ∧
    Started s 1 0x42 c ∧ [desc4, desc4].length = c.fld 0x12 2 ∧ sumOf ([desc4, desc4].map fun k => fieldOf k 8 4) ≤ desc0.staging * 1048576 ∧
    firstBad desc0.maxLabel 0 [desc4, desc4] [[], []] = none ∧ c.acked < [desc4, desc4].length := by decide +kernel
/-- Five records of 15 MiB do not fit in STAGING_QUOTA 64 MiB. -/
def descBig : BitVec 256 := BitVec.ofNat 256 (leNat (pageOf 32 [(0, 8, 0x4000), (8, 4, 15728640)]))
theorem witness_write_batch_big : OnSt mounted false 0x42 [(0x12, 2, 5)] .fresh fun s c => (writeChecks s c).toOption.isSome = true ∧
    dataOk s c = true ∧ Started s 1 0x42 c ∧ (List.replicate 5 descBig).length = c.fld 0x12 2 ∧
    desc0.staging * 1048576 < sumOf ((List.replicate 5 descBig).map fun k => fieldOf k 8 4) := by decide +kernel
/-- A record of "1234" in stage `k`. -/
def rec4 (k : Nat) : RecWork := { RecWork.ingest 0 [] [0x31, 0x32, 0x33, 0x34] 5 8 with
  stage := k, raw := true, payload := [0x31, 0x32, 0x33, 0x34], iv := List.replicate 12 0 }
/-- A WRITE of four bytes with its records. -/
def writing (s : State) (fs : List (Nat × Nat × Nat)) (l : List RecWork) : State :=
  withStream s false { cmdSt 0x41 ((0x14, 4, 4) :: fs) (.writing 1 0 none) with recs := l }
theorem witness_ingest : let s := writing mounted [] []
    (writeWork s 1).elim false (fun w => (w.1.recs.find? fun r => r.stage == 4).isNone && wantsRec w.1 0 && dataOk s w.1 &&
      recLab w.1 0 == 0 && recLen w.1 0 == 4 && !bitOf (recFlags w.1 0) 0) = true := by decide +kernel
/-- Without Bus Master Enable no data can be read; a record that is read again replaces the one in hand. -/
theorem witness_ingest_no_host : let s := writing { mounted with host := { up.host with fns := [] } } [] []
    (writeWork s 1).elim false (fun w => wantsRec w.1 0 && !dataOk s w.1 && recLab w.1 0 == 0 && recLen w.1 0 == 4) = true := by decide +kernel
theorem witness_ingest_again : let s := writing mounted [] [rec4 4]
    (writeWork s 1).elim false (fun w => (w.1.recs.find? fun r => r.stage == 4) == some (rec4 4) && wantsRec w.1 0 && dataOk s w.1 &&
      recLab w.1 0 == 0 && recLen w.1 0 == 4 && !bitOf (recFlags w.1 0) 0) = true := by decide +kernel
/-- CRC-32C of "123456789" is E3069283 (the check value of CRC-32/iSCSI, R411); a wrong HOST_CRC fails the record. -/
theorem test_crc32c : crc32c [0x31, 0x32, 0x33, 0x34, 0x35, 0x36, 0x37, 0x38, 0x39] = 0xE3069283 := by decide +kernel
theorem witness_ingest_bad_crc : let s := writing mounted [(0x12, 1, 1), (0x24, 4, 1)] []
    (writeWork s 1).elim false (fun w => bitOf (recFlags w.1 0) 0 && crc32c [0x31, 0x32, 0x33, 0x34] != recCrc w.1 0) = true := by
  decide +kernel
theorem test_ingest : let s := writing mounted [] []
    (cmdOf (after (exec (.recordIngest 1 [] [0x31, 0x32, 0x33, 0x34]) s)) 1).map (fun c => c.recs.map (·.ing)) =
      some [crc32c [0x31, 0x32, 0x33, 0x34]] ∧
    (ctxOf (after (exec (.recordIngest 1 [] [0x31, 0x32, 0x33, 0x34]) s)) 1).map (·.staged) = some 4 := by decide +kernel
theorem witness_record_compress_raw : let s := writing mounted [(0x12, 1, 2)] [rec4 0]
    (writeWork s 1).elim false (fun w => (w.1.recs.find? fun r => r.stage == 0).isSome && !w.2.2.d.history && engRun s 0 w.2.1.xp &&
      bitOf (recFlags w.1 0) 1) = true := by decide +kernel
/-- Context 1 with compression on. -/
def squeezing (s : State) : State := updCtx s 1 fun x => { x with d := { desc0 with flags := 1 } }
/-- Example 6.1: literal run of 4, match of length 8 at distance 4, literal run of 2. -/
def unit14 : Bytes := [0x0E, 0, 0x80, 1, 0x0B, 0, 0, 0, 3, 0x41, 0x42, 0x43, 0x44, 0x84, 3, 0, 1, 0x58, 0x59]
def abcd : Bytes := [0x41, 0x42, 0x43, 0x44, 0x41, 0x42, 0x43, 0x44, 0x41, 0x42, 0x43, 0x44, 0x58, 0x59]
theorem test_ktc_unit : ktcCodes [] true abcd (unit14 ++ leBytes 4 (crc32c abcd)) = true := by decide +kernel
/-- A record of 32 equal bytes, which one KTC unit shortens. -/
def long32 : Bytes := List.replicate 32 0x41
def unit32 : Bytes := [0x20, 0, 0x80, 1, 5, 0, 0, 0, 0, 0x41, 0x9B, 0, 0] ++ leBytes 4 (crc32c long32)
theorem witness_record_compress_coded : let s := squeezing (writing mounted [] [{ rec4 0 with data := long32 }])
    (writeWork s 1).elim false (fun w => !bitOf (recFlags w.1 0) 1 && w.2.2.d.compressEn && decide (unit32.length < long32.length) &&
      ktcCodes w.2.1.runData (beginsRun w.2.2.d w.2.1 (keySel w.1)) long32 unit32) = true := by decide +kernel
/-- Context 1 ciphering with AES-128 under tenant slot 0. -/
def sealing (s : State) (k : Nat) : State :=
  { updCtx s 1 fun x => { x with d := { desc0 with cipher := 1, keySlotEn := true, flags := k } } with
    keys := { joined.keys with tenant := [(0, kek)] } }
theorem witness_seal_clear : (writeWork (writing mounted [] [rec4 1]) 1).elim false (fun w =>
    (w.1.recs.find? fun r => r.stage == 1).isSome && w.2.2.d.cipher == 0) = true := by decide +kernel
theorem witness_seal : let s := sealing (writing mounted [] [rec4 1]) 4
    (writeWork s 1).elim false (fun w => w.2.2.d.cipher != 0 && (runEngines s 2).elem 3 && w.2.2.d.checkback &&
      decide (1 < (runEngines s 2).length) && !(rec4 1).banned.elem 3 && (keyFor s w.1 w.2.2.d).isSome && (nextIv s).1 == some 0) = true := by
  decide +kernel
/-- Example 7.1: FORMATTER_ID 0x3A15, counter 0x21C800005. -/
theorem test_iv : ivBytes 0x3A15 0x21C800005 = [0x15, 0x3A, 0, 0, 5, 0, 0x80, 0x1C, 2, 0, 0, 0] ∧
    ctrBlock (ivBytes 0x3A15 0x21C800005) 1 = [0x15, 0x3A, 0, 0, 5, 0, 0x80, 0x1C, 2, 0, 0, 0, 0, 0, 0, 2] := by decide +kernel
theorem witness_checkback : let s := sealing (writing mounted [] [{ rec4 2 with engine := 3 }]) 4
    (writeWork s 1).elim false (fun w => (w.1.recs.find? fun r => r.stage == 2).isSome && decide (1 < (runEngines s 2).length) &&
      (runEngines s 2).elem 4) = true := by decide +kernel
/-- A check that does not verify. -/
def seenBad : Seen := ⟨false, 0, false, 0, 0⟩
theorem witness_seen : seenOk seenFine = true ∧ seenOk seenBad = false ∧ (rec4 2).reseals < 2 := by decide +kernel
/-- The counter has reached the persisted end: NONCE_NOT_RESERVED. -/
theorem witness_seal_no_nonce : let s := { sealing (writing mounted [] [rec4 1]) 4 with keys := { joined.keys with tenant := [(0, kek)], ctr := 16 } }
    (writeWork s 1).elim false (fun w => w.2.2.d.cipher != 0 && (runEngines s 2).elem 3 && decide (1 < (runEngines s 2).length) &&
      (keyFor s w.1 w.2.2.d).isSome && (nextIv s).1 == none) = true := by decide +kernel
theorem test_checkback : let s := sealing (writing mounted [] [{ rec4 2 with engine := 3 }]) 4
    (cmdOf (after (exec (.checkBack 1 4 seenFine) s)) 1).map (fun c => c.recs.map (·.stage)) = some [3] ∧
    (cmdOf (after (exec (.checkBack 1 4 seenBad) s)) 1).map (fun c => c.recs.map (·.banned)) = some [[3, 4]] := by decide +kernel
theorem witness_pack : let s := writing mounted [] [rec4 3]
    (writeWork s 1).elim false (fun w => (w.1.recs.find? fun r => r.idx == w.1.acked).isSome && w.1.stream == some 0 && dataOk s w.1 &&
      !packsBefore s w.1 && !asmFull s 0 && engRun s 5 0 && !(xpOf s 0).elim false (·.faulted) &&
      (((xpOf s 0).bind (·.mount)).elim false fun m => !m.eopRaised &&
        (packInto s m (alignUp (storedLen (rec4 3)) 16) 1 5 4).isSome)) = true := by decide +kernel
/-- At the end of the partition nothing is packed (R267). -/
theorem witness_pack_end : packInto mounted { session false with wrWrap := 191, wrBits := wrapBits 191 } 64 1 5 4 = none := by decide +kernel
theorem witness_pack_eop : let s := writing (withXp up (xp0 (some { session false with eopRaised := true }))) [] [rec4 3]
    (writeWork s 1).elim false (fun w => (w.1.recs.find? fun r => r.idx == w.1.acked).isSome && w.1.stream == some 0 && dataOk s w.1 &&
      !packsBefore s w.1 && !asmFull s 0 && engRun s 5 0 && ((xpOf s 0).bind (·.mount)).elim false (·.eopRaised)) = true := by decide +kernel
/-- The packed record is the first of its dataset and its RECORD_SEQ is 1. -/
theorem test_pack : let s := writing mounted [] [rec4 3]
    (((xpOf (after (exec (.recordPack 1 seenFine seenFine []) s)) 0).bind (·.mount)).bind (·.openDs)).map (fun o => (o.num, o.used, o.firstSeq)) =
      some (0, 64, 1) := by decide +kernel
/-- Example 5.1: record 3 begins at 3,932,496 of dataset 5,000 and leaves 1,115,072 bytes in dataset 5,001. -/
def ds5000 : Mount := { session true with openDs := some ⟨5000, 3932496, 88001, 3, 0, 0, false, 0⟩, nextNum := 5001 }
theorem test_pack_spans : (packInto mounted ds5000 1310832 88004 0 3145728).map (fun p => (p.2.1, p.2.2.1, p.2.2.2, p.1.openDs.map (·.used))) =
    some (5000, 3932496, 5001, some 1115072) := by decide +kernel
theorem witness_flush_window : let s := withXp up (xp0 (some { ds5000 with flushAt := some 5 }))
    ((xpOf (advance s 5) 0).bind (·.mount)).bind (·.flushAt) = some 5 ∧ 5 ≤ now (advance s 5) ∧
    (((xpOf (advance s 5) 0).bind (·.mount)).bind (·.openDs)).isSome = true := by decide +kernel
theorem witness_flush_window_early : let s := withXp up (xp0 (some { ds5000 with flushAt := some 5 }))
    now (advance s 4) < 5 ∧ ((xpOf s 0).bind (·.mount)).bind (·.flushAt) = some 5 := by decide +kernel
theorem test_flush_window : let s := withXp up (xp0 (some { ds5000 with flushAt := some 5 }))
    (((xpOf (after (exec (.flushWindowExpire 5 0 []) s)) 0).bind (·.mount)).map fun m =>
      (m.openDs.isNone, m.closed.map fun d => (d.hdr.num, d.hdr.fillOff))) = some (true, [(5000, 3932496)]) := by decide +kernel
theorem witness_PackingFillsDatasets : ds5000.openDs = some ⟨5000, 3932496, 88001, 3, 0, 0, false, 0⟩ ∧ 3932496 ≤ packBytes ∧
    5000 < ds5000.nextNum ∧ (fillBytes mounted 8 ds5000 1310832).isSome = true := by decide +kernel

/-! ### The writing side of a transport -/

/-- A closed dataset 0 that is not written yet, all of whose codewords have passed verify. -/
def closed0 (m : Mount) : ClosedDs := { ClosedDs.new (closedHdr up m 0 false) 4000000 4000000 with passed := List.range 4608 }
/-- Transport 0 at segment `seg` of its position. -/
def position (lead : Bool) (seg : Nat) : Mount :=
  { session false with closed := [closed0 (session false)], cur := some ⟨0, 0, seg, false, lead, false⟩, nextNum := 1 }
/-- Transport 0 writing, `run` µm after it passed 1.2 m/s. -/
def writingXp (lead : Bool) (seg run : Nat) : Xport :=
  { xp0 (some (position lead seg)) with
    motion := .writing, run := run, wi := { Inhibit.reset with cond := 0, armed := true, wgReq := true } }
theorem witness_segment_lead : (let x := writingXp true 0 200000
      wgHigh x.wi && x.haltReq == 0 && decide (x.blk.bhMm * 1000 ≤ x.run) && (curDs (position true 0)).isSome) = true ∧
    (writingXp true 0 0).run < (writingXp true 0 0).blk.bhMm * 1000 := by decide +kernel
theorem test_segment_lead : let s := withXp up (writingXp true 0 200000)
    (((xpOf (after (exec (.writeSegmentBoundary 100 0 []) s)) 0).bind (·.mount)).map fun m => (m.wrBits, m.cur.map (·.lead))) =
      some (2304, some false) := by decide +kernel
theorem witness_segment_halt : let x := { writingXp false 10 0 with haltReq := 2 }
    x.haltReq ≠ 0 ∧ x.motion = .writing ∧ (curDs (position false 10)).isSome = true := by decide +kernel
theorem witness_segment : ∀ seg ∈ [0, 191], (writingXp false seg 0).haltReq = 0 ∧
    (position false seg).cur.elim false (fun c => !c.lead && decide (c.seg < 192)) = true ∧ (curDs (position false seg)).isSome = true := by
  decide +kernel
theorem witness_segment_full : (position false 192).cur.elim false (fun c => !c.lead && decide (192 ≤ c.seg)) = true ∧
    (curDs (position false 192)).isSome = true := by decide +kernel
theorem test_segment : (((xpOf (after (exec (.writeSegmentBoundary 100 0 []) (withXp up (writingXp false 10 0)))) 0).bind (·.mount)).bind
    (·.cur)).map (·.seg) = some 11 := by decide +kernel
/-- May the position end, and does it leave the transport faulted? -/
def ends (x : Xport) : Bool × Bool :=
  let s := withXp up x
  x.mount.elim (false, false) fun m => m.cur.elim (false, false) fun c => (curDs m).elim (false, false) fun d =>
    (mayEnd s 0 m c d, (xpOf (endPosition s 0 m c d) 0).elim true (·.faulted))
/-- The fourth attempt of dataset 0, abandoned. -/
def lastTry : Xport :=
  { writingXp false 10 0 with mount := some { position false 10 with
      closed := [{ closed0 (session false) with hdr := { closedHdr up (session false) 0 false with attempt := 3 }, abandon := 2 }] } }
theorem witness_dataset_boundary : ends (writingXp false 144 0) = (true, false) ∧ (ends (writingXp false 143 0)).1 = false ∧
    ends lastTry = (true, true) := by decide +kernel
theorem test_dataset_boundary : (((xpOf (after (exec (.datasetBoundary 0) (withXp up (writingXp false 144 0)))) 0).bind (·.mount)).map fun m =>
    (m.wrBits, m.closed.map (·.written))) = some (1288448, [true]) := by decide +kernel
/-- Transport 0 turning round, hot or not, writing or reading. -/
def turning : State := withXp up { writingXp true 0 0 with motion := .turnaround }
def readerOn (s : State) : State := withStream s true (cmdSt 0x48 [] (.reading 0 0 0 false 0 [] 0))
theorem witness_wrap_turnaround : readsNow turning 0 = false ∧
    (xpOf turning 0).elim false (fun x => x.motion == .turnaround && mayWrite turning 0 x && !x.stopReq && x.mount.isSome) = true ∧
    mayWrite { turning with pmu := { turning.pmu with pfail := true } } 0 (writingXp true 0 0) = false ∧
    readsNow (readerOn turning) 0 = true := by decide +kernel
theorem test_wrap_turnaround : (xpOf (after (exec (.wrapTurnaround 0) turning)) 0).map (fun x =>
    (x.wrap, x.reverse, x.turnarounds)) = some (1, true, 1) := by decide +kernel
/-- A stopped transport with a dataset to write and its assembly region half full (RESTART_WM 50 %). -/
def stoppedXp : Xport := { xp0 (some { session false with closed := [closed0 (session false)], nextNum := 1 }) with occ := 67108864 }
/-- The same at bit `b` of wrap `w`. -/
def stoppedAt (w b : Nat) : Xport := { stoppedXp with mount := stoppedXp.mount.map fun m => { m with wrWrap := w, wrBits := b } }
/-- What TRANSPORT_RESTART asks of a transport that writes, with the room and the wrap it finds. -/
def restarts (x : Xport) : Option (Bool × Bool) :=
  let s := withXp up x
  if x.motion == .stopped && mayWrite s 0 x && !readsNow s 0 && decide (x.blk.restWm * writeAsmMib s * 1048576 ≤ x.occ * 1000) &&
    x.mount.elim false (fun m => !m.away && (nextToWrite m).isSome && !m.reserveOut) then x.mount.map fun m => (fitsWrap m, lastWrap m)
  else none
theorem witness_restart : restarts stoppedXp = some (true, false) ∧ restarts (stoppedAt 0 (wrapBits 0)) = some (false, false) ∧
    restarts (stoppedAt 191 (wrapBits 191)) = some (false, true) := by decide +kernel
theorem witness_restart_reading : let s := readerOn (withXp up { stoppedXp with motion := .stopped })
    readsNow s 0 = true ∧ (xpOf s 0).elim false (fun x => !x.throttled && !x.calibrating && decide (x.rsOcc = 0)) = true ∧
    engRun s 4 0 = true := by decide +kernel
theorem test_restart : (xpOf (after (exec (.transportRestart 0) (withXp up stoppedXp))) 0).map (fun x => (x.motion, x.wi.wgReq)) =
    some (.writing, true) := by decide +kernel
theorem witness_write_return : let s := withXp up { stoppedXp with mount := stoppedXp.mount.map fun m => { m with away := true } }
    (xpOf s 0).elim false (fun x => x.mount.elim false (fun m => m.away && !m.closed.isEmpty) && !x.calibrating) = true ∧
    (s.rings.cmds.any fun c => c.done.isNone && readsTape c && cmdXp s c == some 0) = false := by decide +kernel
theorem witness_speed_match : (writingXp false 10 0).motion = .writing ∧ stoppedXp.motion = .stopped ∧
    ({ stoppedXp with motion := .reading } : Xport).motion = .reading ∧ stoppedXp.mount.isSome = true := by decide +kernel
/-- Example 11.1 in zone A (wrap 48): 300 MB/s of tape bytes at the set level give 3.216 m/s (the model rounds
down), and 80 MB/s give the floor 1.2 m/s. -/
theorem test_speed_law : let m := session false
    (speedLaw (xp0 (some m)) m 300000000 1073741824 2147483648 48).1 = 3215 ∧
    (speedLaw (xp0 (some m)) m 80000000 1073741824 2147483648 48).1 = 1200 := by decide +kernel

/-! ### Reading -/

/-- A complete dataset 0 and its one clear record "1234" of tenant 7. -/
def tapeDs0 : TapeDs := { closedHdr up (session false) 0 false with
  complete := true, endAt := 1288448, firstSeq := 1, hdrCount := 1, firstHdr := 0, fillOff := 64, ibase := 5 }
def tapeRec0 : TapeRec :=
  { seq := 1, tag := 7, iv := List.replicate 12 0, keyId := 0, origLen := 4, label := [], raw := true, enc := false, sec := 5, ns := 8,
    histBase := 1, body := [0x31, 0x32, 0x33, 0x34] ++ leBytes 4 (crc32c [0x31, 0x32, 0x33, 0x34]), gtag := [], ds := 0, off := 0, dsLast := 0 }
/-- A transport whose tape holds dataset 0 with a record. -/
def writtenWith (r : TapeRec) : Xport :=
  { xp0 (some { session false with wrPart := none, parts := [{ part 192 false true with eod := 1, nextSeq := 2 }] }) with
    cart := some { cart false true with parts := [⟨[tapeDs0], [r]⟩] } }
def written : Xport := writtenWith tapeRec0
def reader : State := withXp up written
/-- The dataset is in the restore region, recovered or not. -/
def restoredWith (ok : Bool) (r : TapeRec) : Xport :=
  { writtenWith r with
    motion := .reading, restored := [⟨0, 0, false, false, ok, dsHeader 0 tapeDs0 ++ recBytes r⟩], rsOcc := packBytes }
def restoredXp : Xport := restoredWith true tapeRec0
/-- A READ of one record into 64 bytes. -/
abbrev OnRead (s : State) (p : Prog) (P : State → Cmd → Prop) : Prop := OnSt s true 0x48 [(0x14, 4, 64), (0x22, 2, 1)] p P
theorem witness_read : OnRead reader .fresh fun s c => cmdOf s 1 = some c ∧ c.done = none ∧
    (streamFor s c true).isSome = true ∧ (ctxOf s c.ctx).isSome = true ∧ readBarred s 0 = none ∧
    ((ctxOf s c.ctx).elim false fun x => (selectKey s c x.d).toOption.isSome) = true ∧ dataOk s c = true ∧
    sglOk (c.fld 0x20 2) (c.fld 0x14 4) [] = true ∧ (takeTape s 0 1).1 = true := by decide +kernel
theorem witness_read_waits : OnRead (withXp up { written with throttled := true }) .fresh fun s c => cmdOf s 1 = some c ∧
    readBarred s 0 = none ∧ dataOk s c = true ∧ (takeTape s 0 1).1 = false := by decide +kernel
theorem witness_read_refused : OnRead (withXp up { written with faulted := true }) .fresh (fun s c => cmdOf s 1 = some c ∧
      (streamFor s c true).isSome = true ∧ (readBarred s 0).isSome = true) ∧
    OnRead (updCtx reader 1 fun x => { x with d := { desc0 with cipher := 1, keySlotEn := true } }) .fresh (fun s c =>
      (ctxOf s c.ctx).elim false (fun x => (selectKey s c x.d).toOption.isNone) = true) := by decide +kernel
theorem test_read_starts : OnRead reader .fresh fun s _ =>
    (cmdOf (after (exec (.read 1 []) s)) 1).map (·.prog) = some (.reading 0 0 0 false 0 [] 0) ∧
    (xpOf (after (exec (.read 1 []) s)) 0).map (·.motion) = some .locating := by decide +kernel
/-- Past the last record READ ends with END_OF_DATA. -/
theorem witness_read_end : OnRead reader (.reading 0 0 0 false 0 [] 0) fun s c =>
    cmdOf s 1 = some c ∧ (streamFor s c true).isSome = true ∧ nextRec s { stream true with pos := 2 } = none ∧
    (nextRec s (stream true)).map (·.seq) = some 1 ∧ (xpOf s 0).isSome = true := by decide +kernel
theorem witness_read_count : OnRead reader (.reading 1 0 0 false 0 [] 0) fun s c =>
    cmdOf s 1 = some c ∧ c.fld 0x22 2 ≤ 1 ∧ (nextRec s (stream true)).isSome = true := by decide +kernel
/-- A record that does not fit, one whose dataset is lost, and one that comes into hand. -/
theorem witness_read_short : OnSt reader true 0x48 [(0x14, 4, 0), (0x22, 2, 1)] (.reading 0 0 0 false 0 [] 0) fun s c =>
    0 < c.fld 0x22 2 ∧ bitOf (c.fld 0x12 1) 0 = false ∧ (nextRec s (stream true)).elim false (fun r =>
      decide (c.fld 0x14 4 / 16 * 16 < alignUp 0 16 + bufLen r)) = true := by decide +kernel
theorem witness_read_lost : OnRead (withXp up (restoredWith false tapeRec0)) (.reading 0 0 0 false 0 [] 0) fun s c =>
    0 < c.fld 0x22 2 ∧ alignUp 0 16 + bufLen tapeRec0 ≤ c.fld 0x14 4 / 16 * 16 ∧ nextRec s (stream true) = some tapeRec0 ∧
    lostFor (restoredWith false tapeRec0) (stream true) tapeRec0 (needed s (stream true) false tapeRec0) = some 0 := by decide +kernel
theorem witness_read_hand : OnRead (withXp up restoredXp) (.reading 0 0 0 false 0 [] 0) fun s _ =>
    (let need := needed s (stream true) false tapeRec0
     lostFor restoredXp (stream true) tapeRec0 need = none ∧
     (xpOf (releaseRestored s 0 0 (need.foldl min (min tapeRec0.ds (stream true).lastDs))) 0).elim false (fun z =>
       (missing z (tapeOf s 0 0) (stream true) need tapeRec0).isEmpty &&
       (hdrFail (releaseRestored s 0 0 (need.foldl min (min tapeRec0.ds (stream true).lastDs))) z (tapeOf s 0 0) (stream true) false tapeRec0).isNone) = true) := by
  decide +kernel
theorem test_read_count : OnSt reader true 0x48 [(0x14, 4, 64), (0x22, 2, 1)] (.reading 1 4 4 false 0 [] 0) fun s _ =>
    (after (exec (.read 1 []) s)).out.head? =
      some (.dma 0 none 0x20000 [9, 0, 0, 5, 1, 0, 0, 0, 4, 0, 0, 0, 0, 0, 0, 0] false) := by decide +kernel
/-- LOCATE on its way, and there: a record that meets its mode, or none. -/
theorem witness_locate : OnSt reader true 0x49 [(0x12, 1, 0), (0x18, 8, 1)] .fresh (fun s c => cmdOf s 1 = some c ∧
      readBarred s 0 = none ∧ (takeTape s 0 1).1 = true) ∧
    OnSt (withXp up { written with throttled := true }) true 0x49 [] .fresh (fun s _ => (takeTape s 0 1).1 = false) ∧
    OnSt reader true 0x49 [(0x12, 1, 0), (0x18, 8, 1)] (.waiting 1) (fun s c => written.goal = none ∧ c.prog = .waiting 1 ∧
      (streamRecs s (stream true)).find? (meets c) = some tapeRec0) ∧
    OnSt reader true 0x49 [(0x12, 1, 0), (0x18, 8, 2)] (.waiting 1) (fun s c => (streamRecs s (stream true)).find? (meets c) = none) ∧
    ({ written with goal := some (0, 250000) } : Xport).goal ≠ none := by decide +kernel
theorem test_locate : OnSt reader true 0x49 [(0x12, 1, 0), (0x18, 8, 1)] (.waiting 1) fun s _ =>
    (Tbl.get? (after (exec (.locate 1) s)).strm 0).map (·.pos) = some 1 ∧ (after (exec (.locate 1) s)).out.head? =
      some (.dma 0 none 0x20000 [9, 0, 0, 1, 0, 0, 0, 0, 1, 0, 0, 0, 0, 0, 0, 0] false) := by decide +kernel
/-- A scan of a dataset. -/
abbrev OnScan (s : State) (p : Prog) (P : State → Cmd → Prop) : Prop := OnSt s true 0x4A [(0x14, 4, 1), (0x18, 8, 0x4000)] p P
theorem witness_scan : OnScan reader .fresh (fun s c => cmdOf s 1 = some c ∧ (streamFor s c true).isSome = true ∧
      readBarred s 0 = none ∧ dataOk s c = true ∧ (takeTape s 0 1).1 = true ∧ scanMore s (stream true) 0 = true) ∧
    OnScan (withXp up { written with throttled := true }) .fresh (fun s _ => (takeTape s 0 1).1 = false) ∧
    OnScan (withXp up { written with faulted := true }) .fresh (fun s _ => (readBarred s 0).isSome = true) := by decide +kernel
theorem witness_scan_goes : OnScan reader (.scanning 0 1 (scanZero 0)) (fun s c => (ctxOf s 1).elim false (fun x =>
      !scanOver s c (stream true) x 0 1 (scanZero 0)) = true) ∧
    OnScan reader (.scanning 1 0 (scanZero 0)) (fun s c => (ctxOf s 1).elim false (fun x =>
      scanOver s c (stream true) x 1 0 (scanZero 0)) = true) := by decide +kernel
/-- The head is past dataset 0, none of whose codewords came; `k` tries have been made. -/
def passedXp (k : Nat) : Xport :=
  { written with motion := .reading, servo := [(0, { Servo.reset with lpos := 9000000, lposOk := true })], reread := (0, k) }
/-- The dataset is read again, or is lost when its tries are spent. -/
def recovery (k : Nat) (s : State) : Option (RecoverOut × Bool) :=
  (passedXp k).mount.bind fun m => (authAttempt (tapeOf s 0 0) m.gen 0).bind fun d =>
    if dsPassed s 0 (passedXp k) (0 + 1 == partEod m 0) d then
      let r := recoverDs s 0 (passedXp k) m (tapeOf s 0 0) 0 d
      some (r.out, (recoverLater (notePins s 0 r) 0 0 0 r).isSome)
    else none
theorem witness_recover : OnScan (withXp up (passedXp 0)) (.scanning 0 1 (scanZero 0)) (fun s c =>
      (s.rings.cmds.find? fun c => readsTape c && c.done.isNone && cmdXp s c == some 0) = some c ∧
      (ctxOf s 1).elim false (fun x => !scanOver s c (stream true) x 0 1 (scanZero 0)) = true ∧ recovery 0 s = some (.failed, true)) ∧
    OnScan (withXp up (passedXp 3)) (.scanning 0 1 (scanZero 0)) (fun s c =>
      (ctxOf s 1).elim false (fun x => !scanOver s c (stream true) x 0 1 (scanZero 0)) = true ∧ recovery 3 s = some (.failed, false)) ∧
    OnRead (withXp up (passedXp 3)) (.reading 0 0 0 false 0 [] 0) (fun s c =>
      readWants s c (stream true) (passedXp 3) 0 = true ∧ recovery 3 s = some (.failed, false)) := by decide +kernel
/-- A record in hand `h`, opened as `p`, on a READ with `flags` at 0x12. -/
abbrev InHand (s : State) (flags h : Nat) (p : Bytes) (rt : Nat) (P : State → Cmd → Prop) : Prop :=
  OnSt s true 0x48 [(0x12, 1, flags), (0x14, 4, 64), (0x18, 8, 0x8000), (0x22, 2, 1), (0x28, 8, 0x9000)] (.reading 0 0 0 false h p rt) P
theorem witness_open : InHand (withXp up restoredXp) 0 1 [] 0 fun s c =>
    (readWork s 1).elim false (fun w => !w.2.2.2.2.enc && !bitOf (c.fld 0x12 1) 0 && spanOk restoredXp (tapeOf s 0 0) 0 w.2.2.2.2 &&
      (opened s c w.2.2.2.1 w.2.2.2.2).toOption == some (true, tapeRec0.body)) = true := by decide +kernel
theorem witness_open_verify_only : InHand (withXp up restoredXp) 1 1 [] 0 fun s c =>
    (readWork s 1).elim false (fun w => bitOf (c.fld 0x12 1) 0 && (opened s c w.2.2.2.1 w.2.2.2.2).toOption ==
      some (true, tapeRec0.body)) = true := by decide +kernel
/-- An encrypted record of a context without a key fails with AUTH_FAIL (R384); under a key its zero tag does not verify. -/
def sealedRec : TapeRec := { tapeRec0 with enc := true, keyId := 77, gtag := List.replicate 16 0 }
def keyedReader : State := { updCtx (withXp up (restoredWith true sealedRec)) 1 fun x => { x with d := { desc0 with cipher := 1, keySlotEn := true } } with
  keys := { joined.keys with tenant := [(0, { kek with keyId := 77 })] } }
theorem witness_open_no_key : InHand (withXp up (restoredWith true sealedRec)) 0 1 [] 0 fun s c => (readWork s 1).elim false (fun w =>
      (runEngines s 2).elem 11 && !sealWaits s &&
      match opened s c w.2.2.2.1 w.2.2.2.2 with
      | .error e => e == 0x21
      | .ok _ => false) = true := by decide +kernel
theorem witness_open_bad_tag : InHand keyedReader 1 1 [] 0 fun s c => (readWork s 1).elim false (fun w =>
      bitOf (c.fld 0x12 1) 0 && (runEngines s 2).elem 11 && !sealWaits s &&
      match opened s c w.2.2.2.1 w.2.2.2.2 with
      | .error _ => false
      | .ok q => !q.1) = true := by decide +kernel
theorem witness_expand : InHand (withXp up restoredXp) 0 2 tapeRec0.body 3 fun s c =>
    (readWork s 1).elim false (fun w => engRun s 1 0 &&
      (expanded s c w.2.2.1 w.2.2.2.1 w.2.2.2.2 tapeRec0.body).toOption == some [0x31, 0x32, 0x33, 0x34]) = true := by decide +kernel
/-- A sealed CRC that differs is 0x20 (R303, R336). -/
theorem witness_expand_bad : InHand (withXp up restoredXp) 0 2 [0x31, 0x32, 0x33, 0x35, 0, 0, 0, 0] 4 fun s c =>
    (readWork s 1).elim false (fun w => match expanded s c w.2.2.1 w.2.2.2.1 w.2.2.2.2 [0x31, 0x32, 0x33, 0x35, 0, 0, 0, 0] with
      | .error q => q.1 == 0x20
      | .ok _ => false) = true := by decide +kernel
theorem test_decompress : InHand (withXp up restoredXp) 0 2 tapeRec0.body 0 fun s _ =>
    Out.dma 0 none 0x8000 [0x31, 0x32, 0x33, 0x34] false ∈ (after (exec (.recordDecompress 1 seenFine) { s with
      rings.cmds := s.rings.cmds.map fun c => { c with descs := [BitVec.ofNat 256 (0x8000 + 2 ^ 64 * 64)] } })).out := by decide +kernel

/-! ### The offload service -/

/-- A service command on ring 5 of 8 bytes into 64. -/
def job (op : Nat) (fs : List (Nat × Nat × Nat)) (p : Prog) : Cmd := cmdOn 5 op ([(4, 2, 1), (0x14, 4, 8), (0x20, 8, 0x8000), (0x28, 4, 64)] ++ fs) p
/-- Every service lane of a kind is off. -/
def shutLanes (compress : Bool) (s : State) : State :=
  { s with pmu := { s.pmu with engines := svcLanes.map fun i => (engKey (laneClass compress) i, { Engine.reset with st := .off }) } }
theorem witness_compress : let s := put up (job 0x80 [] .fresh)
    Started s 1 0x80 (job 0x80 [] .fresh) ∧ dataOk s (job 0x80 [] .fresh) = true ∧ sglOk 0 8 [] = true ∧ sglOk 0 64 [] = true ∧
    lanesShut s true = false ∧ freeLane s true = some 4 ∧ (job 0x80 [] .fresh).fld 0x12 2 = 0 := by decide +kernel
theorem witness_decompress : let s := put up (job 0x81 [] .fresh)
    Started s 1 0x81 (job 0x81 [] .fresh) ∧ dataOk s (job 0x81 [] .fresh) = true ∧ lanesShut s false = false ∧ freeLane s false = some 4 := by
  decide +kernel
/-- A list of one element that is missing; lanes that are all off. -/
theorem witness_service_refused : sglOk ((job 0x80 [(0x12, 2, 1)] .fresh).fld 0x12 2) 8 [] = false ∧
    Started (put up (job 0x81 [(0x12, 2, 1)] .fresh)) 1 0x81 (job 0x81 [(0x12, 2, 1)] .fresh) ∧
    lanesShut (shutLanes true (put up (job 0x80 [] .fresh))) true = true ∧
    lanesShut (shutLanes false (put up (job 0x81 [] .fresh))) false = true := by decide +kernel
theorem test_compress : (cmdOf (after (exec (.compress 1 [] []) (put up (job 0x80 [] .fresh)))) 1).map (·.prog) = some (.engine 4) := by
  decide +kernel
/-- The first 1,020 bytes of a resume context of context 1 at a block header, without history (Table 6-6). -/
def ctxHead (kind : Nat) : Bytes :=
  pageOf 0x3FC [(0x000, 4, 0x5854434B), (0x004, 1, 1), (0x005, 1, kind), (0x008, 2, 1), (0x00D, 1, 1)]
def noHistory : Bytes := List.replicate 65536 0
/-- The context with its CTX_CRC. -/
def saved (kind : Nat) : Bytes := ctxHead kind ++ (leBytes 4 (crc32c (ctxHead kind ++ noHistory)) ++ noHistory)
theorem leBytes_length (n v : Nat) : (leBytes n v).length = n := by
  induction n generalizing v with
  | zero => rfl
  | succ n ih => simp [leBytes, ih]
theorem leNat_leBytes (n v : Nat) : leNat (leBytes n v) = v % 256 ^ n := by
  induction n generalizing v with
  | zero => simp [leBytes, leNat, Nat.mod_one]
  | succ n ih =>
    rw [leBytes, leNat, ih, Nat.pow_succ', Nat.mod_mul, BitVec.toNat_ofNat]
theorem ctxHead_length (k : Nat) : (ctxHead k).length = 0x3FC := leBytes_length _ _
theorem saved_fld (k off n : Nat) (h : off + n ≤ 0x3FC) : ctxFld (saved k) off n = leNat (((ctxHead k).drop off).take n) := by
  have hl := ctxHead_length k
  rw [ctxFld, saved, List.drop_append_of_le_length (by omega), List.take_append_of_le_length (by simp only [List.length_drop]; omega)]
theorem saved_crc (k : Nat) : ctxFld (saved k) 0x3FC 4 = crc32c ((saved k).take 0x3FC ++ (saved k).drop 0x400) := by
  have hl := ctxHead_length k
  have hc : ∀ v, (leBytes 4 v).length = 4 := leBytes_length 4
  have h1 : (saved k).take 0x3FC = ctxHead k := by rw [saved, List.take_left' hl]
  have h2 : (saved k).drop 0x3FC = leBytes 4 (crc32c (ctxHead k ++ noHistory)) ++ noHistory := by rw [saved, List.drop_left' hl]
  have h3 : (saved k).drop 0x400 = noHistory := by
    rw [show (0x400 : Nat) = 0x3FC + 4 from rfl, ← List.drop_drop, h2, List.drop_left' (hc _)]
  rw [ctxFld, h2, List.take_left' (hc _), leNat_leBytes, h1, h3]
  exact Nat.mod_eq_of_lt (BitVec.isLt _)
theorem saved_length (k : Nat) : (saved k).length = 66560 := by
  rw [saved, List.length_append, List.length_append, ctxHead_length, leBytes_length, noHistory, List.length_replicate]
/-- Both kinds of context can be resumed. -/
theorem witness_resume : let c := job 0x82 [] .fresh
    ∀ k ∈ [1, 2], Started (put up c) 1 0x82 c ∧ dataOk (put up c) c = true ∧ ctxOk c (saved k) = true ∧
      freeLane (put up c) true = some 4 ∧ freeLane (put up c) false = some 4 := by
  intro c k hk
  refine ⟨by decide +kernel, by decide +kernel, ?_, by decide +kernel, by decide +kernel⟩
  simp only [ctxOk, saved_length, saved_crc, beq_self_eq_true]
  simp only [saved_fld _ _ _ (show 0 + 4 ≤ 0x3FC by decide), saved_fld _ _ _ (show 4 + 1 ≤ 0x3FC by decide),
    saved_fld _ _ _ (show 8 + 2 ≤ 0x3FC by decide), saved_fld _ _ _ (show 5 + 1 ≤ 0x3FC by decide),
    saved_fld _ _ _ (show 6 + 1 ≤ 0x3FC by decide), saved_fld _ _ _ (show 10 + 1 ≤ 0x3FC by decide),
    saved_fld _ _ _ (show 11 + 1 ≤ 0x3FC by decide), saved_fld _ _ _ (show 13 + 1 ≤ 0x3FC by decide),
    saved_fld _ _ _ (show 36 + 4 ≤ 0x3FC by decide)]
  fin_cases hk <;> decide +kernel
theorem witness_resume_bad : ctxOk (job 0x82 [] .fresh) [] = false := rfl
theorem witness_resume_shut : lanesShut (shutLanes true (put up (job 0x82 [] .fresh))) true = true ∧
    Started (shutLanes true (put up (job 0x82 [] .fresh))) 1 0x82 (job 0x82 [] .fresh) := by decide +kernel
/-- A raw DECOMPRESS of 8 bytes into 64 at 0x8000, the last of its stream or not. -/
def inflating (final : Nat) : State :=
  let c := job 0x81 [(0x11, 1, final), (0x30, 8, 0x40000)] (.engine 4)
  { put up c with svc := [(1, { Job.begin c false with lane := 4, outTo := [(0x8000, 64)] })] }
/-- RFC 1951: a final stored block of "abc" (LEN 3, NLEN FFFC). -/
def jobEnd (input : Bytes) (ok : Bool) (k : Seen) : JobEnd := ⟨input, input, 0, ok, k⟩
def storedAbc : Bytes := [1, 3, 0, 0xFC, 0xFF, 0x61, 0x62, 0x63]
theorem witness_service_job_end : (cmdOf (inflating 1) 1).elim false (fun c => c.done.isNone) = true ∧
    (Tbl.get? (inflating 1).svc 1).elim false (fun j => j.lane != noLane && storedAbc.length == j.inLen &&
      !writesCtx j (runJob j storedAbc 0).status && (runJob j storedAbc 0).status == 0) = true := by decide +kernel
/-- Without FINAL the job leaves a context, which can be written or not. -/
theorem witness_service_job_ctx : (Tbl.get? (inflating 0).svc 1).elim false (fun j => storedAbc.length == j.inLen &&
    decide ((secondDecode (inflating 0) (job 0x81 [] .fresh) j (jobEnd storedAbc true seenFine) (runJob j storedAbc 0)).2.status = 0) &&
    writesCtx j (runJob j storedAbc 0).status) = true := by decide +kernel
theorem test_service_job_end : (after (exec (.serviceJobEnd 1 (jobEnd storedAbc true seenFine)) (inflating 1))).out =
    [.dma 0 none 0x20000 [9, 0, 0, 1, 8, 0, 0, 0, 3, 0, 0, 0, 0, 0, 0, 0] false, .dma 0 none 0x8000 [0x61, 0x62, 0x63] false] := by
  decide +kernel
/-- A wrong NLEN is INVALID code 0x23 or another decode error, never OK (R332). -/
theorem test_service_job_bad : (Tbl.get? (inflating 1).svc 1).elim false (fun j =>
    (runDecode j [1, 3, 0, 0xFC, 0xFE, 0x61, 0x62, 0x63] 0).status != 0) = true := by decide +kernel
/-- The fixed Huffman code of "a" (RFC 1951 section 3.2.6): 4B 04 00. -/
theorem test_fixed_huffman : (Tbl.get? (inflating 1).svc 1).elim [] (fun j => (runDecode j [0x4B, 4, 0] 0).out) = [0x61] := by decide +kernel

/-- CRYPT_BLOCK of context 1 with no data. -/
def crypt (mode : Nat) : Cmd := cmdOn 5 0x84 [(4, 2, 1), (0x10, 1, mode), (0x38, 8, 0xC000)] .fresh
theorem witness_crypt_seal : let s := sealing (put up (crypt 0)) 0
    Started s 1 0x84 (crypt 0) ∧ ((ctxOf s 1).elim false fun x => (selectKey s (crypt 0) x.d).toOption == some (some kek)) = true ∧
    dataOk s (crypt 0) = true ∧ (runEngines s 2).elem 0 = true ∧ sealWaits s = false ∧ openWaits s = false ∧ blockWaits s 1 = false ∧
    (nextIv s).1 = some 0 ∧ sglOk ((crypt 0).fld 0x12 2) ((crypt 0).fld 0x14 4) [] = true ∧ (crypt 0).fld 0x14 4 = 0 ∧
    (crypt 0).fld 0x2A 2 = 0 := by decide +kernel
theorem witness_crypt_open : let s := sealing (put up (crypt 2)) 0
    Started s 1 0x84 (crypt 2) ∧ (crypt 2).fld 0x10 1 = 2 ∧ fieldOf (0 : BitVec 256) 12 4 = 0 ∧ fieldOf (1 <<< 96 : BitVec 256) 12 4 ≠ 0 ∧
    ((ctxOf s 1).elim false fun x => (selectKey s (crypt 2) x.d).toOption == some (some kek)) = true ∧ sealWaits s = false ∧
    openWaits s = false ∧ blockWaits s 1 = false := by decide +kernel
theorem witness_crypt_no_engine : let s := sealing (put up (crypt 2)) 0
    runEngines { s with pmu := { s.pmu with engines := (List.range 12).map fun i => (engKey 2 i, { Engine.reset with st := .off }) } } 2 = [] := by
  decide +kernel
theorem witness_crypt_no_nonce : let s := { sealing (put up (crypt 0)) 0 with keys := { joined.keys with ctr := 16, tenant := [(0, kek)] } }
    Started s 1 0x84 (crypt 0) ∧ (nextIv s).1 = none := by decide +kernel
theorem test_crypt_no_nonce : let s := { sealing (put up (crypt 0)) 0 with keys := { joined.keys with ctr := 16, tenant := [(0, kek)] } }
    (after (exec (.cryptBlock 1 0 [] [] [] [] 0) s)).out.head? =
      some (.dma 0 none 0x20000 [9, 0, 0x48, 1, 0, 0, 0, 0, 0, 0, 0, 0, 0, 0, 0, 0] false) := by decide +kernel

/-! ### Transport commands -/

/-- The default blocks as host memory holds them. -/
def asBits (b : Bytes) : BitVec 256 := BitVec.ofNat 256 (leNat b)
theorem witness_BlocksRoundTrip : readXpBlock (asBits (xpBlockBytes XpBlock.default)) = some XpBlock.default ∧
    readRcBlock (asBits (rcBlockBytes RcBlock.default)) = some RcBlock.default ∧
    readPoolBlock (asBits (poolBlockBytes PoolBlock.default)) = some PoolBlock.default := by decide +kernel
theorem witness_transport_config : ∀ k ∈ [0, 1, 2], On mounted 0x1B [(0x11, 1, k)] .fresh fun s c => Started s 1 0x1B c ∧
    c.mailbox = false ∧ dataOk s c = true ∧ c.fld 0x11 1 = k ∧ (xpOf s (c.fld 0x10 1)).isSome = true := by decide +kernel
/-- A block that lies past the mailbox data area. -/
theorem witness_transport_config_mailbox : let c := { cmdOn 0 0x1B [(0x18, 8, 4090)] .fresh with mailbox := true }
    Started (put mounted c) 1 0x1B c ∧ dataOk (put mounted c) c = true ∧ 4096 < c.fld 0x18 8 + 32 := by decide +kernel
/-- A block of zeros is out of range (Tables 10-5, 10-6, 11-10). -/
theorem witness_transport_config_bad : readXpBlock 0 = none ∧ readRcBlock 0 = none ∧ readPoolBlock 0 = none := by decide +kernel
theorem test_transport_config : On mounted 0x1B [(0x11, 1, 0)] .fresh fun s _ =>
    (xpOf (after (exec (.transportConfig 1 (asBits (xpBlockBytes { XpBlock.default with bhMm := 30 }))) s)) 0).map (·.blk.bhMm) = some 30 := by
  decide +kernel
theorem witness_get_transport_status : On mounted 0x1C [(0x18, 8, 0x4000)] .fresh fun s c => Started s 1 0x1C c ∧
    (xpOf s (c.fld 0x10 1)).isSome = true := by decide +kernel
theorem witness_startup : let s := withXp up { xp0 none with startup := false }
    (xpOf s 0).elim false (fun x => !x.startup) = true ∧ s.pmu.booted = true ∧ engRun s 4 0 = true ∧ s.pmu.ps = .run ∧
    drivesDisabled s 0 = false := by decide +kernel
theorem test_startup : let s := withXp up { xp0 none with startup := false }
    (xpOf (after (exec (.startupCalibration 0 true) s)) 0).map (·.startup) = some true ∧
    (after (exec (.startupCalibration 0 true) s)).evr.raised = [1024 + 11] := by decide +kernel
theorem witness_calibrate : On loaded 0x1D [(0x11, 1, 1)] .fresh fun s c => Started s 1 0x1D c ∧ c.fld 0x11 1 < 2 ∧
    (xpOf s (c.fld 0x10 1)).elim false (fun x => x.motion == .stopped && !x.calibrating && x.cmTry.isNone) = true ∧
    engRun s 4 (c.fld 0x10 1) = true := by decide +kernel
theorem witness_calibrate_refused : On loaded 0x1D [(0x11, 1, 2)] .fresh (fun s c => Started s 1 0x1D c ∧ 2 ≤ c.fld 0x11 1 ∧
      (xpOf s 0).map (·.mount) = some none) ∧
    On (shutLanes true loaded) 0x1D [(0x11, 1, 1)] .fresh (fun s c => Started s 1 0x1D c ∧ c.fld 0x11 1 < 2 ∧
      engRun { s with pmu := { s.pmu with engines := [(engKey 4 0, { Engine.reset with st := .off })] } } 4 0 = false) ∧
    On mounted 0x1D [(0x11, 1, 4)] .fresh (fun s c => Started s 1 0x1D c ∧ bitOf (c.fld 0x11 1) 2 = true ∧ engRun s 4 0 = true ∧
      s.strm = [] ∧ (xpOf s 0).elim false (fun x => x.mount.isSome && !hasComplete x (c.fld 0x12 1)) = true) ∧
    OnSt mounted true 0x1D [(0x11, 1, 4)] .fresh (fun s c => Started s 1 0x1D c ∧ (∃ q ∈ s.strm, q.2.xp = c.fld 0x10 1) ∧
      (xpOf s 0).elim false (·.mount.isSome) = true) := by decide +kernel
theorem witness_calibrate_power : On { loaded with pmu := { loaded.pmu with pfail := true } } 0x1D [(0x11, 1, 1)] (.waiting 0) fun s c =>
    Waiting s 1 0x1D c (.waiting 0) ∧ (xpOf s (c.fld 0x10 1)).isSome = true ∧ s.pmu.pfail = true := by decide +kernel
theorem witness_calibrate_end : On loaded 0x1D [(0x11, 1, 1)] (.waiting 0) fun s c => Waiting s 1 0x1D c (.waiting 0) ∧
    (xpOf s (c.fld 0x10 1)).isSome = true ∧ s.pmu.pfail = false := by decide +kernel
theorem test_calibrate_end : On { loaded with xp := Tbl.upd loaded.xp 0 fun x => { x with calibrating := true } } 0x1D [(0x11, 1, 1)] (.waiting 0)
    fun s _ => (xpOf (after (exec (.calibrate 1 1) s)) 0).map (fun x => (x.calibrating, x.startup)) = some (false, true) := by decide +kernel

/-! ### Faults, watchdog, telemetry -/

theorem witness_set_watchdog : On up 0x2A [(0x10, 4, 500)] .fresh fun s c => Started s 1 0x2A c := by decide +kernel
/-- 0 selects 2,000 ms, and RESULT is the period before (R814). -/
theorem test_set_watchdog : On { up with flt := { Faults.reset with period := 500 } } 0x2A [] .fresh fun s _ =>
    (after (exec (.setWatchdog 1) s)).flt.period = 2000 ∧ (after (exec (.setWatchdog 1) s)).out.head? =
      some (.dma 0 none 0x2000 [9, 0, 0, 1, 0xF4, 1, 0, 0, 0, 0, 0, 0, 0, 0, 0, 0] false) := by decide +kernel
theorem witness_get_fault_log : On up 0x2B [(0x10, 8, 0x4000), (0x1C, 2, 1)] .fresh fun s c => Started s 1 0x2B c ∧ dataOk s c = true := by
  decide +kernel
theorem test_get_fault_log_consume : let s := (logFault (logFault up { FltLog.blank with cls := 1 }) { FltLog.blank with cls := 2 })
    On s 0x2B [(0x10, 8, 0x4000), (0x1C, 2, 1), (0x1E, 1, 1)] .fresh fun s _ =>
      (after (exec (.getFaultLog 1) s)).flt.log.map (fun e => (e.seq, e.cls)) = [(2, 2)] := by decide +kernel
theorem witness_retire_page : On up 0x2C [(0x10, 8, 65536)] .fresh fun s c => Started s 1 0x2C c ∧ c.fld 0x10 8 < s.pmu.bufBytes ∧
    bitOf (c.fld 0x18 1) 0 = false ∧ bitOf (c.fld 0x18 1) 1 = false ∧ Tbl.has s.pmu.flash.retired (c.fld 0x10 8 / 65536) = false ∧
    s.pmu.flash.spareUsed < 1024 := by decide +kernel
/-- Page 1 retired already; no such page; no spare page left. -/
def retiredOne (n : Nat) : State := { up with pmu := { up.pmu with flash := { up.pmu.flash with retired := [(1, 0)], spareUsed := n } } }
theorem witness_retire_page_else : On (retiredOne 1) 0x2C [(0x10, 8, 65536)] .fresh (fun s c => Started s 1 0x2C c ∧ c.fld 0x10 8 < s.pmu.bufBytes ∧
      bitOf (c.fld 0x18 1) 1 = false ∧ Tbl.has s.pmu.flash.retired (c.fld 0x10 8 / 65536) = true) ∧
    On up 0x2C [(0x10, 8, 0x100000000)] .fresh (fun s c => s.pmu.bufBytes ≤ c.fld 0x10 8) ∧
    On up 0x2C [(0x10, 8, 65536), (0x18, 1, 2)] .fresh (fun s c => bitOf (c.fld 0x18 1) 0 = false ∧ bitOf (c.fld 0x18 1) 1 = true ∧
      Tbl.has s.pmu.flash.retired (c.fld 0x10 8 / 65536) = false) ∧
    On (retiredOne 1024) 0x2C [(0x10, 8, 65536), (0x18, 1, 2)] .fresh (fun s c => bitOf (c.fld 0x18 1) 0 = false ∧
      bitOf (c.fld 0x18 1) 1 = Tbl.has s.pmu.flash.retired (c.fld 0x10 8 / 65536) ∧ 1024 ≤ s.pmu.flash.spareUsed) := by decide +kernel
theorem test_retire_page : On up 0x2C [(0x10, 8, 65536)] .fresh fun s _ =>
    (after (exec (.retireBufferPage 1 seenFine) s)).pmu.flash.retired = [(1, 0)] ∧ (after (exec (.retireBufferPage 1 seenFine) s)).out.head? =
      some (.dma 0 none 0x2000 [9, 0, 0, 1, 0xFF, 3, 0, 0, 1, 0, 0, 0, 0, 0, 0, 0] false) := by decide +kernel
theorem witness_lane_disable : On up 0x2D [(0x10, 1, 37)] .fresh fun s c => Started s 1 0x2D c ∧ c.fld 0x11 1 = 0 ∧
    s.pmu.flash.disabled.elem (c.fld 0x10 1) = false ∧ (disabledOf s (c.fld 0x10 1 / 32)).length < 3 := by decide +kernel
/-- Lanes 0, 1 and 2 of transport 0 disabled: a fourth is refused (R803, R816). -/
def three : State := { up with pmu := { up.pmu with flash := { up.pmu.flash with disabled := [0, 1, 2] } } }
theorem witness_lane_disable_fourth : On three 0x2D [(0x10, 1, 31)] .fresh fun s c => Started s 1 0x2D c ∧ c.fld 0x11 1 = 0 ∧
    s.pmu.flash.disabled.elem (c.fld 0x10 1) = false ∧ 3 ≤ (disabledOf s (c.fld 0x10 1 / 32)).length := by decide +kernel
theorem witness_FourthLaneRefused : three.pmu.flash.disabled.Pairwise (· < ·) ∧ (∀ x, (disabledOf three x).length ≤ 3) ∧
    exec (.laneDisable 1) three = .next three := ⟨by decide +kernel, fun _ => List.length_filter_le _ [0, 1, 2], rfl⟩
theorem test_lane_disable : On three 0x2D [(0x10, 1, 33)] .fresh fun s _ =>
    (after (exec (.laneDisable 1) s)).pmu.flash.disabled = [0, 1, 2, 33] := by decide +kernel

/-- Two READ commands on one transport, the second waiting for the first since tick 0. -/
def waitingReads (t : Nat) : State :=
  { reader with
    clk := { reader.clk with ticks := t }, strm := [(0, stream true)],
    rings := { reader.rings with cmds := [cmdSt 0x48 [] (.waiting 0), { cmdSt 0x48 [] (.waiting 0) with id := 2 }] } }
theorem witness_watchdog_holds : (cmdOf (waitingReads 500000000) 2).elim false (fun c => !(holders (waitingReads 500000000) c).isEmpty &&
    stalled (waitingReads 500000000) (chain (waitingReads 500000000) [c] 256)) = true := by decide +kernel
theorem witness_watchdog_waits : (cmdOf (waitingReads 499999999) 2).elim false (fun c =>
    !stalled (waitingReads 499999999) (chain (waitingReads 499999999) [c] 256)) = true := by decide +kernel
theorem witness_watchdog_none : (cmdOf (waitingReads 500000000) 1).elim false (fun c => (holders (waitingReads 500000000) c).isEmpty) = true := by
  decide +kernel
/-- The youngest of the chain ends with DEADLOCK_BROKEN (R811); its entry is posted after the earlier command of its stream (R191). -/
theorem test_watchdog : let u := after (exec (.watchdogExamine 0) (waitingReads 500000000))
    ((cmdOf u 2).bind (·.done)).map (·.status) = some 0x44 ∧ ((cmdOf u 1).bind (·.done)).isNone = true ∧ u.flt.aborts = 1 ∧ u.out = [] := by
  decide +kernel

/-- TELEMETRY_CONFIG of Example 12.2: stream 0, kind 1, source 1, ring of 2^16, 1,000 µs, ALIGN. -/
def tele (kind : Nat) : List (Nat × Nat × Nat) := [(0x11, 1, kind), (0x12, 1, 1), (0x13, 1, 16), (0x14, 4, 1000), (0x18, 8, 0x100000), (0x20, 1, 1)]
theorem witness_telemetry_start : On up 0x21 (tele 1) .fresh fun s c => cmdOf s 1 = some c ∧ c.fld 0x11 1 ≠ 0 ∧
    Tbl.has s.ace.tele 0 = false ∧ aceLive (aceOf s (teleCh 0)) = false := by decide +kernel
theorem test_telemetry_start : On up 0x21 (tele 1) .fresh fun s _ => (after (exec (.telemetryConfig 1) s)).out.head? =
    some (.dma 0 none 0x2000 [9, 0, 0, 1, 24, 0, 0, 0, 8, 0, 0, 0, 0, 0, 0, 0] false) := by decide +kernel
/-- Stream 0 runs. -/
def streaming : State := startStream up 0 (cmdOn 0 0x21 (tele 1) .fresh)
theorem witness_telemetry_change : On streaming 0x21 (tele 2) .fresh fun s c => c.fld 0x11 1 ≠ 0 ∧ Tbl.has s.ace.tele 0 = true ∧
    (aceOf s (teleCh 0)).st ≠ .running := by decide +kernel
theorem witness_telemetry_stop : On streaming 0x21 (tele 0) .fresh fun s c => c.fld 0x11 1 = 0 ∧ Tbl.has s.ace.tele 0 = true ∧
    (aceOf s (teleCh 0)).st ≠ .running := by decide +kernel
theorem witness_telemetry_busy : On (setAce streaming 24 { aceOf streaming 24 with st := .running }) 0x21 (tele 0) .fresh fun s _ =>
    Tbl.has s.ace.tele 0 = true ∧ (aceOf s (teleCh 0)).st = .running := by decide +kernel
theorem witness_telemetry_else : On up 0x21 (tele 0) .fresh (fun s c => cmdOf s 1 = some c ∧ c.fld 0x11 1 = 0 ∧ Tbl.has s.ace.tele 0 = false) ∧
    On (setAce up 24 { Ace.reset with st := .armed }) 0x21 (tele 1) .fresh (fun s c => c.fld 0x11 1 ≠ 0 ∧ Tbl.has s.ace.tele 0 = false ∧
      aceLive (aceOf s (teleCh 0)) = true) := by decide +kernel
theorem test_telemetry_stop : On streaming 0x21 (tele 0) .fresh fun s _ => (after (exec (.telemetryConfig 1) s)).ace.own = [] ∧
    (after (exec (.telemetryConfig 1) s)).ace.tele = [] := by decide +kernel

/-! ### Thermal levels, power failure, engines -/

theorem witness_thermal_config : On up 0x27 [(0x10, 1, 10)] .fresh fun s c => Started s 1 0x27 c ∧
    110 + c.fld 0x11 1 < 118 + c.fld 0x10 1 ∧ 118 + c.fld 0x12 1 < 125 + c.fld 0x11 1 := by decide +kernel
theorem witness_thermal_config_bad : On up 0x27 [(0x11, 1, 8)] .fresh (fun s c => Started s 1 0x27 c ∧ 118 + c.fld 0x10 1 ≤ 110 + c.fld 0x11 1) ∧
    On up 0x27 [(0x12, 1, 7)] .fresh (fun s c => Started s 1 0x27 c ∧ 110 + c.fld 0x11 1 < 118 + c.fld 0x10 1 ∧
      125 + c.fld 0x11 1 ≤ 118 + c.fld 0x12 1) := by decide +kernel
/-- Six sensors at 119 degrees. -/
def hot : List Int := List.replicate 6 (16 * 119)
theorem witness_thermal_sample : hot.length = 6 ∧ up.pmu.ps ≠ .off ∧ up.host.sysRst = true := by decide +kernel
/-- 119 degrees enter Throttle at 118 (Table 15-11). -/
theorem test_thermal_sample : (after (exec (.thermalSample 250000 hot .openCircuit) up)).pmu.th.level = .throttle := by decide +kernel
theorem witness_shutdown_power_off : let s := { up with pmu := { up.pmu with th := { Thermal.reset with offAt := some 5 } } }
    (advance s 5).pmu.th.offAt = some 5 ∧ 5 ≤ now (advance s 5) := by decide +kernel
/-- Throttle for less than 250 ms holds although it is cool; after 250 samples it falls (R757). -/
def cooling (n : Nat) : Thermal := { Thermal.reset with level := .throttle, dwell := n }
theorem witness_ThermalLevelRules : (sampleLevel (cooling 250)).code < (cooling 250).level.code ∧
    sampleLevel (cooling 249) = .throttle ∧ (Thermal.reset.level).code < (riseLevel Thermal.reset (16 * 110)).code ∧
    riseLevel Thermal.reset (16 * 110 - 1) = .normal := by decide +kernel
theorem witness_pfail : up.pmu.pfail = false ∧ up.host.sysRst = true ∧ ({ up with pmu := { up.pmu with pfail := true } } : State).pmu.pfail = true := by
  decide +kernel
theorem test_pfail : (xpOf (after (exec .pfailQualified (withXp up (writingXp false 10 0)))) 0).map (·.haltReq) = some 2 ∧
    (after (exec .pfailRelease { up with pmu := { up.pmu with pfail := true } })).evr.raised = [1443] := by decide +kernel
theorem test_supply : (after (exec (.supplyOutOfRange .vddioMgmt) up)).smp.blind = true := by decide +kernel
theorem witness_sys_clk_loss : up.host.sysRst = true ∧ up.clk.frozen = false := by decide +kernel
theorem witness_fence : On up 0x28 [(0x10, 1, 2), (0x11, 1, 3)] .fresh fun s c => Started s 1 0x28 c ∧ c.fld 0x10 1 ≠ 4 ∧
    (engOf s (c.fld 0x10 1) (c.fld 0x11 1)).st = .run := by decide +kernel
theorem witness_fence_mounted : On mounted 0x28 [(0x10, 1, 4)] .fresh fun s c => Started s 1 0x28 c ∧ c.fld 0x10 1 = 4 ∧
    (xpOf s (c.fld 0x11 1)).elim false (·.mount.isSome) = true := by decide +kernel
/-- Engine 2.3 in a state. -/
def engineAt (st : EngSt) (deadline : Nat) : State :=
  { up with pmu := { up.pmu with engines := [(engKey 2 3, { Engine.reset with st := st, deadline := deadline })] } }
theorem witness_fence_states : (engOf (engineAt .fenced 0) 2 3).st = .fenced ∧ (engOf (engineAt .off 0) 2 3).st = .off ∧
    (engOf (engineAt .drain 0) 2 3).st = .drain ∧
    On (engineAt .fenced 0) 0x28 [(0x10, 1, 2), (0x11, 1, 3)] .fresh (fun s c => Started s 1 0x28 c) := by decide +kernel
theorem test_fence : On up 0x28 [(0x10, 1, 2), (0x11, 1, 3)] .fresh fun s _ =>
    (engOf (after (exec (.fenceEngine 1) s)) 2 3).st = .fenced := by decide +kernel
theorem witness_engine_drained : (engOf (engineAt .drain 9) 2 3).st = .drain ∧ engBusy (engineAt .drain 9) 2 3 = false := by decide +kernel
theorem witness_engine_timeout : (engOf (advance (engineAt .drain 9) 9) 2 3).st = .drain ∧
    (engOf (advance (engineAt .drain 9) 9) 2 3).deadline ≤ now (advance (engineAt .drain 9) 9) := by decide +kernel
theorem test_engine_timeout : (engOf (after (exec (.engineDrainTimeout 9 2 3) (engineAt .drain 9))) 2 3).st = .fenced := by decide +kernel
theorem witness_reset_engine : On (engineAt .fenced 0) 0x29 [(0x10, 1, 2), (0x11, 1, 3)] .fresh fun s c => Started s 1 0x29 c ∧
    (engOf s (c.fld 0x10 1) (c.fld 0x11 1)).st = .fenced := by decide +kernel
theorem witness_reset_engine_running : On up 0x29 [(0x10, 1, 2), (0x11, 1, 3)] .fresh fun s c => Started s 1 0x29 c ∧
    (engOf s (c.fld 0x10 1) (c.fld 0x11 1)).st = .run := by decide +kernel
theorem test_reset_engine : On (engineAt .off 0) 0x29 [(0x10, 1, 2), (0x11, 1, 3)] .fresh fun s _ =>
    (engOf (after (exec (.resetEngine 1 true) s)) 2 3).st = .run ∧ (engOf (after (exec (.resetEngine 1 false) s)) 2 3).failed = true := by
  decide +kernel

/-! ### Lull states (Example 15.1) -/

/-- Entry 41 to Lull-2 by command 1, in a phase, with a wake already seen or not. -/
def entry41 (target phase w : Nat) : LullEntry :=
  { cmd := 1, seq := 41, target := target, deadline := 250000000, phase := phase, wake := w, after := w != 0, wakeAt := 0, sec := 0, ns := 0,
    gateMax := 4, forced := 0 }
/-- The gate table with gate `k` in state `st` since tick 0 and the other 14 in state `o`. -/
def gatesWith (o k st : Nat) : Tbl Gate := (List.range 15).map fun j => (j, { Gate.reset with st := if j = k then st else o })
/-- `up` with ENTER_LULL in flight and that entry. -/
def entering (e : LullEntry) (g : Tbl Gate) : State :=
  let s := put up (cmdOn 0 0x24 [(0x10, 1, e.target)] (.waiting 0))
  { s with pmu := { s.pmu with lull := some e, gates := g } }

theorem witness_enter_lull : On up 0x24 [(0x10, 1, 2)] .fresh fun s c => Started s 1 0x24 c ∧ s.pmu.lull = none ∧ s.pmu.upd = none ∧
    (∀ p ∈ s.xp, p.2.mount = none) := by decide +kernel
theorem witness_enter_lull_refused : Started (put (entering (entry41 2 0 0) []) (cmdOn 0 0x24 [] .fresh)) 1 0x24 (cmdOn 0 0x24 [] .fresh) ∧
    (entering (entry41 2 0 0) []).pmu.lull ≠ none ∧
    On mounted 0x24 [(0x10, 1, 2)] .fresh (fun s c => 2 ≤ c.fld 0x10 1 ∧ ∃ p ∈ s.xp, p.2.mount ≠ none) := by decide +kernel
/-- QUIESCE_MS 0 means 1,000 ms. -/
theorem test_enter_lull : On up 0x24 [(0x10, 1, 2)] .fresh fun s _ =>
    (after (exec (.enterLull 1) s)).pmu.lull.map (fun e => (e.target, e.deadline)) = some (2, 250000000) := by decide +kernel
/-- With a cartridge mounted, Lull-2 is refused with stream state (Table 15-5). -/
theorem test_enter_lull_mounted : On mounted 0x24 [(0x10, 1, 2)] .fresh fun s _ =>
    (after (exec (.enterLull 1) s)).out.head? = some (.dma 0 none 0x2000 [9, 0, 5, 1, 0, 0, 0, 0, 0, 0, 0, 0, 0, 0, 0, 0] false) := by
  decide +kernel
theorem witness_lull_quiesced : let s := entering (entry41 2 0 0) []
    s.pmu.lull = some (entry41 2 0 0) ∧ (∀ c ∈ s.rings.cmds, c.id = (entry41 2 0 0).cmd ∨ c.done ≠ none) ∧ allWritten s = true := by
  decide +kernel
/-- Lull-1 waits for the records of an open dataset. -/
theorem witness_lull_quiesced_writes : let s := withXp (entering (entry41 1 0 0) []) (xp0 (some ds5000))
    s.pmu.lull = some (entry41 1 0 0) ∧ (∀ c ∈ s.rings.cmds, c.id = (entry41 1 0 0).cmd) ∧ allWritten s = false ∧
    allWritten (entering (entry41 1 0 0) []) = true := by decide +kernel
theorem test_lull_quiesced : let t := after (exec .lullQuiesced (entering (entry41 2 0 0) []))
    (gateOf t 0).st = 1 ∧ (gateOf t 1).st = 0 ∧ (gateOf t 0).closes = 1 := by decide +kernel
theorem witness_gate_closed : let s := entering (entry41 2 1 0) (gatesWith 2 3 1)
    (gateOf (advance s 16) 3).st = 1 ∧ gateBusy (advance s 16) 3 = false := by decide +kernel
/-- Gate 3 empties after 64 ns: LAST_DRAIN 4, and gate 4 closes next. -/
theorem test_gate_closed : let t := after (exec (.gateClosed 16 3) (entering (entry41 2 1 0) (gatesWith 0 3 1)))
    (gateOf t 3).st = 2 ∧ (gateOf t 3).drain = 4 ∧ (gateOf t 4).st = 1 := by decide +kernel
/-- The last gate of Lull-2 commits the entry: the completion has RESULT 2 and RESULT2 41, and gate 14 starts. -/
theorem test_lull_commit : let t := after (exec (.gateClosed 16 13) (entering (entry41 2 1 0) (gatesWith 2 13 1)))
    t.pmu.lull.map (·.phase) = some 2 ∧ (gateOf t 14).st = 1 ∧
    t.out.head? = some (.dma 0 none 0x2000 [9, 0, 0, 1, 2, 0, 0, 0, 41, 0, 0, 0, 0, 0, 0, 0] false) := by decide +kernel
theorem witness_gate_force_close : let s := entering (entry41 2 1 0) (gatesWith 2 3 1)
    (gateOf (advance s 2500) 3).st = 1 ∧ (gateOf (advance s 2500) 3).since + 10 * usTicks ≤ now (advance s 2500) := by decide +kernel
/-- 10 µs of CLOSING: the gate is force-closed. -/
theorem test_gate_force_close : let s := entering (entry41 2 1 0) (gatesWith 2 3 1)
    (gateOf (after (exec (.gateForceClose 2500 3 []) s)) 3).forced = true ∧ (gateOf (after (exec (.gateForceClose 2499 3 []) s)) 3).st = 1 := by
  decide +kernel
theorem witness_quiesce_timeout : let s := entering (entry41 2 0 0) []
    (advance s 250000000).pmu.lull = some (entry41 2 0 0) ∧ (entry41 2 0 0).deadline ≤ now (advance s 250000000) := by decide +kernel
theorem test_quiesce_timeout : (after (exec (.quiesceTimeout 250000000) (entering (entry41 2 0 0) []))).out.head? =
    some (.dma 0 none 0x2000 [9, 0, 0x67, 1, 0, 0, 0, 0, 41, 0, 0, 0, 0, 0, 0, 0] false) := by decide +kernel
theorem witness_lull_state_saved : (entering (entry41 2 2 0) (gatesWith 2 14 2)).pmu.lull = some (entry41 2 2 0) ∧
    (gateOf (entering (entry41 2 2 4) (gatesWith 2 14 2)) 14).st ≠ 1 ∧ (entry41 2 2 4).wake ≠ 0 ∧ (entry41 2 2 0).wake = 0 := by decide +kernel
/-- SMP_CS_N fell after commit, so the exit begins as soon as Lull-2 is reached (R737). -/
theorem test_lull_state_saved : (after (exec .lullStateSaved (entering (entry41 2 2 4) (gatesWith 2 14 1)))).pmu.ps = .waking ∧
    (after (exec .lullStateSaved (entering (entry41 2 2 0) (gatesWith 2 14 1)))).pmu.ps = .lull2 := by decide +kernel
theorem witness_host_link_wake : let s := entering (entry41 2 3 0) []
    s.host.perst = true ∧ s.pmu.lull = some (entry41 2 3 0) ∧ (entry41 2 3 0).phase = 3 := by decide +kernel
theorem witness_host_link_sleeps : up.pmu.lull = none ∧ (entry41 1 3 0).target ≠ 2 := by decide +kernel
theorem test_host_link_wake : (after (exec .hostLinkWake (entering (entry41 2 3 0) []))).pmu.lull.map (·.wake) = some 2 ∧
    (after (exec .hostLinkWake (entering (entry41 3 3 0) []))).pmu.lull.map (·.phase) = some 3 := by decide +kernel
theorem witness_lull_exit : (entering (entry41 2 4 4) []).pmu.lull = some (entry41 2 4 4) := by decide +kernel
/-- Entry 41 of POWER_LOG reads TARGET 2, OUTCOME 1, WAKE 4, WFLAGS 1 and EXIT_US 800. -/
theorem test_lull_exit : let t := after (exec (.lullExitComplete 200000 true) (entering (entry41 2 4 4) (gatesWith 2 14 2)))
    t.pmu.log = [⟨41, 2, true, 4, 1, 0, 0, 800, 4, 0⟩] ∧ (gateOf t 14).st = 0 ∧ t.smp.attn.getLsbD 3 = true := by decide +kernel

/-! ### Firmware -/

/-- FW_STAGE of the last piece, and a verified image. -/
def newImg : Image := ⟨0x030300, 1, 1, 0⟩
def withFlash (f : Flash) : State := { up with pmu := { up.pmu with flash := f } }
/-- Image B staged. -/
def stagedImg : State := withFlash { up.pmu.flash with images := Tbl.put up.pmu.flash.images 1 newImg, staged := true }
theorem witness_fw_stage : On up 0x25 [(0x20, 1, 2)] .fresh fun s c => Started s 1 0x25 c ∧ s.pmu.upd = none ∧ dataOk s c = true ∧
    s.pmu.flashOp = none ∧ s.pmu.pfail = false := by decide +kernel
theorem witness_fw_busy : On { up with pmu := { up.pmu with upd := some ⟨7, 0, 0, 1, 5, 0, 0, 0, false, none⟩ } } 0x25 [] .fresh (fun s c =>
      Started s 1 0x25 c ∧ s.pmu.upd ≠ none) ∧
    On { up with pmu := { up.pmu with upd := some ⟨7, 0, 0, 1, 5, 0, 0, 0, false, none⟩ } } 0x26 [] .fresh (fun s c =>
      Started s 1 0x26 c ∧ s.pmu.upd ≠ none) := by decide +kernel
/-- A flash operation of command 1 with `n` tries made. -/
def flashing (n : Nat) : State := let s := put up (cmdOn 0 0x25 [(0x20, 1, 2)] (.waiting 0))
  { s with pmu := { s.pmu with flashOp := some ⟨1, newImg, [], n⟩ } }
theorem witness_flash_operation_end : (flashing 0).pmu.flashOp = some ⟨1, newImg, [], 0⟩ ∧ (flashing 2).pmu.flashOp = some ⟨1, newImg, [], 2⟩ := by
  decide +kernel
theorem test_flash_operation_end : (after (exec (.flashOperationEnd true) (flashing 0))).pmu.flash.staged = true ∧
    (after (exec (.flashOperationEnd false) (flashing 0))).pmu.flashOp.map (·.tries) = some 1 ∧
    (after (exec (.flashOperationEnd false) (flashing 2))).pmu.flashOp = none := by decide +kernel
theorem witness_fw_activate : On stagedImg 0x26 [(0x10, 1, 1)] .fresh (fun s c => Started s 1 0x26 c ∧ s.pmu.upd = none ∧
      Tbl.get? s.pmu.flash.images (stageRegion s.pmu.flash) = some newImg ∧ s.pmu.flash.staged = true ∧ c.fld 0x10 1 % 2 = 1 ∧
      s.pmu.pfail = false) ∧
    On { stagedImg with pmu := { stagedImg.pmu with runImg := ⟨0x030200, 1, 1, 0⟩ } } 0x26 [(0x10, 1, 0)] .fresh (fun s c =>
      Started s 1 0x26 c ∧ c.fld 0x10 1 % 2 = 0 ∧ newImg.stfmt = s.pmu.runImg.stfmt) := by decide +kernel
theorem witness_fw_activate_refused : On up 0x26 [] .fresh (fun s c => Started s 1 0x26 c ∧ s.pmu.upd = none ∧ s.pmu.flash.staged = false) ∧
    On stagedImg 0x26 [(0x10, 1, 0)] .fresh (fun s c => Started s 1 0x26 c ∧ c.fld 0x10 1 % 2 = 0 ∧ newImg.stfmt ≠ s.pmu.runImg.stfmt) := by
  decide +kernel
theorem test_fw_activate : (On stagedImg 0x26 [(0x10, 1, 1)] .fresh fun s _ => (after (exec (.fwActivate 1 true) s)).pmu.flash.active = 1) ∧
    On { stagedImg with pmu := { stagedImg.pmu with runImg := ⟨0x030200, 1, 1, 0⟩ } } 0x26 [(0x10, 1, 0)] .fresh (fun s _ =>
      (after (exec (.fwActivate 1 true) s)).host.updatePause = true) := by decide +kernel
/-- The update of command 1 in a phase. -/
def upd (phase : Nat) (trial : Bool) : Update := ⟨1, 0, 0x030200, phase, 5, 0, 0, 0, trial, none⟩
def updating1 (phase : Nat) : State := let s := put stagedImg (cmdOn 0 0x26 [] (.waiting 1))
  { s with pmu := { s.pmu with upd := some (upd phase false) } }
theorem witness_fw_activate_continues : Waiting (updating1 1) 1 0x26 (cmdOn 0 0x26 [] (.waiting 1)) (.waiting 1) ∧
    (updating1 1).pmu.upd = some (upd 1 false) ∧ (upd 1 false).cmd = 1 := by decide +kernel
/-- A COMPRESS that runs and cannot be carried over stops first. -/
def updatingJobs (phase : Nat) : State :=
  { updating1 phase with rings := { (updating1 phase).rings with
      cmds := [cmdOn 0 0x26 [] (.waiting 1), { job 0x80 [] (.engine 4) with id := 2 }] } }
theorem witness_fw_activate_jobs : carries (updatingJobs 1) (upd 1 false) = false ∧ (∃ k ∈ (updatingJobs 1).rings.cmds, jobRuns k = true) ∧
    Waiting (updatingJobs 3) 1 0x26 (cmdOn 0 0x26 [] (.waiting 1)) (.waiting 1) ∧ (updatingJobs 3).pmu.upd = some (upd 3 false) ∧
    (∀ k ∈ (updating1 3).rings.cmds, jobRuns k = false) := by decide +kernel
theorem test_fw_activate_continues : (after (exec (.fwActivate 1 true) (updating1 1))).pmu.runImg = newImg ∧
    (after (exec (.fwActivate 1 true) (updating1 1))).pmu.upd.map (·.phase) = some 2 := by decide +kernel
theorem witness_self_test : (updating1 2).pmu.upd = some (upd 2 false) ∧ (updating1 2).pmu.pfail = false ∧
    (advance (updating1 2) 5).pmu.upd = some (upd 2 false) ∧ (upd 2 false).deadline ≤ now (advance (updating1 2) 5) ∧
    (upd 2 false).trial = false ∧ Tbl.get? (updating1 2).pmu.flash.images (upd 2 false).from_ = some ⟨0x030200, 1, 1, 0⟩ := by decide +kernel
theorem witness_roll_back : (∀ k ∈ (updating1 2).rings.cmds, jobRuns k = false) ∧
    ({ updating1 2 with pmu := { (updating1 2).pmu with pfail := true } } : State).pmu.pfail = true := by decide +kernel
theorem test_self_test : (after (exec .selfTestFail (updating1 2))).pmu.runReg = 0 ∧
    (after (exec (.selfTestTimeout 4) (updating1 2))).pmu.upd.isSome = true ∧
    (after (exec .selfTestPass (updating1 2))).pmu.updLog.map (·.outcome) = [0] := by decide +kernel

/-! ### SYS_RST_N and boot -/

theorem test_sys_rst_assert : let t := after (exec .sysRstAssert mounted)
    (xpOf t 0).map (fun x => (x.mount.isNone, x.cart.isSome)) = some (true, true) ∧ t.rings.tbl = [] ∧ t.pmu.booted = false := by
  decide +kernel
theorem witness_sys_rst_release : State.reset.host.sysRst = false ∧ State.reset.host.perst = false ∧
    (State.reset.xp.filter fun p => p.2.shkLow) = [] := by decide +kernel
/-- SYS_RST_N is high, no boot has taken place, one channel of one rank of 2 GiB devices trained. -/
def powered : State := { State.reset with host := { HostLink.reset with sysRst := true } }
theorem witness_boot_complete : powered.host.sysRst = true ∧ powered.pmu.booted = false ∧ powered.pmu.ps = .run ∧ powered.clk.frozen = false ∧
    bootRegion powered = some 0 ∧ Tbl.get? powered.pmu.flash.images 0 = some ⟨0x030200, 1, 1, 0⟩ ∧ channelBytes powered.smp.straps ≠ 0 := by
  decide +kernel
/-- No directory, no boot. -/
theorem witness_boot_none : bootRegion { powered with pmu := { powered.pmu with flash := { Flash.initial with dirOk := false } } } = none := by
  decide +kernel
/-- With IMAGE_A failing its signature GOLDEN runs (R730); FW_READY stays 0 while PERST_N is low (R120). -/
theorem test_boot_golden : let s := { powered with pmu := { powered.pmu with flash := { Flash.initial with
      images := [(0, ⟨0x030200, 1, 1, 2⟩), (2, ⟨0x030200, 1, 1, 0⟩)] } } }
    let t := after (exec (.bootComplete true false) s)
    t.host.golden = true ∧ t.host.fwReady = false ∧ t.pmu.runReg = 2 := by decide +kernel
theorem test_boot_no_memory : (after (exec (.bootComplete false true) powered)).pmu.booted = false := by decide +kernel

/-! ### Time base (Example 14.1) -/

/-- PPS_EN 1, formatter time `ns` past second 1000, and the given offsets and previous edge. -/
def ppsAt (ns : Nat) (run : List Int) (prev : Option Int) (f : Int) : State :=
  { up with tbu := { Tbu.reset with ppsEn := true, sec := 1000, ns := ns, run := run, prev := prev, f := f, steps := 1 } }
/-- Formatter time of the first edge. -/
def edge1 : Int := 1000000312500
theorem witness_set_time : On up 0x20 [(0x10, 1, 0), (0x18, 8, 5), (0x20, 4, 8)] .fresh (fun s c => Started s 1 0x20 c ∧
      s.clk.frozen = false ∧ c.fld 0x10 1 = 0) ∧ On up 0x20 [(0x10, 1, 1)] .fresh (fun s c => Started s 1 0x20 c ∧ c.fld 0x10 1 = 1) ∧
    On up 0x20 [(0x10, 1, 2)] .fresh (fun s c => Started s 1 0x20 c ∧ c.fld 0x10 1 = 2 ∧ s.tbu.atPps = none) := by decide +kernel
/-- RESULT2 is the step in ns (R717). -/
theorem test_set_time : On up 0x20 [(0x10, 1, 0), (0x18, 8, 5), (0x20, 4, 8)] .fresh fun s _ =>
    (after (exec (.setTime 1) s)).tbu.sec = 5 ∧ (after (exec (.setTime 1) s)).tbu.ns = 8 ∧
    (after (exec (.setTime 1) s)).out.head? =
      some (.dma 0 none 0x2000 ([9, 0, 0, 1, 0, 0, 0, 0] ++ leBytes 8 5000000008) false) := by decide +kernel
def waitingSet : State := let s := put up (cmdOn 0 0x20 [(0x10, 1, 2)] (.waiting 0))
  { s with tbu := { s.tbu with ppsEn := true, atPps := some (1, 77, 625000000) } }
theorem witness_set_time_timeout : (advance waitingSet 625000000).tbu.atPps = some (1, 77, 625000000) ∧
    625000000 ≤ now (advance waitingSet 625000000) ∧ (advance waitingSet 625000000).clk.frozen = false := by decide +kernel
theorem test_set_time_timeout : (after (exec (.setTimeTimeout 625000000) waitingSet)).out.head? =
    some (.dma 0 none 0x2000 [9, 0, 0x67, 1, 0, 0, 0, 0, 0, 0, 0, 0, 0, 0, 0, 0] false) := by decide +kernel
/-- AT_PPS sets second 77 at the edge, which is then accepted with offset 0 (R715, R718). -/
theorem test_set_time_at_pps : let t := after (exec (.ppsEdge 100) waitingSet)
    t.tbu.sec = 77 ∧ t.tbu.ns = 0 ∧ t.tbu.lastOff = 0 ∧ t.tbu.accepted = 1 := by decide +kernel
theorem witness_pps_edge : let u := advance (ppsAt 332500 [312500] (some edge1) 0) 0
    u.host.sysRst = true ∧ u.clk.frozen = false ∧ u.tbu.ppsEn = true ∧ u.tbu.prev = some edge1 ∧ timeDiff (timeNs u) edge1 < 500000000 := by
  decide +kernel
theorem witness_pps_edge_far : let u := advance (ppsAt 332500 [312500] none 0) 0
    (∀ p, u.tbu.prev = some p → 500000000 ≤ timeDiff (timeNs u) p) ∧ u.tbu.atPps = none ∧ 1000 * (u.tbu.win : Int) < |edgeOffset u| ∧
    |edgeOffset (advance (ppsAt 100000 [] none 0) 0)| ≤ 1000 * (u.tbu.win : Int) := by
  refine ⟨fun p h => ?_, by decide +kernel, by decide +kernel, by decide +kernel⟩
  have e : (advance (ppsAt 332500 [312500] none 0) 0).tbu.prev = none := by decide +kernel
  rw [e] at h; cases h
theorem witness_pps_off : ¬ (advance up 0).tbu.ppsEn = true ∧ (advance up 0).tbu.ppsEn = false ∧
    (advance waitingSet 100).tbu.atPps = some (1, 77, 625000000) := by decide +kernel
/-- Edge 1 at 312,500 ns is out of window. -/
theorem test_pps_edge1 : let t := after (exec (.ppsEdge 0) (ppsAt 312500 [] none 0))
    t.tbu.lastOff = 312500 ∧ t.tbu.run = [312500] ∧ t.tbu.outWin = 1 ∧ t.tbu.f = 0 := by decide +kernel
/-- Edge 2, 1.000020 s later, sets F to -20,000. -/
theorem test_pps_edge2 : (after (exec (.ppsEdge 0) (ppsAt 332500 [312500] (some (edge1 - 1000000000)) 0))).tbu.f = -20000 := by
  decide +kernel
/-- Edge 4 steps by -332,500 ns; the state becomes ACQUIRING and STEPS 2. -/
theorem test_pps_edge4 : let t := after (exec (.ppsEdge 0) (ppsAt 332500 [332500, 332500] (some (edge1 + 20000 - 1000000000)) (-20000)))
    t.tbu.sec = 1000 ∧ t.tbu.ns = 0 ∧ t.tbu.steps = 2 ∧ t.tbu.pps = .acquiring ∧ t.tbu.f = -20000 := by decide +kernel
/-- The eighth near edge locks. -/
theorem test_pps_lock : let s := ppsAt 0 [] none 0
    (after (exec (.ppsEdge 0) { s with tbu := { s.tbu with pps := .acquiring, near := 7 } })).tbu.pps = .locked ∧
    (after (exec (.ppsEdge 0) { s with tbu := { s.tbu with pps := .acquiring, near := 6 } })).tbu.pps = .acquiring := by decide +kernel
theorem witness_slew_end : let u := advance { up with tbu := { up.tbu with slew := 5, slewAt := 9 } } 9
    u.tbu.slew ≠ 0 ∧ u.tbu.slewAt ≤ now u := by decide +kernel
theorem witness_pps_holdover : let u := advance { up with tbu := { up.tbu with pps := .locked } } 625000000
    (u.tbu.pps = .acquiring ∨ u.tbu.pps = .locked) ∧ u.tbu.accAt + 5 * secTicks / 2 ≤ now u := by decide +kernel
theorem test_pps_holdover : let s : State := { up with tbu := { up.tbu with pps := .locked } }
    (after (exec (.ppsHoldover 625000000) s)).tbu.pps = .holdover ∧ (after (exec (.ppsHoldover 624999999) s)).tbu.pps = .locked := by
  decide +kernel
theorem test_time_step_rule : (setNs Tbu.reset (-4)).sec = 2 ^ 48 - 1 ∧ (setNs Tbu.reset (-4)).ns = 999999996 ∧
    timeDiff 0 (timeMod - 4) = 4 := by decide +kernel
/-- Timer 8 at 1 ms with ALIGN, last fired at 3 s. -/
def timer8 : PTimer := ⟨1000000, true, true, false, 0, 0, 3000000000⟩
def timing (ns : Nat) : State := { up with tbu := { Tbu.reset with sec := 3, ns := ns, timers := [(8, timer8)] } }
theorem witness_pacing_timer : (timing 0).host.sysRst = true ∧ (timing 0).clk.frozen = false ∧ (timerOf (advance (timing 0) 250000) 8).en = true ∧
    0 ≤ timeDiff (timeNs (advance (timing 0) 250000)) (gridAfter timer8.last (timerOrigin timer8) timer8.period) := by decide +kernel
theorem test_pacing_timer : (timerOf (after (exec (.pacingTimerFire 250000 8) (timing 0))) 8).last = 3001000000 ∧
    (timerOf (after (exec (.pacingTimerFire 249999 8) (timing 0))) 8).last = 3000000000 := by decide +kernel
theorem witness_timer_ctrl : let s : State := { up with tbu := { Tbu.reset with timers := [(2, { PTimer.reset with period := 1000000 })] } }
    (timerOf s 2).en = false ∧ mayRun (timerOf s 2).period true = true ∧ mayRun (timerOf s 3).period true = false ∧ periodOk 1000 = true ∧
    periodOk 996 = false ∧ bitOf (3#32).toNat 0 = true := by decide +kernel
theorem test_timer_ctrl : (timerOf (after (exec (.pacingTimerCtrlWrite 3 true 1) up)) 3).cfgErr = true ∧
    (timerOf (after (exec (.pacingTimerCtrlWrite 3 false 1000) up)) 3).period = 1000 := by decide +kernel
/-- Timer 2 runs with a period that divides no day. -/
def running2 : State :=
  { up with tbu := { Tbu.reset with timers := [(2, { PTimer.reset with en := true, period := 1000000 }), (3, { PTimer.reset with en := true, period := 1000000, align := true })] } }
theorem witness_timer_running : 2 < 8 ∧ (timerOf running2 2).en = true ∧ mayRun (timerOf running2 2).period (bitOf (1#32).toNat 1) = true ∧
    mayRun (timerOf running2 3).period (bitOf (3#32).toNat 1) = true ∧ bitOf (2#32).toNat 0 = false ∧
    periodOk (1004#32).toNat = true ∧ mayRun (1004#32).toNat (timerOf running2 3).align = false ∧
    mayRun (1004#32).toNat (timerOf running2 2).align = true := by decide +kernel
/-- A running timer keeps running and records CFG_ERR when its new period cannot be aligned. -/
theorem test_timer_running : (timerOf (after (exec (.pacingTimerCtrlWrite 3 false 1004) running2)) 3) =
      { PTimer.reset with en := true, period := 1000000, align := true, cfgErr := true } ∧
    (timerOf (after (exec (.pacingTimerCtrlWrite 3 true 2) running2)) 3).en = false := by decide +kernel
def alarm2 : State := { up with tbu := { Tbu.reset with sec := 3, alarms := [(2, ⟨3, 40, true, false⟩)] } }
theorem witness_alarm : (alarmOf (advance alarm2 10) 2).en = true ∧ alarmDue (advance alarm2 10) (alarmOf (advance alarm2 10) 2) = true := by
  decide +kernel
theorem test_alarm : alarmOf (after (exec (.alarmFire 10 2) alarm2)) 2 = ⟨3, 40, false, true⟩ ∧
    (after (exec (.alarmFire 10 2) alarm2)).evr.raised = [1410] ∧ (alarmOf (after (exec (.alarmFire 9 2) alarm2)) 2).fired = false ∧
    alarmOf (after (exec (.alarmCtrlWrite 2 2) (after (exec (.alarmFire 10 2) alarm2)))) 2 = ⟨3, 40, false, false⟩ := by decide +kernel
theorem witness_second_boundary : 1000000000 ≤ (timing 999999996).tbu.ns + 4 * 1 ∧ (timing 999999996).tbu.ns + 4 * 0 < 1000000000 := by
  decide +kernel
theorem witness_pps_out : let u := advance { up with tbu := { Tbu.reset with outEn := true, ns := 999999996 } } 1
    u.tbu.outEn = true ∧ 0 ≤ timeDiff (timeNs u) (gridAfter u.tbu.outLast u.tbu.outOff 1000000000) := by decide +kernel
theorem witness_pps_out_fall : let u := advance { up with tbu := { Tbu.reset with ppsOut := true, outFallAt := 7 } } 7
    u.tbu.ppsOut = true ∧ u.tbu.outFallAt ≤ now u := by decide +kernel
/-- PPS_OUT is high for 100 ms. -/
theorem test_pps_out : let t := after (exec (.ppsOutRise 1) { up with tbu := { Tbu.reset with outEn := true, ns := 999999996 } })
    t.tbu.ppsOut = true ∧ t.tbu.outFallAt = 25000001 ∧ (after (exec (.ppsOutFall 25000000) t)).tbu.ppsOut = false ∧
    (after (exec (.ppsOutFall 24999999) t)).tbu.ppsOut = true := by decide +kernel
theorem test_tbu_cfg : let t := after (exec (.tbuCfgWrite 0x2D) up)
    t.tbu.ppsEn = true ∧ t.tbu.outEn = true ∧ t.tbu.manual = false ∧ t.tbu.shift = 5 := by decide +kernel
theorem witness_tbu_time_read : hostReach up 0 = true ∧ up.host.sysRst = true := by decide +kernel
theorem test_tbu_time_read : (after (exec (.tbuTimeRead true) (timing 8))).out.head? = some (.cpl 0 0x300000008) ∧
    (after (exec (.tbuTimeRead false) (timing 8))).tbu.snap = 3 := by decide +kernel
/-- Memory Space Enable 0, and the PF in its FLR. -/
def memOff : State := { up with host := { up.host with memEn := false } }
theorem witness_time_off : barOff memOff 0 = true ∧ inFlr (setFn up 0 { FnState.reset with flr := true }) 0 = true ∧
    linkOn (setFn up 0 { FnState.reset with flr := true }) = true ∧ bitOf (1#32).toNat 0 = true ∧ bitOf (4#32).toNat 0 = false := by
  decide +kernel

/-! ### The host link -/

/-- VF 5 enabled with ring 37 of 64 entries in its slot 2 (Example 4.1). -/
def vf5 (r : Ring → Ring) : State :=
  { up with
    host := { up.host with
      vfEn := true, vfMse := true, vfCount := 8, numVfs := 8, ari := true, fns := (5, { FnState.reset with bme := true, msixEn := true }) :: up.host.fns },
    rings := { up.rings with tbl := Tbl.put up.rings.tbl 37 (r (newRing 5 2 6 0x840000000 0x840001000 2 63)) } }
theorem witness_doorbell : hostReach (vf5 id) 5 = true ∧ 2 < slotCount 5 ∧ (ringAt (vf5 id) 5 2).map (·.1) = some 37 ∧ (63#32).toNat < 65536 ∧
    ringAt (vf5 id) 5 3 = none ∧ (63#32).toNat < 2 ^ 6 ∧ 2 ^ 6 ≤ (64#32).toNat % 65536 ∧ 65536 ≤ (65536#32).toNat ∧
    storing (vf5 id) = false ∧ (vf5 id).pmu.lull = none ∧ (fnOf (vf5 id) 5).tails = [] ∧ (fnOf (vf5 id) 5).heads = [] ∧
    barOff { vf5 id with host := { (vf5 id).host with vfMse := false } } 5 = true := by decide +kernel
theorem witness_doorbell_held : (ringAt (vf5 fun r => { r with st := .deleting }) 5 2).map (·.2.st) = some .deleting ∧
    storing { vf5 id with host := { (vf5 id).host with updatePause := true } } = true := by decide +kernel
/-- A doorbell in an update pause waits; the last one wins (R132, R133, R152). -/
theorem test_doorbell_held : let s : State := { vf5 id with host := { (vf5 id).host with updatePause := true } }
    let t := after (exec (.submissionDoorbell 5 2 60) (after (exec (.submissionDoorbell 5 2 63) s)))
    ((Tbl.get? t.rings.tbl 37).map (·.sqTail), (fnOf t 5).tails) = (some 0, [(2, 60)]) := by decide +kernel
/-- Tail 63 (step 1), then head 40 on the path to tail 40 (step 4); 41 is not on it. -/
theorem test_doorbells : (Tbl.get? (after (exec (.submissionDoorbell 5 2 63) (vf5 id))).rings.tbl 37).map (·.sqTail) = some 63 ∧
    (Tbl.get? (after (exec (.completionDoorbell 5 2 40) (vf5 fun r => { r with cqTail := 40 }))).rings.tbl 37).map (·.cqHead) = some 40 ∧
    (Tbl.get? (after (exec (.completionDoorbell 5 2 41) (vf5 fun r => { r with cqTail := 40 }))).rings.tbl 37).map
      (fun r => (r.cqHead, r.cqHeadInvalid)) = some (0, 1) := by decide +kernel
/-- Step 5: slot 4 of the second pass holds CID 0x0144, OK, EW set and PHASE 0. -/
theorem test_example_4_1 : (postOne (vf5 fun r => { r with cqTail := 4, pass := 2 })
      { cmdOn 37 0x41 [] .fresh with entry := ent 0x41 [(2, 2, 0x144)] } { Compl.ok 0 0 with ew := true }).out.getLast? =
    some (.dma 5 none 0x840001040 [0x44, 1, 0, 2, 0, 0, 0, 0, 0, 0, 0, 0, 0, 0, 0, 0] false) := by decide +kernel
/-- The administrative ring as firmware finds it before it is enabled. -/
def noAdmin : State := { up with host := { up.host with admin := ⟨0x1000, 0x2000, 6, false, false⟩ }, rings := { up.rings with tbl := [] } }
theorem witness_admin_enable : hostReach noAdmin 0 = true ∧ noAdmin.host.admin.enable = false ∧ noAdmin.host.admin.draining = false ∧
    6 ≤ noAdmin.host.admin.log2 ∧ noAdmin.host.admin.log2 ≤ 12 ∧ Tbl.get? noAdmin.rings.tbl 0 = none ∧ up.host.admin.enable = true := by
  decide +kernel
/-- After a PF FLR in a Lull state the old ring 0 is still there: it keeps its commands under a number out of range. -/
def oldAdmin : State := { put up (cmdOn 0 0x06 [] .fresh) with host := noAdmin.host }
theorem witness_admin_old : (Tbl.get? oldAdmin.rings.tbl 0).isSome = true ∧ oldAdmin.host.admin.enable = false ∧
    (after (exec .adminRingEnable oldAdmin)).rings.cmds.map (·.ring) = [4096] ∧
    (Tbl.get? (after (exec .adminRingEnable oldAdmin)).rings.tbl 0).map (fun r => (r.sqTail, r.tagMax)) = some (0, 63) := by decide +kernel
def draining : State := { up with host := { up.host with admin := { up.host.admin with enable := false, draining := true } } }
theorem witness_admin_drained : draining.host.admin.draining = true ∧ ringCmds draining 0 = [] ∧ up.host.admin.draining = false := by
  decide +kernel
theorem test_admin : Tbl.has (after (exec .adminRingEnable noAdmin)).rings.tbl 0 = true ∧
    (after (exec .adminRingDisable up)).host.admin.draining = true ∧ Tbl.has (after (exec .adminRingDrained draining)).rings.tbl 0 = false := by
  decide +kernel
theorem witness_register_access : 4 < barSize 0 ∧ hostReach up 0 = true ∧ accessOk 4 2 = false ∧ accessOk 12 8 = false ∧ cfgReach up 0 = true ∧
    barOff { up with host := { up.host with memEn := false } } 0 = true ∧ 0x1008 < barSize 0 ∧ 0x1008 % 8 = 0 ∧
    0x1008 < 0x1000 + 8 * slotCount 0 ∧ linkOn up = true ∧ fnEnabled up 0 = true := by decide +kernel
/-- The PF in its FLR, and in the window of R118: its configuration requests get retry status. -/
def resetting : State := setFn up 0 { FnState.reset with flr := true }
theorem witness_config_retry : inFlr resetting 0 = true ∧ linkOn resetting = true ∧ cfgReach resetting 0 = false ∧ cfgRetry resetting 0 = true ∧
    cfgRetry { up with host := { up.host with crs := true } } 0 = true := by decide +kernel
theorem test_config_retry : (after (exec (.rcRegisterRead 0 (.cfg .vendorId)) resetting)).out.head? = some (.crs 0) ∧
    (after (exec (.rcRegisterRead 0 (.cfg .vendorId)) up)).out.head? = some (.cpl 0 0x1D8B) := by decide +kernel
/-- HIU_DEV_STATUS with FW_READY and ADMIN_RDY; HIU_DB_SLOTS reads 1024 for the PF. -/
theorem test_register_read : (after (exec (.rcRegisterRead 0 (.bar0 4 4)) up)).out.head? = some (.cpl 0 3) ∧
    (after (exec (.rcRegisterRead 0 (.bar0 6 4)) up)).out.head? = some (.ca 0) ∧ (after (exec (.rcRegisterRead 0 (.bar0 12 4)) up)).out.head? = some (.cpl 0 1024) := by
  decide +kernel
/-- A 2-byte write sets VALID and ACCESS_SIZE; HIU_FN_ERR_COUNT clears when read. -/
theorem test_register_write : let t := after (exec (.registerWrite 0 (.bar0 4 2 0 false false)) up)
    (after (exec (.rcRegisterRead 0 (.bar0 0x10 4)) t)).out.head? = some (.cpl 0 0x11) ∧
    (fnOf (after (exec (.rcRegisterRead 0 (.bar0 0x14 4)) t)) 0).err.count = 0 ∧ (fnOf t 0).err.count = 1 := by decide +kernel
theorem witness_flr : cfgReach (vf5 id) 5 = true ∧ cfgReach (vf5 id) 0 = true ∧ cfgReach up 0 = true ∧ up.host.vfEn = false ∧
    inFlr resetting 0 = true ∧ (vf5 id).host.vfEn = true := by decide +kernel
/-- Lull-2: the FLR is owed and wakes the formatter (R148). -/
def asleep2 : State := { up with pmu := { up.pmu with lull := some { cmd := 1, seq := 1, target := 2, deadline := 0, phase := 3, wake := 0, after := false, wakeAt := 0, sec := 0, ns := 0, gateMax := 0, forced := 0 } } }
theorem witness_flr_lull : deepLull asleep2 = true ∧ linkOn asleep2 = true ∧ fnEnabled asleep2 0 = true ∧ asleep2.host.crs = false ∧
    (flrStart asleep2 0).host.flrOwed = [0] := by decide +kernel
/-- The ring of VF 5 goes, the PF's rings stay. -/
theorem test_flr : let t := after (exec (.flrInitiate 5) (vf5 id))
    t.rings.tbl.map (·.1) = [0, 5] ∧ inFlr t 5 = true ∧ inFlr (after (exec (.flrComplete 5) t)) 5 = false := by decide +kernel
theorem test_flr_pf : (after (exec (.flrInitiate 0) (vf5 id))).host.vfEn = false ∧ (after (exec (.flrInitiate 0) (vf5 id))).rings.tbl = [] := by
  decide +kernel
/-- 300 VFs asked for, 255 given (R874); without ARI 7. -/
theorem test_vf_enable : let s (ari : Bool) : State := { up with host := { up.host with numVfs := 300, ari := ari } }
    (after (exec .vfEnableSet (s true))).host.vfCount = 255 ∧ (after (exec .vfEnableSet (s false))).host.vfCount = 7 ∧
    (after (exec .vfEnableClear (vf5 id))).rings.tbl.map (·.1) = [0, 5] := by decide +kernel
def perstLow : State := { up with host := { HostLink.reset with sysRst := true } }
theorem witness_perst : (canTrain up = true) ∧ up.host.perst = true ∧ up.host.sysRst = true ∧ perstLow.host.perst = false ∧ perstLow.host.sysRst = true ∧
    canTrain up = true := by decide +kernel
theorem test_perst : (after (exec .perstFall up)).host.dlActive = false ∧ (after (exec .perstFall up)).rings.tbl = [] ∧
    (after (exec .perstRise perstLow)).host.crsEnd = 225000000 ∧ (after (exec .perstRise perstLow)).host.crs = true := by decide +kernel
def retrying : State := { perstLow with host := { perstLow.host with perst := true, crs := true, training := true, crsEnd := 5 } }
theorem witness_crs_window_end : (advance retrying 5).host.crs = true ∧ (advance retrying 5).host.crsEnd ≤ now (advance retrying 5) := by
  decide +kernel
theorem witness_link_up : canTrain retrying = true ∧ retrying.host.dlActive = false ∧ up.host.dlActive = true := by decide +kernel
theorem test_link : (after (exec .linkUp retrying)).host.fwReady = true ∧ (after (exec (.crsWindowEnd 5) retrying)).host.crs = false ∧
    (after (exec (.linkDown none) up)).host.training = false ∧ (after (exec (.linkDown (some .malformedTlp)) up)).host.training = true := by
  decide +kernel
theorem witness_bus_master : cfgReach up 0 = true ∧ busMaster up 0 = true ∧ barOff memOff 0 = true ∧ 3 < vectorCount 0 := by decide +kernel
/-- A READ that still needs the host ends with HOST_ACCESS_ERROR; its entry posts once Bus Master Enable is set again. -/
theorem test_bus_master : let t := after (exec (.busMasterDisable 0 false) (withStream reader true (cmdSt 0x48 [] .fresh)))
    ((cmdOf t 1).bind (·.done)).map (·.status) = some 7 ∧ t.out = [] ∧ ((after (exec (.busMasterEnable 0 false) t)).out.getLast?.isSome) = true := by
  decide +kernel
/-- Vector 3 of the PF open or masked, with a message pending. -/
def pendingVec (mask : Bool) : State := setFn up 0 { fnOf up 0 with msix := [(3, ⟨0xFEE00000, 0x41, mask⟩)], pba := [3], fnMask := !mask }
theorem witness_msix : hostReach (pendingVec true) 0 = true ∧ 3 < vectorCount 0 ∧ cfgReach (pendingVec false) 0 = true := by decide +kernel
theorem test_msix : (after (exec (.msixUnmask 0 (some 3)) (pendingVec true))).out = [.msix 0 3 0xFEE00000 0x41] ∧
    (after (exec (.msixUnmask 0 none) (pendingVec false))).out = [.msix 0 3 0xFEE00000 0x41] := by decide +kernel
/-- Event 5 in its holdoff until tick 250, with two targets to tell. -/
def heldOff : State := { pendingVec false with rings := { up.rings with holdoff := [(5, 250, [(0, 3)])] } }
theorem witness_holdoff_end : Tbl.get? (advance heldOff 250).rings.holdoff 5 = some (250, [(0, 3)]) ∧ 250 ≤ now (advance heldOff 250) := by
  decide +kernel
theorem test_holdoff_end : (after (exec (.holdoffEnd 250 5) heldOff)).rings.holdoff = [] ∧
    (after (exec (.holdoffEnd 249 5) heldOff)).rings.holdoff.length = 1 := by decide +kernel

/-! ### Read channel -/

/-- Lane 3 active, in a search state, with a codeword of dataset 0 in flight and some samples. -/
def laneIn (x : Lane → Lane) : State := setLane up 3 (x { Lane.reset with active := true })
/-- A written codeword. -/
def cw0 : CwId := ⟨0, 1, 7, false, false, false, false⟩
/-- A waiting sample. -/
def sample (k : Nat) (c : CwClass) : Sample :=
  { ticket := k, cls := c, what := cw0, missed := false, margin := false, passes := 0, iters := 0, decoder := none, evicted := false, atTick := 0,
    y := [], gaps := [], prior := [], post := [], ord := 0, place := none, limit := 6 }
theorem witness_sync_search : laneOn (laneIn id) 3 = true ∧ (laneAt (laneIn id) 3).search = .acquisition ∧ (laneAt (laneIn id) 3).dropout = false ∧
    laneOn (laneIn fun x => { x with search := .tracking, fly := 3, dropout := true }) 3 = true ∧ (laneBlk up 3).syncWin = 24 ∧
    (laneBlk up 3).maxErr = 3 ∧ (laneAt (laneIn id) 3).fly < 3 ∧ (9 : Int).natAbs ≤ (laneBlk up 3).syncWin ∧
    bitOf { RcBlock.default with rcFlags := 0 }.rcFlags 0 = false := by decide +kernel
/-- 31 bits of preamble are too few; 32 with 2 errors are enough (R510). -/
theorem test_sync_acquired : (laneAt (after (exec (.syncAcquired 3 31 0 0) (laneIn id))) 3).search = .acquisition ∧
    (laneAt (after (exec (.syncAcquired 3 32 2 3) (laneIn id))) 3).search = .tracking ∧
    (laneAt (after (exec (.separatorDetected 3 9) (laneIn id))) 3).search = .acquisition ∧
    (laneAt (after (exec (.separatorDetected 3 8) (laneIn id))) 3).search = .positionStart := by decide +kernel
/-- A mark more than half of SYNC_WIN away counts in MARK_MARGIN (R546); the fourth missed mark returns the lane to acquisition. -/
theorem test_sync_window : (laneAt (after (exec (.syncWindowEnd 3 [(13, 0)]) (laneIn fun x => { x with search := .tracking }))) 3).markMargin = 1 ∧
    (laneAt (after (exec (.syncWindowEnd 3 [(12, 0)]) (laneIn fun x => { x with search := .tracking }))) 3).markMargin = 0 ∧
    (laneAt (after (exec (.syncWindowEnd 3 [(25, 0), (0, 4)]) (laneIn fun x => { x with search := .tracking, fly := 2 }))) 3).fly = 3 ∧
    (laneAt (after (exec (.syncWindowEnd 3 []) (laneIn fun x => { x with search := .tracking, fly := 3 }))) 3).search = .acquisition := by
  decide +kernel
theorem test_dropout_exit : (laneAt (after (exec (.dropoutExit 3) (laneIn fun x => { x with dropout := true }))) 3).dropout = false := by
  decide +kernel
theorem witness_BestMarkTaken : (-2, 1) ∈ [(5, 1), (-2, 1), (2, 1)] ∧ (-2 : Int).natAbs ≤ RcBlock.default.syncWin ∧ 1 ≤ RcBlock.default.maxErr ∧
    markOf RcBlock.default [(5, 1), (-2, 1), (2, 1)] = some (-2, 1) := by decide +kernel
/-- Fewer bit errors win over a nearer place. -/
theorem test_markOf : markOf RcBlock.default [(0, 2), (9, 1)] = some (9, 1) := by decide +kernel
theorem witness_codeword_arrival : (laneAt (laneIn fun x => { x with flight := [cw0] }) 3).flight = [cw0] ∧
    laneOn (laneIn fun x => { x with flight := [cw0] }) 3 = true ∧
    (held (laneAt (laneIn fun x => { x with flight := [cw0], search := .tracking }) 3)).length < 4 := by decide +kernel
/-- A READ on a transport in motion reading makes its lanes' codewords restore codewords, a VERIFY_SCAN scan codewords. -/
def readingLane : State := setLane (readerOn (withXp up (passedXp 0))) 3 { Lane.reset with active := true, search := .tracking }
theorem witness_restore_arrival : laneOn readingLane 3 = true ∧ readClass readingLane 0 = some .restore ∧
    (laneAt readingLane 3).search ≠ .acquisition := by decide +kernel
theorem test_restore_arrival : let t := after (exec (.codewordArrival 3 .restore [5, -5] [(40, 50)]) readingLane)
    (laneAt t 3).store.map (fun b => (b.cls, b.y, b.gaps)) = [(.restore, [5, -5], [(40, 50)])] ∧
    (laneAt (after (exec (.codewordArrival 3 .scan [] []) readingLane)) 3).store = [] := by decide +kernel
/-- A dropout zeroes its own LLRs and the 32 before it (R508). -/
theorem test_dropout_span : (List.range 60).filter (inGap [(40, 50)]) = (List.range 50).drop 8 := by decide +kernel
/-- Four held samples: the oldest is evicted (R519). -/
theorem test_eviction : let s := laneIn fun x => { x with search := .tracking, dropout := true, flight := [cw0], store :=
      [sample 0 .restore, sample 1 .restore, sample 2 .restore, sample 3 .restore] }
    (laneAt (after (exec (.codewordArrival 3 .verify [] []) { s with rc := { s.rc with ticket := 4 } })) 3).store.map (·.ticket) = [1, 2, 3, 4] := by
  decide +kernel
def waitingCw (l : List Sample) : State := laneIn fun x => { x with search := .tracking, store := l }
theorem witness_decoder_grant : 39 < 40 ∧ engRun (waitingCw [sample 0 .scan, sample 1 .verify]) 3 39 = true ∧
    Tbl.has (waitingCw [sample 0 .scan, sample 1 .verify]).rc.decs 39 = false ∧
    nextCodeword (waitingCw [sample 0 .scan, sample 1 .verify]) = some (3, sample 1 .verify) ∧
    nextCodeword (waitingCw [sample 0 .scan]) = some (3, sample 0 .scan) ∧
    (sample 0 .scan).iters < (poolLevel (waitingCw [])).total ∧ (poolLevel (waitingCw [])).total ≤ { sample 0 .scan with iters := 30 }.iters ∧
    (sample 0 .scan).passes < (poolLevel (waitingCw [])).passes ∧ nextCodeword up = none ∧
    nextCodeword (waitingCw [{ sample 0 .scan with iters := 30 }]) = some (3, { sample 0 .scan with iters := 30 }) := by decide +kernel
theorem test_decoder_grant : (after (exec (.decoderGrant 39) (waitingCw [sample 0 .scan, sample 1 .verify]))).rc.decs = [(39, 3, 1)] ∧
    (after (exec (.decoderGrant 40) (waitingCw [sample 0 .scan]))).rc.decs = [] := by decide +kernel
/-- Decoder 2 holds codeword 5 of lane 3 with a budget. -/
def decoding (c : CwClass) (lim passes iters : Nat) : State :=
  let s := waitingCw [{ sample 5 c with decoder := some 2, limit := lim, passes := passes, iters := iters }]
  { s with rc := { s.rc with decs := [(2, 3, 5)] } }
/-- A grant of one iteration uses it, whether it converges or not. -/
theorem ldpc_from_one (q : List Int × List (List Int)) : (ldpcFrom 1 q).2.1 = 1 := by
  rw [ldpcFrom]
  simp only
  split <;> simp [ldpcFrom]
theorem ldpc_one (llr : List Int) : (ldpcRun 1 llr).2.1 = 1 := by simp only [ldpcRun, ldpc_from_one]
theorem witness_decode_end : Tbl.get? (decoding .restore 1 0 0).rc.decs 2 = some (3, 5) ∧
    ((laneAt (decoding .restore 1 0 0) 3).store.find? fun b => b.ticket == 5) = some { sample 5 .restore with decoder := some 2, limit := 1 } ∧
    (1 : Nat) ≤ 1 ∧ ∀ llr, (ldpcRun 1 llr).2.1 = 1 := ⟨by decide +kernel, by decide +kernel, Nat.le_refl 1, ldpc_one⟩
/-- No convergence: another pass. The fourth pass ends the codeword, 30 iterations in all (Table 10-3). -/
theorem test_end_pass : let s := decoding .restore 10 0 0
    let a : Sample := { sample 5 .restore with decoder := some 2, limit := 10 }
    (laneAt (endPass s 3 a [3] [5] 10 false) 3).store.map (fun b => (b.passes, b.iters, b.prior, b.post)) = [(1, 10, [2], [5])] ∧
    (laneAt (endPass s 3 { a with passes := 3, iters := 15 } [3] [5] 10 false) 3).unconv = 1 ∧
    (laneAt (endPass s 3 { a with iters := 20 } [3] [5] 10 false) 3).store = [] := by decide +kernel
theorem witness_end_pass : (sample 5 .restore).evicted = false ∧ 0 + 1 < (poolLevel up).passes ∧ 0 + 10 < (poolLevel up).total ∧
    (poolLevel up).passes ≤ 3 + 1 ∧ (poolLevel up).total ≤ 20 + 10 := by decide +kernel
theorem witness_detect : (detect RcBlock.default 3 [] [] [(40, 50)]).length = 8832 ∧ ((40, 50) : Nat × Nat) ∈ [((40, 50) : Nat × Nat)] ∧ 40 ≤ 8 + 32 ∧ 8 < 50 :=
  ⟨by simp only [detect, List.length_map, List.length_range, cwBits], by decide, by decide, by decide⟩
/-- Verify causes in the order of Table 10-4. -/
theorem test_verify_cause : verifyCause (sample 0 .verify) true true = 0 ∧ verifyCause (sample 0 .verify) false true = 5 ∧
    verifyCause (sample 0 .verify) true false = 6 ∧ verifyCause { sample 0 .verify with missed := true, margin := true } false false = 1 := by
  decide +kernel
theorem witness_pool_evaluation : ∀ u ∈ [({ up with rc := { up.rc with busyNs := 8192000 } } : State)], u.rc.level = 0 ∧
    80 * (40 * 256000) ≤ u.rc.busyNs * 100 ∧ ¬ 92 * (40 * 256000) ≤ u.rc.busyNs * 100 := by decide +kernel
/-- Two entries of context 1 at the head of ring 5: a GENERATE_KEY, then a COMPRESS. -/
def heading (op : Nat) : State := { up with rings := { up.rings with tbl := Tbl.upd up.rings.tbl 5 fun r => { r with
    look := some ⟨ent op [(4, 2, 1)], 0, false⟩ } } }
theorem witness_service_tick : ∀ op ∈ [0x81, 0x84], ∃ p ∈ (heading op).rings.tbl, ∃ l, p.2.look = some l ∧ fieldOf l.entry 4 2 % 4096 = 1 ∧
    fieldOf l.entry 0 1 = op := by decide +kernel
/-- Example 10.1: U of 86.76 % enters level 1, 57.69 % holds it; below 50 % it ends after the dwell. -/
theorem test_pool_levels : nextLevel PoolBlock.default 0 1 8884224 = 1 ∧ nextLevel PoolBlock.default 1 100 5907456 = 1 ∧
    nextLevel PoolBlock.default 1 100 5119999 = 0 ∧ nextLevel PoolBlock.default 1 39 5119999 = 1 ∧
    nextLevel PoolBlock.default 0 1 9420800 = 2 ∧ nextLevel PoolBlock.default 0 1 8191999 = 0 := by decide +kernel
theorem witness_DecoderPriority : nextCodeword (waitingCw [sample 4 .restore, sample 5 .restore]) = some (3, sample 4 .restore) := by
  decide +kernel

/-! ### Servo and write inhibit -/

/-- Wrap 0 at 6 m/s: both bursts such that y is near y_ref, 8 ns off track (R556, R558). -/
def frame (d : Int) : ChanFrame := ⟨0, 0, d, 20000, 2000⟩
/-- Transport 0 at 6 m/s with both channels locked. -/
def locked (w : Inhibit) : Xport := { xp0 (some (session false)) with
  motion := .writing, target := 6000, velocity := 6000, wi := w,
  servo := [(0, { Servo.reset with locked := true, good := 8, lastTf := 20000 }), (1, { Servo.reset with locked := true, good := 8, lastTf := 20000 })] }
/-- No condition in force, WG_REQ set, the re-arm complete. -/
def writeOn : Inhibit := { Inhibit.reset with cond := 0, wgReq := true, armed := true }
def tracking (w : Inhibit) : State := withXp up (locked w)
theorem witness_servo_frame : xpOf (tracking writeOn) 0 = some (locked writeOn) ∧ pathLive (tracking writeOn) (locked writeOn) = true ∧
    publishedPes (measured (locked writeOn) (some (frame 9447)) none) (some (framePes false 0 (frame 9447))) none = some (-148) ∧
    publishedPes (measured (locked writeOn) (some (frame 9439)) (some (frame 9439))) (some (framePes false 0 (frame 9439))) (some 4) = some 3 := by
  decide +kernel
/-- 148 nm is above PES_LIMIT 140: the gate drops and WRITE_INHIBIT is raised; 3 nm is not. The WCLK tolerance is 250. -/
theorem test_servo_frame : (xpOf (after (exec (.servoFrame 0 (some (frame 9447)) none 0) (tracking writeOn))) 0).map
      (fun x => (x.wi.cond, wgHigh x.wi, x.wi.episodes)) = some (1, false, 1) ∧
    (xpOf (after (exec (.servoFrame 0 (some (frame 9439)) none 0) (tracking writeOn))) 0).map (fun x => (x.wi.cond, wgHigh x.wi)) = some (0, true) ∧
    (xpOf (after (exec (.servoFrame 0 (some (frame 9439)) none 251) (tracking writeOn))) 0).map (·.wi.cond) = some 8 := by decide +kernel
/-- y_ref of wrap 0 is -23.5 x 1.16 µm; velocity 120 µm / 20 µs. -/
theorem test_servo_numbers : yRef 0 = -27260 ∧ yRef 47 = 27260 ∧ frameVel (frame 0) = 6000 := by decide +kernel
/-- A word of value 1 with its CRC-8. -/
def word1 : List Nat := 2 :: (List.replicate 23 0 ++ [1] ++ [0, 0, 0] ++ [0, 0, 1, 1, 1, 0, 0, 0])
theorem witness_lpos_word : pathLive (tracking writeOn) (locked writeOn) = true ∧ lposValue word1 = some 1 ∧ lposValue [2] = none := by
  decide +kernel
/-- The check value of R561: CRC-8 of "123456789" is F4. -/
theorem test_crc8 : crc8Bits (([0x31, 0x32, 0x33, 0x34, 0x35, 0x36, 0x37, 0x38, 0x39].map fun b =>
    (List.range 8).map fun i => b / 2 ^ (7 - i) % 2).flatten) = 0xF4 := by decide +kernel
theorem test_lpos_word : (xpOf (after (exec (.lposWord 0 1 word1) (tracking writeOn))) 0).map (fun x => (servoOf x 1).lpos) = some 36 ∧
    (xpOf (after (exec (.lposWord 0 1 [2]) (tracking writeOn))) 0).map (fun x => ((servoOf x 1).lposFails, x.lposErrs)) = some (1, 1) := by
  decide +kernel
theorem witness_servo_lock_loss : (servoOf (locked writeOn) 1).locked = true := by decide +kernel
/-- One channel lost leaves SERVO_LOST clear. -/
theorem test_servo_lock_loss : (xpOf (after (exec (.servoLockLoss 0 1) (tracking writeOn))) 0).map (fun x => (x.wi.cond, (servoOf x 1).locked)) =
    some (0, false) := by decide +kernel
theorem witness_velocity_loop : pathLive (withXp up { locked writeOn with motion := .stopped }) { locked writeOn with motion := .stopped } = true ∧
    commanded { locked writeOn with motion := .stopped } < 500 := by decide +kernel
theorem test_loops : (xpOf (after (exec (.velocityLoopTick 0) (withXp up { locked writeOn with motion := .stopped }))) 0).map (·.wi.cond) = some 4 ∧
    (xpOf (after (exec (.tensionLoopTick 0 800) (tracking writeOn))) 0).map (·.tensionMn) = some 800 := by decide +kernel
/-- A telemetry read waits at the port: it goes before the frame of the loop (R588, R678). -/
def portBusy : State := { tracking writeOn with smp := { Smp.reset with pspQ := [(0, [.psp 0 5 [1, 2]])] } }
theorem witness_port : pspWaiting (tracking writeOn) 0 = [] ∧ pspWaiting portBusy 0 = [.psp 0 5 [1, 2]] ∧
    pathLive portBusy (locked writeOn) = true ∧ ({ locked writeOn with loopTick := 9 } : Xport).loopTick = 9 := by decide +kernel
theorem test_port_order : (after (exec (.servoFrame 0 (some (frame 9439)) none 0) portBusy)).out.head? = some (.psp 0 5 [1, 2]) ∧
    pspWaiting (after (exec (.servoFrame 0 (some (frame 9439)) none 0) portBusy)) 0 = [] := by decide +kernel
/-- At 6 m/s a wrap of 19,400 bits per mm and lane writes at 116.4 Mbit/s; the detectors sample at twice that (R577). -/
theorem test_write_clock : (xpOf (after (exec (.servoFrame 0 (some (frame 9439)) none 0) (tracking writeOn))) 0).map
    (fun x => (x.velocity, x.wclk == x.velocity * densityOf x x.wrap / 1000, x.rclk == 2 * x.wclk)) = some (6000, true, true) := by decide +kernel
/-- The eighth bad word in a row takes the channel's lock (R562). -/
theorem test_lpos_fails : let c : Servo := { Servo.reset with locked := true, lposOk := true, lposFails := 7 }
    (channelWord false c none).locked = false ∧ (channelWord false c (some 4)).lposFails = 0 ∧ (channelWord true c (some 4)).lpos = 4 ∧
    (channelWord false { c with lposFails := 6 } none).locked = true := by decide +kernel
def losing : State := withXp up { locked writeOn with lossAt := some 0, reacqRun := 2 }
theorem witness_servo_loss_timeout : (xpOf losing 0).bind (·.lossAt) = some 0 ∧ (xpOf losing 0).map (·.motion) = some .writing ∧
    0 + 12500000 ≤ now (advance losing 12500000) ∧ (∀ m, (locked writeOn).mount = some m → m.cur = none) := by
  refine ⟨by decide +kernel, by decide +kernel, by decide +kernel, fun m h => ?_⟩
  cases (Option.some.inj h); decide +kernel
theorem test_servo_loss_timeout : (xpOf (after (exec (.servoLossTimeout 12500000 0) losing)) 0).map (fun x => (x.reacqRun, x.faulted)) = some (3, false) ∧
    (xpOf (after (exec (.servoLossTimeout 12500000 0) (withXp up { locked writeOn with lossAt := some 0, reacqRun := 3 }))) 0).map (·.faulted) = some true := by
  decide +kernel
theorem witness_RearmTakes64Frames : let w : Inhibit := { Inhibit.reset with cond := 0 }
    w.armed = false ∧ w.good = 0 ∧ inhibited w = false ∧ (∀ p ∈ List.replicate 64 (105 : Int), 4 * |p| ≤ 3 * (w.pesLimit : Int)) ∧
    3 * (w.pesLimit : Int) < 4 * |(106 : Int)| ∧ inhibited Inhibit.reset = true := by decide +kernel
theorem test_write_gate : wgHigh writeOn = true ∧ wgHigh { writeOn with cond := 8 } = false ∧ wgHigh { writeOn with armed := false } = false ∧
    wgHigh { writeOn with wgReq := false } = false := by decide +kernel
theorem witness_InhibitDropsTheGate : xpOf (tracking writeOn) 0 = some (locked writeOn) ∧ (2#6).getLsbD 1 && !(writeOn.cond.getLsbD 1) = true := by
  decide +kernel
theorem witness_inhibit_pins : (tracking writeOn).host.sysRst = true ∧ wfltHigh (tracking writeOn) (locked writeOn) = true ∧
    wfltHigh (tracking writeOn) { locked writeOn with wfltHighAt := 1 } = false ∧ hostReach (tracking writeOn) 0 = true ∧
    barOff { tracking writeOn with host := { up.host with memEn := false } } 0 = true ∧ (0x10#32).getLsbD 4 = true := by decide +kernel
def wflt (n till : Nat) : State := withXp up { locked { writeOn with cond := 16, wfltLatch := true, cause := 16 } with
  wfltTry := some (n, 2500000), wfltHighAt := till }
theorem witness_wflt_retry : (xpOf (wflt 0 5) 0).bind (·.wfltTry) = some (0, 2500000) ∧ 2500000 ≤ now (advance (wflt 0 5) 2500000) ∧
    wfltHigh (advance (wflt 0 5) 2500000) { locked writeOn with wfltHighAt := 5 } = true ∧
    wfltHigh (advance (wflt 0 5000000) 2500000) { locked writeOn with wfltHighAt := 5000000 } = false ∧
    now (advance (wflt 0 5) 2499999) < 2500000 := by decide +kernel
/-- 40 ns of shock drop the gate; 19 ns are never recognised. A latched write fault clears only while the pin is high. -/
theorem test_inhibit_pins : (xpOf (after (exec (.shockInput 0 40) (tracking writeOn))) 0).map (·.wi.cond) = some 2 ∧
    (xpOf (after (exec (.shockInput 0 19) (tracking writeOn))) 0).map (·.wi.cond) = some 0 ∧
    (xpOf (after (exec (.wiCauseWrite 0 16) (wflt 0 0))) 0).map (·.wi.cond) = some 0 ∧
    (xpOf (after (exec (.wiCauseWrite 0 16) (wflt 0 5))) 0).map (·.wi.cond) = some 16 := by decide +kernel
/-- The third failed clear faults the transport (R573). -/
theorem test_wflt_retry : (xpOf (after (exec (.wfltClearRetry 2500000 0) (wflt 0 5))) 0).map (·.wi.wfltLatch) = some false ∧
    (xpOf (after (exec (.wfltClearRetry 2500000 0) (wflt 1 5000000))) 0).map (·.wfltTry) = some (some (2, 5000000)) ∧
    (xpOf (after (exec (.wfltClearRetry 2500000 0) (wflt 2 5000000))) 0).map (·.faulted) = some true := by decide +kernel

/-! ### Copy engine (Example 12.1) -/

/-- CFG of channel 5: TRIGGERED, BUFFER to HOST, ADVANCE on both sides, ring code 12, RETRY 3, KICK_EN as given. -/
def cfg (src dst kick : Nat) : Word := BitVec.ofNat 32 (1 + 4 * src + 16 * dst + 2 ^ 8 + 2 ^ 10 + 12 * 2 ^ 12 + 3 * 2 ^ 17 + kick * 2 ^ 21)
/-- A channel of four iterations of 65,536 bytes that selects `sel`. -/
def chan (src dst kick sel : Nat) (st : AceSt) : Ace :=
  { Ace.reset with st := st, cfg := cfg src dst kick, trig := BitVec.ofNat 32 sel, iter := 4, len := 65536 }
def withAce (l : Tbl Ace) : State := { up with ace := { up.ace with ch := l } }
/-- Channels 5 and 6 feed each other. -/
def eddy (kick : Nat) (a b : AceSt) : State := withAce [(5, chan 1 0 kick 0x46 a), (6, chan 0 0 0 0x45 b)]
theorem witness_ace_control : 5 < 32 ∧ (eddy 1 .idle .idle).host.sysRst = true ∧ (gateOf (eddy 1 .idle .idle) 13).st = 0 ∧
    aceHeld (eddy 1 .idle .idle) 5 = false ∧ eddyOk (eddy 1 .armed .idle) 6 = true ∧ eddyOk (eddy 0 .armed .idle) 6 = false ∧
    aceConfigOk (eddy 1 .armed .idle) 6 (aceOf (eddy 1 .armed .idle) 6) = true ∧ aceHeld streaming 24 = true ∧
    aceConfigOk up 5 { Ace.reset with iter := 0 } = false ∧ usesHost (aceOf (eddy 1 .armed .idle) 6) = true ∧
    hostDown (eddy 1 .armed .idle) = false ∧ (aceOf (eddy 1 .running .armed) 5).parked = false ∧
    (aceOf (eddy 1 .running .armed) 6).st ≠ .running := by decide +kernel
/-- A gate 13 that closes takes no control write. -/
theorem witness_ace_gate : (gateOf (entering (entry41 2 1 0) (gatesWith 0 13 1)) 13).st ≠ 0 := by decide +kernel
/-- With KICK_EN the cycle 5, 6, 5 is accepted; without it channel 6 gets ACE_ERR_CYCLE and event 1382. -/
theorem test_ace_arm : (aceOf (after (exec (.aceArm 6) (eddy 1 .armed .idle))) 6).st = .armed ∧
    (aceOf (after (exec (.aceArm 6) (eddy 0 .armed .idle))) 6).err = 1 ∧
    (after (exec (.aceArm 6) (eddy 0 .armed .idle))).evr.raised = [1382] := by decide +kernel
theorem test_ace_go : (aceOf (after (exec (.aceGo 5) (eddy 1 .armed .armed))) 5).st = .running ∧
    (aceOf (after (exec (.aceGo 6) (eddy 1 .armed .armed))) 6).st = .armed := by decide +kernel
theorem witness_ace_go : (aceOf (eddy 1 .armed .armed) 5).mode ≠ 0 ∧ (aceOf (eddy 1 .armed .armed) 5).kickEn = true ∧
    (aceOf (eddy 1 .armed .armed) 6).kickEn = false ∧ (aceOf (withAce [(5, { chan 1 1 0 0 .armed with cfg := 0x14 })]) 5).mode = 0 ∧
    aceStopped up = false ∧ barOff memOff 0 = true := by decide +kernel
theorem test_ace_disarm : (aceOf (after (exec (.aceDisarm 5) (eddy 1 .running .armed))) 5).disarm = true ∧
    (aceOf (after (exec (.aceDisarm 6) (eddy 1 .running .armed))) 6).st = .idle := by decide +kernel
theorem witness_ace_trigger : (aceOf (eddy 1 .running .armed) 5).pending = false ∧ (eddy 1 .running .armed).ace.stopped = false ∧
    ({ eddy 1 .running .armed with ace := { (eddy 1 .running .armed).ace with stopped := true } } : State).ace.stopped = true := by
  decide +kernel
/-- One trigger is held, the next counts in TRIG_OVERRUN (R612). -/
theorem test_ace_trigger : let s := trigger (eddy 1 .running .armed) 5
    (aceOf s 5).pending = true ∧ (aceOf s 5).overrun = 0 ∧ (aceOf (trigger s 5) 5).overrun = 1 := by decide +kernel
/-- Eight bytes from buffer address 16 to 4096, unlimited retries aside. -/
def copy (it : Nat) : Ace := { chan 1 1 1 0 .running with len := 8, src := 16, dst := 4096, iter := 2, iterDone := it }
def copying (it : Nat) : State := { withAce [(5, copy it)] with ace := { (withAce [(5, copy it)]).ace with buf := Memory.writeAll [] 16 [1, 2, 3] } }
theorem witness_ace_iteration : (aceOf (copying 1) 5).st = .running ∧ (copy 1).parked = false ∧ (copy 1).retryAt = none ∧ (copy 1).srcSpace = 1 ∧ (copy 1).dstSpace = 1 ∧
    (copy 1).disarm = false ∧ (copy 1).iter ≠ 0 ∧ (copy 1).iter ≤ (copy 1).iterDone + 1 ∧ deepLull (copying 1) = false ∧
    usesHost (chan 1 0 1 0 .running) = true ∧ mayIssue perstLow 0 = false := by decide +kernel
/-- Channel 5 from the host with bytes that have come, and a stream's channel 24 with a captured window. -/
def hostSide : State := withAce [(5, { chan 0 1 1 0 .running with len := 3, dst := 64 })]
def capturing : State := { setAce streaming 24 { aceOf streaming 24 with st := .running } with
  ace.tele := Tbl.upd (setAce streaming 24 { aceOf streaming 24 with st := .running }).ace.tele 0 fun x => { x with window := some [1, 2, 3, 4] } }
theorem witness_ace_bursts : burstsGo (copying 0) (aceOf (copying 0) 5) = true ∧ (aceOf (copying 0) 5).srcSpace = 1 ∧
    burstsGo hostSide (aceOf hostSide 5) = true ∧ (aceOf hostSide 5).srcSpace = 0 ∧ (aceOf hostSide 5).len = 3 ∧
    burstsGo capturing (aceOf capturing 24) = true ∧ (aceOf capturing 24).srcSpace = 2 ∧ windowOf capturing 24 = some [1, 2, 3, 4] := by decide +kernel
theorem test_ace_host_source : Memory.readAll (after (exec (.aceIterationComplete 5 [7, 8, 9]) hostSide)).ace.buf 63 5 = [0, 7, 8, 9, 0] := by
  decide +kernel
/-- Two running channels take turns, and one of PRIO 1 goes first (R607). -/
def twoCopies (p : Nat) : State := withAce [(5, { copy 0 with len := 2048 }), (6, { copy 0 with len := 2048, cfg := (copy 0).cfg ||| BitVec.ofNat 32 (p * 2 ^ 24) })]
theorem test_ace_turns : nextBurst (serveBurst (twoCopies 0) 5) = some 6 ∧ nextBurst (serveBurst (serveBurst (twoCopies 0) 5) 6) = some 5 ∧
    nextBurst (serveBurst (twoCopies 1) 6) = some 6 := by decide +kernel
theorem witness_AceCopyFrame : (copy 0).served = 0 ∧ (copy 0).parked = false ∧ (copy 0).srcFixed = false ∧ (copy 0).dstFixed = false ∧ Memory.wf (copying 0).ace.buf = true ∧
    Memory.readAll (after (exec (.aceIterationComplete 5 []) (copying 0))).ace.buf 4096 4 = [1, 2, 3, 0] := by decide +kernel
/-- The second of two iterations ends the run; DST_POS has advanced by 16. -/
theorem test_ace_iteration : (aceOf (after (exec (.aceIterationComplete 5 []) (copying 1))) 5).st = .done ∧
    (aceOf (after (exec (.aceIterationComplete 5 []) (copying 1))) 5).dstPos = 16 ∧
    (aceOf (after (exec (.aceIterationComplete 5 []) (copying 0))) 5).st = .armed := by decide +kernel
/-- Channel 6 in its third iteration with some retries made. -/
def failing (n : Nat) : State := withAce [(6, { chan 0 0 0 0x45 .running with iterDone := 2, retryNo := n, retries := n })]
theorem witness_ace_burst_fail : (aceOf (failing 2) 6).st = .running ∧ (aceOf (failing 2) 6).parked = false ∧ (aceOf (failing 2) 6).retryNo < (aceOf (failing 2) 6).retryMax ∧
    (aceOf (failing 3) 6).retryMax ≤ (aceOf (failing 3) 6).retryNo ∧ 512 ≤ (aceOf (failing 2) 6).len := by decide +kernel
/-- The third retry starts 4 µs after its predecessor's failure; its own failure halts the channel with ITER_DONE 2, RETRIES 3. -/
theorem test_ace_burst_fail : (aceOf (after (exec (.aceBurstFail 6 512 false (some .timeout) (List.replicate 512 0)) (failing 2))) 6).retryAt = some 1000 ∧
    (let a := aceOf (after (exec (.aceBurstFail 6 512 false (some .timeout) (List.replicate 512 0)) (failing 3))) 6
     a.st = .halted ∧ a.err = 2 ∧ a.iterDone = 2 ∧ a.retries = 3) := by decide +kernel
def backingOff : State := withAce [(6, { chan 0 0 0 0x45 .running with retryAt := some 1000 })]
theorem witness_ace_retry_wait : now (advance backingOff 999) < 1000 ∧ (aceOf (advance backingOff 1000) 6).retryAt = some 1000 ∧ 1000 ≤ now (advance backingOff 1000) ∧
    (aceOf (after (exec (.aceRetryWaitEnd 1000 6) backingOff)) 6).retryAt = none := by decide +kernel
theorem witness_AceConfigHeldWhileLive : aceLive (aceOf (eddy 1 .armed .armed) 5) = true ∧ 0x20 % 4 = 0 ∧
    ({ eddy 1 .armed .armed with smp := { Smp.reset with indOp := some (true, false), indAddr := BitVec.ofNat 32 (0x111000 + 0x40 * 5 + 0x20) } } :
      State).smp.indAddr.toNat = 0x111000 + 0x40 * 5 + 0x20 := by decide +kernel
/-- XFR_LEN of an IDLE channel takes the write. -/
theorem test_ace_config : (aceOf (after (exec (.registerWrite 0 (.bar0 (0x111000 + 0x40 * 5 + 0x20) 4 64 false false)) up)) 5).len = 64 ∧
    (aceOf (after (exec (.registerWrite 0 (.bar0 (0x111000 + 0x40 * 5 + 0x20) 4 64 false false)) (eddy 1 .armed .armed))) 5).len = 65536 := by
  decide +kernel

/-! ### SMP, mailbox, peripherals (Example 13.1) -/

def withSmp (s : State) (m : Smp) : State := { s with smp := m }
/-- A transaction in state `st` at an address of page `p`. -/
def smpIn (st : SmpSt) (p a : Nat) : Smp := { Smp.reset with st := st, page := p, addr := a }
theorem witness_smp : smpLive (withSmp up (smpIn .wdata 0 0x14)) = true ∧ up.pmu.lull = none ∧
    smpLive { up with smp := { Smp.reset with deaf := true } } = false ∧ smpLive State.reset = false ∧
    smpReady (withSmp up { smpIn .rwait 0 0x14 with indBusy := true }) 0 0x14 = false ∧
    smpReady (withSmp up (smpIn .rwait 0 0x14)) 0 0x14 = true ∧ pageKnown 0x3F = false := by decide +kernel
theorem witness_smp_states : ∀ t ∈ [SmpSt.cmd, .wdata, .rwait, .rdata, .rabort], smpLive (withSmp up (smpIn t 0 0)) = true ∧
    (smpIn t 0 0).st ≠ .idle ∧ (smpIn t 0 0).waits < 256 ∧ ({ smpIn t 0 0 with waits := 256 } : Smp).waits = 256 := by decide +kernel
/-- SMP_CS_N falls: 0xB1 goes out; 0x94 reads from 0x14. -/
theorem test_smp_command : (after (exec (.smpCsFall false) up)).smp.sdo = some 0xB1 ∧
    ((after (exec (.smpCommandByte 0x94) (withSmp up (smpIn .cmd 0 0)))).smp.st, (after (exec (.smpCommandByte 0x94) (withSmp up (smpIn .cmd 0 0)))).smp.addr) =
      (.rwait, 0x14) := by decide +kernel
/-- The write of 0x01 to SMP_IND_CTRL starts the read of the example and SMP_RB falls. -/
theorem test_smp_write_byte : let t := after (exec (.smpWriteByte 1) (withSmp up { smpIn .wdata 0 0x18 with indAddr := 4 }))
    t.smp.indBusy = true ∧ smpRb t = false ∧ t.smp.sdo = some 0x4E ∧
    (after (exec (.smpWriteByte 1) (withSmp up { smpIn .wdata 0 0x18 with wb := 64 }))).smp.err = 2 := by decide +kernel
/-- While BUSY is 1 the read of IND_DATA waits; after 256 wait bytes it is aborted with 0xE7. -/
theorem test_smp_read_byte : let s (n : Nat) := withSmp up { smpIn .rwait 0 0x14 with indBusy := true, waits := n }
    (after (exec .smpReadByte (s 255))).smp.sdo = some 0xB1 ∧ (after (exec .smpReadByte (s 256))).smp.sdo = some 0xE7 ∧
    (after (exec .smpReadByte (s 256))).smp.err = 4 ∧ (after (exec .smpReadByte (withSmp up (smpIn .rdata 0 0)))).smp.sdo = some 0x96 := by
  decide +kernel
/-- A partial byte sets PARTIAL_BYTE; a read SMP_ERR_COUNT clears once it is out. -/
theorem test_smp_cs_rise : (after (exec (.smpCsRise 3) (withSmp up (smpIn .wdata 0 0)))).smp.err = 1 ∧
    (after (exec (.smpCsRise 0) (withSmp up { smpIn .rdata 0 7 with errCount := 5, rcOut := true }))).smp.errCount = 0 := by decide +kernel
theorem witness_smp_ind : smpLive up = true ∧ indReach false 4 = true ∧ indReach true 4 = false ∧ indReach true 0x120010 = true ∧
    indReach false 0x141000 = false ∧ up.smp.indBusy = false := by decide +kernel
theorem test_smp_ind_start : (after (exec (.smpIndRead false) up)).smp.indBusy = true ∧ (after (exec (.smpIndWrite false) up)).smp.indErr = 2 ∧
    (after (exec (.smpPageWrite 0x41) up)).smp.page = 0x41 := by decide +kernel
/-- An indirect read of HIU_DEV_STATUS in progress. -/
def reading4 (addr : Word) : State := withSmp { up with host := { up.host with admin := AdminRegs.reset } }
  { Smp.reset with indBusy := true, indOp := some (false, true), indAddr := addr }
theorem witness_smp_ind_done : (reading4 4).smp.indOp = some (false, true) ∧ (reading4 4).pmu.ps = .run ∧ (reading4 4).clk.frozen = false ∧
    inAce (reading4 4).smp.indAddr.toNat = false := by decide +kernel
/-- IND_DATA 0x0000_0001, ERR 0, BUSY clear, IND_DONE set, the address moved on by INC. -/
theorem test_smp_ind_done : let t := after (exec .smpIndDone (reading4 4))
    t.smp.indData = 1 ∧ t.smp.indErr = 0 ∧ t.smp.indBusy = false ∧ t.smp.attn = 4 ∧ t.smp.indAddr = 8 := by decide +kernel
/-- An access of the copy engine's registers while its gate is not open, and one lost to a reset (R662, R663). -/
def reading5 (w : Bool) (g : Nat) (lost : Bool) : State := { withSmp up { Smp.reset with indBusy := true, indOp := some (w, false), indAddr := 0x111000, indLost := lost } with
  pmu := { up.pmu with gates := gatesWith 0 13 g } }
theorem witness_smp_ind_gate : inAce (reading5 true 1 false).smp.indAddr.toNat = true ∧ (gateOf (reading5 true 1 false) 13).st ≠ 0 ∧
    (gateOf (reading5 false 0 false) 13).st = 0 ∧ (reading5 true 1 true).smp.indLost = true := by decide +kernel
theorem test_smp_ind_gate : (after (exec .smpIndDone (reading5 true 1 false))).smp.indErr = 1 ∧
    (after (exec .smpIndDone (reading5 false 0 true))).smp.indErr = 3 ∧ (after (exec .smpIndDone (reading5 false 0 false))).smp.indErr = 0 := by
  decide +kernel
theorem witness_SmpWriteEffect : Memory.wf (withSmp up (smpIn .wdata 0x41 5)).smp.mbxData = true ∧ (smpIn .wdata 0x41 5).wb < 64 := by decide +kernel
theorem test_smp_write_effect : Memory.read (after (exec (.smpWriteByte 7) (withSmp up (smpIn .wdata 0x41 5)))).smp.mbxData 69 = 7 ∧
    fieldOf (after (exec (.smpWriteByte 7) (withSmp up (smpIn .wdata 1 5)))).smp.sqe 5 1 = 7 ∧
    (after (exec (.smpWriteByte 7) (withSmp up (smpIn .wdata 9 5)))).smp.err = 8 := by decide +kernel
/-- IDENTIFY of CID 9 in the mailbox. -/
def mbx : Smp := { Smp.reset with sqe := ent 0x01 [(2, 2, 9)] }
theorem witness_mailbox_go : smpLive (withSmp up mbx) = true ∧ mbx.mbxBusy = false ∧ (withSmp up mbx).host.fwReady = true ∧
    cmdOf (withSmp up mbx) 32768 = none ∧ ({ withSmp up mbx with host := { up.host with fwReady := false } } : State).host.fwReady = false := by
  decide +kernel
/-- Before FW_READY the SMP itself answers NOT_READY with PHASE 1 (R667). -/
theorem test_mailbox_go : let t := after (exec .mailboxGo { withSmp up mbx with host := { up.host with fwReady := false } })
    t.smp.cqe = BitVec.ofNat 128 (leNat [9, 0, 0x67, 1]) ∧ t.smp.mbxDone = true ∧ t.smp.attn = 2 ∧
    (after (exec .mailboxGo (withSmp up mbx))).smp.mbxBusy = true := by decide +kernel
def mbxDone : State := { withSmp up { mbx with mbxBusy := true } with rings := { up.rings with
  cmds := [{ cmdOn 0 0x01 [] .fresh with id := 32768, mailbox := true, done := some (Compl.ok 3 4) }] } }
theorem witness_mailbox_complete : ((cmdOf mbxDone 32768).bind (·.done)) = some (Compl.ok 3 4) := by decide +kernel
theorem test_mailbox_complete : let t := after (exec .mailboxComplete mbxDone)
    t.smp.cqe = BitVec.ofNat 128 (leNat [9, 0, 0, 1, 3, 0, 0, 0, 4]) ∧ t.smp.mbxBusy = false ∧ t.rings.cmds.length = 0 := by decide +kernel
theorem witness_notch : (withSmp up { Smp.reset with notch := true, notchWait := true, indBusy := true }).smp.notch = true ∧
    rbHeld (withSmp up { Smp.reset with notch := true, notchWait := true, indBusy := true }) = true ∧
    rbHeld (withSmp up { Smp.reset with notch := true, notchWait := true }) = false := by decide +kernel
/-- An attention bit that is enabled pulls SMP_RB low, which the end of the notch lifts. -/
theorem test_notch : let t := raiseAttn (withSmp up { Smp.reset with attnEn := 8 }) 8
    smpRb t = false ∧ smpRb (after (exec .attentionNotchEnd t)) = true := by decide +kernel
theorem witness_SmpReadyLevel : smpRb up = true ∧ smpRb State.reset = false := by decide +kernel
theorem witness_psp_irq : up.host.sysRst = true ∧ up.pmu.lull = none ∧ (xpOf up 1).map (·.cart) = some none ∧
    (xpOf loaded 0).map (fun x => (x.cart.isSome, x.mount.isNone)) = some (true, true) := by decide +kernel
theorem test_psp_irq : ((xpOf (after (exec (.pspIrq 0 [(1, .inserted (cart false false))]) up)) 1).bind (·.cart)).isSome = true ∧
    ((xpOf (after (exec (.pspIrq 0 [(0, .removed)]) loaded)) 0).bind (·.cart)).isNone = true ∧
    ((xpOf (after (exec (.pspIrq 0 [(0, .removed)]) mounted)) 0).bind (·.cart)).isSome = true := by decide +kernel
/-- A peer formatter at PSP1 select 12. -/
def peer : Periph := { Periph.std 0 0 with typ := 7 }
def withPeer (l : Tbl (Nat × Nat)) : State := withSmp up { Smp.reset with periph := [(28, peer)], pspTry := l }
theorem witness_peer_poll : (withPeer []).smp.periph.filter (fun p => p.2.typ == 7) = [(28, peer)] ∧ Tbl.has (withPeer []).smp.pspTry 28 = false ∧
    (withPeer []).pmu.booted = true ∧ (withPeer []).pmu.ps = .run := by decide +kernel
theorem witness_peripheral_retry : Tbl.wf (withPeer [(28, 2, 7)]).smp.pspTry = true ∧
    Tbl.get? (withPeer [(28, 2, 7)]).smp.pspTry (16 * 1 + 12) = some (2, 7) ∧ 7 ≤ now (advance (withPeer [(28, 2, 7)]) 7) := by decide +kernel
/-- A read of the interrupt status of the peripherals goes out at each PSP0_IRQ_N (R678). -/
theorem test_psp_irq_reads : ((after (exec (.pspIrq 0 []) up)).out.filter fun o => match o with
    | .psp _ _ _ => true
    | _ => false).length = ((irqReads up 0).out.filter fun o => match o with
    | .psp _ _ _ => true
    | _ => false).length := by decide +kernel
theorem witness_peers : Tbl.get? (withPeer [(28, 1, 7)]).smp.pspTry 28 = some (1, 7) ∧ pspWaiting (withPeer []) 1 = [] ∧
    (withPeer []).host.sysRst = true ∧ (withPeer []).clk.frozen = false := by decide +kernel
/-- Retries 10, 20 and 40 µs after each failure; when they are spent PERIPHERAL is raised, with FAULT_LOG. -/
theorem test_peers : (after (exec (.peerPoll [(28, none)]) (withPeer []))).smp.pspTry = [(28, 0, 2500)] ∧
    (after (exec (.peripheralRetry 7 1 12 none) (withPeer [(28, 1, 7)]))).smp.pspTry = [(28, 2, 10007)] ∧
    (after (exec (.peripheralRetry 7 1 12 none) (withPeer [(28, 2, 7)]))).evr.raised = [1511, 1516] ∧
    (after (exec (.peerPoll [(28, some 1)]) (withPeer []))).smp.peers = [(28, some 1)] := by decide +kernel

/-! ### What goes to tape and what comes back (chapters 9 and 10) -/

/-- The CRC of the ASCII string "123456789" is 0x29B1 (R454). -/
theorem test_crc16 : crc16 [0x31, 0x32, 0x33, 0x34, 0x35, 0x36, 0x37, 0x38, 0x39] = 0x29B1 := by decide +kernel
/-- Example 9.1: dataset 5,002, subset 7, row 16. -/
theorem test_scrambler_seed : scramSeed 5002 7 16 = 0x47FF := by decide +kernel
/-- Example 9.1: the codeword header's fields, wrap 21. -/
theorem test_codeword_header : (cwHeader 5002 7 16 21 4 0 0 10).take 14 =
    [0x8A, 0x13, 0, 0, 0, 0, 7, 16, 21, 4, 0, 0, 10, 0] := by decide +kernel
/-- A segment has 8,944 bits: the preamble of 64, the 32-bit sync mark, the codeword of 8,832 and the pad of 16 (R445). -/
theorem test_segment_length : (segment (codeword (List.replicate 1024 0))).length = 1118 := by decide +kernel
/-- Information bit 0 set: the decoder's checks, two of each layer, agree with the parity blocks that the encoder computes (R452). -/
theorem test_parity_checks : let u := (1#128 <<< 127) :: List.replicate 63 0
    ∀ c ∈ [0, 105, 128, 230, 256, 350, 384, 500, 512, 639],
      ((c1Cols c).filter fun i => ((u ++ c1Parity u).getD (i / 128) 0).getLsbD (127 - i % 128)).length % 2 = 0 := by decide +kernel

end Sys2Proof.Tests
end

section
/-! The state after SYS_RST_N, and the host's reads and writes of BAR0 and of configuration space (O3, O42). -/

namespace Sys2Proof.Machine

/-! ### The state after SYS_RST_N -/

/-- An entry that a table gives is one of its pairs. -/
theorem Tbl.mem_of_get? {α : Type} {t : Tbl α} {k : Nat} {v : α} (h : Tbl.get? t k = some v) : (k, v) ∈ t := by
  induction t with
  | nil => simp [Tbl.get?] at h
  | cons p r ih =>
    obtain ⟨j, w⟩ := p
    by_cases e : j = k
    · simp_all [Tbl.get?]
    · exact List.mem_cons_of_mem _ (ih (by simpa [Tbl.get?, e] using h))

@[simp] theorem aceOf_reset (c : Nat) : aceOf State.reset c = Ace.reset := rfl
@[simp] theorem timerOf_reset (k : Nat) : timerOf State.reset k = PTimer.reset := rfl

/-- SERVO_LOST alone inhibits a transport after reset (Table 11-7). -/
theorem wiStatus_reset : wiStatus Inhibit.reset = 0x9 := by decide

/-- Every transport is at its reset values, without a cartridge (log entry 7). -/
theorem xpOf_reset {t : Nat} {x : Xport} (h : xpOf State.reset t = some x) : x = Xport.reset none := by
  have hx : (t, x) ∈ State.reset.xp := Tbl.mem_of_get? h
  simp only [State.reset, State.afterReset, List.mem_cons, Prod.mk.injEq, List.not_mem_nil, or_false] at hx
  obtain ⟨-, rfl⟩ | ⟨-, rfl⟩ | ⟨-, rfl⟩ | ⟨-, rfl⟩ := hx <;> rfl

/-- Settles O3: the fields are read off `State.reset`; channels and timers that were never touched, and the four transports, are at the
reset values of their own. -/
theorem resetState : Obligations.ResetState := by
  unfold Obligations.ResetState
  refine ⟨rfl, rfl, rfl, rfl, rfl, rfl, fun c => ?ace, rfl, rfl, rfl, rfl, rfl, rfl, rfl, rfl, rfl, rfl, fun k => ?timer,
    fun t x hx => ?xport⟩
  case ace => simp [Ace.reset]
  case timer => simp [PTimer.reset]
  case xport => rw [xpOf_reset hx]; exact wiStatus_reset

/-! ### The arms of REGISTER_WRITE and RC_REGISTER_READ -/

theorem exec_registerWrite_bar0 (s : State) (fn off size : Nat) (v : BitVec 64) (p e : Bool) :
    exec (.registerWrite fn (.bar0 off size v p e)) s = .next (barWrite s fn off size v p e) := rfl
theorem exec_registerWrite_cfg (s : State) (fn : Nat) (f : CfgField) (w : Nat) :
    exec (.registerWrite fn (.cfg f w)) s = .next (cfgDo s fn (writeCfg s fn f w)) := rfl
theorem exec_registerWrite_aer (s : State) (fn : Nat) (r : AerReg) (w : Word) :
    exec (.registerWrite fn (.aer r w)) s = .next (cfgDo s fn (writeAer s fn r w)) := rfl
theorem exec_registerWrite_bus (s : State) (fn : Nat) (e : BusErr) :
    exec (.registerWrite fn (.bus e)) s = .next (if linkOn s && fnEnabled s fn then busError s fn e else s) := rfl
theorem exec_rcRegisterRead_bar0 (s : State) (fn off size : Nat) :
    exec (.rcRegisterRead fn (.bar0 off size)) s = .next (barRead s fn off size) := rfl
theorem exec_rcRegisterRead_cfg (s : State) (fn : Nat) (i : CfgItem) :
    exec (.rcRegisterRead fn (.cfg i)) s = .next (cfgDo s fn (cfgRead s fn i)) := rfl

/-! ### What becomes of a request -/

section reach
variable {s : State} {fn : Nat}

/-- A function that is reached is not in its FLR (Table 3-9). -/
theorem inFlr_of_hostReach (h : hostReach s fn = true) : inFlr s fn = false := by
  simp only [hostReach, Bool.and_eq_true, Bool.not_eq_true'] at h
  tauto

/-- A function that is reached has its BAR0 mapped in. -/
theorem barOff_of_hostReach (h : hostReach s fn = true) : barOff s fn = false := by
  simp only [hostReach, Bool.and_eq_true] at h
  simp [barOff, h.2]

/-- In its FLR a function's BAR0 counts as mapped in. -/
theorem barOff_of_inFlr (h : inFlr s fn = true) : barOff s fn = false := by simp [barOff, h]

theorem cfgDo_of_cfgReach (t : State) (h : cfgReach s fn = true) : cfgDo s fn t = t := by simp [cfgDo, h]

/-- What is not answered normally, but with retry status, has no effect (R118). -/
theorem cfgDo_of_cfgRetry (t : State) (h : cfgReach s fn = false) (hr : cfgRetry s fn = true) :
    cfgDo s fn t = { s with out := .crs fn :: s.out } := by simp [cfgDo, h, hr]

end reach

/-! ### Sizes and alignments (R124) -/

theorem accessOk_four {off : Nat} (h : off % 4 = 0) : accessOk off 4 = true := by simp [accessOk, h]
theorem accessOk_eight {off : Nat} (h : off % 8 = 0) : accessOk off 8 = true := by simp [accessOk, h]

/-! ### Reads of BAR0 -/

section reads
variable {s : State} {fn off : Nat} (hoff : off < barSize fn)
include hoff

theorem barRead_of_hostReach (size : Nat) (h : hostReach s fn = true) : barRead s fn off size =
    if accessOk off size then hostRead s fn off size else { s with out := .ca fn :: s.out } := by
  simp only [barRead, Nat.not_le.2 hoff, barOff_of_hostReach h, inFlr_of_hostReach h, h]
  cases accessOk off size <;> rfl

theorem barRead_of_barOff (size : Nat) (h : barOff s fn = true) : barRead s fn off size = refuseRead s fn := by
  simp [barRead, Nat.not_le.2 hoff, h]

theorem barRead_of_inFlr (size : Nat) (h : inFlr s fn = true) (hl : linkOn s = true) :
    barRead s fn off size = reply s fn 0 := by
  simp [barRead, Nat.not_le.2 hoff, barOff_of_inFlr h, h, hl]

end reads

theorem hostRead_four (s : State) (fn off : Nat) :
    hostRead s fn off 4 = reply (readBar0 s fn off).2 fn (readBar0 s fn off).1 := rfl

/-- Away from TBU_TIME_NS, whose snapshot the second half shows (R713), both halves are those of one instant. -/
theorem hostRead_eight (s : State) {fn off : Nat} (h : fn ≠ 0 ∨ off ≠ 0x120000) : hostRead s fn off 8 =
    reply (readBar0 (readBar0 s fn off).2 fn (off + 4)).2 fn
      ((readBar0 s fn off).1 + 2 ^ 32 * (readBar0 s fn (off + 4)).1) := by
  have hno : ¬(fn = 0 ∧ off = 0x120000) := by tauto
  simp [hostRead, hno]

/-! ### Writes of BAR0 -/

section writes
variable {s : State} {fn off : Nat} (hoff : off < barSize fn)
include hoff

/-- A bad ECRC goes before poison; either is only logged (R150). -/
theorem barWrite_of_hostReach (size : Nat) (v : BitVec 64) (p e : Bool) (h : hostReach s fn = true) :
    barWrite s fn off size v p e =
      if e then logUnc s fn aerEcrc else if p then logUnc s fn aerPoisoned else hostWrite s fn off size v := by
  simp [barWrite, Nat.not_le.2 hoff, barOff_of_hostReach h, h]

theorem barWrite_of_barOff (size : Nat) (v : BitVec 64) (p e : Bool) (h : barOff s fn = true) :
    barWrite s fn off size v p e = logUnc s fn aerUnsupported := by
  simp [barWrite, Nat.not_le.2 hoff, h]

end writes

theorem hostWrite_of_not_accessOk (s : State) (fn : Nat) {off size : Nat} (v : BitVec 64) (h : accessOk off size = false) :
    hostWrite s fn off size v = recordFnErr s fn false false false true 0 := by simp [hostWrite, h]

theorem hostWrite_four (s : State) (fn : Nat) {off : Nat} (v : BitVec 64) (h : off % 4 = 0) :
    hostWrite s fn off 4 v = writeBar0 s fn off (v.setWidth 32) := by simp [hostWrite, accessOk_four h]

/-- Outside the doorbells the lower half goes first. -/
theorem hostWrite_eight_lower_first (s : State) {fn off : Nat} (v : BitVec 64) (h : off % 8 = 0)
    (hd : off < 0x1000 ∨ 0x1000 + 8 * slotCount fn ≤ off) : hostWrite s fn off 8 v =
      writeBar0 (writeBar0 s fn off (v.setWidth 32)) fn (off + 4) ((v >>> 32).setWidth 32) := by
  have hno : ¬(0x1000 ≤ off ∧ off < 0x1000 + 8 * slotCount fn) := by omega
  simp [hostWrite, accessOk_eight h, hno]

/-- In a doorbell slot the head, which is the upper half, goes first (R131). -/
theorem hostWrite_eight_head_first (s : State) {fn off : Nat} (v : BitVec 64) (h : off % 8 = 0)
    (hlo : 0x1000 ≤ off) (hhi : off < 0x1000 + 8 * slotCount fn) : hostWrite s fn off 8 v =
      writeBar0 (writeBar0 s fn (off + 4) ((v >>> 32).setWidth 32)) fn off (v.setWidth 32) := by
  simp [hostWrite, accessOk_eight h, hlo, hhi]

/-! ### Register access -/

/-- Settles O42: each clause is what the request's way (BAR0 reached, mapped out, in an FLR; configuration answered or retried) makes of
it, then the rule of R124 for its size. -/
theorem registerAccess : Obligations.RegisterAccess := by
  unfold Obligations.RegisterAccess
  intro s fn off size v hoff
  refine ⟨fun h => ⟨fun h4 => ?read4, fun h8 hns => ?read8, fun hbad => ?readBad, fun h4 => ?write4, fun h8 hd => ?write8,
      fun h8 hlo hhi => ?writeSlot, fun hbad => ?writeBad, ?poisoned, fun p => ?ecrc⟩,
    fun h => ⟨?readOff, fun p e => ?writeOff⟩, fun h hl => ?readFlr, fun h => ⟨fun f w => ?cfg, fun r w => ?aer, fun i => ?item⟩,
    fun h hr => ⟨fun f w => ?cfgRetried, fun i => ?itemRetried⟩, fun hl he e => ?bus⟩
  case read4 => rw [exec_rcRegisterRead_bar0, barRead_of_hostReach hoff 4 h, accessOk_four h4, if_pos rfl, hostRead_four]; rfl
  case read8 => rw [exec_rcRegisterRead_bar0, barRead_of_hostReach hoff 8 h, accessOk_eight h8, if_pos rfl, hostRead_eight s hns]; rfl
  case readBad => rw [exec_rcRegisterRead_bar0, barRead_of_hostReach hoff size h, hbad]; rfl
  case write4 => rw [exec_registerWrite_bar0, barWrite_of_hostReach hoff 4 v _ _ h, ← hostWrite_four s fn v h4]; rfl
  case write8 => rw [exec_registerWrite_bar0, barWrite_of_hostReach hoff 8 v _ _ h, ← hostWrite_eight_lower_first s v h8 hd]; rfl
  case writeSlot => rw [exec_registerWrite_bar0, barWrite_of_hostReach hoff 8 v _ _ h, ← hostWrite_eight_head_first s v h8 hlo hhi]; rfl
  case writeBad => rw [exec_registerWrite_bar0, barWrite_of_hostReach hoff size v _ _ h, ← hostWrite_of_not_accessOk s fn v hbad]; rfl
  case poisoned => rw [exec_registerWrite_bar0, barWrite_of_hostReach hoff size v _ _ h]; rfl
  case ecrc => rw [exec_registerWrite_bar0, barWrite_of_hostReach hoff size v p _ h]; rfl
  case readOff => rw [exec_rcRegisterRead_bar0, barRead_of_barOff hoff size h]; rfl
  case writeOff => rw [exec_registerWrite_bar0, barWrite_of_barOff hoff size v p e h]; rfl
  case readFlr => rw [exec_rcRegisterRead_bar0, barRead_of_inFlr hoff size h hl]; rfl
  case cfg => rw [exec_registerWrite_cfg, cfgDo_of_cfgReach _ h]
  case aer => rw [exec_registerWrite_aer, cfgDo_of_cfgReach _ h]
  case item => rw [exec_rcRegisterRead_cfg, cfgDo_of_cfgReach _ h]; rfl
  case cfgRetried => rw [exec_registerWrite_cfg, cfgDo_of_cfgRetry _ h hr]
  case itemRetried => rw [exec_rcRegisterRead_cfg, cfgDo_of_cfgRetry _ h hr]
  case bus => rw [exec_registerWrite_bus, hl, he]; rfl

end Sys2Proof.Machine
end

section
/-! The decoder pool's order, records on their way to tape and back, the motion of the tape, and the offload service
(O48, O22, O24, O27, O28). -/

namespace Sys2Proof.Machine

/-! ### Commands that a row finds -/

theorem id_of_cmdOf {s : State} {id : Nat} {c : Cmd} (h : cmdOf s id = some c) : c.id = id :=
  beq_iff_eq.1 (List.find?_some (p := fun c : Cmd => c.id == id) h)

theorem withCmd_of_started {s : State} {id op : Nat} {c : Cmd} (h : Started s id op c) (f : Cmd → State) :
    withCmd s id op f = f c := by
  obtain ⟨hc, hop, hdone, hprog⟩ := h
  simp [withCmd, hc, hop, hdone, hprog]

theorem withCmdW_of_cmdOf {s : State} {id op : Nat} {c : Cmd} (hc : cmdOf s id = some c) (hop : c.opcode = op) (hdone : c.done = none)
    (hprog : c.prog ≠ .ordered) (f : Cmd → State) : withCmdW s id op f = f c := by
  simp [withCmdW, hc, hop, hdone, hprog]

/-! ### What reads, time and updates leave as it was -/

/-- A list with an element is not empty. -/
theorem isEmpty_of_elem {l : List Nat} {e : Nat} (h : l.elem e = true) : l.isEmpty = false :=
  List.isEmpty_eq_false_iff.2 (List.ne_nil_of_mem (List.elem_iff.1 h))

/-- A read of host memory changes nothing but the outputs. -/
theorem cmdRead_eq_out (s : State) (c : Cmd) (addr len : Nat) : ∃ o, cmdRead s c addr len = { s with out := o } := by
  unfold cmdRead
  split
  · exact ⟨s.out, rfl⟩
  · exact ⟨_, rfl⟩

@[simp] theorem dataOk_cmdRead (s : State) (c d : Cmd) (addr len : Nat) : dataOk (cmdRead s c addr len) d = dataOk s d := by
  obtain ⟨o, h⟩ := cmdRead_eq_out s c addr len
  rw [h]; rfl

@[simp] theorem lanesShut_cmdRead (s : State) (c : Cmd) (addr len : Nat) (k : Bool) :
    lanesShut (cmdRead s c addr len) k = lanesShut s k := by
  obtain ⟨o, h⟩ := cmdRead_eq_out s c addr len
  rw [h]; rfl

@[simp] theorem freeLane_cmdRead (s : State) (c : Cmd) (addr len : Nat) (k : Bool) :
    freeLane (cmdRead s c addr len) k = freeLane s k := by
  obtain ⟨o, h⟩ := cmdRead_eq_out s c addr len
  rw [h]; rfl

/-- Time passing leaves the transports as they are. -/
@[simp] theorem xpOf_advance (s : State) (dt t : Nat) : xpOf (advance s dt) t = xpOf s t := by
  have h := advance_only (L := [.time, .rings, .contexts, .pool, .timeBase]) (s := s) (dt := dt) .refl (by decide)
  have hxp : (advance s dt).xp = s.xp := h .transports (by decide)
  rw [xpOf, hxp]; rfl

/-- An update of an entry depends on the entry alone. -/
theorem Tbl.upd_congr {α : Type} {t : Tbl α} {k : Nat} {v : α} {f g : α → α} (h : Tbl.get? t k = some v) (hfg : f v = g v) :
    Tbl.upd t k f = Tbl.upd t k g := by
  induction t with
  | nil => rfl
  | cons p r ih =>
    obtain ⟨j, w⟩ := p
    by_cases e : j = k
    · simp_all [Tbl.get?, Tbl.upd]
    · simp only [Tbl.upd, e, if_false, ih (by simpa [Tbl.get?, e] using h)]

theorem updXp_congr {s : State} {t : Nat} {x : Xport} {f g : Xport → Xport} (h : xpOf s t = some x) (hfg : f x = g x) :
    updXp s t f = updXp s t g := by
  rw [updXp, updXp, Tbl.upd_congr h hfg]

/-! ### The decoder pool's choice (R32, R518) -/

/-- The codewords that wait for a decoder, each with its lane. -/
def waitingSamples (s : State) : List (Nat × Sample) :=
  (s.rc.lanes.map fun p => (p.2.store.filter fun a => a.decoder.isNone && !a.evicted).map fun a => (p.1, a)).flatten

/-- The pool's order: by class, then by age (R32). -/
def poolOrder (e : Nat × Sample) : Nat ×ₗ Nat := toLex (clsRank e.2.cls, e.2.ticket)

theorem mem_waitingSamples {s : State} {l : Nat} {a : Sample} : (l, a) ∈ waitingSamples s ↔
    ∃ x, (l, x) ∈ s.rc.lanes ∧ a ∈ x.store ∧ a.decoder = none ∧ a.evicted = false := by
  simp only [waitingSamples, List.mem_flatten, List.mem_map]
  constructor
  · rintro ⟨_, ⟨⟨k, x⟩, hx, rfl⟩, ha⟩
    simp only [List.mem_map, List.mem_filter, Bool.and_eq_true, Option.isNone_iff_eq_none, Bool.not_eq_true', Prod.mk.injEq] at ha
    obtain ⟨b, ⟨hb, hd, he⟩, rfl, rfl⟩ := ha
    exact ⟨x, hx, hb, hd, he⟩
  · rintro ⟨x, hx, ha, hd, he⟩
    exact ⟨_, ⟨(l, x), hx, rfl⟩, List.mem_map.2 ⟨a, by simp [ha, hd, he], rfl⟩⟩

theorem poolOrder_lt {e f : Nat × Sample} : poolOrder e < poolOrder f ↔
    clsRank e.2.cls < clsRank f.2.cls ∨ (clsRank e.2.cls = clsRank f.2.cls ∧ e.2.ticket < f.2.ticket) := Prod.Lex.toLex_lt_toLex

theorem poolOrder_le {e f : Nat × Sample} : poolOrder e ≤ poolOrder f ↔
    clsRank e.2.cls < clsRank f.2.cls ∨ (clsRank e.2.cls = clsRank f.2.cls ∧ e.2.ticket ≤ f.2.ticket) := Prod.Lex.toLex_le_toLex

/-- The codeword that is due is the least of those that wait. -/
theorem nextCodeword_eq_argmin (s : State) : nextCodeword s = (waitingSamples s).argmin poolOrder := by
  unfold nextCodeword List.argmin
  change List.foldl _ none (waitingSamples s) = _
  congr 1
  funext b e
  cases b with
  | none => rfl
  | some c => simp only [List.argAux, poolOrder_lt]

/-- Settles O48: the pool grants to the least waiting codeword in the order of class and age. -/
theorem decoderPriority : Obligations.DecoderPriority := by
  unfold Obligations.DecoderPriority
  intro s l a h
  have hmin : (l, a) ∈ (waitingSamples s).argmin poolOrder := by rw [← nextCodeword_eq_argmin]; exact h
  refine ⟨mem_waitingSamples.1 (List.argmin_mem hmin), fun j y b hy hb hd he => ?_⟩
  exact poolOrder_le.1 (List.le_of_mem_argmin (mem_waitingSamples.2 ⟨y, hy, hb, hd, he⟩) hmin)

/-! ### RECORD_COMPRESS (R255, R300, R305 to R313) -/

section recordCompress
variable {s : State} {id : Nat} {c : Cmd} {st : Stream} {x : Ctx} {r : RecWork} {ing : Seen} {coded : Bytes}
  (hw : writeWork s id = some (c, st, x)) (hr : (c.recs.find? fun r => r.stage == 0) = some r)
  (hcode : mayCode s st.xp r = true) (heng : engRun s 0 st.xp = true)
  (hhead : x.d.history = true → r.idx = c.acked ∧ packsBefore s c = false ∧ flushAhead s c = false)

include hcode hhead in
/-- The record may be coded: its turn has come, where a history run asks for it, and there is room. -/
theorem compress_may_go :
    ((x.d.history && !(r.idx == c.acked && !packsBefore s c && !flushAhead s c)) || !mayCode s st.xp r) = false := by
  cases hh : x.d.history with
  | false => rw [hcode]; rfl
  | true =>
    obtain ⟨hidx, hpacks, hflush⟩ := hhead hh
    rw [hcode, hidx, hpacks, hflush, beq_self_eq_true]; rfl

include hw hr hcode heng hhead

theorem exec_recordCompress_ing_bad (hing : seenOk ing = false) : exec (.recordCompress id ing coded) s =
    .next (ingestFault (noteSeen s ing evIng subjCtx c.ctx) c r ing true evIng) := by
  change execRecordCompress id ing coded s = _
  simp only [execRecordCompress, hw, hr, compress_may_go hcode hhead, heng, hing, Bool.not_true, Bool.not_false, Bool.false_eq_true,
    if_false, if_true]

theorem exec_recordCompress_coded (hing : seenOk ing = true)
    (hktc : (bitOf (recFlags c r.idx) 1 || !x.d.compressEn) = true ∨
      ktcCodes st.runData (beginsRun x.d st (keySel c)) r.data coded = true) :
    exec (.recordCompress id ing coded) s =
      let raw := bitOf (recFlags c r.idx) 1 || !x.d.compressEn || decide (r.data.length ≤ coded.length)
      let p := if raw then r.data else coded
      .next (updRec (noteSeen s ing evIng subjCtx c.ctx) id r.idx fun k => { k with
        stage := 1, raw := raw, payload := p, sealCrc := crc32c p, runStart := beginsRun x.d st (keySel c) }) := by
  have hmade : (!(bitOf (recFlags c r.idx) 1 || !x.d.compressEn) &&
      !ktcCodes st.runData (beginsRun x.d st (keySel c)) r.data coded) = false := by
    rcases hktc with h | h <;> rw [h]
    · rfl
    · exact Bool.and_false _
  change execRecordCompress id ing coded s = _
  simp only [execRecordCompress, hw, hr, compress_may_go hcode hhead, heng, hing, hmade, Bool.not_true, Bool.false_eq_true, if_false]

end recordCompress

/-! ### RECORD_SEAL and CHECK_BACK (R348 to R352, R387) -/

section recordSeal
variable {s : State} {id e : Nat} {c : Cmd} {st : Stream} {x : Ctx} {r : RecWork}
  (hw : writeWork s id = some (c, st, x)) (hr : (c.recs.find? fun r => r.stage == 1) = some r)
include hw hr

/-- In the clear a record passes the seal by. -/
theorem exec_recordSeal_clear (hclear : x.d.cipher = 0) : exec (.recordSeal id e) s = .next (updRec s id r.idx fun k => { k with
    stage := 3, iv := List.replicate 12 0, ctr := 0, enc := false, keyId := 0, body := k.plain, gtag := [] }) := by
  change execRecordSeal id e s = _
  simp only [execRecordSeal, hw, hr, hclear, if_true]

/-- An engine that the record may use seals it under the next IV, or fails it where none is given. -/
theorem exec_recordSeal_engine {k : KeyVal} (hcipher : x.d.cipher ≠ 0) (he : (runEngines s 2).elem e = true)
    (hback : x.d.checkback = true → 1 < (runEngines s 2).length)
    (hban : 2 < (runEngines s 2).length → r.banned.elem e = false) (hk : keyFor s c x.d = some k) :
    exec (.recordSeal id e) s = .next ((nextIv s).1.elim (failRec (countReject (nextIv s).2) c r.idx (Compl.of 0x48)) fun v =>
      updRec (nextIv s).2 id r.idx fun w => sealWith w x.d k (nextIv s).2.keys.fid v e) := by
  have hrun : ((runEngines s 2).isEmpty || (x.d.checkback && decide ((runEngines s 2).length ≤ 1))) = false := by
    rw [isEmpty_of_elem he]
    cases hb : x.d.checkback with
    | false => rfl
    | true => simpa using hback hb
  have huse : (!(runEngines s 2).elem e || (decide (2 < (runEngines s 2).length) && r.banned.elem e)) = false := by
    rw [he]
    by_cases hl : 2 < (runEngines s 2).length
    · rw [hban hl]; simp
    · simp [hl]
  change execRecordSeal id e s = _
  simp only [execRecordSeal, hw, hr, hcipher, hrun, huse, hk, Bool.false_eq_true, if_false]
  cases (nextIv s).1 with
  | none => simp only [Option.elim_none]
  | some v => simp only [Option.elim_some]

end recordSeal

section checkBack
variable {s : State} {id e : Nat} {c : Cmd} {st : Stream} {x : Ctx} {r : RecWork} {chk : Seen}
  (hw : writeWork s id = some (c, st, x)) (hr : (c.recs.find? fun r => r.stage == 2) = some r)
  (htwo : 1 < (runEngines s 2).length) (he : (runEngines s 2).elem e = true) (hother : e ≠ r.engine)
include hw hr htwo he hother

theorem exec_checkBack_agrees (hchk : seenOk chk = true) : exec (.checkBack id e chk) s =
    .next (updRec (noteSeen s chk evCheckback subjCtx c.ctx) id r.idx fun k => { k with stage := 3 }) := by
  change execCheckBack id e chk s = _
  simp only [execCheckBack, hw, hr, Nat.not_le.2 htwo, he, beq_false_of_ne hother, hchk, Bool.not_true, Bool.or_false,
    Bool.false_eq_true, if_false, if_true]

/-- Twice a record that differs goes back to staging, off both engines. -/
theorem exec_checkBack_differs (hchk : seenOk chk = false) (hn : r.reseals < 2) : exec (.checkBack id e chk) s =
    .next (updRec (countFault (noteSeen s chk evCheckback subjCtx c.ctx) 2 1 0 0 1) id r.idx fun k =>
      { k with stage := 0, reseals := k.reseals + 1, banned := [k.engine, e] }) := by
  change execCheckBack id e chk s = _
  simp only [execCheckBack, hw, hr, Nat.not_le.2 htwo, he, beq_false_of_ne hother, hchk, hn, Bool.not_true, Bool.or_false,
    Bool.false_eq_true, if_false, if_true]

end checkBack

/-! ### RECORD_PACK (R190, R231, R267, R461 to R466) -/

/-- What is noted once a record's XFR and LBL have been verified (R415, R424). -/
abbrev packSeen (s : State) (c : Cmd) (xfr lbl : Seen) : State :=
  noteSeen (noteSeen s xfr evXfr subjCtx c.ctx) lbl evChain subjCtx c.ctx

section recordPack
variable {s : State} {id k : Nat} {c : Cmd} {st : Stream} {x : Ctx} {r : RecWork} {m : Mount} {xfr lbl : Seen} {rows : List RowSeen}
  (hw : writeWork s id = some (c, st, x)) (hr : (c.recs.find? fun r => r.idx == c.acked) = some r) (hk : c.stream = some k)
  (hm : (xpOf s st.xp).bind (·.mount) = some m) (hstage : r.stage = 3) (hturn : packsBefore s c = false) (hd : dataOk s c = true)
  (hroom : asmFull s st.xp = false) (heng : engRun s 5 st.xp = true) (hfault : (xpOf s st.xp).elim false (·.faulted) = false)
include hw hr hk hm hstage hturn hd hroom heng hfault

/-- The command's next record, sealed, with its turn come and a healthy way to tape, is checked and then packed. -/
theorem exec_recordPack : exec (.recordPack id xfr lbl rows) s = .next (
    let u := packSeen s c xfr lbl
    let seq := (partOf m st.part).elim 1 (·.nextSeq)
    if !seenOk xfr then ingestFault u c r xfr false evXfr
    else if !seenOk lbl then ingestFault u c r lbl true evChain
    else if m.eopRaised then failRec u c r.idx (Compl.of 0x61)
    else (packInto u m (alignUp (storedLen r) 16) seq r.sec r.data.length).elim (atEop u c st.xp r.idx) fun q =>
      let v := ackRecord u c x k st r m q.1 seq q.2.1 q.2.2.1 q.2.2.2
      settle (finishWrite (if dataClosed m < dataClosed q.1 then damageRows v st.xp (m.openDs.elim q.2.1 (·.num)) rows else v) id)) := by
  change execRecordPack id xfr lbl rows s = _
  simp only [execRecordPack, hw, hr, hk, hm, hstage, hturn, hd, hroom, heng, hfault, ne_eq, not_true, Bool.not_true,
    Bool.false_eq_true, or_self, if_false]
  cases seenOk xfr with
  | false => simp only [Bool.not_false, if_true]
  | true => cases seenOk lbl with
    | false => simp only [Bool.not_true, Bool.not_false, Bool.false_eq_true, if_false, if_true]
    | true => cases m.eopRaised with
      | true => simp only [Bool.not_true, Bool.false_eq_true, if_false, if_true]
      | false =>
        simp only [Bool.not_true, Bool.false_eq_true, if_false]
        cases packInto (packSeen s c xfr lbl) m (alignUp (storedLen r) 16) ((partOf m st.part).elim 1 (·.nextSeq)) r.sec
          r.data.length with
        | none => simp only [Option.elim_none]
        | some q => simp only [Option.elim_some]

end recordPack

/-! ### FLUSH_WINDOW_EXPIRE (R259) -/

theorem exec_flushWindowExpire {s : State} {dt t w : Nat} {m : Mount} {o : OpenDs} (rows : List RowSeen)
    (hm : (xpOf s t).bind (·.mount) = some m) (hat : m.flushAt = some w) (ho : m.openDs = some o) :
    exec (.flushWindowExpire dt t rows) s = .next (if w ≤ now (advance s dt) then
      settle (damageRows (closeDataset (advance s dt) t false) t o.num rows) else advance s dt) := by
  change execFlushWindowExpire dt t rows s = _
  simp only [execFlushWindowExpire, xpOf_advance, hm, hat, ho]
  split <;> rfl

/-- Settles O22: each clause is the outcome of its row that the state and the operands select. -/
theorem recordsMoveToTape : Obligations.RecordsMoveToTape := by
  unfold Obligations.RecordsMoveToTape
  refine ⟨fun s id c st x r hw => ⟨?compress, ?sealing, ?checkBack⟩, fun s id c st x r k m => ⟨?pack, ?flush⟩⟩
  case compress =>
    intro ing coded hr hcode heng hhead
    exact ⟨fun hing hktc => exec_recordCompress_coded hw hr hcode heng hhead hing hktc,
      fun hing => exec_recordCompress_ing_bad hw hr hcode heng hhead hing⟩
  case sealing =>
    intro e hr
    refine ⟨fun hclear => exec_recordSeal_clear hw hr hclear, fun k hcipher he hback hban hk => ?_⟩
    rw [exec_recordSeal_engine hw hr hcipher he hback hban hk]
    exact ⟨fun v hv => by rw [hv, Option.elim_some], fun hv => by rw [hv, Option.elim_none]⟩
  case checkBack =>
    intro e chk hr htwo he hother
    exact ⟨exec_checkBack_agrees hw hr htwo he hother, exec_checkBack_differs hw hr htwo he hother⟩
  case pack =>
    intro xfr lbl rows hw hr hk hm hstage hturn hd hroom heng hfault
    rw [exec_recordPack hw hr hk hm hstage hturn hd hroom heng hfault]
    refine ⟨fun hx => ?_, fun hx hl => ?_, fun hx hl he => ?_, fun hx hl he => ⟨fun m' ds off last hp => ?_, fun hp => ?_⟩⟩
    · simp only [hx, Bool.not_false, if_true]
    · simp only [hx, hl, Bool.not_true, Bool.not_false, Bool.false_eq_true, if_false, if_true]
    · simp only [hx, hl, he, Bool.not_true, Bool.false_eq_true, if_false, if_true]
    · simp only [hx, hl, he, hp, Bool.not_true, Bool.false_eq_true, if_false, Option.elim_some]
    · simp only [hx, hl, he, hp, Bool.not_true, Bool.false_eq_true, if_false, Option.elim_none]
  case flush =>
    intro dt t rows o w hm hat ho
    rw [exec_flushWindowExpire rows hm hat ho]
    exact ⟨fun hw => by rw [if_pos hw], fun hw => by rw [if_neg (Nat.not_le.2 hw)]⟩

/-! ### WRITE_SEGMENT_BOUNDARY (R447, R476, R570, R579) -/

/-- The first segment of position `c` puts the header of its dataset on tape as incomplete. -/
def landFirst (s : State) (t : Nat) (m : Mount) (c : CurPos) (d : ClosedDs) : State :=
  if c.seg = 0 then updXp s t fun x => landDs x { d.hdr with complete := false, begAt := m.wrBits } else s

/-- Every lane has ended a segment of position `c`, which moves on by one. -/
def endSegment (s : State) (t : Nat) (m : Mount) (c : CurPos) (gate : Bool) : State :=
  let own := c.own || (c.seg == 143 && syncWaitsOn s t c.num && !canDefer m c.num)
  updMount s t fun m =>
    { updClosed m c.num (fun d => if c.seg < 144 then { d with dataSegs := d.dataSegs + 32 } else d) with
      cur := some { c with seg := c.seg + 1, cut := !gate, own := own } }

section writing
variable {s : State} {t : Nat} {x : Xport} {m : Mount} {c : CurPos} {d : ClosedDs}
  (hx : xpOf s t = some x) (hm : x.mount = some m) (hc : m.cur = some c) (hd : curDs m = some d) (hmot : x.motion = .writing)
include hx hm hc hd hmot

theorem exec_writeSegmentBoundary_halted (dt : Nat) (rows : List RowSeen) (hh : x.haltReq ≠ 0) :
    exec (.writeSegmentBoundary dt t rows) s = .next (let u := advance s dt
      interrupt (if x.haltReq = 2 ∧ x.haltAt < now u then cutFlight u t else u) t) := by
  change execWriteSegmentBoundary dt t rows s = _
  simp only [execWriteSegmentBoundary, xpOf_advance, hx, hm, hmot, Option.bind_some, hc, hd, hh, ne_eq, not_false_eq_true, if_true]

theorem exec_writeSegmentBoundary_lead (dt : Nat) (rows : List RowSeen) (hh : x.haltReq = 0) (hl : c.lead = true) :
    exec (.writeSegmentBoundary dt t rows) s = .next (let u := advance s dt
      if wgHigh x.wi = true ∧ x.blk.bhMm * 1000 ≤ x.run then
        updMount (sendAll u t (separator 2048)) t fun m => { m with
          cur := some { c with lead := false, cut := false }, wrBits := m.wrBits + 2304 }
      else u) := by
  change execWriteSegmentBoundary dt t rows s = _
  simp only [execWriteSegmentBoundary, xpOf_advance, hx, hm, hmot, Option.bind_some, hc, hd, hh, hl, ne_eq, not_true_eq_false, if_true,
    if_false, Bool.and_eq_true, decide_eq_true_eq]
  split <;> rfl

theorem exec_writeSegmentBoundary_segment (dt : Nat) (rows : List RowSeen) (hh : x.haltReq = 0) (hl : c.lead = false) (hs : c.seg < 192) :
    exec (.writeSegmentBoundary dt t rows) s = .next (
      let w := (List.range 32).foldl (laneSegment t c) (landFirst (advance s dt) t m c d)
      damageRows (endSegment w t m c (wgHigh x.wi)) t c.num rows) := by
  have hland : (updXp (advance s dt) t fun x => landDs x { d.hdr with complete := false, begAt := x.mount.elim 0 (·.wrBits) }) =
      updXp (advance s dt) t fun x => landDs x { d.hdr with complete := false, begAt := m.wrBits } :=
    updXp_congr (by rw [xpOf_advance, hx]) (by simp only [hm, Option.elim_some])
  change execWriteSegmentBoundary dt t rows s = _
  simp only [execWriteSegmentBoundary, xpOf_advance, hx, hm, hmot, Option.bind_some, hc, hd, hh, hl, hland, Nat.not_le.2 hs, ne_eq,
    not_true_eq_false, if_false, Bool.false_eq_true, Option.elim_some, landFirst, endSegment]

theorem exec_writeSegmentBoundary_full (dt : Nat) (rows : List RowSeen) (hh : x.haltReq = 0) (hl : c.lead = false) (hs : 192 ≤ c.seg) :
    exec (.writeSegmentBoundary dt t rows) s = .next (let u := advance s dt
      if mayEnd u t m c d then u else abandon u t c.num 2) := by
  change execWriteSegmentBoundary dt t rows s = _
  simp only [execWriteSegmentBoundary, xpOf_advance, hx, hm, hmot, Option.bind_some, hc, hd, hh, hl, hs, ne_eq,
    not_true_eq_false, if_false, if_true, Bool.false_eq_true, Option.elim_some]

/-! ### DATASET_BOUNDARY (R29, R75, R442, R476 to R480, R580, R584) -/

theorem exec_datasetBoundary : exec (.datasetBoundary t) s =
    if mayEnd s t m c d then
      let v := endPosition s t m c d
      if (xpOf v t).elim true (·.faulted) then .next v
      else .next (afterBoundary (recomputeXport (pushMax (noteEw (takeBlocks v t) t) t) t) t)
    else .next s := by
  change execDatasetBoundary t s = _
  simp only [execDatasetBoundary, hx, hm, hmot, Option.bind_some, hc, hd]

end writing

/-! ### Turning round, restarting and returning (R272, R442, R579, R582 to R586) -/

/-- Whether a transport may write does not depend on the transports' own fields, nor on the cores that wait to be replaced. -/
theorem mayWrite_turned (s : State) (l : List Nat) (t : Nat) (f : Xport → Xport) (x : Xport) :
    mayWrite (updXp { s with pmu.rtOwed := l } t f) t x = mayWrite s t x := rfl

/-- A transport that writes has its head on the next wrap, at its beginning, under the zone's ceiling (R35, R598). -/
def turnedWrite (s : State) (t : Nat) (m : Mount) : State :=
  updXp { s with pmu.rtOwed := setDel s.pmu.rtOwed t } t fun x => { x with
    wrap := m.wrWrap + 1, reverse := (m.wrWrap + 1) % 2 == 1, turnarounds := satAdd 64 x.turnarounds 1,
    target := min x.target (ceilOf x (m.wrWrap + 1)), mount := some { m with wrWrap := m.wrWrap + 1, wrBits := 0 } }

section motion
variable {s : State} {t : Nat} {x : Xport} {m : Mount} (hx : xpOf s t = some x) (hm : x.mount = some m)
include hx hm

theorem exec_wrapTurnaround_write (hmot : x.motion = .turnaround) (hr : readsNow s t = false) :
    exec (.wrapTurnaround t) s = .next (
      if mayWrite s t x && !x.stopReq then startWriting (turnedWrite s t m) t
      else updXp (turnedWrite s t m) t fun x => { x with motion := .stopped, stopReq := false }) := by
  change execWrapTurnaround t s = _
  simp only [execWrapTurnaround, hx, hmot, hm, hr, mayWrite_turned, Bool.false_eq_true, if_false, turnedWrite]
  rfl

theorem exec_wrapTurnaround_read (hmot : x.motion = .turnaround) (hr : readsNow s t = true) :
    exec (.wrapTurnaround t) s = .next (updXp { s with pmu.rtOwed := setDel s.pmu.rtOwed t } t fun x => { x with
      wrap := x.wrap + 1, reverse := (x.wrap + 1) % 2 == 1, turnarounds := satAdd 64 x.turnarounds 1, motion := .reading,
      target := min x.target (ceilOf x (x.wrap + 1)) }) := by
  change execWrapTurnaround t s = _
  simp only [execWrapTurnaround, hx, hmot, hm, hr, if_true]

theorem exec_transportRestart_write (hmot : x.motion = .stopped) (hr : readsNow s t = false) (haway : m.away = false)
    (hnext : (nextToWrite m).isSome = true) (hmay : mayWrite s t x = true) (hout : m.reserveOut = false)
    (hdue : x.blk.restWm * writeAsmMib s * 1048576 ≤ x.occ * 1000 ∨ mustWrite s t = true ∨ interrupted m = true) :
    exec (.transportRestart t) s = .next (
      if fitsWrap m then startWriting s t
      else if lastWrap m then exhaust s t
      else updXp s t fun x => { x with motion := .turnaround }) := by
  have hgo : (decide (x.blk.restWm * writeAsmMib s * 1048576 ≤ x.occ * 1000) || mustWrite s t || interrupted m) = true := by
    simpa [or_assoc] using hdue
  change execTransportRestart t s = _
  simp only [execTransportRestart, hx, hm, hmot, hr, haway, hnext, hmay, hout, hgo, bne_self_eq_false, Bool.false_eq_true, if_false,
    Bool.not_false, Bool.and_self, if_true]

theorem exec_transportRestart_read (hmot : x.motion = .stopped) (hr : readsNow s t = true)
    (hroom : x.rsOcc * 1000 ≤ x.blk.setWm * restoreMib s * 1048576) (hthr : x.throttled = false) (heng : engRun s 4 t = true)
    (hcal : x.calibrating = false) :
    exec (.transportRestart t) s = .next (updXp s t fun x => { x with motion := .reading }) := by
  change execTransportRestart t s = _
  simp only [execTransportRestart, hx, hm, hmot, hr, hroom, hthr, heng, hcal, bne_self_eq_false, Bool.false_eq_true, if_false,
    Bool.not_false, Bool.and_self, decide_true, if_true]

theorem exec_writePositionReturn (haway : m.away = true)
    (hr : (s.rings.cmds.any fun c => c.done.isNone && readsTape c && cmdXp s c == some t) = false)
    (hleft : m.closed ≠ [] ∨ m.openDs ≠ none) (hcal : x.calibrating = false) :
    exec (.writePositionReturn t) s = .next (updXp s t fun x => { x with
      motion := .stopped, wrap := m.wrWrap, reverse := m.wrWrap % 2 == 1, restored := [], rsOcc := 0, cws := [], goal := none,
      mount := some { m with away := false, sincePre := 0 } }) := by
  have hheld : (!m.closed.isEmpty || m.openDs.isSome) = true := by
    rcases hleft with h | h
    · simp [h]
    · simp [Option.isSome_iff_ne_none.2 h]
  change execWritePositionReturn t s = _
  simp only [execWritePositionReturn, hx, hm, haway, hr, hheld, hcal, Bool.not_false, Bool.and_self, if_true]

/-! ### SPEED_MATCH_TICK (R580, R583) -/

theorem exec_speedMatchTick_write (dt : Nat) (hmot : x.motion = .writing ∨ x.motion = .turnaround ∨ x.motion = .backhitch) :
    exec (.speedMatchTick dt t) s = .next (let u := advance s dt
      let reg := writeAsmMib u * 1048576
      let p := speedLaw x m (rateOver u x.arrivals) x.occ reg m.wrWrap
      updXp u t fun x' => { x' with target := p.1, stopReq := x'.stopReq || (x.motion == .writing &&
        x.target == 1200 && p.2 && decide (x.occ ≤ x.blk.lowWm * reg / 1000) && !syncWaits u t) }) := by
  have hnot : (x.motion == .reading) = false := by rcases hmot with h | h | h <;> rw [h] <;> rfl
  have hmove : (x.motion == .writing || x.motion == .turnaround || x.motion == .backhitch) = true := by
    rcases hmot with h | h | h <;> rw [h] <;> rfl
  change execSpeedMatchTick dt t s = _
  simp only [execSpeedMatchTick, xpOf_advance, hx, hm, hnot, hmove, Bool.false_eq_true, if_false, if_true]

theorem exec_speedMatchTick_read (dt : Nat) (hmot : x.motion = .reading) :
    exec (.speedMatchTick dt t) s = .next (let u := advance s dt
      let reg := restoreMib u * 1048576
      updXp u t fun x' => { x' with target := (speedLaw x m (rateOver u x.drains) (reg - x.rsOcc) reg x.wrap).1 }) := by
  change execSpeedMatchTick dt t s = _
  simp only [execSpeedMatchTick, xpOf_advance, hx, hm, hmot, beq_self_eq_true, if_true]

theorem exec_speedMatchTick_stopped (dt : Nat) (hmot : x.motion = .stopped) :
    exec (.speedMatchTick dt t) s = .next (advance s dt) := by
  change execSpeedMatchTick dt t s = _
  simp only [execSpeedMatchTick, xpOf_advance, hx, hm, hmot]
  rfl

end motion

/-- Settles O24: each clause is the outcome of its row that the transport's motion and the state select. -/
theorem tapeMotion : Obligations.TapeMotion := by
  unfold Obligations.TapeMotion
  refine ⟨fun s t x m hx hm => ⟨fun c d hc hd hmot => ⟨fun dt rows => ?segment, ?ends, ?faulted, ?goesOn⟩,
    fun hmot hr => ?turnWrite, fun hmot hr => exec_wrapTurnaround_read hx hm hmot hr, fun hmot hr haway hnext hmay hout hdue => ?restart,
    fun hmot hr hroom hthr heng hcal => exec_transportRestart_read hx hm hmot hr hroom hthr heng hcal,
    fun haway hr hleft hcal => exec_writePositionReturn hx hm haway hr hleft hcal⟩,
    fun s dt t x m hx hm => ⟨exec_speedMatchTick_write hx hm dt, exec_speedMatchTick_read hx hm dt,
      exec_speedMatchTick_stopped hx hm dt⟩⟩
  case segment =>
    refine ⟨exec_writeSegmentBoundary_halted hx hm hc hd hmot dt rows, fun hh hl => ?_,
      exec_writeSegmentBoundary_segment hx hm hc hd hmot dt rows, exec_writeSegmentBoundary_full hx hm hc hd hmot dt rows⟩
    rw [exec_writeSegmentBoundary_lead hx hm hc hd hmot dt rows hh hl]
    refine ⟨fun hg hrun => congrArg Host.Outcome.next (if_pos ⟨hg, hrun⟩), fun hno => congrArg Host.Outcome.next (if_neg ?_)⟩
    rintro ⟨hg, hrun⟩
    rcases hno with h | h
    · rw [hg] at h; cases h
    · exact Nat.not_lt.2 hrun h
  case ends =>
    intro hend hok
    rw [exec_datasetBoundary hx hm hc hd hmot]
    simp only [hend, hok, Bool.false_eq_true, if_false, if_true]
  case faulted =>
    intro hend hbad
    rw [exec_datasetBoundary hx hm hc hd hmot]
    simp only [hend, hbad, if_true]
  case goesOn =>
    intro hend
    rw [exec_datasetBoundary hx hm hc hd hmot, hend]; rfl
  case turnWrite =>
    rw [exec_wrapTurnaround_write hx hm hmot hr]
    refine ⟨fun hmay hstop => by rw [hmay, hstop]; rfl, fun hno => ?_⟩
    have hstay : (mayWrite s t x && !x.stopReq) = false := by rcases hno with h | h <;> simp [h]
    rw [hstay]; rfl
  case restart =>
    rw [exec_transportRestart_write hx hm hmot hr haway hnext hmay hout hdue]
    exact ⟨fun hf => by rw [hf]; rfl, fun hf hl => by rw [hf, hl]; rfl, fun hf hl => by rw [hf, hl]; rfl⟩

/-! ### RECORD_OPEN and RECORD_DECOMPRESS (R277, R303, R336, R382 to R385, R428) -/

/-- What is noted once a record's ROW and XFR have been verified (R415, R424). -/
abbrev openSeen (s : State) (c : Cmd) (row xfr : Seen) : State :=
  noteSeen (noteSeen s row evRow subjCtx c.ctx) xfr evChain subjCtx c.ctx

section recordOpen
variable {s : State} {id k : Nat} {c : Cmd} {st : Stream} {x : Ctx} {r : TapeRec} {n off bytes rt : Nat} {bad : Bool} {p : Bytes}
  {e : Nat} {row xfr : Seen} (hw : readWork s id = some (c, k, st, x, r)) (hp : c.prog = .reading n off bytes bad 1 p rt)
  (he : r.enc = true → (runEngines s 2).elem e = true ∧ sealWaits s = false)
  (hspan : ((xpOf s st.xp).elim true fun y => spanOk y (tapeOf s st.xp st.part) st.part r) = true)

include he in
/-- A record in the clear needs no engine; an encrypted one has its own and its turn (R346, R751). -/
theorem open_engine_ready : (r.enc && (runEngines s 2).isEmpty) = false ∧
    (r.enc && (!(runEngines s 2).elem e || sealWaits s)) = false := by
  cases henc : r.enc with
  | false => exact ⟨rfl, rfl⟩
  | true =>
    obtain ⟨hrun, hseal⟩ := he henc
    rw [isEmpty_of_elem hrun, hrun, hseal]
    exact ⟨rfl, rfl⟩

include hw hp he hspan

theorem exec_recordOpen_row_bad (hrow : seenOk row = false) : exec (.recordOpen id e row xfr) s =
    .next (restoreFault (noteSeen s row evRow subjCtx c.ctx) c k st r row evRow) := by
  obtain ⟨hrun, hturn⟩ := open_engine_ready he
  change execRecordOpen id e row xfr s = _
  simp only [execRecordOpen, hw, hp, hrun, hturn, hspan, hrow, Bool.not_true, Bool.not_false, Bool.false_eq_true, if_false, if_true]

variable (hrow : seenOk row = true)
include hrow

theorem exec_recordOpen_xfr_bad (hxfr : seenOk xfr = false) : exec (.recordOpen id e row xfr) s =
    .next (restoreFault (openSeen s c row xfr) c k st r xfr evChain) := by
  obtain ⟨hrun, hturn⟩ := open_engine_ready he
  change execRecordOpen id e row xfr s = _
  simp only [execRecordOpen, hw, hp, hrun, hturn, hspan, hrow, hxfr, Bool.not_true, Bool.not_false, Bool.false_eq_true, if_false,
    if_true]

variable (hxfr : seenOk xfr = true)
include hxfr

theorem exec_recordOpen_no_key {q : Nat} (ho : opened (openSeen s c row xfr) c x r = .error q) :
    exec (.recordOpen id e row xfr) s = .next (returnRec (openSeen s c row xfr) c k st r q none) := by
  obtain ⟨hrun, hturn⟩ := open_engine_ready he
  change execRecordOpen id e row xfr s = _
  simp only [execRecordOpen, hw, hp, hrun, hturn, hspan, hrow, hxfr, ho, Bool.not_true, Bool.false_eq_true, if_false]

theorem exec_recordOpen_opened {good : Bool} {b : Bytes} (ho : opened (openSeen s c row xfr) c x r = .ok (good, b)) :
    exec (.recordOpen id e row xfr) s =
      let v := openSeen s c row xfr
      if bitOf (c.fld 0x12 1) 0 then
        if good then .next (returnRec v c k st r 0 none)
        else if rt < 4 then .next (setProg (countFault v 6 1 0 0 1) id (.reading n off bytes bad 1 [] (rt + 4)))
        else .next (returnRec (openSpent v c st r 0x22 evTagFail) c k st r 0x22 none)
      else .next (setProg v id (.reading n off bytes bad (if good then 2 else 3) b rt)) := by
  obtain ⟨hrun, hturn⟩ := open_engine_ready he
  change execRecordOpen id e row xfr s = _
  simp only [execRecordOpen, hw, hp, hrun, hturn, hspan, hrow, hxfr, ho, Bool.not_true, Bool.false_eq_true, if_false]

end recordOpen

section recordDecompress
variable {s : State} {id k : Nat} {c : Cmd} {st : Stream} {x : Ctx} {r : TapeRec} {n off bytes rt : Nat} {bad : Bool} {p : Bytes}
  {egr : Seen} (hw : readWork s id = some (c, k, st, x, r)) (heng : engRun s 1 st.xp = true)
include hw heng

/-- A record whose tag verified expands; its data count when EGR is good. -/
theorem exec_recordDecompress_expanded {d : Bytes} (hp : c.prog = .reading n off bytes bad 2 p rt)
    (hd : expanded s c st x r p = .ok d) : exec (.recordDecompress id egr) s =
      let u := noteSeen s egr evChain subjCtx c.ctx
      .next (if !seenOk egr then restoreFault u c k st r egr evChain else returnRec u c k st r 0 (some d)) := by
  change execRecordDecompress id egr s = _
  cases hegr : seenOk egr <;> simp [execRecordDecompress, hw, hp, heng, hd, hegr]

/-- A record whose tag failed is opened once more. -/
theorem exec_recordDecompress_tag_bad (hp : c.prog = .reading n off bytes bad 3 p rt) (hrt : rt < 4) :
    exec (.recordDecompress id egr) s =
      .next (setProg (countFault (noteSeen s egr evChain subjCtx c.ctx) 6 1 0 0 1) id (.reading n off bytes bad 1 [] (rt + 4))) := by
  change execRecordDecompress id egr s = _
  simp [execRecordDecompress, hw, hp, heng, hrt]

/-- A record that does not expand is opened once more, and then returned with its error and what came before it. -/
theorem exec_recordDecompress_error {q : Nat} {d : Bytes} (hp : c.prog = .reading n off bytes bad 2 p rt)
    (hd : expanded s c st x r p = .error (q, d)) (h0 : q ≠ 0) (h28 : q ≠ 0x28) : exec (.recordDecompress id egr) s =
      let u := noteSeen s egr evChain subjCtx c.ctx
      .next (if rt < 4 then setProg (countFault u 6 1 0 0 1) id (.reading n off bytes bad 1 [] (rt + 4))
        else returnRec (openSpent u c st r q (recEvent q)) c k st r q (if d.isEmpty then none else some d)) := by
  change execRecordDecompress id egr s = _
  by_cases hrt : rt < 4 <;> simp [execRecordDecompress, hw, hp, heng, hd, h0, h28, hrt]

end recordDecompress

/-- Settles O27: RECORD_OPEN ends with the first of its checks that fails, RECORD_DECOMPRESS by the progress that RECORD_OPEN left and
by what expanding gives. -/
theorem openAndExpand : Obligations.OpenAndExpand := by
  unfold Obligations.OpenAndExpand
  intro s id k c st x r n off bytes bad p h rt hw hp
  refine ⟨?recordOpen, fun egr heng => ⟨?expands, ?tagBad, ?error⟩⟩
  case recordOpen =>
    rintro e row xfr rfl he hspan
    refine ⟨fun hrow => exec_recordOpen_row_bad hw hp he hspan hrow,
      fun hrow hxfr => exec_recordOpen_xfr_bad hw hp he hspan hrow hxfr, fun hrow hxfr => ⟨fun q ho => ?_, fun b hv ho => ?_,
        fun b hv ho hrt => ?_, fun b hv ho hrt => ?_, fun good b hv ho => ?_⟩⟩
    · exact exec_recordOpen_no_key hw hp he hspan hrow hxfr ho
    · rw [exec_recordOpen_opened hw hp he hspan hrow hxfr ho, hv]; rfl
    · rw [exec_recordOpen_opened hw hp he hspan hrow hxfr ho, hv]; simp only [Bool.false_eq_true, if_false, if_true, hrt]
    · rw [exec_recordOpen_opened hw hp he hspan hrow hxfr ho, hv]
      simp only [Bool.false_eq_true, if_false, if_true, Nat.not_lt.2 hrt]
    · rw [exec_recordOpen_opened hw hp he hspan hrow hxfr ho, hv]; rfl
  case expands =>
    rintro d rfl hd
    rw [exec_recordDecompress_expanded hw heng hp hd]
    exact ⟨fun hegr => by rw [hegr]; rfl, fun hegr => by rw [hegr]; rfl⟩
  case tagBad =>
    rintro rfl hrt
    exact exec_recordDecompress_tag_bad hw heng hp hrt
  case error =>
    rintro q d rfl hd h0 h28
    rw [exec_recordDecompress_error hw heng hp hd h0 h28]
    exact ⟨fun hrt => congrArg Host.Outcome.next (if_pos hrt), fun hrt => congrArg Host.Outcome.next (if_neg (Nat.not_lt.2 hrt))⟩

/-! ### Service jobs start (R280, R281, R330) -/

/-- The scatter lists of a service command are good. -/
abbrev ListsOk (c : Cmd) (inSgl outSgl : List SglElem) : Prop :=
  sglOk (c.fld 0x12 2) (c.fld 0x14 4) inSgl = true ∧ sglOk (c.fld 0x2C 2) (c.fld 0x28 4) outSgl = true

section startJob
variable {s : State} {c : Cmd} {inSgl outSgl : List SglElem} (j : Job)

theorem startJob_of_bad_lists (h : ¬ ListsOk c inSgl outSgl) : startJob s c inSgl outSgl j = complete s c.id (Compl.of 6) := by
  have hbad : (!sglOk (c.fld 0x12 2) (c.fld 0x14 4) inSgl || !sglOk (c.fld 0x2C 2) (c.fld 0x28 4) outSgl) = true := by
    rwa [← Bool.not_and, Bool.not_eq_true', ← Bool.not_eq_true, Bool.and_eq_true]
  rw [startJob, if_pos hbad]

theorem startJob_of_shut (h : ListsOk c inSgl outSgl) (hs : lanesShut s j.compress = true) :
    startJob s c inSgl outSgl j = complete s c.id (Compl.of 0x42) := by
  simp [startJob, h.1, h.2, hs]

theorem startJob_of_free {i : Nat} (h : ListsOk c inSgl outSgl) (hs : lanesShut s j.compress = false)
    (hi : freeLane s j.compress = some i) :
    startJob s c inSgl outSgl j =
      let u := (pieces (c.fld 0x18 8) (c.fld 0x14 4) (c.fld 0x12 2) inSgl).foldl (fun s p => cmdRead s c p.1 p.2) s
      let j := { j with lane := i, outTo := pieces (c.fld 0x20 8) (c.fld 0x28 4) (c.fld 0x2C 2) outSgl }
      setProg { u with svc := Tbl.put u.svc c.id j } c.id (.engine i) := by
  simp [startJob, h.1, h.2, hs, hi]

end startJob

theorem exec_compress {s : State} {id : Nat} {c : Cmd} (h : Started s id 0x80 c) (hd : dataOk s c = true) (inSgl outSgl : List SglElem) :
    exec (.compress id inSgl outSgl) s = .next (startJob s c inSgl outSgl (Job.begin c true)) := by
  change Host.Outcome.next (withCmd s id 0x80 _) = _
  rw [withCmd_of_started h, hd]; rfl

theorem exec_decompress {s : State} {id : Nat} {c : Cmd} (h : Started s id 0x81 c) (hd : dataOk s c = true) (inSgl outSgl : List SglElem) :
    exec (.decompress id inSgl outSgl) s = .next (startJob s c inSgl outSgl (Job.begin c false)) := by
  change Host.Outcome.next (withCmd s id 0x81 _) = _
  rw [withCmd_of_started h, hd]; rfl

theorem exec_resume {s : State} {id : Nat} {c : Cmd} (h : Started s id 0x82 c) (hd : dataOk s c = true) (ctx : Bytes)
    (inSgl outSgl : List SglElem) :
    exec (.resume id ctx inSgl outSgl) s = .next (let u := cmdRead s c (c.fld 0x30 8) 66560
      if ctxOk c ctx then startJob u c inSgl outSgl (Job.resume c ctx) else complete u id (Compl.field 0xFF)) := by
  change Host.Outcome.next (withCmd s id 0x82 _) = _
  rw [withCmd_of_started h]
  simp only [dataOk_cmdRead, hd]
  cases ctxOk c ctx <;> rfl

/-! ### Service jobs end (R318 to R325, R334) -/

/-- A job that holds its lane, with its input read twice. -/
theorem exec_serviceJobEnd {s : State} {id : Nat} {c : Cmd} {j : Job} {r : JobEnd} (hc : cmdOf s id = some c)
    (hdone : c.done = none) (hj : Tbl.get? s.svc id = some j) (hlane : j.lane ≠ noLane) (hin : r.input.length = j.inLen)
    (hagain : r.again.length = j.inLen) : exec (.serviceJobEnd id r) s =
    let u := noteSeen s r.chk evChain subjCtx c.ctx
    let q := secondDecode u c j r (runJob j r.input r.steps)
    let v := cmdScatter q.1 c j.outTo 0 q.2.out false
    let wr := writesCtx j q.2.status
    if !seenOk r.chk then .next u
    else .next (leaveLane (complete
      (if wr && r.ctxWriteOk then cmdWrite v c (c.fld 0x30 8) (ctxBytes c j q.2) false else v) id
      (if wr && !r.ctxWriteOk then { Compl.ok q.2.inUsed q.2.out.length with status := 7 }
       else { Compl.ok q.2.inUsed q.2.out.length with status := q.2.status, more := q.2.more, resumable := wr })) id j q.2) := by
  have hgo : (c.done.isSome || j.lane == noLane || r.input.length != j.inLen || r.again.length != j.inLen) = false := by
    simp [hdone, hlane, hin, hagain]
  change execServiceJobEnd id r s = _
  simp only [execServiceJobEnd, hc, hj, hgo, Bool.false_eq_true, if_false]

/-! ### CRYPT_BLOCK (R345, R346, R353, R390 to R392) -/

/-- The end of a CRYPT_BLOCK that has its engine and its IV. -/
def cryptEnd (s : State) (id : Nat) (c : Cmd) (key : KeyVal) (inSgl outSgl : List SglElem) (input aad : Bytes) (ivt : BitVec 256)
    (iv : Bytes) (r2 : Nat) : State :=
  let r := cryptRun key.bytes input aad (c.fld 0x10 1) iv (leBytes 16 (fieldOf ivt 16 16))
  let v := cmdScatter (cryptReads s c inSgl) c (pieces (c.fld 0x20 8) (c.fld 0x14 4) (c.fld 0x28 2) outSgl) 0 r.1 false
  complete (cmdWrite v c (c.fld 0x38 8) r.2.1 false) id { Compl.ok r.1.length r2 with status := r.2.2 }

@[simp] theorem cryptReads_fid (s : State) (c : Cmd) (inSgl : List SglElem) : (cryptReads s c inSgl).keys.fid = s.keys.fid :=
  ((cryptReads_only (L := [.outputs]) .refl (by decide)) .nonces (by decide)).1

/-- A CRYPT_BLOCK that has its key, host access and good lists: its IV block, an engine in RUN, its turn, and the IV. -/
theorem exec_cryptBlock {s : State} {id e : Nat} {c : Cmd} {x : Ctx} {key : KeyVal} {inSgl outSgl : List SglElem}
    {input aad : Bytes} {ivt : BitVec 256} (hc : cmdOf s id = some c) (hop : c.opcode = 0x84) (hdone : c.done = none)
    (hprog : c.prog ≠ .ordered) (hx : ctxOf s c.ctx = some x) (hkey : selectKey s c x.d = .ok (some key))
    (hd : dataOk s c = true) (hin : sglOk (c.fld 0x12 2) (c.fld 0x14 4) inSgl = true)
    (hout : c.fld 0x10 1 = 2 ∨ c.fld 0x14 4 = 0 ∨ sglOk (c.fld 0x28 2) (c.fld 0x14 4) outSgl = true) :
    exec (.cryptBlock id e inSgl outSgl input aad ivt) s = .next (
    if c.fld 0x10 1 ≠ 0 ∧ fieldOf ivt 12 4 ≠ 0 then complete s id (Compl.field 0xFF)
    else if (runEngines s 2).isEmpty then complete s id (Compl.of 0x42)
    else if !(runEngines s 2).elem e || sealWaits s || openWaits s || blockWaits s id || input.length != c.fld 0x14 4 ||
        aad.length != c.fld 0x2A 2 then updCmd s id fun c => { c with prog := .waiting 0 }
    else if c.fld 0x10 1 = 0 then
      (nextIv s).1.elim (complete (countReject (nextIv s).2) id (Compl.of 0x48)) fun ctr =>
        cryptEnd (nextIv s).2 id c key inSgl outSgl input aad ivt (ivBytes (nextIv s).2.keys.fid ctr) ctr
    else cryptEnd s id c key inSgl outSgl input aad ivt (leBytes 12 (fieldOf ivt 0 12)) 0) := by
  have hlists : (!sglOk (c.fld 0x12 2) (c.fld 0x14 4) inSgl ||
      (c.fld 0x10 1 != 2 && c.fld 0x14 4 != 0 && !sglOk (c.fld 0x28 2) (c.fld 0x14 4) outSgl)) = false := by
    rw [hin]
    rcases hout with h | h | h <;> simp [h]
  change Host.Outcome.next (withCmdW s id 0x84 _) = _
  rw [withCmdW_of_cmdOf hc hop hdone hprog]
  simp only [hx, hkey, hd, hlists, Bool.not_true, Bool.false_eq_true, if_false, cryptReads_fid]
  by_cases hmode : c.fld 0x10 1 = 0
  · cases hiv : (nextIv s).1 <;> simp only [hmode, hiv, if_true, Option.elim, cryptEnd]
  · simp only [hmode, if_false, cryptEnd]

/-- Settles O28: a service command starts its job by `startJob`, its job ends by `exec_serviceJobEnd`, and a CRYPT_BLOCK
goes through the checks of `exec_cryptBlock`. -/
theorem serviceCommands : Obligations.ServiceCommands := by
  unfold Obligations.ServiceCommands
  refine ⟨fun s id i c inSgl outSgl ctx hd => ⟨fun h => ?compress, fun h => ?decompress, fun h => ?resume⟩,
    fun s id c j r hc hdone hj hlane hin hagain => ?jobEnd,
    fun s id e c x key inSgl outSgl input aad ivt hc hop hdone hprog hx hkey hd hin hout => ?crypt⟩
  case compress =>
    rw [exec_compress h hd, ← id_of_cmdOf h.1]
    exact ⟨fun hl => congrArg Host.Outcome.next (startJob_of_bad_lists _ hl),
      fun hl hs => congrArg Host.Outcome.next (startJob_of_shut (Job.begin c true) hl hs),
      fun hl hs hi => congrArg Host.Outcome.next (startJob_of_free (Job.begin c true) hl hs hi)⟩
  case decompress =>
    rw [exec_decompress h hd, ← id_of_cmdOf h.1]
    exact ⟨fun hl => congrArg Host.Outcome.next (startJob_of_bad_lists _ hl),
      fun hl hs => congrArg Host.Outcome.next (startJob_of_shut (Job.begin c false) hl hs),
      fun hl hs hi => congrArg Host.Outcome.next (startJob_of_free (Job.begin c false) hl hs hi)⟩
  case resume =>
    rw [exec_resume h hd, ← id_of_cmdOf h.1]
    dsimp only
    refine ⟨fun hbad => ?_, fun hok hl hs => ?_, fun hok hl hs hi => ?_⟩
    · rw [hbad]; rfl
    · rw [if_pos hok, startJob_of_shut _ hl (by rwa [lanesShut_cmdRead])]
    · rw [if_pos hok, startJob_of_free _ hl (by rwa [lanesShut_cmdRead]) (by rwa [freeLane_cmdRead])]
  case jobEnd =>
    rw [exec_serviceJobEnd hc hdone hj hlane hin hagain]
    dsimp only
    refine ⟨fun hbad => ?_, fun hok hw => ?_, fun hok hwr hw => ?_⟩
    · rw [hbad]; rfl
    · cases hwr : writesCtx j (secondDecode (noteSeen s r.chk evChain subjCtx c.ctx) c j r (runJob j r.input r.steps)).2.status with
      | true => rw [hok, hw hwr]; rfl
      | false => rw [hok]; rfl
    · rw [hok, hwr, hw]; rfl
  case crypt =>
    rw [exec_cryptBlock hc hop hdone hprog hx hkey hd hin hout]
    have givenIv (hv : c.fld 0x10 1 = 0 ∨ fieldOf ivt 12 4 = 0) : ¬(c.fld 0x10 1 ≠ 0 ∧ fieldOf ivt 12 4 ≠ 0) :=
      fun h => hv.elim h.1 h.2
    refine ⟨fun hm hv => ?_, fun hv hr => ?_, fun hv hr hs ho hb hlen halen => ?_⟩
    · rw [if_pos ⟨hm, hv⟩]
    · rw [if_neg (givenIv hv), hr]; rfl
    · rw [if_neg (givenIv hv), isEmpty_of_elem hr, hr, hs, ho, hb, hlen, halen, bne_self_eq_false, bne_self_eq_false]
      exact ⟨fun hm => by rw [if_neg hm]; rfl, fun ctr hm hi => by rw [if_pos hm, hi]; rfl,
        fun hm hi => by rw [if_pos hm, hi]; rfl⟩

end Sys2Proof.Machine
end

section
/-! Entries of the rings: fetched, consumed without charge, and admitted by their domain (O7, O8). -/

namespace Sys2Proof.Machine

/-! ### ENTRY_FETCH and RING_ENTRY_READ_ERROR (R60, R150, R179, R214) -/

section fetch
variable {s : State} {n : Nat} {r : Ring} (hr : Tbl.get? s.rings.tbl n = some r) (hon : ringOn s n r = true)
  (hlook : r.look = none) (htail : r.sqTail ≠ r.sqHead) (hcredit : creditFree s n r = true)

include hon hlook htail hcredit in
/-- The ring's next entry may be read. -/
theorem entry_may_be_read : (ringOn s n r && r.look.isNone && r.sqTail != r.sqHead && creditFree s n r) = true := by
  simp [hon, hlook, htail, hcredit]

include hr hon hlook htail hcredit

theorem exec_entryFetch (e : Entry) (b : Nat) : exec (.entryFetch n e b) s = .next (countHw s { s with
    out := .rd r.owner none (r.sqBase + 64 * r.sqHead) 64 :: s.out,
    rings.tbl := Tbl.put s.rings.tbl n { r with look := some ⟨e, b, false⟩ } } (fieldOf e 4 2 % 4096)) := by
  change execEntryFetch n e b s = _
  simp only [execEntryFetch, hr, entry_may_be_read hon hlook htail hcredit, if_true]

theorem exec_ringEntryReadError (k : ReadErr) : exec (.ringEntryReadError n k) s = .next (
    let u : State := { s with
      out := .rd r.owner none (r.sqBase + 64 * r.sqHead) 64 :: s.out,
      rings.tbl := Tbl.put s.rings.tbl n { r with
        st := .error, errCause := match k with
          | .poisoned => 1
          | .timeout => 2
          | .urCa => 3
          | .ecrc => 4 } }
    faultSpent (countFault (logReadErr u r.owner k) 0 1 0 0 0)
      { FltLog.blank with cls := 0, event := evRingError, ring := n, tries := 1 } subjRing n) := by
  change execRingEntryReadError n k s = _
  simp only [execRingEntryReadError, hr, entry_may_be_read hon hlook htail hcredit, if_true] <;> rfl

end fetch

/-! ### ENTRY_ADMIT (R58, R62, R63, R67, R103, R180, R183) -/

/-- A ring that can consume its lookahead entry, with a tag for it, decides it after the buckets are refilled. -/
theorem exec_entryAdmit {s : State} {n : Nat} {r : Ring} {l : Look} {id : Nat} (hr : Tbl.get? s.rings.tbl n = some r)
    (hlook : r.look = some l) (hon : ringOn s n r = true) (htag : tagFree s n r = true) (hid : freeTag s = some id) :
    exec (.entryAdmit n) s = .next (admitLook (refill s) n r l id) := by
  change execEntryAdmit n s = _
  simp only [execEntryAdmit, hr, hlook, hid, hon, htag, Bool.and_true, if_true]

section admitLook
variable {s : State} {n : Nat} {r : Ring} {l : Look} (id : Nat)

theorem admitLook_of_entryCheck_some {k : Compl} (hk : entryCheck s r.owner n false l.entry = some k) :
    admitLook s n r l id = complete (consume s n r l.entry id 0 none) id k := by
  simp only [admitLook, hk]

variable (hk : entryCheck s r.owner n false l.entry = none)
include hk

theorem admitLook_of_lost (hl : l.lost = true) :
    admitLook s n r l id = complete (consume s n r l.entry id 0 none) id (Compl.of 3) := by
  simp only [admitLook, hk, hl, if_true]

variable (hl : l.lost = false)
include hl

/-- A write of a HALTED context is turned away (R55). -/
theorem admitLook_of_halted (hop : fieldOf l.entry 0 1 = 0x41 ∨ fieldOf l.entry 0 1 = 0x42)
    (hh : (ctxOf s (fieldOf l.entry 4 2 % 4096)).elim false halted = true) :
    admitLook s n r l id = complete (consume s n r l.entry id 0 none) id (Compl.of 0x41) := by
  have hw : (fieldOf l.entry 0 1 == 0x41 || fieldOf l.entry 0 1 == 0x42) = true := by simpa using hop
  simp only [admitLook, hk, hl, hw, hh, Bool.and_true, Bool.false_eq_true, if_false, if_true]

variable (hw : ((fieldOf l.entry 0 1 == 0x41 || fieldOf l.entry 0 1 == 0x42) &&
  (ctxOf s (fieldOf l.entry 4 2 % 4096)).elim false halted) = false)
include hw

theorem admitLook_of_no_domain (hd : entryDomain s n l.entry = none) :
    admitLook s n r l id = consume s n r l.entry id 0 none := by
  simp only [admitLook, hk, hl, hw, hd, Bool.false_eq_true, if_false]

/-- A charged entry is admitted when its ring is the one that its domain picks, and waits otherwise (R63, R67). -/
theorem admitLook_of_charge {d : Nat} (hd : entryDomain s n l.entry = some d) (hc : lookCharge s n l ≠ 0) :
    admitLook s n r l id = if pick s d = some n then
      consume (admitData s d (lookCharge s n l) l (fieldOf l.entry 0 1)) n r l.entry id (lookCharge s n l)
        (some (d, slotClass (fieldOf l.entry 0 1))) else s := by
  simp only [admitLook, hk, hl, hw, hd, hc, Bool.false_eq_true, if_false]

end admitLook

/-- An entry that is no data entry is no write. -/
theorem not_write_of_not_dataOp {op : Nat} (h : dataOp op = false) : (op == 0x41 || op == 0x42) = false := by
  simp only [dataOp, Bool.or_eq_false_iff] at h ⊢
  tauto

/-- Settles O7: a fetch is `exec_entryFetch` or `exec_ringEntryReadError`; an entry without a charge is decided by the first branch
of `admitLook` that it meets. -/
theorem ringEntriesFetchedAndConsumed : Obligations.RingEntriesFetchedAndConsumed := by
  unfold Obligations.RingEntriesFetchedAndConsumed
  refine ⟨fun s n r hr hon hlook htail hcredit => ⟨?fetch, ?readError⟩, fun s n r l id hr hlook hon htag hid => ?entryDecided⟩
  case fetch => exact exec_entryFetch hr hon hlook htail hcredit
  case readError => exact exec_ringEntryReadError hr hon hlook htail hcredit
  case entryDecided =>
    rw [exec_entryAdmit hr hlook hon htag hid]
    refine ⟨fun k hk => ?_, fun hk hl => ?_, fun hk hl hop hd => ?_⟩
    · rw [admitLook_of_entryCheck_some id hk]
    · rw [admitLook_of_lost id hk hl]
    · rw [admitLook_of_no_domain id hk hl (by rw [not_write_of_not_dataOp hop, Bool.false_and]) hd]

/-! ### The admission of a charged entry (R55, R64, R65, R67) -/

/-- A charged entry is one that no check turns away: it was not lost, it passes R183, and it is no write of a HALTED context. -/
theorem checks_of_lookCharge_ne_zero {s : State} {n : Nat} {l : Look} (h : lookCharge s n l ≠ 0) :
    entryCheck s (ringOwner s n) n false l.entry = none ∧ l.lost = false ∧
    ((fieldOf l.entry 0 1 == 0x41 || fieldOf l.entry 0 1 == 0x42) &&
      (ctxOf s (fieldOf l.entry 4 2 % 4096)).elim false halted) = false := by
  unfold lookCharge at h
  dsimp only at h
  split at h
  · exact absurd rfl h
  next hno =>
    simp only [Bool.or_eq_true, not_or, Bool.not_eq_true, Option.isSome_eq_false_iff, Option.isNone_iff_eq_none] at hno
    obtain ⟨⟨-, hlost⟩, hcheck⟩ := hno
    refine ⟨hcheck, hlost, ?_⟩
    split at h
    next x _ hx =>
      split at h
      · exact absurd rfl h
      next hw =>
        rw [hx, Option.elim_some]
        exact Bool.eq_false_iff.2 fun hb => hw (by
          rw [Bool.and_eq_true] at hb ⊢
          exact ⟨hb.1, Bool.or_eq_true_iff.2 (.inl hb.2)⟩)
    · exact absurd rfl h

/-- What consuming an entry changes: its ring, the commands, and perhaps a job and a stream. -/
theorem consume_eq (s : State) (n : Nat) (r : Ring) (e : Entry) (id charge : Nat) (slot : Option (Nat × SlotCls)) :
    ∃ v, consume s n r e id charge slot = { s with
      rings.tbl := Tbl.put s.rings.tbl n { r with
        look := none, sqHead := (r.sqHead + 1) % 2 ^ r.log2, consumed := satAdd 64 r.consumed 1 },
      rings.cmds := s.rings.cmds ++ [newCmd s id n charge e slot], svc := Tbl.del s.svc id, strm := v } := by
  unfold consume
  dsimp only
  split
  · split
    · exact ⟨_, rfl⟩
    · exact ⟨_, rfl⟩
  · exact ⟨_, rfl⟩

section consume
variable (s : State) (n : Nat) (r : Ring) (e : Entry) (id charge : Nat) (slot : Option (Nat × SlotCls))

@[simp] theorem consume_ten : (consume s n r e id charge slot).ten = s.ten := by
  obtain ⟨v, h⟩ := consume_eq s n r e id charge slot
  rw [h]

@[simp] theorem domOf_consume (d : Nat) : domOf (consume s n r e id charge slot) d = domOf s d := by
  rw [domOf, consume_ten, domOf]

@[simp] theorem ctxOf_consume (k : Nat) : ctxOf (consume s n r e id charge slot) k = ctxOf s k := by
  rw [ctxOf, consume_ten, ctxOf]

theorem newCmd_mem_consume : newCmd s id n charge e slot ∈ (consume s n r e id charge slot).rings.cmds := by
  obtain ⟨v, h⟩ := consume_eq s n r e id charge slot
  rw [h]
  exact List.mem_append_right _ (List.mem_singleton.2 rfl)

theorem ring_consume : Tbl.get? (consume s n r e id charge slot).rings.tbl n = some { r with
    look := none, sqHead := (r.sqHead + 1) % 2 ^ r.log2, consumed := satAdd 64 r.consumed 1 } := by
  obtain ⟨v, h⟩ := consume_eq s n r e id charge slot
  rw [h]
  exact Tbl.get?_put_self _ _ _

end consume

/-- Taking a slot leaves the virtual time. -/
@[simp] theorem domOf_takeSlot_v (s : State) (d : Nat) (k : SlotCls) : (domOf (takeSlot s d k) d).v = (domOf s d).v := by
  cases k <;> simp [domOf, takeSlot]

/-- The virtual time becomes the entry's start tag (R67). -/
theorem domOf_admitData_v (s : State) (d charge : Nat) (l : Look) (op : Nat) :
    (domOf (admitData s d charge l op) d).v = startTag s d l := by
  change (domOf (takeSlot _ d _) d).v = _
  rw [domOf_takeSlot_v]
  simp [domOf]

/-- The entry's context takes the numbers of the admission. -/
theorem ctxOf_admitData (s : State) (d charge : Nat) (l : Look) (op : Nat) :
    ctxOf (admitData s d charge l op) (fieldOf l.entry 4 2 % 4096) =
      (ctxOf s (fieldOf l.entry 4 2 % 4096)).map (admitCtx s d charge (startTag s d l) op) := by
  unfold admitData
  rw [ctxOf_updCtx_self]
  rfl

/-- Settles O8: a charged entry passes every check, so `admitLook` either consumes it after `admitData`, or leaves it. -/
theorem admitDataEntry : Obligations.AdmitDataEntry := by
  unfold Obligations.AdmitDataEntry
  intro s n r l id d hr hlook hon htag hid
  rw [exec_entryAdmit hr hlook hon htag hid]
  refine ⟨fun hd hc => ?charged, fun hop hk hl hh => ?halted⟩
  case halted => rw [admitLook_of_halted id hk hl hop hh]
  case charged =>
    have howner : ringOwner (refill s) n = r.owner := by simp [ringOwner, refill, hr]
    obtain ⟨hk, hl, hw⟩ := checks_of_lookCharge_ne_zero hc
    rw [howner] at hk
    rw [admitLook_of_charge id hk hl hw hd hc]
    refine ⟨fun x hp hx => ?_, fun hp => by rw [if_neg hp]⟩
    rw [if_pos hp]
    refine ⟨_, admitCtx (refill s) d (lookCharge (refill s) n l) (startTag (refill s) d l) (fieldOf l.entry 0 1) x, rfl, ?_,
      ⟨_, newCmd_mem_consume .., rfl, rfl, rfl, rfl⟩, ring_consume .., ?_, rfl, rfl, ?_⟩
    · rw [domOf_consume, domOf_admitData_v]
    · rw [ctxOf_consume, ctxOf_admitData, hx, Option.map_some]
    · simp [admitCtx]

end Sys2Proof.Machine
end

section
/-! CREATE_CONTEXT, MODIFY_CONTEXT and DELETE_CONTEXT (O13). -/

namespace Sys2Proof.Machine

/-! ### CREATE_CONTEXT and MODIFY_CONTEXT (R86, R91, R93 to R95, R104, R105) -/

section descriptor
variable {s : State} {id : Nat} {c : Cmd} (desc : BitVec 1024)

/-- A CREATE_CONTEXT that reaches its descriptor. -/
theorem exec_createContext (h : Started s id 0x08 c) (hd : dataOk s c = true) : exec (.createContext id desc) s = .next (
    let b := cmdBlock s c (c.fld 0x10 8) desc
    let u := cmdRead s c (c.fld 0x10 8) 128
    if (ctxOf s c.ctx).isSome then complete s id (Compl.of 4)
    else if !descReservedOk b 0xFFFF || !descOk s c.ctx (readDesc b) true then complete u id (Compl.field 0xFF)
    else if inFlr s (readDesc b).ownerFn then complete u id (Compl.of 4)
    else complete { u with ten.ctx := Tbl.put s.ten.ctx c.ctx (Ctx.fresh (readDesc b)) } id (Compl.ok 0 0)) := by
  obtain ⟨o, ho⟩ := cmdRead_eq_out s c (c.fld 0x10 8) 128
  change Host.Outcome.next (withCmd s id 0x08 _) = _
  rw [withCmd_of_started h, hd, ho]
  rfl

/-- A MODIFY_CONTEXT that reaches its descriptor, of a context that is neither FREE nor DELETING. -/
theorem exec_modifyContext {x : Ctx} (h : Started s id 0x09 c) (hx : ctxOf s c.ctx = some x) (hst : x.st ≠ .deleting)
    (hd : dataOk s c = true) : exec (.modifyContext id desc) s = .next (
    let b := cmdBlock s c (c.fld 0x10 8) desc
    let u := cmdRead s c (c.fld 0x10 8) 128
    let mask := c.fld 0x18 4
    let d := mergeDesc x.d (readDesc b) mask
    if !descReservedOk b mask || !descOk s c.ctx d (sel mask 0) then complete u id (Compl.field 0xFF)
    else if sel mask 0 && inFlr s d.ownerFn then complete u id (Compl.of 4)
    else if (identityMask mask || withdraws s c.ctx x.d d) &&
        (!(ctxStreams s c.ctx).isEmpty || !(inFlight s c.ctx).isEmpty) then complete u id (Compl.of 4)
    else
      let v := updCtx u c.ctx fun y => modified y d mask
      complete (countHw u (if x.d.ownerFn = d.ownerFn then v else loseLooks v c.ctx) c.ctx) id (Compl.ok 0 0)) := by
  obtain ⟨o, ho⟩ := cmdRead_eq_out s c (c.fld 0x10 8) 128
  change Host.Outcome.next (withCmd s id 0x09 _) = _
  rw [withCmd_of_started h, ho]
  simp only [hx, hst, hd, if_false, Bool.not_true, Bool.false_eq_true]
  rfl

end descriptor

/-- A context with neither commands in flight nor open streams, as the context commands ask for it. -/
theorem context_idle_iff {s : State} {k : Nat} :
    (!(ctxStreams s k).isEmpty || !(inFlight s k).isEmpty) = false ↔ inFlight s k = [] ∧ ctxStreams s k = [] := by
  simp [and_comm]

theorem context_in_use_iff {s : State} {k : Nat} :
    (!(ctxStreams s k).isEmpty || !(inFlight s k).isEmpty) = true ↔ inFlight s k ≠ [] ∨ ctxStreams s k ≠ [] := by
  simp [or_comm]

/-! ### What a posting pass keeps (R138, R173) -/

@[simp] theorem forgetPosted_id (l : List Cmd) (c : Cmd) : (forgetPosted l c).id = c.id := by
  unfold forgetPosted
  split <;> rfl

@[simp] theorem forgetPosted_entry (l : List Cmd) (c : Cmd) : (forgetPosted l c).entry = c.entry := by
  unfold forgetPosted
  split <;> rfl

@[simp] theorem forgetPosted_done (l : List Cmd) (c : Cmd) : (forgetPosted l c).done = c.done := by
  unfold forgetPosted
  split <;> rfl

/-- Only an ABORT that waits forgets. -/
theorem forgetPosted_of_waiting (l : List Cmd) {c : Cmd} {n : Nat} (h : c.prog = .waiting n) : forgetPosted l c = c := by
  simp only [forgetPosted, h]

/-- A command is kept, or it was completed and is posted. -/
theorem postStep_snd (p : State × List Cmd) (c : Cmd) :
    (postStep p c).2 = p.2 ++ [c] ∨ ((postStep p c).2 = p.2 ∧ c.done ≠ none) := by
  unfold postStep
  split
  next hdone =>
    split
    · exact .inr ⟨rfl, by simp [hdone]⟩
    · exact .inl rfl
  · exact .inl rfl

/-- A posting pass keeps commands in their order; the first one of a kind, not completed yet, stays the first. -/
theorem foldl_postStep_snd (l : List Cmd) (p : State × List Cmd) : ∃ k : List Cmd, (l.foldl postStep p).2 = p.2 ++ k ∧ k.Sublist l ∧
    ∀ (q : Cmd → Bool) (c : Cmd), l.find? q = some c → c.done = none → k.find? q = some c := by
  induction l generalizing p with
  | nil => exact ⟨[], (List.append_nil _).symm, .slnil, fun q c h => nomatch h⟩
  | cons a r ih =>
    obtain ⟨k, hk, hsub, hfind⟩ := ih (postStep p a)
    rw [List.foldl_cons, hk]
    obtain hkept | ⟨hposted, hdone⟩ := postStep_snd p a
    · refine ⟨a :: k, by rw [hkept, List.append_assoc, List.singleton_append], hsub.cons_cons a, fun q c h hc => ?_⟩
      cases hq : q a with
      | true => simpa [List.find?_cons, hq] using h
      | false => simpa [List.find?_cons, hq] using hfind q c (by simpa [List.find?_cons, hq] using h) hc
    · refine ⟨k, by rw [hposted], hsub.cons a, fun q c h hc => ?_⟩
      cases hq : q a with
      | true =>
        obtain rfl : a = c := by simpa [List.find?_cons, hq] using h
        exact absurd hc hdone
      | false => exact hfind q c (by simpa [List.find?_cons, hq] using h) hc

/-- The commands after a posting pass. -/
theorem postAll_cmds (s : State) : ∃ k : List Cmd, (postAll s).rings.cmds = k.map (forgetPosted k) ∧ k.Sublist s.rings.cmds ∧
    ∀ (q : Cmd → Bool) (c : Cmd), s.rings.cmds.find? q = some c → c.done = none → k.find? q = some c := by
  obtain ⟨k, hk, hsub, hfind⟩ := foldl_postStep_snd s.rings.cmds (s, [])
  refine ⟨k, ?_, hsub, hfind⟩
  change (s.rings.cmds.foldl postStep (s, [])).2.map (forgetPosted (s.rings.cmds.foldl postStep (s, [])).2) = _
  rw [hk, List.nil_append]

/-- A command that waits is still there after a posting pass. -/
theorem cmdOf_postAll_of_waiting {s : State} {id n : Nat} {c : Cmd} (h : cmdOf s id = some c) (hdone : c.done = none)
    (hprog : c.prog = .waiting n) : cmdOf (postAll s) id = some c := by
  obtain ⟨k, hk, -, hfind⟩ := postAll_cmds s
  have hid : (fun d : Cmd => d.id == id) ∘ forgetPosted k = fun d => d.id == id := by
    funext d
    simp
  rw [cmdOf, hk, List.find?_map, hid, hfind _ c h hdone, Option.map_some, forgetPosted_of_waiting k hprog]

theorem mem_postAll_cmds {s : State} {d : Cmd} (h : d ∈ (postAll s).rings.cmds) :
    ∃ c ∈ s.rings.cmds, d.entry = c.entry ∧ d.done = c.done := by
  obtain ⟨k, hk, hsub, -⟩ := postAll_cmds s
  rw [hk] at h
  obtain ⟨c, hc, rfl⟩ := List.mem_map.1 h
  exact ⟨c, hsub.subset hc, by simp, by simp⟩

theorem mem_setProg_cmds {s : State} {id : Nat} {p : Prog} {d : Cmd} (h : d ∈ (setProg s id p).rings.cmds) :
    ∃ c ∈ s.rings.cmds, d.entry = c.entry ∧ d.done = c.done := by
  obtain ⟨c, hc, rfl⟩ := List.mem_map.1 h
  refine ⟨c, hc, ?_⟩
  split <;> exact ⟨rfl, rfl⟩

/-- Whether a command is in flight depends on its entry and its completion alone. -/
theorem inFlight_eq_nil_of_cmds {s t : State} {k : Nat}
    (h : ∀ d ∈ t.rings.cmds, ∃ c ∈ s.rings.cmds, d.entry = c.entry ∧ d.done = c.done) (hs : inFlight s k = []) :
    inFlight t k = [] := by
  rw [inFlight, List.filter_eq_nil_iff] at hs ⊢
  intro d hdm
  obtain ⟨c, hc, he, hdone⟩ := h d hdm
  have hop : d.opcode = c.opcode := by rw [Cmd.opcode, he, Cmd.opcode]
  have hctx : d.ctx = c.ctx := by rw [Cmd.ctx, he, Cmd.ctx]
  rw [hop, hctx, hdone]
  exact hs c hc

/-! ### DELETE_CONTEXT (R96 to R99) -/

section delete
variable {s : State} {id n : Nat} {c : Cmd}

theorem continueDelete_of_inFlight (h : inFlight s c.ctx ≠ []) : continueDelete s c n = s := by
  have : (!(inFlight s c.ctx).isEmpty) = true := by simpa using h
  simp only [continueDelete, this, if_true]

/-- Nothing is in flight and nothing is left to flush: the streams close, and the context is FREE. -/
theorem continueDelete_of_flushed (h : inFlight s c.ctx = [])
    (hw : ((ctxStreams s c.ctx).filter fun p => !p.2.read && endsOpen s p.2) = []) :
    continueDelete s c n =
      let u := dropStreams s fun st => st.ctx == c.ctx
      complete { u with ten.ctx := Tbl.del u.ten.ctx c.ctx } c.id (Compl.ok n 0) := by
  simp [continueDelete, h, hw]

theorem exec_deleteContext_waiting (h : Waiting s id 0x0A c (.waiting n)) :
    exec (.deleteContext id) s = .next (continueDelete s c n) := by
  obtain ⟨hc, hop, hdone, hprog⟩ := h
  change Host.Outcome.next (withCmdW s id 0x0A _) = _
  rw [withCmdW_of_cmdOf hc hop hdone (by simp [hprog])]
  simp only [hprog]

/-- Without FORCE, a context in use stays. -/
theorem exec_deleteContext_in_use {x : Ctx} (h : Started s id 0x0A c) (hx : ctxOf s c.ctx = some x)
    (hf : bitOf (c.fld 0x10 4) 0 = false) (hu : inFlight s c.ctx ≠ [] ∨ ctxStreams s c.ctx ≠ []) :
    exec (.deleteContext id) s = .next (complete s id (Compl.of 4)) := by
  obtain ⟨hc, hop, hdone, hprog⟩ := h
  change Host.Outcome.next (withCmdW s id 0x0A _) = _
  rw [withCmdW_of_cmdOf hc hop hdone (by simp [hprog])]
  simp only [hprog, hx, hf, context_in_use_iff.2 hu, Bool.not_false, Bool.and_true, if_true, ite_self]

/-- With no command of the context in flight, the start of the deletion aborts none. -/
theorem startDelete_of_idle (h : inFlight s c.ctx = []) : startDelete s c =
    postAll (setProg (loseLooks (updCtx s c.ctx fun x => { x with st := .deleting }) c.ctx) c.id (.waiting 0)) := by
  simp [startDelete, h]

theorem cmdOf_startDelete_of_idle (hc : cmdOf s id = some c) (hdone : c.done = none) (h : inFlight s c.ctx = []) :
    cmdOf (startDelete s c) id = some { c with prog := .waiting 0, moved := now s } := by
  obtain rfl := id_of_cmdOf hc
  rw [startDelete_of_idle h]
  refine cmdOf_postAll_of_waiting (n := 0) ?_ hdone rfl
  rw [cmdOf_setProg]
  change (cmdOf s c.id).map _ = _
  rw [hc]
  rfl

theorem inFlight_startDelete_of_idle (h : inFlight s c.ctx = []) : inFlight (startDelete s c) c.ctx = [] := by
  rw [startDelete_of_idle h]
  exact inFlight_eq_nil_of_cmds (fun d => mem_postAll_cmds) (inFlight_eq_nil_of_cmds (fun d => mem_setProg_cmds) h)

@[simp] theorem ctxStreams_startDelete (s : State) (c : Cmd) (k : Nat) : ctxStreams (startDelete s c) k = ctxStreams s k := by
  have hstrm : (startDelete s c).strm = s.strm := startDelete_only (L :=
    [.outputs, .rings, .commands, .events, .contexts, .headwind, .jobs, .mailboxData]) .refl (by decide) .streams (by decide)
  rw [ctxStreams, hstrm, ctxStreams]

/-- A context without commands in flight and open streams is FREE at once. -/
theorem exec_deleteContext_idle {x : Ctx} (h : Started s id 0x0A c) (hx : ctxOf s c.ctx = some x) (hst : x.st ≠ .deleting)
    (hf : inFlight s c.ctx = []) (hs : ctxStreams s c.ctx = []) : exec (.deleteContext id) s = .next (
    let u := dropStreams (startDelete s c) fun st => st.ctx == c.ctx
    complete { u with ten.ctx := Tbl.del u.ten.ctx c.ctx } id (Compl.ok 0 0)) := by
  obtain ⟨hc, hop, hdone, hprog⟩ := h
  have hno : (!(ctxStreams s c.ctx).isEmpty || !(inFlight s c.ctx).isEmpty) = false := context_idle_iff.2 ⟨hf, hs⟩
  change Host.Outcome.next (withCmdW s id 0x0A _) = _
  rw [withCmdW_of_cmdOf hc hop hdone (by simp [hprog])]
  simp only [hprog, hx, hst, hno, cmdOf_startDelete_of_idle hc hdone hf, Bool.and_false, Bool.false_eq_true, if_false]
  rw [← id_of_cmdOf hc]
  exact congrArg Host.Outcome.next (continueDelete_of_flushed (c := { c with prog := .waiting 0, moved := now s })
    (inFlight_startDelete_of_idle hf) (by change ((ctxStreams (startDelete s c) c.ctx).filter _) = []; simp [hs]))

end delete

/-- Settles O13: each clause is the outcome of its row that the state and the descriptor select. -/
theorem contextCommands : Obligations.ContextCommands := by
  unfold Obligations.ContextCommands
  intro s id c desc x n
  refine ⟨⟨fun h hd => ?create, fun h hx hst hd hres hok hflr => ?modify⟩, fun h hx hst hf hs => ?idle,
    fun h hx hforce hu => ?inUse, fun h => ?waits⟩
  case create =>
    rw [exec_createContext desc h hd]
    dsimp only
    refine ⟨fun hx => ?_, fun hx hbad => ?_, fun hx hres hok => ?_⟩
    · rw [if_pos (Option.isSome_iff_ne_none.2 hx)]
    · rw [hx]
      rcases hbad with hbad | hbad <;> simp [hbad]
    · rw [hx, hres, hok]
      exact ⟨fun hflr => by rw [hflr]; rfl, fun hflr => by rw [hflr]; rfl⟩
  case modify =>
    rw [exec_modifyContext desc h hx hst hd]
    simp only [hres, hok, hflr, Bool.not_true, Bool.or_false, Bool.false_eq_true, if_false]
    refine ⟨fun hfree => congrArg Host.Outcome.next (if_neg ?_), fun hid hu => ?_⟩
    · rcases hfree with ⟨hid, hwd⟩ | hidle
      · simp [hid, hwd]
      · simp [context_idle_iff.2 hidle]
    · have hsel : (identityMask (c.fld 0x18 4) || withdraws s c.ctx x.d
          (mergeDesc x.d (readDesc (cmdBlock s c (c.fld 0x10 8) desc)) (c.fld 0x18 4))) = true := by simpa using hid
      rw [hsel, context_in_use_iff.2 hu]
      rfl
  case idle => exact exec_deleteContext_idle h hx hst hf hs
  case inUse => exact exec_deleteContext_in_use h hx hforce hu
  case waits =>
    rw [exec_deleteContext_waiting h]
    exact ⟨fun hf => by rw [continueDelete_of_inFlight hf], fun hf hw => by rw [continueDelete_of_flushed hf hw]⟩

end Sys2Proof.Machine
end

section
/-! Function-level resets, the link, Bus Master Enable and MSI-X, doorbells and the administrative ring (O43, O44, O41). -/

namespace Sys2Proof.Machine

/-! ### Which requests of the host arrive (R118, R139, R150, R154) -/

section requests
variable {s : State} {fn : Nat}

theorem inFlr_of_cfgReach (h : cfgReach s fn = true) : inFlr s fn = false := by
  simp only [cfgReach, Bool.and_eq_true, Bool.not_eq_true'] at h
  tauto

theorem deepLull_of_cfgReach (h : cfgReach s fn = true) : deepLull s = false := by
  simp only [cfgReach, Bool.and_eq_true, Bool.not_eq_true'] at h
  exact h.2

theorem deepLull_of_cfgRetry (h : cfgRetry s fn = true) : deepLull s = false := by
  simp only [cfgRetry, Bool.and_eq_true, Bool.not_eq_true'] at h
  exact h.1.2

/-- A function whose BAR0 is mapped out is not reached. -/
theorem hostReach_of_barOff (h : barOff s fn = true) : hostReach s fn = false := by
  simp only [barOff, Bool.and_eq_true, Bool.not_eq_true'] at h
  simp [hostReach, h.2]

theorem whenReached_of_hostReach (t : State) (h : hostReach s fn = true) : whenReached s fn t = t := by
  simp [whenReached, h]

theorem whenReached_of_barOff (t : State) (h : barOff s fn = true) : whenReached s fn t = logUnc s fn aerUnsupported := by
  simp [whenReached, hostReach_of_barOff h, h]

end requests

/-! ### FLR and VF Enable (R113, R139, R142 to R148, R874) -/

section flr
variable {s : State} {fn : Nat}

/-- Out of the deep Lull states the write that initiates an FLR is a configuration request like any other. -/
theorem exec_flrInitiate_awake (h : deepLull s = false) : exec (.flrInitiate fn) s = .next (cfgDo s fn (flrStart s fn)) := by
  change execFlrInitiate fn s = _
  simp [execFlrInitiate, h]

/-- In a deep Lull state the FLR starts at once, and the write wakes the formatter (R148, Table 15-6). -/
theorem exec_flrInitiate_deepLull (h : deepLull s = true) (hlink : linkOn s = true) (hen : fnEnabled s fn = true)
    (hcrs : s.host.crs = false) : exec (.flrInitiate fn) s = .next (wake (flrStart s fn) 2) := by
  change execFlrInitiate fn s = _
  simp [execFlrInitiate, h, hlink, hen, hcrs]

theorem exec_flrComplete (s : State) (fn : Nat) : exec (.flrComplete fn) s =
    .next (if inFlr s fn then { s with host.fns := Tbl.del s.host.fns fn } else s) := rfl

/-- The FLR of a VF is its own alone (R144). -/
theorem flrStart_vf (hfn : fn ≠ 0) (h : inFlr s fn = false) : flrStart s fn = flrOne s fn := by simp [flrStart, h, hfn]

theorem exec_vfEnableSet (h : cfgReach s 0 = true) : exec .vfEnableSet s = .next (if s.host.vfEn then s else
    let n := if s.host.ari then min s.host.numVfs 255 else min (min s.host.numVfs 255) 7
    let u := { s with host.vfEn := true, host.vfCount := n }
    if n < s.host.numVfs then raise u evVfLimit subjNone 0 0 else u) := by
  change Host.Outcome.next (cfgDo s 0 _) = _
  rw [cfgDo_of_cfgReach _ h]

theorem exec_vfEnableClear (h : cfgReach s 0 = true) : exec .vfEnableClear s = .next (removeVfs s) := by
  change Host.Outcome.next (cfgDo s 0 _) = _
  rw [cfgDo_of_cfgReach _ h]

end flr

/-- Settles O43: each clause is the way of the configuration request (answered, retried, or met in a deep Lull state), then the
function's own FLR or the change of VF Enable. -/
theorem functionReset : Obligations.FunctionReset := by
  unfold Obligations.FunctionReset
  intro s fn
  refine ⟨fun h hfn => ?vf, fun h => ?pf, fun h hr => ?retried, fun hd hl he hc => ?deep, fun h => ?ends, fun h => ?noFlr,
    fun h hvf => ?vfSet, fun h hvf => ?vfAlreadySet, fun h => ?vfClear⟩
  case vf =>
    have hflr := inFlr_of_cfgReach h
    rw [exec_flrInitiate_awake (deepLull_of_cfgReach h), cfgDo_of_cfgReach _ h, flrStart_vf hfn hflr, flrOne, hflr]
    rfl
  case pf => rw [exec_flrInitiate_awake (deepLull_of_cfgReach h), cfgDo_of_cfgReach _ h]
  case retried => rw [exec_flrInitiate_awake (deepLull_of_cfgRetry hr), cfgDo_of_cfgRetry _ h hr]
  case deep => exact exec_flrInitiate_deepLull hd hl he hc
  case ends => rw [exec_flrComplete, if_pos h]
  case noFlr => rw [exec_flrComplete, h]; rfl
  case vfSet => rw [exec_vfEnableSet h, hvf]; rfl
  case vfAlreadySet => rw [exec_vfEnableSet h, if_pos hvf]
  case vfClear => rw [exec_vfEnableClear h, removeVfs]

/-! ### PERST_N, the retry window and the link (R117 to R120, R138, R150, R151, R778, R873) -/

section link
variable {s : State}

theorem exec_perstFall (hp : s.host.perst = true) (hr : s.host.sysRst = true) : exec .perstFall s = .next (
    let u := hostSideReset { s with host.perst := false, host.wakeN := false }
    if deepLull u then { u with host.flrOwed := (0 :: vfList s).foldl setIns u.host.flrOwed }
    else (0 :: vfList s).foldl flrSteps u) := by
  change execPerstFall s = _
  rw [execPerstFall, if_pos ⟨hp, hr⟩]

theorem exec_perstRise (hp : s.host.perst = false) (hr : s.host.sysRst = true) :
    exec .perstRise s = .next (wake (openWindow900 { s with host.perst := true }) 3) := by
  change execPerstRise s = _
  rw [execPerstRise, if_pos (by simp [hp, hr])]

theorem openWindow900_of_canTrain (h : canTrain s = true) : openWindow900 s = { s with
    host.training := true, host.crs := !s.host.fwReady, host.crsEnd := now s + 900 * msTicks } := by
  rw [openWindow900, if_pos h]

theorem exec_crsWindowEnd (dt : Nat) (hcrs : (advance s dt).host.crs = true)
    (hend : (advance s dt).host.crsEnd ≤ now (advance s dt)) :
    exec (.crsWindowEnd dt) s = .next (fwUp { advance s dt with host.crs := false }) := by
  change execCrsWindowEnd dt s = _
  simp only [execCrsWindowEnd, hcrs, hend, and_self, if_true]

theorem exec_linkUp (ht : canTrain s = true) (hd : s.host.dlActive = false) : exec .linkUp s =
    .next (hostBack (fwUp { s with host.dlActive := true, host.training := false, host.wakeN := false })) := by
  change execLinkUp s = _
  rw [execLinkUp, if_pos (by simp [ht, hd])]

theorem exec_linkDown_none (h : s.host.dlActive = true) : exec (.linkDown none) s =
    .next (settle (((0 :: vfList s).filter (busMaster s)).foldl hostLost { s with
      host.dlActive := false, host.training := false })) := by
  change execLinkDown none s = _
  rw [execLinkDown, if_pos h]
  rfl

/-- A fatal error is logged in the PF, and training starts again at once (R150, R151). -/
theorem exec_linkDown_some (e : FatalErr) (h : s.host.dlActive = true) : exec (.linkDown (some e)) s = .next (
    let u := logUnc s 0 (FatalErr.code e)
    settle (((0 :: vfList u).filter (busMaster u)).foldl hostLost { u with
      host.dlActive := false, host.training := true })) := by
  change execLinkDown (some e) s = _
  rw [execLinkDown, if_pos h]
  rfl

end link

/-! ### Bus Master Enable and MSI-X (R136 to R138, R140, R792) -/

theorem exec_busMasterDisable (s : State) (fn : Nat) (d : Bool) : exec (.busMasterDisable fn d) s = .next (cfgDo s fn (
    let u := setFn s fn (if d then { fnOf s fn with d3hot := true } else { fnOf s fn with bme := false })
    if busMaster s fn then settle (hostLost u fn) else u)) := rfl

theorem exec_busMasterEnable (s : State) (fn : Nat) (d : Bool) : exec (.busMasterEnable fn d) s = .next (cfgDo s fn (
    hostBack (setFn s fn (if d then { fnOf s fn with d3hot := false } else { fnOf s fn with bme := true })))) := rfl

theorem exec_msixUnmask_vector (s : State) (fn : Nat) {v : Nat} (hv : v < vectorCount fn) :
    exec (.msixUnmask fn (some v)) s = .next (whenReached s fn (flushPba (setFn s fn { fnOf s fn with
      msix := Tbl.put (fnOf s fn).msix v { vecOf (fnOf s fn) v with masked := false } }) fn)) := by
  change execMsixUnmask fn (some v) s = _
  simp only [execMsixUnmask, hv, if_true]

theorem exec_msixUnmask_function (s : State) (fn : Nat) : exec (.msixUnmask fn none) s =
    .next (cfgDo s fn (flushPba (setFn s fn { fnOf s fn with fnMask := false }) fn)) := rfl

theorem exec_holdoffEnd {s : State} {dt e till : Nat} {l : List (Nat × Nat)}
    (hget : Tbl.get? (advance s dt).rings.holdoff e = some (till, l)) (htill : till ≤ now (advance s dt)) :
    exec (.holdoffEnd dt e) s = .next (
      let u := advance s dt
      let hold := (routeOf u e).holdUs
      let h := if l = [] ∨ hold = 0 then Tbl.del u.rings.holdoff e
        else Tbl.put u.rings.holdoff e (now u + hold * usTicks, [])
      l.foldl (fun s t => sendMsix s t.1 t.2) { u with rings.holdoff := h }) := by
  change execHoldoffEnd dt e s = _
  simp only [execHoldoffEnd, hget, htill, if_true, Bool.or_eq_true, List.isEmpty_iff, beq_iff_eq]

/-- Settles O44: each clause is the outcome of its row that the link's state, or the way of the host's request, selects. -/
theorem linkBusMasterVectors : Obligations.LinkBusMasterVectors := by
  unfold Obligations.LinkBusMasterVectors
  refine ⟨fun s => ⟨fun hp hr => ?fall, fun hp hr => ?rise, fun h => ?window, fun dt hcrs hend => ?windowEnd, fun ht hd => ?up,
      fun h => ⟨?down, fun e => ?fatal⟩⟩,
    fun s fn => ⟨fun d h => ⟨?disable, ?enable⟩, fun v hv => ⟨fun h => ?unmask, fun h => ?unmaskOff⟩, fun h => ?unmaskFn,
      fun h hr => ⟨?unmaskRetried, fun d => ⟨?disableRetried, ?enableRetried⟩⟩, fun dt e till l hget htill => ?holdoff⟩⟩
  case fall => exact exec_perstFall hp hr
  case rise => exact exec_perstRise hp hr
  case window => exact openWindow900_of_canTrain h
  case windowEnd => exact exec_crsWindowEnd dt hcrs hend
  case up => exact exec_linkUp ht hd
  case down => exact exec_linkDown_none h
  case fatal => exact exec_linkDown_some e h
  case disable => rw [exec_busMasterDisable, cfgDo_of_cfgReach _ h]
  case enable => rw [exec_busMasterEnable, cfgDo_of_cfgReach _ h]
  case unmask => rw [exec_msixUnmask_vector s fn hv, whenReached_of_hostReach _ h]
  case unmaskOff => rw [exec_msixUnmask_vector s fn hv, whenReached_of_barOff _ h]; rfl
  case unmaskFn => rw [exec_msixUnmask_function, cfgDo_of_cfgReach _ h]
  case unmaskRetried => rw [exec_msixUnmask_function, cfgDo_of_cfgRetry _ h hr]
  case disableRetried => rw [exec_busMasterDisable, cfgDo_of_cfgRetry _ h hr]
  case enableRetried => rw [exec_busMasterEnable, cfgDo_of_cfgRetry _ h hr]
  case holdoff => exact exec_holdoffEnd hget htill

/-! ### Doorbells (R129 to R133, R152, R153, R177) -/

/-- Of two stores under one key the second counts. -/
@[simp] theorem Tbl.put_put {α : Type} (t : Tbl α) (k : Nat) (v w : α) : Tbl.put (Tbl.put t k v) k w = Tbl.put t k w := by
  induction t with
  | nil => simp [Tbl.put]
  | cons p r ih =>
    obtain ⟨j, a⟩ := p
    by_cases hj : j = k
    · simp [Tbl.put, hj]
    · by_cases hk : k < j
      · simp [Tbl.put, hj, hk]
      · simp [Tbl.put, hj, hk, ih]

@[simp] theorem setFn_setFn (s : State) (n : Nat) (f g : FnState) : setFn (setFn s n f) n g = setFn s n g := by simp [setFn]

@[simp] theorem ringAt_setFn (s : State) (n fn slot : Nat) (f : FnState) : ringAt (setFn s n f) fn slot = ringAt s fn slot := rfl

@[simp] theorem storing_setFn (s : State) (n : Nat) (f : FnState) : storing (setFn s n f) = storing s := rfl

theorem wake_of_lull_none {s : State} (code : Nat) (h : s.pmu.lull = none) : wake s code = s := by simp only [wake, h]

/-- Emptying a doorbell store that is empty changes nothing. -/
theorem emptied_store_eq_self {f : FnState} (ht : f.tails = []) (hh : f.heads = []) : { f with tails := [], heads := [] } = f := by
  cases f
  simp_all

section bells
variable {s : State} {fn slot : Nat}

theorem exec_submissionDoorbell (v : Word) (hs : slot < slotCount fn) : exec (.submissionDoorbell fn slot v) s =
    .next (whenReached s fn (doorbell s fn slot true v)) := by
  change execSubmissionDoorbell fn slot v s = _
  rw [execSubmissionDoorbell, if_pos hs]

theorem exec_completionDoorbell (v : Word) (hs : slot < slotCount fn) : exec (.completionDoorbell fn slot v) s =
    .next (whenReached s fn (doorbell s fn slot false v)) := by
  change execCompletionDoorbell fn slot v s = _
  rw [execCompletionDoorbell, if_pos hs]

theorem doorbell_of_no_ring (isTail : Bool) (v : Word) (h : ringAt s fn slot = none) :
    doorbell s fn slot isTail v = recordFnErr s fn false true (decide (65536 ≤ v.toNat)) false slot := by
  simp only [doorbell, h]

variable {n : Nat} {r : Ring} (h : ringAt s fn slot = some (n, r)) (isTail : Bool) {v : Word}
include h

/-- A reserved bit or a value outside the ring (R130). -/
theorem doorbell_of_bad_value (hv : 65536 ≤ v.toNat ∨ 2 ^ r.log2 ≤ v.toNat % 65536) : doorbell s fn slot isTail v =
    recordFnErr s fn (decide (2 ^ r.log2 ≤ v.toNat % 65536)) false (decide (65536 ≤ v.toNat)) false slot := by
  have hbad : (decide (65536 ≤ v.toNat) || decide (2 ^ r.log2 ≤ v.toNat % 65536)) = true := by simpa using hv
  simp only [doorbell, h, hbad, if_true]

section good
variable (hv : v.toNat < 65536) (hn : v.toNat < 2 ^ r.log2)
include hv hn

theorem doorbell_of_deleting (hst : r.st = .deleting) : doorbell s fn slot isTail v = s := by
  simp [doorbell, h, Nat.mod_eq_of_lt hv, hv, hn, hst]

/-- A good value is stored; a tail other than the ring's head wakes, and the ring engine reads the store unless it holds it back. -/
theorem doorbell_of_stored (hst : r.st ≠ .deleting) : doorbell s fn slot isTail v =
    let u := storeBell s fn slot isTail v.toNat
    let u := if isTail && v.toNat != r.sqHead then wake u 1 else u
    if storing u then u else applyStore u fn := by
  simp [doorbell, h, Nat.mod_eq_of_lt hv, hv, hn, hst]

end good

variable (ht : (fnOf s fn).tails = []) (hh : (fnOf s fn).heads = [])
include ht hh

/-- A tail alone in the store becomes the ring's submission tail. -/
theorem applyStore_tail (v : Nat) : applyStore (storeBell s fn slot true v) fn = applyTail (setFn s fn (fnOf s fn)) n r v := by
  simp [applyStore, storeBell, ht, hh, Tbl.put, h, emptied_store_eq_self ht hh]

/-- A head alone in the store is judged by the ring. -/
theorem applyStore_head (v : Nat) : applyStore (storeBell s fn slot false v) fn = applyHead (setFn s fn (fnOf s fn)) n r v := by
  simp [applyStore, storeBell, ht, hh, Tbl.put, h, emptied_store_eq_self ht hh]

section applied
variable (hv : v.toNat < 65536) (hn : v.toNat < 2 ^ r.log2) (hst : r.st ≠ .deleting) (hstore : storing s = false)
include hv hn hst hstore

theorem doorbell_tail_applied (hlull : s.pmu.lull = none) :
    doorbell s fn slot true v = applyTail (setFn s fn (fnOf s fn)) n r v.toNat := by
  have hawake : (storeBell s fn slot true v.toNat).pmu.lull = none := hlull
  have hbell : storing (storeBell s fn slot true v.toNat) = false := hstore
  rw [doorbell_of_stored h true hv hn hst]
  simp only [wake_of_lull_none 1 hawake, ite_self, hbell, Bool.false_eq_true, if_false, applyStore_tail h ht hh]

theorem doorbell_head_applied : doorbell s fn slot false v = applyHead (setFn s fn (fnOf s fn)) n r v.toNat := by
  have hbell : storing (storeBell s fn slot false v.toNat) = false := hstore
  rw [doorbell_of_stored h false hv hn hst]
  simp only [Bool.false_and, Bool.false_eq_true, hbell, if_false, applyStore_head h ht hh]

end applied

end bells

/-! ### The administrative ring (R127, R128, R148, R162, R872) -/

section admin
variable {s : State}

theorem exec_adminRingEnable (h : hostReach s 0 = true) : exec .adminRingEnable s = .next (adminOn s) :=
  congrArg Host.Outcome.next (whenReached_of_hostReach _ h)

theorem exec_adminRingDisable (h : hostReach s 0 = true) : exec .adminRingDisable s = .next (adminOff s) :=
  congrArg Host.Outcome.next (whenReached_of_hostReach _ h)

theorem exec_adminRingDrained (s : State) : exec .adminRingDrained s =
    .next (if s.host.admin.draining && (ringCmds s 0).isEmpty then adminGone s else s) := rfl

theorem adminOn_of_refused (h : s.host.admin.enable = true ∨ s.host.admin.draining = true ∨ s.host.admin.log2 < 6 ∨
    12 < s.host.admin.log2) : adminOn s = s := by
  rw [adminOn, if_pos (by simpa [or_assoc] using h)]

theorem displace0_of_no_ring (h : Tbl.get? s.rings.tbl 0 = none) : displace0 s = s := by simp only [displace0, h]

theorem displace0_of_ring {r : Ring} (h : Tbl.get? s.rings.tbl 0 = some r) : displace0 s = { s with
    rings.tbl := Tbl.put (Tbl.del s.rings.tbl 0) doomed0 r,
    rings.cmds := s.rings.cmds.map fun c => if c.ring == 0 && !c.mailbox then { c with ring := doomed0 } else c } := by
  simp only [displace0, h]

/-- A ring 0 of a legal size is created where none is enabled or drains. -/
theorem adminOn_of_accepted (he : s.host.admin.enable = false) (hd : s.host.admin.draining = false) (hlo : 6 ≤ s.host.admin.log2)
    (hhi : s.host.admin.log2 ≤ 12) : adminOn s = { displace0 s with
      host.admin := { s.host.admin with enable := true },
      rings.tbl := Tbl.put (displace0 s).rings.tbl 0
        (newRing 0 0 s.host.admin.log2 s.host.admin.sqBase s.host.admin.cqBase 0 63) } := by
  rw [adminOn, if_neg (by simp [he, hd, hlo, hhi])]

end admin

/-- Settles O41: a doorbell that reaches its function is decided by the first branch of `doorbell` that it meets, and the admin ring's
rows by ENABLE, the draining and the size. -/
theorem ringDoorbells : Obligations.RingDoorbells := by
  unfold Obligations.RingDoorbells
  refine ⟨fun s fn slot n r v hreach hs => ?reached, fun s fn slot v hoff hs => ⟨?tailOff, ?headOff⟩,
    fun s => ⟨fun hreach => ⟨fun hbad => ?refused, fun he hd hlo hhi => ⟨fun h0 => ?created, fun r h0 => ?displaced⟩,
      fun he => ?disabled, fun he => ?alreadyOff⟩, fun hd hc => ?drained, fun h => ?notDrained⟩⟩
  case reached =>
    rw [exec_submissionDoorbell v hs, exec_completionDoorbell v hs, whenReached_of_hostReach _ hreach,
      whenReached_of_hostReach _ hreach]
    refine ⟨fun h => ?noRing, fun h hv => ?badValue, fun h hv hn => ⟨fun hst => ?deleting, fun hst => ⟨?tail, ?head,
      fun hstore hlull ht hh => ⟨?tailApplied, ?headApplied⟩⟩⟩⟩
    case noRing => exact ⟨by rw [doorbell_of_no_ring true v h], by rw [doorbell_of_no_ring false v h]⟩
    case badValue => exact ⟨by rw [doorbell_of_bad_value h true hv], by rw [doorbell_of_bad_value h false hv]⟩
    case deleting => exact ⟨by rw [doorbell_of_deleting h true hv hn hst], by rw [doorbell_of_deleting h false hv hn hst]⟩
    case tail =>
      rw [doorbell_of_stored h true hv hn hst]
      by_cases he : v.toNat = r.sqHead <;> simp [he, storeBell]
    case head => rw [doorbell_of_stored h false hv hn hst]; rfl
    case tailApplied => rw [doorbell_tail_applied h ht hh hv hn hst hstore hlull]; rfl
    case headApplied => rw [doorbell_head_applied h ht hh hv hn hst hstore]; rfl
  case tailOff => rw [exec_submissionDoorbell v hs, whenReached_of_barOff _ hoff]; rfl
  case headOff => rw [exec_completionDoorbell v hs, whenReached_of_barOff _ hoff]; rfl
  case refused => rw [exec_adminRingEnable hreach, adminOn_of_refused hbad]
  case created => rw [exec_adminRingEnable hreach, adminOn_of_accepted he hd hlo hhi, displace0_of_no_ring h0]
  case displaced => rw [exec_adminRingEnable hreach, adminOn_of_accepted he hd hlo hhi, displace0_of_ring h0]; rfl
  case disabled => rw [exec_adminRingDisable hreach, adminOff, if_pos he]
  case alreadyOff => rw [exec_adminRingDisable hreach, adminOff, if_neg (by simp [he])]
  case drained => rw [exec_adminRingDrained, if_pos (by simp [hd, hc])]; rfl
  case notDrained => rw [exec_adminRingDrained, if_neg (by rcases h with h | h <;> simp [h])]

end Sys2Proof.Machine
end

section
/-! Commands that end early, reads of the session key windows, and SYS_RST_N and boot (O10, O17, O37). -/

namespace Sys2Proof.Machine

/-! ### HOST_READ_ERROR (R138, R150, R256) -/

/-- The state once a failed host data read of command `c` is logged, counted and reported (R150, Table 16-4 class 0). -/
def readErrorLogged (s : State) (c : Cmd) (k : ReadErr) : State :=
  faultSpent (countFault (logReadErr s (cmdFn s c) k) 0 1 0 0 0) { FltLog.blank with
    cls := 0, status := 7, ring := c.ring, cid := c.cid, ctx := if namesCtx c.opcode then c.ctx else 0xFFFF, tries := 1 } subjNone 0

/-- A fault is no matter of the service jobs. -/
@[simp] theorem readErrorLogged_svc (s : State) (c : Cmd) (k : ReadErr) : (readErrorLogged s c k).svc = s.svc := by
  have hread : Only [.free, .functions, .outputs, .events, .faults] s (logReadErr s (cmdFn s c) k) := logReadErr_only .refl (by decide)
  have hcount := countFault_only (c := 0) (det := 1) (fixed := 0) (rep := 0) (ret := 0) hread (by decide)
  exact faultSpent_only hcount (by decide) .jobs (by decide)

section hostReadError
variable {s : State} {id : Nat} {c : Cmd} (k : ReadErr) (hc : cmdOf s id = some c) (hop : readsHost c.opcode = true)
  (hm : c.mailbox = false) (hd : c.done = none)
include hc hop hm hd

/-- The failing record of a WRITE or WRITE_BATCH that has begun is the one whose data were being read. -/
theorem exec_hostReadError_of_writing {total stored : Nat} {bad : Option (Nat × Compl)} (hw : c.prog = .writing total stored bad) :
    exec (.hostReadError id k) s = .next (
      let i := (c.recs.find? fun r => r.stage == 4).elim c.recs.length (·.idx)
      if i < total then failRec (readErrorLogged s c k) c i (Compl.of 7) else readErrorLogged s c k) := by
  change execHostReadError id k s = _
  simp only [execHostReadError, hc, hop, hm, hd, hw, readErrorLogged]
  rfl

/-- Any other command completes; an ABORT that waited for its job to stop does not count it (R211). -/
theorem exec_hostReadError_of_not_writing (hp : c.prog ≠ .ordered) (hw : ∀ total stored bad, c.prog ≠ .writing total stored bad) :
    exec (.hostReadError id k) s = .next (
      let u := readErrorLogged s c k
      let v := (Tbl.get? s.svc id).elim u fun j => if j.stopBy = 0 then u else uncount u j.stopFor
      complete (dropRecords { v with svc := Tbl.del v.svc id } c) id { Compl.of 7 with result := partResult c }) := by
  have hgo : (readsHost c.opcode && !c.mailbox && c.done.isNone && c.prog != .ordered) = true := by simp [hop, hm, hd, hp]
  rw [← readErrorLogged_svc s c k]
  change execHostReadError id k s = _
  simp only [execHostReadError, hc, hgo, if_true]
  cases hprog : c.prog with
  | writing total stored bad => exact absurd hprog (hw total stored bad)
  | _ => rfl

end hostReadError

/-! ### ABORT and ABORT_COMPLETE (R196 to R199, R209 to R211) -/

section abort
variable {s : State} {id : Nat} {c : Cmd}

/-- Rights to abort: ring 0 aborts on every ring, another ring on those of its own function (R209). -/
theorem exec_abort_of_ring {r : Ring} (h : Started s id 0x04 c) (hr : Tbl.get? s.rings.tbl (c.fld 0x10 2) = some r) :
    exec (.abort id) s = .next (if c.ring != 0 && r.owner != cmdFn s c then complete s id (Compl.of 3) else
      let l := (ringCmds s (c.fld 0x10 2)).filter fun k => bitOf (c.fld 0x14 4) 0 || k.cid == c.fld 0x12 2
      postAll (setProg (abortList s 0x47 id l) id
        (.abortWait ((abortTargets s l).1.map (·.id)) (abortTargets s l).1.length (abortTargets s l).2))) := by
  change Host.Outcome.next (withCmd s id 0x04 _) = _
  rw [withCmd_of_started h]
  simp only [hr]

theorem exec_abort_of_no_ring (h : Started s id 0x04 c) (hr : Tbl.get? s.rings.tbl (c.fld 0x10 2) = none) :
    exec (.abort id) s = .next (complete s id (if c.ring = 0 then Compl.field 0x10 else Compl.of 3)) := by
  change Host.Outcome.next (withCmd s id 0x04 _) = _
  rw [withCmd_of_started h]
  simp only [hr]

/-- An ABORT waits while a command that it aborted is in flight (R198). -/
theorem exec_abortComplete {ids : List Nat} {a p : Nat} (hc : cmdOf s id = some c) (hp : c.prog = .abortWait ids a p)
    (hd : c.done = none) : exec (.abortComplete id) s =
      .next (if s.rings.cmds.any fun k => ids.elem k.id then s else complete s id (Compl.ok a p)) := by
  change execAbortComplete id s = _
  simp only [execAbortComplete, hc, hp, hd]
  split <;> rfl

end abort

/-- Settles O10: a read error ends a command by whether it is a WRITE that has begun and by its job; an ABORT by its target ring, and
ABORT_COMPLETE by what is still in flight. -/
theorem commandsEndEarly : Obligations.CommandsEndEarly := by
  unfold Obligations.CommandsEndEarly
  refine ⟨fun s id c k hc hop hm hd hp => ⟨fun hw hj => ?noStop, fun j hw hj hstop => ?stopping, fun total stored bad hw => ?writing⟩,
    fun s id c r ids a p => ⟨fun h => ⟨fun hr hown => ?allowed, fun hr h0 hown => ?notOwner, fun hr => ?noRing⟩,
      fun hc hprog hd hgone => ?gone, fun hc hprog hd hleft => ?inFlight⟩⟩
  case noStop =>
    rw [exec_hostReadError_of_not_writing k hc hop hm hd hp hw]
    cases hget : Tbl.get? s.svc id with
    | none => rfl
    | some j =>
      have hj0 : j.stopBy = 0 := by simpa [hget] using hj
      simp only [Option.elim_some, hj0, if_true, readErrorLogged]
  case stopping =>
    rw [exec_hostReadError_of_not_writing k hc hop hm hd hp hw, hj]
    simp only [Option.elim_some, hstop, if_false, readErrorLogged]
  case writing => exact exec_hostReadError_of_writing k hc hop hm hd hw
  case allowed => rw [exec_abort_of_ring h hr, if_neg (by simpa [or_iff_not_imp_left] using hown)]
  case notOwner => rw [exec_abort_of_ring h hr, if_pos (by simp [h0, hown])]
  case noRing => exact exec_abort_of_no_ring h hr
  case gone => rw [exec_abortComplete hc hprog hd, if_neg (by simpa using hgone)]
  case inFlight => rw [exec_abortComplete hc hprog hd, if_pos (by simpa using hleft)]

/-! ### Session key windows (R125) -/

/-- The windows lie beyond the function registers, the MSI-X table and the PBA, and in the PF before the device windows (Tables 3-3,
3-4): no register that can be read is in them. -/
theorem readBar0_of_inSk (s : State) {fn off : Nat} (h : inSk fn off = true) : readBar0 s fn off = (0, s) := by
  by_cases hfn : fn = 0
  case pos =>
    obtain ⟨hlo, hhi⟩ : 0x10000 ≤ off ∧ off < 0x50000 := by simpa [inSk, skBase, slotCount, hfn] using h
    have hreg : ¬off < 0x1000 := by omega
    have hmsix : ¬off < 0xC000 := by omega
    have hpba : ¬off < 0xC100 := by omega
    have hdev : off < 0x100000 := by omega
    simp [readBar0, msixBase, pbaBase, vectorCount, readDev, hfn, hreg, hmsix, hpba, hdev]
  case neg =>
    obtain ⟨hlo, hhi⟩ : 0x4000 ≤ off ∧ off < 0x8000 := by simpa [inSk, skBase, slotCount, hfn] using h
    have hreg : ¬off < 0x1000 := by omega
    have hmsix : ¬off < 0x2400 := by omega
    have hpba : ¬off < 0x3008 := by omega
    simp [readBar0, msixBase, pbaBase, vectorCount, hfn, hreg, hmsix, hpba]

/-- The windows do not reach TBU_TIME_NS of the PF. -/
theorem not_tbuTime_of_inSk {fn off : Nat} (h : inSk fn off = true) : fn ≠ 0 ∨ off ≠ 0x120000 := by
  by_contra hno
  obtain ⟨rfl, rfl⟩ : fn = 0 ∧ off = 0x120000 := by tauto
  simp [inSk, skBase, slotCount] at h

/-- Settles O17: both halves of a read are `readBar0_of_inSk`. -/
theorem sessionKeyWindowReadsZero : Obligations.SessionKeyWindowReadsZero := by
  unfold Obligations.SessionKeyWindowReadsZero
  intro s fn off hsk hoff
  have hzero := readBar0_of_inSk s hsk
  refine ⟨hzero, fun hreach h4 => ?four, fun hreach h8 _ hsk' => ?eight⟩
  case four =>
    rw [exec_rcRegisterRead_bar0, barRead_of_hostReach hoff 4 hreach, accessOk_four h4, if_pos rfl, hostRead_four, hzero]
    rfl
  case eight =>
    rw [exec_rcRegisterRead_bar0, barRead_of_hostReach hoff 8 hreach, accessOk_eight h8, if_pos rfl,
      hostRead_eight s (not_tbuTime_of_inSk hsk), hzero, readBar0_of_inSk s hsk']
    rfl

/-! ### SYS_RST_N and boot (R118, R121, R679, R688, R727 to R732, R772, R860, R866) -/

section boot
variable {s : State}

theorem xpOf_afterReset (fl : Flash) (carts : Nat → Option Cart) (perst : Bool) (free : Nat) {t : Nat} (h : t < 4) :
    xpOf (State.afterReset fl carts perst free) t = some (Xport.reset (carts t)) := by
  interval_cases t <;> rfl

/-- The state that SYS_RST_ASSERT leaves: the reset values, and what a reset does not touch. -/
def afterSysRst (s : State) : State :=
  let z := State.afterReset s.pmu.flash (fun t => (xpOf s t).bind (·.cart)) s.host.perst s.clk.free
  { z with
    pending := s.pending, out := s.out,
    xp := Tbl.mapVal z.xp fun t x => (xpOf s t).elim x fun o => { x with shkLow := o.shkLow, wfltHighAt := o.wfltHighAt - now s },
    smp.deaf := s.smp.deaf || s.smp.st != .idle, smp.blind := s.smp.blind }

theorem exec_sysRstAssert (s : State) : exec .sysRstAssert s = .next (afterSysRst s) := rfl

/-- A reset leaves the cartridges where they are. -/
theorem cart_afterSysRst (s : State) {t : Nat} (h : t < 4) : (xpOf (afterSysRst s) t).bind (·.cart) = (xpOf s t).bind (·.cart) := by
  have hx := xpOf_afterReset s.pmu.flash (fun t => (xpOf s t).bind (·.cart)) s.host.perst s.clk.free h
  rw [xpOf] at hx
  rw [xpOf, afterSysRst, Tbl.get?_mapVal, hx, Option.map_some, Option.bind_some]
  cases xpOf s t <;> rfl

theorem exec_sysRstRelease (straps : Byte) (h : s.host.sysRst = false) : exec (.sysRstRelease straps) s = .next (
    let u := pspQueue { s with host.sysRst := true, smp.straps := straps, smp.blind := false, pmu.aonOk := true } 1 [flashRead 0]
    let u := (u.xp.filter fun p => p.2.shkLow).foldl (fun s p => setCause s p.1 causeShock true) u
    if u.host.perst then openWindow900 u else u) := by
  change execSysRstRelease straps s = _
  rw [execSysRstRelease, h]
  rfl

theorem exec_sysRstRelease_released (straps : Byte) (h : s.host.sysRst = true) : exec (.sysRstRelease straps) s = .next s := by
  change execSysRstRelease straps s = _
  rw [execSysRstRelease, if_pos h]

/-- Instructions that wait on a port leave the boot flash as it is. -/
theorem pspQueue_flash (s : State) (port : Nat) (l : List Out) : (pspQueue s port l).pmu.flash = s.pmu.flash := by
  obtain ⟨-, -, -, -, -, hflash, -⟩ := pspQueue_only (L := [.outputs, .peripherals]) (s := s) (port := port) (l := l) .refl
    (by decide) .firmware (by decide)
  exact hflash

/-- With no region that verifies, FW_READY stays 0 and nothing starts (R730). -/
theorem exec_bootComplete_of_no_region (a b : Bool) (h : bootRegion s = none) : exec (.bootComplete a b) s = .next s := by
  change execBootComplete a b s = _
  simp only [execBootComplete, h, ite_self]

theorem exec_bootComplete (a b : Bool) {r : Nat} {img : Image} (hrst : s.host.sysRst = true) (hb : s.pmu.booted = false)
    (hps : s.pmu.ps = .run) (hclk : s.clk.frozen = false) (hr : bootRegion s = some r)
    (himg : Tbl.get? s.pmu.flash.images r = some img) :
    let bytes := (if a then channelBytes s.smp.straps else 0) +
      (if b && bitOf s.smp.straps.toNat 6 then channelBytes s.smp.straps else 0)
    bytes ≠ 0 → exec (.bootComplete a b) s = .next (
      let u := logBoot (startFirmware (pspQueue s 1 (bootReads s r)) r img bytes) r
      if u.pmu.flash.trial ∧ r = u.pmu.flash.active then { u with
        pmu.upd := some {
          cmd := noCmd, from_ := r, fromVer := img.version, phase := 2, deadline := now u + 5 * secTicks, pauseUs := 0, carried := 0,
          aborted := 0, trial := true, back := none } } else u) := by
  intro bytes hbytes
  have hgo : (!s.host.sysRst || s.pmu.booted || s.pmu.ps != .run || s.clk.frozen || bytes == 0) = false := by
    simp [hrst, hb, hps, hclk, hbytes]
  have hread : Tbl.get? (pspQueue s 1 (bootReads s r)).pmu.flash.images r = some img := by rw [pspQueue_flash, himg]
  change execBootComplete a b s = _
  rw [execBootComplete, if_neg (Bool.eq_false_iff.1 hgo)]
  simp only [hr, hread, bytes]

end boot

/-- Settles O37: SYS_RST_ASSERT is `afterSysRst`; a release and a boot are the outcomes that the state selects. -/
theorem resetAndBoot : Obligations.ResetAndBoot := by
  unfold Obligations.ResetAndBoot
  intro s
  refine ⟨⟨afterSysRst s, exec_sysRstAssert s, rfl, rfl, rfl, rfl, rfl, rfl, rfl, rfl, rfl, rfl, rfl, rfl, rfl, rfl, rfl,
      fun t ht => ?carts⟩, fun straps h => ?release, fun straps h => ?released,
    fun a b r img hrst hb hps hclk hr himg => ?boot, fun h a b => ?noRegion⟩
  case carts => exact cart_afterSysRst s ht
  case release => exact exec_sysRstRelease straps h
  case released => exact exec_sysRstRelease_released straps h
  case boot => exact exec_bootComplete a b hrst hb hps hclk hr himg
  case noRegion => exact exec_bootComplete_of_no_region a b h

end Sys2Proof.Machine
end

section
/-! ORDERED commands, the posting of completions, the status pages, and rings made and removed (O9, O14, O11, O12). -/

namespace Sys2Proof.Machine

/-! ### ORDERED (R167) -/

/-- A row that executes a submission entry looks for a command just started, or for one that may also wait. -/
theorem exec_eq_withCmd_of_executes {i : Instr} {id : Nat} (h : executes i = some id) (s : State) :
    (∃ op f, exec i s = .next (withCmd s id op f)) ∨ ∃ op f, exec i s = .next (withCmdW s id op f) := by
  cases i <;> cases h
  case deleteContext | keyErase | unmount | calibrate | telemetryConfig | fwActivate
    | openStream | read | locate | verifyScan | cryptBlock => exact .inr ⟨_, _, rfl⟩
  all_goals exact .inl ⟨_, _, rfl⟩

/-- An ORDERED command that waits is none that a row executes. -/
theorem exec_of_executes_ordered {s : State} {i : Instr} {id : Nat} {c : Cmd} (h : executes i = some id) (hc : cmdOf s id = some c)
    (hp : c.prog = .ordered) : exec i s = .next s := by
  obtain ⟨op, f, he⟩ | ⟨op, f, he⟩ := exec_eq_withCmd_of_executes h s
  · simp [he, withCmd, hc, hp]
  · simp [he, withCmdW, hc, hp]

theorem exec_orderedStart {s : State} {id : Nat} {c : Cmd} (hc : cmdOf s id = some c) (hp : c.prog = .ordered)
    (hm : c.mailbox = false) : exec (.orderedStart id) s =
      .next (if (before s id).all fun k => k.ring != c.ring || k.mailbox || k.done.isSome then setProg s id .fresh else s) := by
  change execOrderedStart id s = _
  simp only [execOrderedStart, hc, hp, hm, true_and, Bool.not_false]
  split <;> rfl

/-- The commands of a list that hold up an ORDERED command of ring `n`. -/
theorem all_done_iff {l : List Cmd} {n : Nat} : (l.all fun k => k.ring != n || k.mailbox || k.done.isSome) = true ↔
    ∀ k ∈ l, k.ring = n → k.mailbox = false → k.done ≠ none := by
  simp [or_iff_not_imp_left, Option.isSome_iff_ne_none]

theorem exec_identify {s : State} {id : Nat} {c : Cmd} (h : Started s id 0x01 c) : exec (.identify id) s = .next
    (answer s c 0x10 (if c.fld 0x18 1 = 0 then devicePage s else functionPage s (cmdFn s c)) (Compl.ok 0 0)) := by
  change Host.Outcome.next (withCmd s id 0x01 _) = _
  rw [withCmd_of_started h]

/-- Settles O9: ORDERED_START goes by `all_done_iff`; before it no row executes the command, and a later command starts by its own
state alone. -/
theorem orderedStartWaits : Obligations.OrderedStartWaits := by
  unfold Obligations.OrderedStartWaits
  intro s id c hc hp hm
  refine ⟨fun hall => ?starts, fun ⟨k, hk, hring, hmb, hdone⟩ => ?waits, fun i hi => exec_of_executes_ordered hi hc hp,
    fun j d hd _ _ => exec_identify hd⟩
  case starts => rw [exec_orderedStart hc hp hm, if_pos (all_done_iff.2 hall)]
  case waits => rw [exec_orderedStart hc hp hm, if_neg fun hall => all_done_iff.1 hall k hk hring hmb hdone]

/-! ### Posting a completion entry (R134, R173 to R175, R792) -/

/-- Between two states, nothing but MSI-X messages was sent. -/
def OnlyMsix (s t : State) : Prop := ∃ l, t.out = l ++ s.out ∧ ∀ o ∈ l, ∃ fn v a d, o = .msix fn v a d

theorem OnlyMsix.of_out_eq {s t : State} (h : t.out = s.out) : OnlyMsix s t := ⟨[], h, by simp⟩

theorem onlyMsix_sendMsix (s : State) (n v : Nat) : OnlyMsix s (sendMsix s n v) := by
  unfold sendMsix
  split
  case isTrue => exact .of_out_eq rfl
  case isFalse =>
    split
    case isTrue => exact ⟨[msixMsg s n v], rfl, by simp [msixMsg]⟩
    case isFalse => exact .of_out_eq rfl

theorem onlyMsix_notify (s : State) (e : Nat) (tgt : Nat × Nat) (holdUs : Nat) : OnlyMsix s (notify s e tgt holdUs) := by
  unfold notify
  split
  case h_1 => exact .of_out_eq rfl
  case h_2 =>
    dsimp only
    split
    case isTrue => exact onlyMsix_sendMsix s tgt.1 tgt.2
    case isFalse => exact onlyMsix_sendMsix s tgt.1 tgt.2

theorem onlyMsix_raiseRing (s : State) (n fn : Nat) : OnlyMsix s (raiseRing s n fn) := by
  unfold raiseRing
  dsimp only
  split
  case isTrue => exact onlyMsix_notify s n _ _
  case isFalse => exact .of_out_eq rfl

theorem raiseRing_tbl (s : State) (n fn : Nat) : (raiseRing s n fn).rings.tbl = s.rings.tbl :=
  raiseRing_only (L := raising) .refl (by decide) .rings (by decide)

theorem noteLatency_out (s : State) (c : Cmd) (k : Compl) : (noteLatency s c k).out = s.out :=
  noteLatency_only (L := [.contexts]) .refl (by decide) .outputs (by decide)

theorem noteLatency_tbl (s : State) (c : Cmd) (k : Compl) : (noteLatency s c k).rings.tbl = s.rings.tbl :=
  noteLatency_only (L := [.contexts]) .refl (by decide) .rings (by decide)

/-- A ring once a completion entry is written at its tail (R173, R175). -/
def afterPost (r : Ring) : Ring := { r with
  cqTail := (r.cqTail + 1) % 2 ^ r.log2, pass := if r.cqTail + 1 = 2 ^ r.log2 then r.pass + 1 else r.pass,
  completions := satAdd 64 r.completions 1 }

/-- A state once the entry of command `c` is written and ring `r` advanced. -/
def entryWritten (s : State) (c : Cmd) (k : Compl) (r : Ring) : State := { s with
  out := .dma r.owner none (r.cqBase + 16 * r.cqTail) (complBytes c.cid k (r.pass % 2)) false :: s.out,
  rings.tbl := Tbl.put s.rings.tbl c.ring (afterPost r) }

theorem postOne_of_ring {s : State} {c : Cmd} (k : Compl) {r : Ring} (hr : Tbl.get? s.rings.tbl c.ring = some r) :
    postOne s c k = if c.noEvent then entryWritten (noteLatency s c k) c k r
      else raiseRing (entryWritten (noteLatency s c k) c k r) c.ring r.owner := by
  simp only [postOne, hr]
  rfl

/-- After the entry's write comes at most the message of the ring's event (R174). -/
theorem onlyMsix_postOne {s : State} {c : Cmd} (k : Compl) {r : Ring} (hr : Tbl.get? s.rings.tbl c.ring = some r) :
    OnlyMsix (entryWritten (noteLatency s c k) c k r) (postOne s c k) := by
  rw [postOne_of_ring k hr]
  split
  case isTrue => exact .of_out_eq rfl
  case isFalse => exact onlyMsix_raiseRing _ _ _

theorem ring_postOne {s : State} {c : Cmd} (k : Compl) {r : Ring} (hr : Tbl.get? s.rings.tbl c.ring = some r) :
    Tbl.get? (postOne s c k).rings.tbl c.ring = some (afterPost r) := by
  have htbl : (postOne s c k).rings.tbl = (entryWritten (noteLatency s c k) c k r).rings.tbl := by
    rw [postOne_of_ring k hr]
    split
    case isTrue => rfl
    case isFalse => exact raiseRing_tbl _ _ _
  rw [htbl]
  exact Tbl.get?_put_self _ _ _

theorem getElem?_leBytes {n i : Nat} (h : i < n) (v : Nat) : (leBytes n v)[i]? = some (BitVec.ofNat 8 (v / 256 ^ i)) := by
  induction n generalizing i v with
  | zero => omega
  | succ n ih =>
    cases i with
    | zero => simp [leBytes]
    | succ i => rw [leBytes, List.getElem?_cons_succ, ih (by omega), Nat.div_div_eq_div_mul, Nat.pow_succ, Nat.mul_comm]

/-- The lowest bit of a byte of a number. -/
theorem byte_mod_two (v i : Nat) : (BitVec.ofNat 8 (v / 256 ^ i)).toNat % 2 = (v.testBit (8 * i)).toNat := by
  rw [BitVec.toNat_ofNat, Nat.mod_mod_of_dvd _ (by decide), Nat.toNat_testBit, Nat.pow_mul]

theorem toNat_decide_odd (v : Nat) : (decide (v % 2 = 1)).toNat = v % 2 := by
  rw [← Nat.testBit_zero, Nat.toNat_testBit, Nat.pow_zero, Nat.div_one]

/-- The PHASE bit is bit 0 of byte 3: the fields below end before it and those above begin after it (Table 4-2). -/
theorem complBytes_phase (cid : Nat) (k : Compl) (phase : Nat) :
    ∃ x, (complBytes cid k phase)[3]? = some x ∧ x.toNat % 2 = phase % 2 := by
  refine ⟨_, getElem?_leBytes (by decide) _, ?_⟩
  have hcid : (cid % 65536).testBit 24 = false := Nat.testBit_lt_two_pow (by omega)
  have hstatus : (k.status % 256).testBit 8 = false := Nat.testBit_lt_two_pow (by omega)
  have hflags : (phase + 2 * b2n k.ew + 4 * b2n k.more + 8 * b2n k.lost + 16 * b2n k.resumable) % 2 = phase % 2 := by omega
  rw [byte_mod_two]
  simpa [Nat.testBit_or, Nat.testBit_shiftLeft, hcid, hstatus, toNat_decide_odd] using hflags

/-- Settles O14: `entryWritten` is the one write, and `onlyMsix_postOne` says what follows it. -/
theorem completionPosted : Obligations.CompletionPosted := by
  unfold Obligations.CompletionPosted
  intro s c k r hr
  obtain ⟨l, hout, hl⟩ := onlyMsix_postOne k hr
  obtain ⟨x, hx, hphase⟩ := complBytes_phase c.cid k (r.pass % 2)
  refine ⟨l, complBytes c.cid k (r.pass % 2), x, afterPost r, ?_, hl, rfl, hx, by rw [hphase, Nat.mod_mod], ring_postOne k hr, rfl, rfl⟩
  rw [hout, entryWritten, noteLatency_out]

/-! ### Status pages (R100, R203, R212, R217) -/

section pages
variable {s : State} {id : Nat} {c : Cmd}

theorem exec_getContextStatus (h : Started s id 0x0B c) : exec (.getContextStatus id) s = .next
    (answer s c 0x10 (ctxPage s c.ctx) (Compl.ok (ctxCode s c.ctx + 256 * hwState s c.ctx) 0)) := by
  change Host.Outcome.next (withCmd s id 0x0B _) = _
  rw [withCmd_of_started h]

theorem exec_getLogPage_of_not_allowed (h : Started s id 0x05 c)
    (ha : pageAllowed s (c.fld 0x10 1) (c.fld 0x12 2) c.ring (cmdFn s c) = false) :
    exec (.getLogPage id) s = .next (complete s id (Compl.of 3)) := by
  change Host.Outcome.next (withCmd s id 0x05 _) = _
  rw [withCmd_of_started h]
  simp only [ha, Bool.not_false, if_true]

/-- EVENT_LOG is cleared from ring 0 alone and from its first byte (R806). -/
theorem exec_getLogPage_of_allowed (h : Started s id 0x05 c)
    (ha : pageAllowed s (c.fld 0x10 1) (c.fld 0x12 2) c.ring (cmdFn s c) = true) (hd : dataOk s c = true)
    (hclear : c.fld 0x10 1 = 0x30 → bitOf (c.fld 0x11 1) 0 = true → c.ring = 0 ∧ c.fld 0x20 4 = 0) :
    exec (.getLogPage id) s = .next (
      let b := logPage s (c.fld 0x10 1) (c.fld 0x12 2) c.ring (cmdFn s c)
      let part := (b.drop (c.fld 0x20 4)).take (c.fld 0x14 4)
      answer (if bitOf (c.fld 0x11 1) 0 then clearPage s (c.fld 0x10 1) (c.fld 0x12 2) part.length else s) c 0x18 part
        { Compl.ok part.length b.length with more := decide (c.fld 0x20 4 + c.fld 0x14 4 < b.length) }) := by
  have hring : (c.fld 0x10 1 == 0x30 && bitOf (c.fld 0x11 1) 0 && c.ring != 0) = false := by
    simp only [Bool.and_eq_false_imp, beq_iff_eq, Bool.and_eq_true, bne_eq_false_iff_eq]
    exact fun ⟨hp, hc⟩ => (hclear hp hc).1
  have hoff : (c.fld 0x10 1 == 0x30 && bitOf (c.fld 0x11 1) 0 && c.fld 0x20 4 != 0) = false := by
    simp only [Bool.and_eq_false_imp, beq_iff_eq, Bool.and_eq_true, bne_eq_false_iff_eq]
    exact fun ⟨hp, hc⟩ => (hclear hp hc).2
  change Host.Outcome.next (withCmd s id 0x05 _) = _
  rw [withCmd_of_started h]
  simp only [ha, hd, hring, hoff, Bool.not_true, Bool.and_false, Bool.false_eq_true, if_false]

end pages

/-- Settles O11: each clause is the outcome of its row. -/
theorem statusPages : Obligations.StatusPages := by
  unfold Obligations.StatusPages
  exact fun s id c => ⟨exec_identify, exec_getContextStatus,
    fun h => ⟨exec_getLogPage_of_not_allowed h, exec_getLogPage_of_allowed h⟩⟩

/-! ### CREATE_RING and CREATE_RING_TAGS_FREED (R204 to R206, R870) -/

section createRing
variable {s : State} {id : Nat} {c : Cmd}

theorem exec_createRing_of_error {k : Compl} (h : Started s id 0x02 c) (hk : createChecks s c = .error k) :
    exec (.createRing id) s = .next (complete s id k) := by
  change Host.Outcome.next (withCmd s id 0x02 _) = _
  rw [withCmd_of_started h]
  simp only [hk]

/-- A CREATE_RING that passes makes its ring, or reserves it until the pool has tags (R206, R870). -/
theorem exec_createRing_of_ok {n : Nat} (h : Started s id 0x02 c) (hn : createChecks s c = .ok n) :
    exec (.createRing id) s = .next (if poolHas16 s then makeRing s c n
      else setProg { s with rings.resv := Tbl.put s.rings.resv n (c.fld 0x20 1, c.fld 0x22 2) } id (.tagWait n)) := by
  change Host.Outcome.next (withCmd s id 0x02 _) = _
  rw [withCmd_of_started h]
  simp only [hn]

theorem exec_createRingTagsFreed {n : Nat} (hc : cmdOf s id = some c) (hp : c.prog = .tagWait n) (hd : c.done = none) :
    exec (.createRingTagsFreed id) s = .next (
      if !fnEnabled s (c.fld 0x20 1) || inFlr s (c.fld 0x20 1) then
        complete { s with rings.resv := Tbl.del s.rings.resv n } id (Compl.of 4)
      else if poolHas16 s then makeRing s c n
      else s) := by
  change execCreateRingTagsFreed id s = _
  simp only [execCreateRingTagsFreed, hc, hp, hd]
  split
  case isTrue => rfl
  case isFalse => split <;> rfl

end createRing

/-! ### DELETE_RING and DELETE_RING_DRAINED (R207, R208, R221, R222) -/

section deleteRing
variable {s : State} {id : Nat} {c : Cmd}

theorem exec_deleteRing_of_no_ring (h : Started s id 0x03 c) (hr : Tbl.get? s.rings.tbl (c.fld 0x10 2) = none) :
    exec (.deleteRing id) s = .next (complete s id (Compl.field 0x10)) := by
  change Host.Outcome.next (withCmd s id 0x03 _) = _
  rw [withCmd_of_started h]
  simp only [hr]

theorem exec_deleteRing_of_ring {r : Ring} (h : Started s id 0x03 c) (hr : Tbl.get? s.rings.tbl (c.fld 0x10 2) = some r) :
    exec (.deleteRing id) s = .next (if r.st = .deleting then complete s id (Compl.field 0x10) else
      let u : State := { s with rings.tbl := Tbl.put s.rings.tbl (c.fld 0x10 2) { r with st := .deleting, look := none } }
      let l := if bitOf (c.fld 0x12 2) 0 then ringCmds u (c.fld 0x10 2) else []
      postAll (setProg (abortList u 0x47 id l) id (.ringDrain (c.fld 0x10 2) (abortTargets u l).1.length))) := by
  change Host.Outcome.next (withCmd s id 0x03 _) = _
  rw [withCmd_of_started h]
  simp only [hr]

/-- DELETE_RING_DRAINED: the ring is gone already, or it has drained, or a command of it is in flight. -/
theorem exec_deleteRingDrained {n k : Nat} (hc : cmdOf s id = some c) (hp : c.prog = .ringDrain n k) (hd : c.done = none) :
    exec (.deleteRingDrained id) s = .next (
      if !Tbl.has s.rings.tbl n then complete s id (Compl.ok 0 0)
      else if (ringCmds s n).isEmpty then
        complete (removeRing (dropStreams s fun st => st.ring == n) n) id (Compl.ok k 0)
      else s) := by
  change execDeleteRingDrained id s = _
  simp only [execDeleteRingDrained, hc, hp, hd]
  split
  case isTrue => rfl
  case isFalse => split <;> rfl

end deleteRing

/-- Settles O12: each clause is the branch of its row that the state selects. -/
theorem ringsMadeAndRemoved : Obligations.RingsMadeAndRemoved := by
  unfold Obligations.RingsMadeAndRemoved
  refine ⟨fun s id c n => ⟨fun k h hk => ?refused, fun h hn hpool => ?created, fun h hn hpool => ?reserved,
      fun hc hp hd => ⟨fun hen hflr hpool => ?freed, fun hgone => ?ownerGone⟩, rfl⟩,
    fun s id c n k r => ⟨fun h hr hst => ?deleting, fun h hr => ?notDeletable, fun hc hp hd hhas hnil => ?drained,
      fun hc hp hd hhas hne => ?waits, fun hc hp hd hhas => ?gone⟩⟩
  case refused => exact exec_createRing_of_error h hk
  case created => rw [exec_createRing_of_ok h hn, if_pos hpool]
  case reserved => rw [exec_createRing_of_ok h hn, if_neg (Bool.eq_false_iff.1 hpool)]
  case freed => rw [exec_createRingTagsFreed hc hp hd, hen, hflr, hpool]; rfl
  case ownerGone => rw [exec_createRingTagsFreed hc hp hd, if_pos (by simpa using hgone)]
  case deleting => rw [exec_deleteRing_of_ring h hr, if_neg hst]
  case notDeletable =>
    obtain hnone | ⟨hr, hst⟩ := hr
    · exact exec_deleteRing_of_no_ring h hnone
    · rw [exec_deleteRing_of_ring h hr, if_pos hst]
  case drained => rw [exec_deleteRingDrained hc hp hd, hhas, hnil]; rfl
  case waits => rw [exec_deleteRingDrained hc hp hd, hhas, List.isEmpty_eq_false_iff.2 hne]; rfl
  case gone => rw [exec_deleteRingDrained hc hp hd, hhas]; rfl

end Sys2Proof.Machine
end

section
/-! What FORMAT_PARTITIONS lays out, and how packing fills datasets (O19, O23). -/

namespace Sys2Proof.Machine

/-! ### What FORMAT_PARTITIONS leaves (R239, R441, R501) -/

theorem sumOf_eq_sum (l : List Nat) : sumOf l = l.sum := List.sum_eq_foldl.symm

/-- The partition that a specification lays out from wrap `w` on. -/
def emptyPart (w : Nat) (b : BitVec 128) : PartEntry :=
  { policy := fieldOf b 0 1, c3 := bitOf (fieldOf b 1 1) 0, wp := bitOf (fieldOf b 1 1) 1, dirty := false, wraps := fieldOf b 2 2,
    firstWrap := w, tag := fieldOf b 8 8, eod := 0, nextSeq := 1, eodWrap := w, eodLpos := lposAt w 0 }

theorem layOut_cons (w : Nat) (b : BitVec 128) (l : List (BitVec 128)) :
    layOut w (b :: l) = emptyPart w b :: layOut (w + fieldOf b 2 2) l := rfl

@[simp] theorem layOut_length (w : Nat) (l : List (BitVec 128)) : (layOut w l).length = l.length := by
  induction l generalizing w with
  | nil => rfl
  | cons b r ih => rw [layOut_cons, List.length_cons, ih, List.length_cons]

/-- Each partition begins where those before it end. -/
theorem layOut_getElem? {l : List (BitVec 128)} {i : Nat} {b : BitVec 128} (h : l[i]? = some b) (w : Nat) :
    (layOut w l)[i]? = some (emptyPart (w + sumOf ((l.take i).map fun b => fieldOf b 2 2)) b) := by
  induction l generalizing w i with
  | nil => cases h
  | cons a r ih =>
    cases i with
    | zero =>
      obtain rfl : a = b := Option.some.inj h
      rfl
    | succ i =>
      have hr : r[i]? = some b := h
      rw [layOut_cons, List.getElem?_cons_succ, ih hr, sumOf_eq_sum, sumOf_eq_sum, List.take_succ_cons, List.map_cons,
        List.sum_cons, Nat.add_assoc]

/-- Settles O19: the entry is that of `layOut_getElem?`, and every partition's tape is made empty. -/
theorem formatEmptiesPartitions : Obligations.FormatEmptiesPartitions := by
  unfold Obligations.FormatEmptiesPartitions
  intro x m specs i b hb
  refine ⟨_, _, rfl, rfl, layOut_length 0 specs, layOut_getElem? hb 0, Nat.zero_add _, rfl, rfl, rfl, rfl, rfl, fun k hk => ?tapes⟩
  case tapes =>
    obtain ⟨c, -, rfl⟩ := Option.map_eq_some_iff.1 hk
    refine ⟨by simp, fun p hp => ?_⟩
    obtain ⟨e, -, rfl⟩ := List.mem_map.1 hp
    rfl

/-! ### Packing (R231, R461, R466, R471) -/

theorem openDs_closeGroup (s : State) (m : Mount) : (closeGroup s m).openDs = m.openDs := by
  unfold closeGroup
  split <;> rfl

theorem nextNum_le_closeGroup (s : State) (m : Mount) : m.nextNum ≤ (closeGroup s m).nextNum := by
  unfold closeGroup
  split
  · exact Nat.le_refl _
  · exact Nat.le_succ _

/-- The open dataset closes, and its group with it when it is full; a session without an open dataset stays as it is. -/
theorem closeOpen_cases (s : State) (m : Mount) (spanOut : Bool) :
    ∃ m', (closeOpen s m spanOut = closeGroup s m' ∨ closeOpen s m spanOut = m') ∧ m'.openDs = none ∧ m'.nextNum = m.nextNum := by
  unfold closeOpen
  split
  case h_1 ho => exact ⟨m, .inr rfl, ho, rfl⟩
  case h_2 => exact ⟨_, ite_eq_or_eq _ _ _, rfl, rfl⟩

theorem openDs_closeOpen (s : State) (m : Mount) (spanOut : Bool) : (closeOpen s m spanOut).openDs = none := by
  obtain ⟨m', h | h, ho, -⟩ := closeOpen_cases s m spanOut
  · rw [h, openDs_closeGroup, ho]
  · rw [h, ho]

/-- Closing a dataset may give a number to the parity dataset of its group, and takes none back. -/
theorem nextNum_le_closeOpen (s : State) (m : Mount) (spanOut : Bool) : m.nextNum ≤ (closeOpen s m spanOut).nextNum := by
  obtain ⟨m', h | h, -, hn⟩ := closeOpen_cases s m spanOut
  · rw [h, ← hn]; exact nextNum_le_closeGroup s m'
  · rw [h, hn]

/-- A dataset opens empty, under the next number. -/
theorem openNext_eq_some {m m' : Mount} {span : Bool} (h : openNext m span = some m') :
    ∃ o, m'.openDs = some o ∧ o.used = 0 ∧ o.num = m.nextNum ∧ m'.nextNum = m.nextNum + 1 := by
  unfold openNext at h
  split at h
  · cases h
    exact ⟨_, rfl, rfl, rfl, rfl⟩
  · cases h

section fill
variable {s : State} {k n last : Nat} {m m' : Mount} {o : OpenDs} (ho : m.openDs = some o)
  (h : fillBytes s (k + 1) m n = some (m', last))
include ho h

/-- What fits stays in the open dataset, which closes when no record header fits behind it. -/
theorem fillBytes_of_le (hn : n ≤ packBytes - o.used) :
    last = o.num ∧ m.nextNum ≤ m'.nextNum ∧ ∀ p, m'.openDs = some p → p.used + 48 ≤ packBytes := by
  rw [fillBytes.eq_def] at h
  simp only [ho, hn, if_true, Option.some.injEq, Prod.mk.injEq] at h
  obtain ⟨rfl, rfl⟩ := h
  refine ⟨rfl, ?_⟩
  split
  case isTrue =>
    exact ⟨nextNum_le_closeOpen s { m with openDs := some { o with used := o.used + n } } false,
      fun p hp => by rw [openDs_closeOpen] at hp; cases hp⟩
  case isFalse hroom =>
    refine ⟨Nat.le_refl _, fun p hp => ?_⟩
    obtain rfl := Option.some.inj hp
    exact Nat.le_of_not_lt hroom

/-- What does not fit goes on in a new dataset. -/
theorem fillBytes_of_lt (hn : packBytes - o.used < n) : ∃ m1 p, m1.openDs = some p ∧ p.used = 0 ∧ m.nextNum ≤ p.num ∧
    m1.nextNum = p.num + 1 ∧ fillBytes s k m1 (n - (packBytes - o.used)) = some (m', last) := by
  rw [fillBytes.eq_def] at h
  simp only [ho, Nat.not_le.2 hn, if_false] at h
  split at h
  case h_1 m1 hopen =>
    obtain ⟨p, hp, hused, hnum, hnext⟩ := openNext_eq_some hopen
    refine ⟨m1, p, hp, hused, ?_, by rw [hnext, hnum], h⟩
    rw [hnum]
    exact nextNum_le_closeOpen s { m with openDs := some { o with used := packBytes } } true
  case h_2 => cases h

end fill

/-- Settles O23, by induction on the datasets that packing may still open. -/
theorem packingFillsDatasets : Obligations.PackingFillsDatasets := by
  unfold Obligations.PackingFillsDatasets
  intro s fuel
  induction fuel with
  | zero =>
    intro n last m m' o _ _ _ h
    cases h
  | succ k ih =>
    intro n last m m' o ho _ hnum h
    by_cases hn : n ≤ packBytes - o.used
    case pos =>
      obtain ⟨rfl, hrise, hroom⟩ := fillBytes_of_le ho h hn
      exact ⟨Nat.le_refl _, Nat.lt_of_lt_of_le hnum hrise, hrise, hroom⟩
    case neg =>
      obtain ⟨m1, p, hp, hused, hle, hnext, h'⟩ := fillBytes_of_lt ho h (Nat.not_le.1 hn)
      obtain ⟨hlast, hbelow, hrise, hroom⟩ :=
        ih _ last m1 m' p hp (hused ▸ Nat.zero_le _) (hnext ▸ Nat.lt_succ_self _) h'
      exact ⟨by omega, hbelow, by omega, hroom⟩

end Sys2Proof.Machine
end

section
/-! Mount sessions and cartridge memory (O18). -/

namespace Sys2Proof.Machine

/-! ### MOUNT (R228 to R230, R235, R282, R283) -/

section mount
variable {s : State} {id : Nat} {c : Cmd} {x : Xport} {k : Cart}

/-- MOUNT's checks, in their order. -/
theorem exec_mount (ok : Bool) (h : Started s id 0x18 c) (hx : xpOf s (c.fld 0x10 1) = some x) :
    exec (.mount id ok) s = .next (
      if x.mount.isSome then complete s id (Compl.field 0x10)
      else if x.cart.isNone then complete s id (Compl.of 0x62)
      else if !x.startup then complete s id (Compl.of 0x67)
      else if !engRun s 4 (c.fld 0x10 1) then complete s id (Compl.of 0x42)
      else if !dataOk s c then complete s id (Compl.of 7)
      else if x.calibrating || x.cmTry.isSome then s
      else if ok then mountGo s (c.fld 0x10 1) c
      else cmFail (setProg s id (.waiting 0)) (c.fld 0x10 1) id) := by
  change Host.Outcome.next (withCmd s id 0x18 _) = _
  rw [withCmd_of_started h]
  simp only [hx]

/-- Past its checks a MOUNT goes by the reading of cartridge memory. -/
theorem exec_mount_of_ready (ok : Bool) (h : Started s id 0x18 c) (hx : xpOf s (c.fld 0x10 1) = some x) (hstart : x.startup = true)
    (hm : x.mount = none) (hk : x.cart = some k) (heng : engRun s 4 (c.fld 0x10 1) = true) (hd : dataOk s c = true)
    (hcal : x.calibrating = false) (htry : x.cmTry = none) :
    exec (.mount id ok) s = .next (if ok then mountGo s (c.fld 0x10 1) c
      else cmFail (setProg s id (.waiting 0)) (c.fld 0x10 1) id) := by
  rw [exec_mount ok h hx]
  simp only [hstart, hm, hk, heng, hd, hcal, htry, Option.isSome_none, Option.isNone_some, Bool.not_true, Bool.or_false,
    Bool.false_eq_true, if_false]

theorem mountGo_of_no_table {t : Nat} (hk : (xpOf s t).bind (·.cart) = some k) (hf : k.format ≠ 0) (ht : cmTable k = none) :
    mountGo s t c = complete s c.id (Compl.of 0x28) := by
  simp only [mountGo, hk, hf, ht, if_false]

/-- A readable cartridge is mounted. -/
theorem mountGo_of_table {t : Nat} {tb : CmCopy} (hk : (xpOf s t).bind (·.cart) = some k)
    (ht : (if k.format = 0 then some ⟨0, 0, []⟩ else cmTable k) = some tb) :
    let ro := bitOf (c.fld 0x11 1) 0 || k.wp || k.format == 2
    let l := (numbered tb.parts 0).map (mountPart k tb.gen)
    mountGo s t c =
      let u := updXp s t fun x => { stopTape x .stopped with
        mount := some (Mount.start c ro tb.gen (l.map (·.1))), faulted := false, cmTry := none, occ := 0, rsOcc := 0,
        restored := [], cws := [], reread := (0, 0), goal := none, arrivals := [], drains := [] }
      answer (recomputeXport (applyThermal ((lanesOf t).foldl startLane u)) t) c 0x18 (mountPage k ro l)
        (Compl.ok (k.format + 256 * l.length) (sumOf (l.map (·.2.1)))) := by
  simp only [mountGo, hk, ht]

end mount

/-! ### UNMOUNT (R241 to R243, R292) -/

section unmount
variable {s : State} {id n : Nat} {c : Cmd} {x : Xport} {m : Mount}

/-- UNMOUNT's checks; then what FORCE aborts is aborted, the transport's streams close and the unmount goes on. -/
theorem exec_unmount_of_started (ok : Bool) (h : Started s id 0x19 c) :
    let t := c.fld 0x10 1
    let force := bitOf (c.fld 0x11 1) 0
    let l := if force then forceTargets s t else []
    exec (.unmount id ok) s = .next (
      if ((xpOf s t).bind (·.mount)).isNone then complete s id (Compl.of 0x62)
      else if !force && (s.strm.any fun p => p.2.xp == t) then complete s id (Compl.of 5)
      else
        let u := abortList s 0x47 id l
        let u : State := { u with strm := Tbl.mapVal u.strm fun _ st => if st.xp = t then { st with closing := true } else st }
        unmountGo (postAll (setProg u id (.waiting (abortTargets s l).1.length))) t c (abortTargets s l).1.length ok) := by
  obtain ⟨hc, hop, hdone, hprog⟩ := h
  change Host.Outcome.next (withCmdW s id 0x19 _) = _
  rw [withCmdW_of_cmdOf hc hop hdone (by simp [hprog])]
  simp only [hprog]

theorem exec_unmount_of_waiting (ok : Bool) (h : Waiting s id 0x19 c (.waiting n)) :
    exec (.unmount id ok) s = .next (unmountGo s (c.fld 0x10 1) c n ok) := by
  obtain ⟨hc, hop, hdone, hprog⟩ := h
  change Host.Outcome.next (withCmdW s id 0x19 _) = _
  rw [withCmdW_of_cmdOf hc hop hdone (by simp [hprog])]
  simp only [hprog]

/-- An idle session needs cartridge memory alone. -/
theorem unmountGo_of_idle {t : Nat} (ok : Bool) (hx : xpOf s t = some x) (hm : x.mount = some m) (hf : x.faulted = false)
    (hidle : partIdle m = true) (htry : x.cmTry = none) (hres : m.reserveOut = false) :
    unmountGo s t c n ok =
      if m.readOnly then unmountEnd s t c n true
      else if s.pmu.pfail then s
      else if ok then unmountEnd s t c n true
      else cmFail s t c.id := by
  simp only [unmountGo, hx, hm, hf, hidle, htry, hres, Option.isSome_none, Bool.not_true, Bool.false_and, Bool.false_eq_true, if_false]

end unmount

/-! ### FORMAT_PARTITIONS (R238 to R240) -/

theorem exec_formatPartitions {s : State} {id : Nat} {c : Cmd} {m : Mount} {specs : List (BitVec 128)} (h : Started s id 0x1A c)
    (hm : (xpOf s (c.fld 0x10 1)).bind (·.mount) = some m) (hstrm : (s.strm.any fun p => p.2.xp == c.fld 0x10 1) = false)
    (hro : m.readOnly = false) (hd : dataOk s c = true) (hp : s.pmu.pfail = false) (hlen : specs.length = c.fld 0x11 1) :
    exec (.formatPartitions id specs) s = .next (
      let u := cmdRead s c (c.fld 0x18 8) (16 * specs.length)
      if !specs.all specOk || decide (192 < sumOf (specs.map fun b => fieldOf b 2 2)) then complete u id (Compl.field 0xFF)
      else complete (storeCm u (c.fld 0x10 1) fun x => formatted x m (layOut 0 specs)) id (Compl.ok 0 0)) := by
  have hgo : (decide (specs.length ≠ c.fld 0x11 1) || s.pmu.pfail) = false := by simp [hp, hlen]
  change Host.Outcome.next (withCmd s id 0x1A _) = _
  rw [withCmd_of_started h]
  simp only [hm, hstrm, hro, hd, hgo, Bool.not_true, Bool.false_eq_true, if_false]

/-! ### CM_UPDATE and CM_ACCESS_RETRY (R234, R243, R283, R763, Table 16-4) -/

theorem exec_cmUpdate {s : State} {t : Nat} {x : Xport} {m : Mount} (ok : Bool) (hx : xpOf s t = some x) (hm : x.mount = some m)
    (hds : 1024 ≤ m.dsSinceCm) (hro : m.readOnly = false) (htry : x.cmTry = none) (hp : s.pmu.pfail = false) :
    exec (.cmUpdate t ok) s = .next (if ok then storeCm s t cmWrite else cmFail s t noCmd) := by
  change execCmUpdate t ok s = _
  simp only [execCmUpdate, hx, hm, hds, hro, htry, hp, Option.elim_some, decide_true, Bool.not_false, Option.isNone_none, Bool.and_self,
    if_true]

/-- Time passing leaves the commands in flight. -/
@[simp] theorem cmdOf_advance (s : State) (dt id : Nat) : cmdOf (advance s dt) id = cmdOf s id := by
  have h := advance_only (L := [.time, .rings, .contexts, .pool, .timeBase]) (s := s) (dt := dt) .refl (by decide)
  have hcmds : (advance s dt).rings.cmds = s.rings.cmds := h .commands (by decide)
  rw [cmdOf, hcmds]; rfl

theorem cmdOf_updXp (s : State) (t : Nat) (f : Xport → Xport) (id : Nat) : cmdOf (updXp s t f) id = cmdOf s id := rfl

section retry
variable {s : State} {dt t n due id : Nat} {x : Xport} (hx : xpOf s t = some x) (htry : x.cmTry = some (n, due, id))
include hx htry

theorem exec_cmAccessRetry_early (ok : Bool) (hdue : now (advance s dt) < due) :
    exec (.cmAccessRetry dt t ok) s = .next (advance s dt) := by
  change execCmAccessRetry dt t ok s = _
  simp only [execCmAccessRetry, xpOf_advance, hx, htry, Option.bind_some, hdue, true_or, if_true]

/-- The fault log entry of an access to cartridge memory that failed for the third time. -/
def cmSpent (s : State) (t id : Nat) : FltLog := { FltLog.blank with
  cls := 9, status := (cmdOf s id).elim 0 fun c => if c.opcode = 0x18 then 0x28 else 0x64, event := evXp t 10, xp := t,
  ring := (cmdOf s id).elim 0xFFFF (·.ring), cid := (cmdOf s id).elim 0 (·.cid), tries := 3 }

theorem exec_cmAccessRetry_due (ok : Bool) (hdue : due ≤ now (advance s dt))
    (hgo : s.pmu.pfail = false ∨ ∃ c, cmdOf s id = some c ∧ c.opcode = 0x18) :
    exec (.cmAccessRetry dt t ok) s =
      let u := advance s dt
      let v := updXp u t fun x => { x with cmTry := none }
      .next (
        if ok then cmResume (countFault v 9 0 1 0 0) t id
        else if n < 2 then countFault (updXp u t fun x => { x with cmTry := some (n + 1, now u + 100 * msTicks, id) }) 9 0 0 0 1
        else cmGiveUp (faultSpent v (cmSpent s t id) subjXp t) t id) := by
  have hp : (advance s dt).pmu.pfail = s.pmu.pfail :=
    (advance_only (L := [.time, .rings, .contexts, .pool, .timeBase]) (s := s) (dt := dt) .refl (by decide) .thermal (by decide)).2
  have hfree : ¬(now (advance s dt) < due ∨ ((cmdOf s id).elim true (fun c => c.opcode != 0x18) ∧ s.pmu.pfail)) := by
    rintro (h | ⟨hw, hf⟩)
    · omega
    · obtain hno | ⟨c, hc, hop⟩ := hgo
      · simp [hno] at hf
      · simp [hc, hop] at hw
  change execCmAccessRetry dt t ok s = _
  simp only [execCmAccessRetry, xpOf_advance, cmdOf_advance, cmdOf_updXp, hp, hx, htry, Option.bind_some, hfree, if_false, cmSpent]
  split
  case isTrue => rfl
  case isFalse => split <;> rfl

end retry

/-- Settles O18: each clause is the outcome of its row that the transport, its cartridge and the operands select. -/
theorem mountAndCartridgeMemory : Obligations.MountAndCartridgeMemory := by
  unfold Obligations.MountAndCartridgeMemory
  refine ⟨fun s id c x k m n specs => ⟨fun h hx => ⟨fun ok hm => ?mounted, fun ok hm hk => ?noCartridge,
      fun ok hm hk hstart => ?notReady,
      fun hstart hm hk heng hd hcal htry => ⟨fun tb ht => ?mounts, fun hf ht => ?noTable, ?unread⟩⟩,
    fun h hx => ⟨fun ok hm => ?noSession, fun ok hm hforce hopen => ?streamsOpen, fun ok hm hgo => ?unmounts⟩,
    fun h hx hm hf hidle htry hres => ⟨fun ok hgo => ?ends, fun hro hp ok => ?held, fun hro hp => ?unwritten⟩,
    fun h hx hm hstrm hro hd hp hlen => ?format⟩,
    fun s t x m hx hm hds hro htry hp => ⟨exec_cmUpdate true hx hm hds hro htry hp, exec_cmUpdate false hx hm hds hro htry hp⟩,
    fun s t x dt n due id hx htry => ⟨fun hdue ok => exec_cmAccessRetry_early hx htry ok hdue, fun hdue hgo => ?retry⟩⟩
  case mounted => rw [exec_mount ok h hx, if_pos (Option.isSome_iff_ne_none.2 hm)]
  case noCartridge => rw [exec_mount ok h hx, hm, hk]; rfl
  case notReady => rw [exec_mount ok h hx, hm, hk, hstart]; rfl
  case mounts =>
    rw [exec_mount_of_ready true h hx hstart hm hk heng hd hcal htry, if_pos rfl,
      mountGo_of_table (by rw [hx, Option.bind_some, hk]) ht]
  case noTable =>
    rw [exec_mount_of_ready true h hx hstart hm hk heng hd hcal htry, if_pos rfl,
      mountGo_of_no_table (by rw [hx, Option.bind_some, hk]) hf ht, id_of_cmdOf h.1]
  case unread => exact exec_mount_of_ready false h hx hstart hm hk heng hd hcal htry
  case noSession => rw [exec_unmount_of_started ok h, hx, Option.bind_some, hm]; rfl
  case streamsOpen =>
    rw [exec_unmount_of_started ok h, hx, Option.bind_some, hforce, hopen, if_neg (by simpa using hm)]; rfl
  case unmounts =>
    rw [exec_unmount_of_started ok h, hx, Option.bind_some, if_neg (by simpa using hm), if_neg]
    rcases hgo with hforce | hnone
    · simp [hforce]
    · simp [hnone]
  case ends =>
    have hend : unmountGo s (c.fld 0x10 1) c n ok = unmountEnd s (c.fld 0x10 1) c n true := by
      rw [unmountGo_of_idle ok hx hm hf hidle htry hres]
      rcases hgo with hro | ⟨hp, rfl⟩
      · rw [if_pos hro]
      · rw [hp, if_neg Bool.false_ne_true, if_pos rfl, ite_self]
    rw [exec_unmount_of_waiting ok h, hend, ← id_of_cmdOf h.1]
    rfl
  case held => rw [exec_unmount_of_waiting ok h, unmountGo_of_idle ok hx hm hf hidle htry hres, hro, hp]; rfl
  case unwritten =>
    rw [exec_unmount_of_waiting false h, unmountGo_of_idle false hx hm hf hidle htry hres, hro, hp, id_of_cmdOf h.1]; rfl
  case format =>
    rw [exec_formatPartitions h (by rw [hx, Option.bind_some, hm]) hstrm hro hd hp hlen]
    refine ⟨fun ⟨hok, hsum⟩ => congrArg Host.Outcome.next (if_neg ?_), fun hbad => congrArg Host.Outcome.next (if_pos ?_)⟩
    · simp only [hok, hsum, Nat.not_lt.2, Bool.not_true, Bool.false_or, decide_false, Bool.false_eq_true, not_false_eq_true]
    · rw [not_and_or, Nat.not_le] at hbad
      simpa using hbad
  case retry =>
    rw [exec_cmAccessRetry_due hx htry true hdue hgo, exec_cmAccessRetry_due hx htry false hdue hgo]
    exact ⟨rfl, fun hn => congrArg Host.Outcome.next (if_pos hn), fun hn => congrArg Host.Outcome.next (if_neg (Nat.not_lt.2 hn))⟩

end Sys2Proof.Machine
end

section
/-! OPEN_STREAM, FLUSH, SYNC, CLOSE_STREAM and GET_POSITION (O20). -/

namespace Sys2Proof.Machine

section streams
variable {s : State} {id k : Nat} {c : Cmd} {y : Ctx} {m : Mount} {x : Xport} {st : Stream}

/-! ### OPEN_STREAM (R244, R245, R472) -/

/-- The stream that an OPEN_STREAM asks for. -/
abbrev streamAsked (c : Cmd) : Stream := Stream.opened c.ctx c.ring (c.fld 0x10 1) (c.fld 0x11 1) (bitOf (c.fld 0x12 1) 0)

theorem openNow_of_leastFree (hk : leastFree (s.strm.map (·.1)) 0 16384 = some k) :
    openNow s c = complete { s with strm := Tbl.put s.strm k (streamAsked c) } c.id (Compl.ok k 0) := by
  simp only [openNow, hk]

theorem exec_openStream_of_refused {e : Compl} (h : Started s id 0x40 c) (hy : ctxOf s c.ctx = some y)
    (he : openChecks s c y.d = some e) : exec (.openStream id) s = .next (complete s id e) := by
  obtain ⟨hc, hop, hdone, hprog⟩ := h
  change Host.Outcome.next (withCmdW s id 0x40 _) = _
  rw [withCmdW_of_cmdOf hc hop hdone (by simp [hprog])]
  simp only [hy, he]

/-- A stream that may open does so at once, or when the partition written before has ended. -/
theorem exec_openStream_of_allowed (h : Started s id 0x40 c) (hy : ctxOf s c.ctx = some y) (he : openChecks s c y.d = none)
    (hm : (xpOf s (c.fld 0x10 1)).bind (·.mount) = some m) : exec (.openStream id) s = .next (
      let t := c.fld 0x10 1
      let p := c.fld 0x11 1
      if bitOf (c.fld 0x12 1) 0 || m.wrPart == some p then openNow s c
      else if m.wrPart.isNone || partIdle m || m.reserveOut then
        openNow (updXp s t fun x => (partOf m p).elim x (startPart x m p)) c
      else if (xpOf s t).elim false (·.faulted) then complete s id (Compl.of 0x64)
      else setProg (closePart s t) id (.waiting 0)) := by
  obtain ⟨hc, hop, hdone, hprog⟩ := h
  have hnew : ¬c.prog = .waiting 0 := by simp [hprog]
  change Host.Outcome.next (withCmdW s id 0x40 _) = _
  rw [withCmdW_of_cmdOf hc hop hdone (by simp [hprog])]
  simp only [hy, he, hm, hnew, if_false]

/-! ### FLUSH, SYNC and CLOSE_STREAM (R246, R247, R258 to R265) -/

theorem exec_flush (h : Started s id 0x43 c) : exec (.flush id) s = .next (startFlush s c) := by
  change Host.Outcome.next (withCmd s id 0x43 _) = _
  rw [withCmd_of_started h]

theorem exec_sync (h : Started s id 0x44 c) : exec (.sync id) s = .next (startFlush s c) := by
  change Host.Outcome.next (withCmd s id 0x44 _) = _
  rw [withCmd_of_started h]

/-- FLUSH and SYNC begin alike. -/
theorem startFlush_cases (hc : cmdOf s id = some c) :
    (streamFor s c false = none → startFlush s c = complete s id (Compl.of 5)) ∧
    (streamFor s c false = some (k, st) →
      (c.hot = true → startFlush s c = complete s id (Compl.of 0x65)) ∧
      (c.hot = false → startFlush s c = settle (setProg s id (.waiting 0)))) := by
  obtain rfl := id_of_cmdOf hc
  refine ⟨fun hno => ?noStream, fun hs => ⟨fun hhot => ?writeStop, fun hhot => ?waits⟩⟩
  case noStream => simp only [startFlush, hno]
  case writeStop => simp only [startFlush, hs, hhot, if_true]
  case waits => simp only [startFlush, hs, hhot, Bool.false_eq_true, if_false]

theorem exec_closeStream (h : Started s id 0x45 c) : exec (.closeStream id) s = .next (
    if c.late || (c.stream.bind (Tbl.get? s.strm)).isNone then complete s id (Compl.of 5)
    else settle (setProg s id (.waiting 0))) := by
  change Host.Outcome.next (withCmd s id 0x45 _) = _
  rw [withCmd_of_started h]

/-! ### GET_POSITION (R246, R284) -/

theorem exec_getPosition_of_stream (h : Started s id 0x4B c) (hl : c.late = false) (hk : c.stream = some k)
    (hst : Tbl.get? s.strm k = some st) (hx : xpOf s st.xp = some x) (hm : x.mount = some m) :
    exec (.getPosition id) s = .next (answer s c 0x18 (positionBlock s st x m) (Compl.ok 0 0)) := by
  change Host.Outcome.next (withCmd s id 0x4B _) = _
  rw [withCmd_of_started h]
  simp only [hl, hk, Bool.not_false, Option.filter_some, if_true, Option.bind_some, hst, hx, hm]

theorem exec_getPosition_of_no_stream (h : Started s id 0x4B c) (hno : c.late = true ∨ c.stream = none) :
    exec (.getPosition id) s = .next (complete s id (Compl.of 5)) := by
  have hnone : (c.stream.filter fun _ => !c.late) = none := by
    rcases hno with hl | hk
    · simp [hl]
    · simp [hk]
  change Host.Outcome.next (withCmd s id 0x4B _) = _
  rw [withCmd_of_started h]
  simp only [hnone, Option.bind_none]

end streams

/-- Settles O20: each clause is the outcome of its row that the stream, the mount session and the operands select. -/
theorem streamCommands : Obligations.StreamCommands := by
  unfold Obligations.StreamCommands
  intro s id c y m x k st
  refine ⟨fun h hy => ⟨fun e he => exec_openStream_of_refused h hy he, fun he hm hk =>
      ⟨fun hat => ?atOnce, fun hw hp hmay => ?moves, fun hw hp hwr hidle hres hfault => ?waits⟩⟩,
    fun h => ?flush, fun h => ?sync, fun h => ⟨fun hl hk hst => ?closes, fun hno => ?closed⟩,
    fun h => ⟨exec_getPosition_of_stream h, exec_getPosition_of_no_stream h⟩⟩
  case atOnce =>
    rw [exec_openStream_of_allowed h hy he hm, if_pos (by simpa using hat), openNow_of_leastFree hk, id_of_cmdOf h.1]
  case moves =>
    have hnot : ¬(bitOf (c.fld 0x12 1) 0 || m.wrPart == some (c.fld 0x11 1)) = true := by simp [hw, hp]
    rw [exec_openStream_of_allowed h hy he hm, if_neg hnot, if_pos (by simpa [or_assoc] using hmay),
      openNow_of_leastFree (by exact hk), id_of_cmdOf h.1]
  case waits =>
    have hnot : ¬(bitOf (c.fld 0x12 1) 0 || m.wrPart == some (c.fld 0x11 1)) = true := by simp [hw, hp]
    rw [exec_openStream_of_allowed h hy he hm, if_neg hnot, if_neg (by simp [hwr, hidle, hres]), hfault]
    rfl
  case flush => rw [exec_flush h]; simpa only [Host.Outcome.next.injEq] using startFlush_cases h.1
  case sync => rw [exec_sync h]; simpa only [Host.Outcome.next.injEq] using startFlush_cases h.1
  case closes => rw [exec_closeStream h, hl, hk, Option.bind_some, hst]; rfl
  case closed =>
    rw [exec_closeStream h, if_pos]
    rcases hno with hl | hk
    · simp [hl]
    · simp [hk]

end Sys2Proof.Machine
end

section
/-! WRITE begins to ingest (O21). -/

namespace Sys2Proof.Machine

/-! ### WRITE (R254, R258, R280) -/

/-- A read takes no time of its own. -/
@[simp] theorem now_cmdRead (s : State) (c : Cmd) (addr len : Nat) : now (cmdRead s c addr len) = now s := by
  obtain ⟨o, h⟩ := cmdRead_eq_out s c addr len
  rw [h]; rfl

theorem cmds_cmdRead (s : State) (c : Cmd) (addr len : Nat) : (cmdRead s c addr len).rings.cmds = s.rings.cmds := by
  obtain ⟨o, h⟩ := cmdRead_eq_out s c addr len
  rw [h]

/-- A WRITE goes over to ingest its record from the buffers `b`. -/
def beginsWriting (s : State) (b : List (Nat × Nat)) (k : Cmd) : Cmd := { k with bufs := [b], moved := now s, prog := .writing 1 0 none }

/-- The pieces of host memory that the entry of a WRITE and its scatter list give. -/
def writeBuf (c : Cmd) (sgl : List SglElem) : List (Nat × Nat) := pieces (c.fld 0x18 8) (c.fld 0x14 4) (c.fld 0x20 2) sgl

section write
variable {s : State} {id : Nat} {c : Cmd} {st : Stream} {d : Desc} {sgl : List SglElem} (h : Started s id 0x41 c)
  (hok : writeChecks s c = .ok (st, d)) (hd : dataOk s c = true) (hsgl : sglOk (c.fld 0x20 2) (c.fld 0x14 4) sgl = true)
include h hok hd hsgl

/-- With the checks passed and a valid list, whatever carries the identifier gets the buffers of the command that started. -/
theorem exec_write : exec (.write id sgl) s = .next
    (updCmd (cmdRead s c (c.fld 0x18 8) (16 * c.fld 0x20 2)) id (beginsWriting s (writeBuf c sgl))) := by
  change Host.Outcome.next (withCmd s id 0x41 _) = _
  rw [withCmd_of_started h]
  simp only [hok, hd, hsgl, readSgl, now_cmdRead, Bool.not_true, Bool.false_eq_true, if_false]
  rfl

/-- Where the identifier names one command, its buffers are those of its own entry. -/
theorem exec_write_of_unique (hone : ∀ k ∈ s.rings.cmds, k.id = id → k = c) : exec (.write id sgl) s = .next
    (updCmd (cmdRead s c (c.fld 0x18 8) (16 * c.fld 0x20 2)) id fun k => beginsWriting s (writeBuf k sgl) k) := by
  have hcmds : ∀ k ∈ s.rings.cmds, (if k.id == id then beginsWriting s (writeBuf c sgl) k else k) =
      if k.id == id then beginsWriting s (writeBuf k sgl) k else k := by
    intro k hk
    split
    case isTrue hid => rw [hone k hk (beq_iff_eq.1 hid)]
    case isFalse => rfl
  rw [exec_write h hok hd hsgl, updCmd, updCmd, cmds_cmdRead, List.map_congr_left hcmds]

end write

/-- A WRITE of `len` bytes at host address 0, on stream 0, under identifier 1. -/
def writeEntry (len : Nat) : Cmd :=
  { id := 1, ring := 0, mailbox := true, entry := BitVec.ofNat 512 (0x41 + len * 2 ^ 160), prog := .fresh, done := none,
    stream := some 0, fetch := none, charge := 0, voided := 0, late := false, descs := [], bufs := [], recs := [], acked := 0,
    firstSeq := 0, at0 := 0, moved := 0, hot := false, retries := 0 }

/-- A context that writes in the clear. -/
def clearDesc : Desc :=
  { ownerFn := 0, weight := 1, rate := 0, gust := 1, staging := 64, pasid := 0, pasidEn := false, keySlot := 0,
    keySlotEn := false, cipher := 0, flags := 0, tag := 7, wrMask := 1, rdMask := 1, volQuota := 0, maxStreams := 4,
    maxLabel := 16, xpMask := 15 }

/-- Two WRITEs of different lengths under one identifier. -/
def twinWrites : State := { State.reset with
  rings.cmds := [writeEntry 1, writeEntry 2], strm := [(0, Stream.opened 0 0 0 0 false)], ten.ctx := [(0, Ctx.fresh clearDesc)] }

theorem writeChecks_twinWrites :
    writeChecks twinWrites (writeEntry 1) = .ok (Stream.opened 0 0 0 0 false, clearDesc) := by decide +kernel

/-- Refutes O21: in its clause for a WRITE with a valid list, the statement takes each updated command's buffers from that command's own
entry. In `twinWrites` a second WRITE carries the identifier of the one that started, and the model gives both the buffers of the first
(`exec_write`). Where the identifier names one command, the clause holds (`exec_write_of_unique`). -/
theorem not_writesIngestRecords : ¬ Obligations.WritesIngestRecords := by
  unfold Obligations.WritesIngestRecords
  intro hall
  have hstart : Started twinWrites 1 0x41 (writeEntry 1) := by decide +kernel
  have hsgl : sglOk ((writeEntry 1).fld 0x20 2) ((writeEntry 1).fld 0x14 4) [] = true := by decide +kernel
  have hclaim := ((hall.1 twinWrites 1 (writeEntry 1)).2 _ _ writeChecks_twinWrites rfl).1 [] hstart |>.1 hsgl
  rw [exec_write hstart writeChecks_twinWrites rfl hsgl] at hclaim
  have hcmds := congrArg (fun u : State => u.rings.cmds.map (·.bufs)) (Host.Outcome.next.inj hclaim)
  revert hcmds
  decide +kernel

end Sys2Proof.Machine
end

section
/-! READ and LOCATE (O25). -/

namespace Sys2Proof.Machine

/-- A read command that begins or waits for the tape is executed. -/
theorem ne_ordered_of_waits {p : Prog} (h : p = .fresh ∨ p = .waiting 0) : p ≠ .ordered := by
  rcases h with rfl | rfl <;> simp

/-! ### READ that begins or waits (R246, R269, R271, R281, R353) -/

/-- A READ that only verifies has no list; another one's is good. -/
theorem read_list_good {vo good : Bool} (h : vo = true ∨ good = true) : (!vo && !good) = false := by
  rcases h with rfl | rfl <;> simp

section readBegins
variable {s u : State} {id k : Nat} {c : Cmd} {st : Stream} {x : Ctx} (sgl : List SglElem) (hc : cmdOf s id = some c)
  (hdone : c.done = none) (hop : c.opcode = 0x48) (hst : streamFor s c true = some (k, st)) (hctx : ctxOf s c.ctx = some x)
  (hprog : c.prog = .fresh ∨ c.prog = .waiting 0)
include hc hdone hop hst hctx hprog

theorem exec_read_of_key_error {e : Compl} (hkey : selectKey s c x.d = .error e) :
    exec (.read id sgl) s = .next (complete s id e) := by
  change Host.Outcome.next (withCmdW s id 0x48 _) = _
  rw [withCmdW_of_cmdOf hc hop hdone (ne_ordered_of_waits hprog)]
  rcases hprog with h | h <;> simp only [hst, hctx, h, hkey]

variable {q : Option KeyVal} (hkey : selectKey s c x.d = .ok q)
include hkey

theorem exec_read_of_barred {e : Compl} (hbar : readBarred s st.xp = some e) :
    exec (.read id sgl) s = .next (complete s id e) := by
  change Host.Outcome.next (withCmdW s id 0x48 _) = _
  rw [withCmdW_of_cmdOf hc hop hdone (ne_ordered_of_waits hprog)]
  rcases hprog with h | h <;> simp only [hst, hctx, h, hkey, hbar]

variable (hbar : readBarred s st.xp = none) (hd : dataOk s c = true)
  (hsgl : bitOf (c.fld 0x12 1) 0 = true ∨ sglOk (c.fld 0x20 2) (c.fld 0x14 4) sgl = true)
include hbar hd hsgl

theorem exec_read_of_no_turn (hturn : takeTape s st.xp id = (false, u)) : exec (.read id sgl) s = .next (waitTape u c) := by
  change Host.Outcome.next (withCmdW s id 0x48 _) = _
  rw [withCmdW_of_cmdOf hc hop hdone (ne_ordered_of_waits hprog)]
  rcases hprog with h | h <;>
    simp only [hst, hctx, h, hkey, hbar, hd, read_list_good hsgl, hturn, Bool.not_true, Bool.false_eq_true, if_false]

/-- The state in which the tape is this READ's: it moves to the first dataset that the next record needs and that is not held, and the
buffers are noted. -/
def readTakes (u : State) (id : Nat) (sgl : List SglElem) (c : Cmd) (st : Stream) : State :=
  let vo := bitOf (c.fld 0x12 1) 0
  let v := if vo then u else cmdRead u c (c.fld 0x18 8) (16 * c.fld 0x20 2)
  let gone := (nextRec v st).elim [] fun r => (xpOf v st.xp).elim [] fun y =>
    missing y (tapeOf v st.xp st.part) st (needed v st vo r) r
  let v := if gone.isEmpty then v else moveTape v st.xp st.part (gone.foldl min (gone.headD 0))
  let v := updCmd v id fun c => { c with
    descs := (pieces (c.fld 0x18 8) (c.fld 0x14 4) (c.fld 0x20 2) sgl).map fun q => BitVec.ofNat 256 (q.1 + 2 ^ 64 * q.2) }
  setProg v id (.reading 0 0 0 false 0 [] 0)

theorem exec_read_of_turn (hturn : takeTape s st.xp id = (true, u)) : exec (.read id sgl) s = .next (
    let v := readTakes u id sgl c st
    (cmdOf v id).elim v fun c => readStep v c st) := by
  change Host.Outcome.next (withCmdW s id 0x48 _) = _
  rw [withCmdW_of_cmdOf hc hop hdone (ne_ordered_of_waits hprog)]
  rcases hprog with h | h <;>
    simp only [hst, hctx, h, hkey, hbar, hd, read_list_good hsgl, hturn, readSgl, readTakes, Bool.not_true, Bool.false_eq_true,
      if_false, if_true]

end readBegins

/-! ### READ between two records (R273 to R279, R425, R426) -/

theorem exec_read_of_reading {s : State} {id k n off bytes h rt : Nat} {bad : Bool} {p : Bytes} {c : Cmd} {st : Stream} {x : Ctx}
    (sgl : List SglElem) (hc : cmdOf s id = some c) (hdone : c.done = none) (hop : c.opcode = 0x48)
    (hst : streamFor s c true = some (k, st)) (hctx : ctxOf s c.ctx = some x) (hprog : c.prog = .reading n off bytes bad h p rt) :
    exec (.read id sgl) s = .next (readStep s c st) := by
  change Host.Outcome.next (withCmdW s id 0x48 _) = _
  rw [withCmdW_of_cmdOf hc hop hdone (by simp [hprog])]
  simp only [hst, hctx, hprog]

/-- A READ that only verifies needs no buffer; another one has room for the record. -/
theorem read_record_fits {vo : Bool} {size room : Nat} (h : vo = true ∨ size ≤ room) : (!vo && decide (room < size)) = false := by
  rcases h with rfl | h
  · rfl
  · simp [h]

section readStep
variable {s : State} {c : Cmd} {st : Stream} {y : Xport} {n off bytes rt : Nat} {bad : Bool} {p : Bytes}
  (hprog : c.prog = .reading n off bytes bad 0 p rt) (hy : xpOf s st.xp = some y)

/-- What a READ that ends between two records returned. -/
def readSoFar (c : Cmd) (n bytes : Nat) (bad more : Bool) : Compl :=
  { Compl.ok n bytes with status := if bitOf (c.fld 0x12 1) 0 && bad then 0x22 else 0, more := more }

include hprog hy

theorem readStep_of_no_record (hr : nextRec s st = none) :
    readStep s c st = endRead s c st.xp (if n = 0 then Compl.of 0x60 else readSoFar c n bytes bad false) := by
  simp only [readStep, hprog, hy, hr, readSoFar]

variable {r : TapeRec} (hr : nextRec s st = some r)
include hr

theorem readStep_of_count (hn : c.fld 0x22 2 ≤ n) : readStep s c st = endRead s c st.xp (readSoFar c n bytes bad true) := by
  simp only [readStep, hprog, hy, hr, hn, readSoFar, if_true]

variable (hn : n < c.fld 0x22 2)
include hn

theorem readStep_of_full (hvo : bitOf (c.fld 0x12 1) 0 = false) (hfull : c.fld 0x14 4 / 16 * 16 < alignUp off 16 + bufLen r) :
    readStep s c st = endRead s c st.xp
      (if n = 0 then { Compl.field 0x14 with result2 := bufLen r } else readSoFar c n bytes bad true) := by
  simp only [readStep, hprog, hy, hr, Nat.not_le.2 hn, hvo, hfull, readSoFar, Bool.not_false, Bool.true_and, decide_true, if_true, if_false]

variable (hfits : bitOf (c.fld 0x12 1) 0 = true ∨ alignUp off 16 + bufLen r ≤ c.fld 0x14 4 / 16 * 16)
include hfits

theorem readStep_of_lost {d : Nat} (hlost : lostFor y st r (needed s st (bitOf (c.fld 0x12 1) 0) r) = some d) :
    readStep s c st = endRead s c st.xp ⟨0x27, false, false, false, false, n, d⟩ := by
  simp only [readStep, hprog, hy, hr, Nat.not_le.2 hn, read_record_fits hfits, hlost, Bool.false_eq_true, if_false]

theorem readStep_of_held (hlost : lostFor y st r (needed s st (bitOf (c.fld 0x12 1) 0) r) = none) {z : Xport} :
    let need := needed s st (bitOf (c.fld 0x12 1) 0) r
    let v := releaseRestored s st.xp st.part (need.foldl min (min r.ds st.lastDs))
    xpOf v st.xp = some z → missing z (tapeOf s st.xp st.part) st need r = [] →
      hdrFail v z (tapeOf s st.xp st.part) st (bitOf (c.fld 0x12 1) 0) r = none →
      readStep s c st = setProg v c.id (.reading n off bytes bad 1 [] rt) := by
  dsimp only
  intro hz hgone hhdr
  simp only [readStep, hprog, hy, hr, Nat.not_le.2 hn, read_record_fits hfits, hlost, hz, hgone, hhdr, List.isEmpty_nil, Bool.not_true,
    Bool.false_eq_true, if_false]

end readStep

/-! ### LOCATE (R25, R269, R271, R286, R294) -/

section locate
variable {s u : State} {id k : Nat} {c : Cmd} {st : Stream} (hc : cmdOf s id = some c)
  (hdone : c.done = none) (hop : c.opcode = 0x49) (hst : streamFor s c true = some (k, st)) (hbar : readBarred s st.xp = none)
include hc hdone hop hst hbar

theorem exec_locate_of_waiting (hprog : c.prog = .fresh ∨ c.prog = .waiting 0) : exec (.locate id) s = .next (
    let q := takeTape s st.xp id
    if q.1 then setProg (moveTape q.2 st.xp st.part (((streamRecs s st).find? (meets c)).elim (endOf s st) (·.ds))) id (.waiting 1)
    else waitTape q.2 c) := by
  change Host.Outcome.next (withCmdW s id 0x49 _) = _
  rw [withCmdW_of_cmdOf hc hop hdone (ne_ordered_of_waits hprog)]
  rcases hprog with h | h <;> simp only [hst, hbar, h]

/-- While the tape moves LOCATE waits; then the stream is placed before the record found, or past all records. -/
theorem exec_locate_of_moving {y : Xport} (hy : xpOf s st.xp = some y) (hprog : c.prog = .waiting 1) : exec (.locate id) s = .next (
    if y.goal.isSome then s
    else ((streamRecs s st).find? (meets c)).elim
      (restTape (complete (updStrm s k (pastAll (streamRecs s st))) id (Compl.ok 0 0)) st.xp) fun q =>
      restTape (complete (updStrm s k fun st => { st with pos := q.seq, lastDs := q.ds }) id (Compl.ok 0 q.seq)) st.xp) := by
  change Host.Outcome.next (withCmdW s id 0x49 _) = _
  rw [withCmdW_of_cmdOf hc hop hdone (by simp [hprog])]
  simp only [hst, hbar, hprog, hy, Option.elim_some]
  cases y.goal with
  | some g => rfl
  | none => cases (streamRecs s st).find? (meets c) <;> rfl

end locate

/-- Settles O25: each clause is the outcome of its row that the progress, the tape's turn and the stream's next record select. -/
theorem readCommands : Obligations.ReadCommands := by
  unfold Obligations.ReadCommands
  intro s u id k c st x y sgl hc hdone hst hctx hy
  refine ⟨fun hop => ⟨fun hprog => ⟨fun e he => exec_read_of_key_error sgl hc hdone hop hst hctx hprog he,
        fun q hkey => ⟨fun e he => exec_read_of_barred sgl hc hdone hop hst hctx hprog hkey he,
          fun hbar hd hsgl => ⟨exec_read_of_no_turn sgl hc hdone hop hst hctx hprog hkey hbar hd hsgl,
            exec_read_of_turn sgl hc hdone hop hst hctx hprog hkey hbar hd hsgl⟩⟩⟩,
      fun n off bytes bad p rt hprog => ?between⟩,
    fun hop hbar => ⟨fun hprog => ?waits, fun hprog => ?moving⟩⟩
  case between =>
    rw [exec_read_of_reading sgl hc hdone hop hst hctx hprog]
    refine ⟨fun hr => ?noRecord, fun r hr => ⟨fun hn => ?count, fun hn hvo hfull => ?full,
      fun hn hfits => ⟨fun d hlost => ?lost, fun hlost z hz hgone hhdr => ?held⟩⟩⟩
    case noRecord => rw [readStep_of_no_record hprog hy hr]; rfl
    case count => rw [readStep_of_count hprog hy hr hn]; rfl
    case full => rw [readStep_of_full hprog hy hr hn hvo hfull, readSoFar, hvo]; rfl
    case lost => rw [readStep_of_lost hprog hy hr hn hfits hlost]
    case held => rw [readStep_of_held hprog hy hr hn hfits hlost hz hgone hhdr]
  case waits =>
    rw [exec_locate_of_waiting hc hdone hop hst hbar hprog]
    exact ⟨fun hturn => by rw [hturn]; rfl, fun hturn => by rw [hturn]; rfl⟩
  case moving =>
    rw [exec_locate_of_moving hc hdone hop hst hbar hy hprog]
    refine ⟨fun hg => by rw [if_pos (Option.isSome_iff_ne_none.2 hg)], fun hg => ⟨fun q hq => ?_, fun hno => ?_⟩⟩
    · rw [hg, hq]; rfl
    · rw [hg, hno]; rfl

end Sys2Proof.Machine
end

section
/-! VERIFY_SCAN and DATASET_RECOVER (O26). -/

namespace Sys2Proof.Machine

/-! ### VERIFY_SCAN (R246, R269, R271, R287, R288) -/

section verifyScan
variable {s u : State} {id k : Nat} {c : Cmd} {st : Stream} {x : Ctx} (hc : cmdOf s id = some c) (hdone : c.done = none)
  (hop : c.opcode = 0x4A) (hst : streamFor s c true = some (k, st)) (hctx : ctxOf s c.ctx = some x)
include hc hdone hop hst hctx

theorem exec_verifyScan_of_barred {e : Compl} (hprog : c.prog = .fresh ∨ c.prog = .waiting 0) (hbar : readBarred s st.xp = some e) :
    exec (.verifyScan id) s = .next (complete s id e) := by
  change Host.Outcome.next (withCmdW s id 0x4A _) = _
  rw [withCmdW_of_cmdOf hc hop hdone (ne_ordered_of_waits hprog)]
  rcases hprog with h | h <;> simp only [hst, hctx, h, hbar]

/-- A scan waits for the tape; then it goes to the dataset of the stream's position, or ends with nothing scanned. -/
theorem exec_verifyScan_of_waiting (hprog : c.prog = .fresh ∨ c.prog = .waiting 0) (hbar : readBarred s st.xp = none)
    (hd : dataOk s c = true) : exec (.verifyScan id) s = .next (
      let q := takeTape s st.xp id
      let ds := (nextRec s st).elim (endOf s st) (·.ds)
      if q.1 then
        if scanMore s st ds then setProg (moveTape q.2 st.xp st.part ds) id (.scanning ds (c.fld 0x14 4) (scanZero ds))
        else endScan q.2 c k st (scanZero ds)
      else waitTape q.2 c) := by
  change Host.Outcome.next (withCmdW s id 0x4A _) = _
  rw [withCmdW_of_cmdOf hc hop hdone (ne_ordered_of_waits hprog)]
  rcases hprog with h | h <;> simp only [hst, hctx, h, hbar, hd, Bool.not_true, Bool.false_eq_true, if_false]

theorem exec_verifyScan_of_scanning {ds left : Nat} {rep : List Nat} (hprog : c.prog = .scanning ds left rep) :
    exec (.verifyScan id) s = .next (if scanOver s c st x ds left rep then endScan s c k st rep else s) := by
  change Host.Outcome.next (withCmdW s id 0x4A _) = _
  rw [withCmdW_of_cmdOf hc hop hdone (by simp [hprog])]
  simp only [hst, hctx, hprog]

end verifyScan

/-! ### DATASET_RECOVER (R310, R471 to R475, R486 to R500, R533 to R537, R583) -/

/-- The state in which a dataset's outcome is counted and its boundary taken. -/
def recoverNoted (s : State) (t ds : Nat) (r : Recovered) : State := readBoundary (countRecover (notePins s t r) t ds r.out) t

/-- A scan's report after a dataset's outcome; past its count the scan notes only what is lost. -/
def scanReport (left : Nat) (rep : List Nat) (ds : Nat) (r : Recovered) : List Nat :=
  if left = 0 then (if r.out = .failed then rep ++ [ds] else rep) else scanNote rep ds r.out r.fixed

section recover
variable {s : State} {k t ds : Nat} {c : Cmd} {st : Stream} {x : Ctx} {y : Xport} {m : Mount} {d : TapeDs} {r : Recovered}
  (hst : streamFor s c true = some (k, st)) (hctx : ctxOf s c.ctx = some x) (hy : xpOf s t = some y) (hm : y.mount = some m)
  (hfind : (s.rings.cmds.find? fun c => readsTape c && c.done.isNone && cmdXp s c == some t) = some c)
  (hauth : authAttempt (tapeOf s t st.part) m.gen ds = some d) (hpass : dsPassed s t y (ds + 1 == partEod m st.part) d = true)
  (hr : recoverDs s t y m (tapeOf s t st.part) st.part d = r)
include hst hctx hy hm hfind hauth hpass hr

section scanning
variable {left : Nat} {rep : List Nat} (hprog : c.prog = .scanning ds left rep) (hmore : scanOver s c st x ds left rep = false)
include hprog hmore

theorem exec_datasetRecover_later_of_scanning {w : State} (hw : recoverLater (notePins s t r) t st.part ds r = some w) :
    exec (.datasetRecover t ds) s = .next w := by
  change execDatasetRecover t ds s = _
  simp only [execDatasetRecover, hy, hm, Option.bind_some, hfind, hst, hctx, hprog, hauth, hpass, hmore, hr, hw, beq_self_eq_true,
    Bool.not_false, Bool.and_self, Bool.not_true, Bool.or_self, Bool.false_eq_true, if_false]

/-- A settled dataset is noted in the report; the scan ends without an engine for the tags that are due, and else goes on. -/
theorem exec_datasetRecover_of_scanning (hw : recoverLater (notePins s t r) t st.part ds r = none) :
    exec (.datasetRecover t ds) s = .next (
      let rep1 := scanReport left rep ds r
      let v := settleDs (recoverNoted s t ds r) t ds (r.out != .failed)
      let v := if (scanKey v c x).isSome then addRestored v t st.part ds r [] else v
      if !(scanDue v c st x ds rep1).isEmpty && (runEngines v 2).isEmpty then restTape (complete v c.id (Compl.of 0x42)) t
      else
        let q := scanTags v c st x ds rep1
        let w := if scanOwes q.1 c st x (ds + 1) q.2 then q.1 else releaseRestored q.1 t st.part (ds + 1)
        let w := setProg w c.id (.scanning (ds + 1) (left - 1) q.2)
        if scanOver w c st x (ds + 1) (left - 1) q.2 then endScan w c k st q.2 else w) := by
  change execDatasetRecover t ds s = _
  simp only [execDatasetRecover, hy, hm, Option.bind_some, hfind, hst, hctx, hprog, hauth, hpass, hmore, hr, hw, beq_self_eq_true,
    Bool.not_false, Bool.and_self, Bool.not_true, Bool.or_self, Bool.false_eq_true, if_false]
  exact (apply_ite Host.Outcome.next _ _ _).symm

end scanning

section reading
variable {n off bytes h rt : Nat} {bad : Bool} {p : Bytes} (hprog : c.prog = .reading n off bytes bad h p rt)
  (hwant : readWants s c st y ds = true)
include hprog hwant

theorem exec_datasetRecover_later_of_reading {w : State} (hw : recoverLater (notePins s t r) t st.part ds r = some w) :
    exec (.datasetRecover t ds) s = .next w := by
  change execDatasetRecover t ds s = _
  simp only [execDatasetRecover, hy, hm, Option.bind_some, hfind, hst, hctx, hprog, hauth, hpass, hwant, hr, hw,
    Bool.not_true, Bool.or_self, Bool.false_eq_true, if_false]

/-- A READ gets the dataset into the restore region; between two records it goes on. -/
theorem exec_datasetRecover_of_reading (hw : recoverLater (notePins s t r) t st.part ds r = none) :
    exec (.datasetRecover t ds) s = .next (
      let v := recoverNoted s t ds r
      let need := (nextRec v st).elim [] (needed v st (bitOf (c.fld 0x12 1) 0))
      let w := addRestored (settleDs v t ds (r.out != .failed)) t st.part ds r need
      let w := updCmd w c.id fun c => { c with moved := now w }
      if h = 0 then (cmdOf w c.id).elim w fun c => readStep w c st else w) := by
  change execDatasetRecover t ds s = _
  simp only [execDatasetRecover, hy, hm, Option.bind_some, hfind, hst, hctx, hprog, hauth, hpass, hwant, hr, hw,
    Bool.not_true, Bool.or_self, Bool.false_eq_true, if_false]
  rfl

end reading

end recover

/-- Settles O26: VERIFY_SCAN goes by its progress and the tape's turn, DATASET_RECOVER by the command that wants the dataset and by
whether the dataset is settled. -/
theorem scanAndRecover : Obligations.ScanAndRecover := by
  unfold Obligations.ScanAndRecover
  intro s u id k t c st x hc hdone hst hctx
  refine ⟨fun hop hprog => ⟨fun e hbar => exec_verifyScan_of_barred hc hdone hop hst hctx hprog hbar,
      fun hbar hd => ⟨fun hturn => ?noTurn, fun hturn => ?turn⟩⟩,
    fun ds left rep hop hprog => ⟨fun hover => ?ends, fun hmore => ?goesOn⟩,
    fun y m ds d hy hm hfind hauth hpass => ⟨fun w hw hwant => ?later, fun left rep hw hprog hmore => ?scans,
      fun n off bytes bad h p rt hw hprog hwant => ?reads⟩⟩
  case noTurn => rw [exec_verifyScan_of_waiting hc hdone hop hst hctx hprog hbar hd, hturn]; rfl
  case turn => rw [exec_verifyScan_of_waiting hc hdone hop hst hctx hprog hbar hd, hturn]; rfl
  case ends => rw [exec_verifyScan_of_scanning hc hdone hop hst hctx hprog, if_pos hover]
  case goesOn => rw [exec_verifyScan_of_scanning hc hdone hop hst hctx hprog, hmore]; rfl
  case later =>
    obtain ⟨left, rep, hprog, hmore⟩ | ⟨n, off, bytes, bad, h, p, rt, hprog, hwant⟩ := hwant
    · exact exec_datasetRecover_later_of_scanning hst hctx hy hm hfind hauth hpass rfl hprog hmore hw
    · exact exec_datasetRecover_later_of_reading hst hctx hy hm hfind hauth hpass rfl hprog hwant hw
  case scans =>
    rw [exec_datasetRecover_of_scanning hst hctx hy hm hfind hauth hpass rfl hprog hmore hw]
    simp only [Bool.and_eq_true, Bool.not_eq_true', List.isEmpty_eq_false_iff, List.isEmpty_iff]
    rfl
  case reads => exact exec_datasetRecover_of_reading hst hctx hy hm hfind hauth hpass rfl hprog hwant hw

end Sys2Proof.Machine
end

section
/-! The nonce counter and its journal (O16). -/

namespace Sys2Proof.Machine

/-! ### The journal writer (R357 to R362, R763) -/

section journal
variable {s : State} {b : Nat}

theorem exec_nonceReserved (h : s.keys.resv = some b) : exec .nonceReserved s = .next { s with
    pmu.flash := journal s.pmu.flash s.keys.fid b, keys.pend := (b + 1) * 2 ^ 24, keys.resv := none, keys.retry := none,
    keys.ok := satAdd 32 s.keys.ok 1 } := by
  change execNonceReserved s = _
  rw [execNonceReserved, h]
  rfl

/-- Milliseconds until the failed journal write of block `b` is tried again (R359). -/
def retryMs (s : State) (b : Nat) : Nat :=
  match s.keys.retry with
  | some (b', m, _) => if b' = b then min (2 * m) 1000 else 10
  | none => 10

/-- The first failure of a block. -/
theorem retryMs_of_first (h : ∀ b' m t, s.keys.retry = some (b', m, t) → b' ≠ b) : retryMs s b = 10 := by
  unfold retryMs
  split
  case h_1 b' m t hr => exact if_neg (h b' m t hr)
  case h_2 => rfl

/-- Another failure of the same block. -/
theorem retryMs_of_again {m t : Nat} (h : s.keys.retry = some (b, m, t)) : retryMs s b = min (2 * m) 1000 := by
  simp only [retryMs, h, if_true]

theorem exec_nonceJournalFail (h : s.keys.resv = some b) : exec .nonceJournalFail s = .next (noteNstate s (raise { s with
    keys.resv := none, keys.retry := some (b, retryMs s b, now s + retryMs s b * msTicks), keys.fails := satAdd 32 s.keys.fails 1 }
    evNonceFail subjNone 0 0)) := by
  change execNonceJournalFail s = _
  rw [execNonceJournalFail, h]
  rfl

/-- Time passing leaves the keys and the journal writer as they are. -/
theorem advance_keys (s : State) (dt : Nat) : (advance s dt).keys = s.keys := by
  unfold advance
  split <;> rfl

theorem advance_pmu (s : State) (dt : Nat) : (advance s dt).pmu = s.pmu := by
  unfold advance
  split <;> rfl

theorem exec_nonceRetry {m t : Nat} (dt : Nat) (hretry : s.keys.retry = some (b, m, t)) (hresv : s.keys.resv = none) :
    exec (.nonceRetry dt) s = .next (if t ≤ now (advance s dt) ∧ !s.pmu.pfail then
      pspQueue { advance s dt with keys.resv := some b } 1 (journalOps s.pmu.flash s.keys.fid b) else advance s dt) := by
  change execNonceRetry dt s = _
  simp only [execNonceRetry, startJournal, advance_keys, advance_pmu, hretry, hresv]
  exact (apply_ite Host.Outcome.next _ _ _).symm

end journal

/-- The page shows the state as it is before the command completes. -/
theorem exec_nonceStatus {s : State} {id : Nat} {c : Cmd} (h : Started s id 0x14 c) : exec (.nonceStatus id) s = .next (answer s c 0x10
    (pageOf 64 [(0, 4, s.keys.fid), (4, 1, nstate s.keys), (8, 8, s.keys.ctr), (0x10, 8, s.keys.pend), (0x18, 4, s.keys.ok),
      (0x1C, 4, s.keys.fails), (0x20, 8, s.keys.rejects), (0x28, 4, 4096 - s.pmu.flash.nonceCur.length), (0x30, 8, s.keys.did)])
    (Compl.ok (nstate s.keys) s.keys.ctr)) := by
  change Host.Outcome.next (withCmd s id 0x14 _) = _
  rw [withCmd_of_started h]

/-! ### The counter (R354 to R357, R361) -/

/-- An event touches no counter. -/
theorem noteNstate_counter (a s : State) :
    (noteNstate a s).keys.ctr = s.keys.ctr ∧ (noteNstate a s).keys.pend = s.keys.pend := by
  obtain ⟨-, -, hctr, hpend, -⟩ := noteNstate_only (L := raising) (before_ := a) (s := s) .refl (by decide) .nonces (by decide)
  exact ⟨hctr, hpend⟩

/-- A request for a block persists nothing yet. -/
theorem requestReserve_counter (s : State) (b : Nat) :
    (requestReserve s b).keys.ctr = s.keys.ctr ∧ (requestReserve s b).keys.pend = s.keys.pend := by
  unfold requestReserve
  split
  case isTrue =>
    obtain ⟨-, -, hctr, hpend, -⟩ := pspQueue_only (L := [.outputs, .peripherals]) (s := { s with keys.resv := some b }) (port := 1)
      (l := journalOps s.pmu.flash s.keys.fid b) .refl (by decide) .nonces (by decide)
    exact ⟨hctr, hpend⟩
  case isFalse => exact ⟨rfl, rfl⟩

/-- Without a persisted value, next_iv gives none. -/
theorem nextIv_of_none_left {s : State} (h : s.keys.fid = 0 ∨ s.keys.ctr = s.keys.pend) : nextIv s = (none, s) := by
  simp only [nextIv, h, if_true]

/-- With a persisted value, next_iv gives the counter and moves it on by one, in the same persisted range. -/
theorem nextIv_of_left {s : State} (h : ¬(s.keys.fid = 0 ∨ s.keys.ctr = s.keys.pend)) :
    (nextIv s).1 = some s.keys.ctr ∧ (nextIv s).2.keys.ctr = s.keys.ctr + 1 ∧ (nextIv s).2.keys.pend = s.keys.pend := by
  simp only [nextIv, h, if_false, true_and]
  refine ⟨(noteNstate_counter _ _).1.trans ?ctr, (noteNstate_counter _ _).2.trans ?pend⟩
  case ctr =>
    split
    · exact (requestReserve_counter _ _).1
    · rfl
  case pend =>
    split
    · exact (requestReserve_counter _ _).2
    · rfl

/-- What a value given by next_iv says of the state before and after. -/
theorem nextIv_eq_some {s : State} {v : Nat} (h : (nextIv s).1 = some v) : v = s.keys.ctr ∧ s.keys.fid ≠ 0 ∧
    s.keys.ctr ≠ s.keys.pend ∧ (nextIv s).2.keys.ctr = s.keys.ctr + 1 ∧ (nextIv s).2.keys.pend = s.keys.pend := by
  by_cases hleft : s.keys.fid = 0 ∨ s.keys.ctr = s.keys.pend
  · rw [nextIv_of_none_left hleft] at h
    exact nomatch h
  · obtain ⟨hv, hctr, hpend⟩ := nextIv_of_left hleft
    obtain ⟨hfid, hne⟩ := not_or.1 hleft
    exact ⟨Option.some.inj (h.symm.trans hv), hfid, hne, hctr, hpend⟩

theorem nextIv_eq_none {s : State} (h : (nextIv s).1 = none) : (nextIv s).2 = s := by
  by_cases hleft : s.keys.fid = 0 ∨ s.keys.ctr = s.keys.pend
  · rw [nextIv_of_none_left hleft]
  · rw [(nextIv_of_left hleft).1] at h
    exact nomatch h

/-- Settles O16: the journal's rows go by the interval of `retryMs`; two values drawn in a row are two counter values in a row. -/
theorem nonceCountersAndJournal : Obligations.NonceCountersAndJournal := by
  unfold Obligations.NonceCountersAndJournal
  refine ⟨fun s b => ⟨exec_nonceReserved, fun hresv hfirst => ?first, fun m t hresv hretry => ?again,
    fun dt m t hretry hresv => ?retry, fun id c => exec_nonceStatus⟩,
    fun s => ⟨fun v hv => ?given, nextIv_eq_none, fun v w hv hw => ?twice⟩⟩
  case first => rw [exec_nonceJournalFail hresv, retryMs_of_first hfirst]
  case again => rw [exec_nonceJournalFail hresv, retryMs_of_again hretry]
  case retry =>
    rw [exec_nonceRetry dt hretry hresv]
    refine ⟨fun hdue hp => ?_, fun hbarred => ?_⟩
    · rw [if_pos ⟨hdue, by simp [hp]⟩]
    · rw [if_neg]
      rintro ⟨hdue, hp⟩
      rcases hbarred with hearly | hpfail
      · omega
      · simp [hpfail] at hp
  case given =>
    obtain ⟨rfl, hfid, hne, hctr, hpend⟩ := nextIv_eq_some hv
    exact ⟨rfl, hfid, hctr, hpend, fun hle => by omega⟩
  case twice =>
    obtain ⟨rfl, -, -, hctr, -⟩ := nextIv_eq_some hv
    obtain ⟨rfl, -⟩ := nextIv_eq_some hw
    omega

end Sys2Proof.Machine
end

section
/-! Key slots, the key domain and session keys (O15). -/

namespace Sys2Proof.Machine

/-! ### KEY_LOAD_WRAPPED (R380, R381, R396 to R398) -/

/-- The slot table that blobs of KIND `kind` are for (Table 7-7). -/
def slotsOf (s : State) (kind : Nat) : Tbl KeyVal := if kind = 1 then s.keys.tenant else s.keys.oper

/-- A key enters its slot. -/
def putKey (s : State) (kind slot : Nat) (k : KeyVal) : State :=
  if kind = 1 then { s with keys.tenant := Tbl.put s.keys.tenant slot k } else { s with keys.oper := Tbl.put s.keys.oper slot k }

/-- What a blob that passed every check before its unwrapping leaves. -/
def keyUnwrapped (s : State) (id kind slot : Nat) (p : Except Nat KeyVal) : State :=
  match p with
  | .error r => complete s id (rejectBlob r)
  | .ok k => complete (putKey s kind slot k) id (Compl.ok k.keyId 0)

theorem keys_cmdRead (s : State) (c : Cmd) (addr len : Nat) : (cmdRead s c addr len).keys = s.keys := by
  obtain ⟨o, h⟩ := cmdRead_eq_out s c addr len
  rw [h]

section load
variable {s : State} {id : Nat} {c : Cmd} (blob : BitVec 512)

/-- A KEY_LOAD_WRAPPED that reaches its blob. -/
theorem exec_keyLoadWrapped (h : Started s id 0x10 c) (hd : dataOk s c = true) : exec (.keyLoadWrapped id blob) s = .next (
    let u := cmdRead s c (c.fld 0x10 8) 64
    let b := cmdBlock s c (c.fld 0x10 8) blob
    let kind := fieldOf b 5 1
    let slot := c.fld 0x18 2
    let replace := bitOf (c.fld 0x1A 1) 0
    if !blobOk b then complete u id (rejectBlob 1)
    else if kind = 2 ∧ (slot = 0 ∨ 62 < slot) then complete u id (Compl.field 0x18)
    else if kind = 2 ∧ fieldOf b 7 1 = slot then complete u id (rejectBlob 1)
    else if Tbl.has (slotsOf s kind) slot ∧ !replace then complete u id (Compl.of 4)
    else if kind = 1 ∧ replace ∧ slotBusy s slot then complete u id (Compl.of 4)
    else keyUnwrapped u id kind slot (unwrapBlob s b)) := by
  obtain ⟨o, ho⟩ := cmdRead_eq_out s c (c.fld 0x10 8) 64
  change Host.Outcome.next (withCmd s id 0x10 _) = _
  rw [withCmd_of_started h, hd, ho]
  rfl

/-- A good blob for a slot that may take it is unwrapped: an operator slot in range that is not the blob's KEK, EMPTY or given REPLACE,
and for a tenant key without commands of bound contexts in flight (R396 to R398). -/
theorem exec_keyLoadWrapped_of_good {b : BitVec 512} {kind : Nat} (h : Started s id 0x10 c) (hd : dataOk s c = true)
    (hbe : cmdBlock s c (c.fld 0x10 8) blob = b) (hb : blobOk b = true) (hk : fieldOf b 5 1 = kind)
    (hrange : kind = 2 → 1 ≤ c.fld 0x18 2 ∧ c.fld 0x18 2 ≤ 62 ∧ fieldOf b 7 1 ≠ c.fld 0x18 2)
    (hfree : bitOf (c.fld 0x1A 1) 0 = true ∨ Tbl.has (slotsOf s kind) (c.fld 0x18 2) = false)
    (hidle : kind = 1 → bitOf (c.fld 0x1A 1) 0 = false ∨ slotBusy s (c.fld 0x18 2) = false) :
    exec (.keyLoadWrapped id blob) s =
      .next (keyUnwrapped (cmdRead s c (c.fld 0x10 8) 64) id kind (c.fld 0x18 2) (unwrapBlob s b)) := by
  have hin : ¬(kind = 2 ∧ (c.fld 0x18 2 = 0 ∨ 62 < c.fld 0x18 2)) := fun ⟨hk, hout⟩ => by
    have := hrange hk
    omega
  have hkek : ¬(kind = 2 ∧ fieldOf b 7 1 = c.fld 0x18 2) := fun ⟨hk, he⟩ => (hrange hk).2.2 he
  have hopen : ¬(Tbl.has (slotsOf s kind) (c.fld 0x18 2) = true ∧ (!bitOf (c.fld 0x1A 1) 0) = true) := by
    rcases hfree with hr | he
    · simp [hr]
    · simp [he]
  have hunused : ¬(kind = 1 ∧ bitOf (c.fld 0x1A 1) 0 = true ∧ slotBusy s (c.fld 0x18 2) = true) := fun ⟨hk, hr, hu⟩ => by
    rcases hidle hk with hr' | hu'
    · exact Bool.false_ne_true (hr'.symm.trans hr)
    · exact Bool.false_ne_true (hu'.symm.trans hu)
  rw [exec_keyLoadWrapped blob h hd, hbe]
  dsimp only
  rw [hb, hk, if_neg hin, if_neg hkek, if_neg hopen, if_neg hunused]
  rfl

end load

/-! ### KEY_ERASE (R399 to R402) -/

/-- A command uses a slot or not by its entry, its completion and its context's descriptor alone. -/
theorem slotUsers_eq_nil_of_same {s t : State} {slot : Nat} (hctx : ∀ k, (ctxOf t k).map Ctx.d = (ctxOf s k).map Ctx.d)
    (hcmds : ∀ d ∈ t.rings.cmds, ∃ c ∈ s.rings.cmds, d.entry = c.entry ∧ d.done = c.done) (h : slotUsers s slot = []) :
    slotUsers t slot = [] := by
  have helim (k : Nat) (f : Desc → Bool) : ((ctxOf t k).elim false fun x => f x.d) = (ctxOf s k).elim false fun x => f x.d := by
    simpa only [Option.elim_map, Function.comp_def] using congrArg (fun o => Option.elim o false f) (hctx k)
  rw [slotUsers, List.filter_eq_nil_iff] at h ⊢
  intro d hd
  obtain ⟨c, hc, he, hdone⟩ := hcmds d hd
  have hop : d.opcode = c.opcode := by rw [Cmd.opcode, he, Cmd.opcode]
  have hk : d.ctx = c.ctx := by rw [Cmd.ctx, he, Cmd.ctx]
  have hfld : d.fld = c.fld := by funext off size; rw [Cmd.fld, he, Cmd.fld]
  have hsel : keySel d = keySel c := by rw [keySel, hop, hfld, keySel]
  rw [usesKey, hsel, hop, hk, hfld, hdone, helim _ fun y => y.cipher != 0, helim _ fun y => y.keySlotEn && y.keySlot == slot]
  exact h c hc

/-- Posting keeps the descriptors of the contexts. -/
theorem noteLatency_desc (s : State) (c : Cmd) (x : Compl) (k : Nat) :
    (ctxOf (noteLatency s c x) k).map Ctx.d = (ctxOf s k).map Ctx.d := by
  unfold noteLatency
  split
  case h_1 => rfl
  case h_2 => rfl
  case h_3 =>
    by_cases hk : k = c.ctx
    · subst hk
      rw [ctxOf_updCtx_self, Option.map_map]
      rfl
    · rw [ctxOf, updCtx, Tbl.get?_upd_of_ne _ _ hk, ctxOf]

theorem postOne_desc (s : State) (c : Cmd) (x : Compl) (k : Nat) :
    (ctxOf (postOne s c x) k).map Ctx.d = (ctxOf s k).map Ctx.d := by
  cases hr : Tbl.get? s.rings.tbl c.ring with
  | none => simp only [postOne, hr]
  | some r =>
    have hctx : (postOne s c x).ten.ctx = (noteLatency s c x).ten.ctx := by
      rw [postOne_of_ring x hr]
      split
      case isTrue => rfl
      case isFalse => exact raiseRing_only (L := raising) .refl (by decide) .contexts (by decide)
    rw [ctxOf, hctx]
    exact noteLatency_desc s c x k

theorem postAll_desc (s : State) (k : Nat) : (ctxOf (postAll s) k).map Ctx.d = (ctxOf s k).map Ctx.d := by
  have hfold (l : List Cmd) (p : State × List Cmd) :
      (ctxOf (l.foldl postStep p).1 k).map Ctx.d = (ctxOf p.1 k).map Ctx.d := by
    induction l generalizing p with
    | nil => rfl
    | cons a l ih =>
      rw [List.foldl_cons, ih]
      unfold postStep
      split
      · split
        · exact postOne_desc _ _ _ k
        · rfl
      · rfl
  exact hfold s.rings.cmds (s, [])

section erase
variable {s : State} {id n : Nat} {c : Cmd}

/-- The start of a wait and a posting pass bring no user of the slot. -/
theorem eraseUsers_postAll_eq_nil (p : Prog) (h : eraseUsers s c = []) : eraseUsers (postAll (setProg s id p)) c = [] := by
  unfold eraseUsers at h ⊢
  split
  case isTrue hkind =>
    rw [if_pos hkind] at h
    have hset : slotUsers (setProg s id p) (c.fld 0x12 2) = [] :=
      slotUsers_eq_nil_of_same (s := s) (fun _ => rfl) (fun _ => mem_setProg_cmds) h
    exact slotUsers_eq_nil_of_same (postAll_desc _) (fun _ => mem_postAll_cmds) hset
  case isFalse => rfl

theorem exec_keyErase_unused (h : Started s id 0x11 c) (hu : eraseUsers s c = []) : exec (.keyErase id) s = .next (complete
    (eraseSlot (postAll (setProg s id (.waiting 0))) (c.fld 0x10 1) (c.fld 0x12 2)) id (Compl.ok 0 0)) := by
  obtain ⟨hc, hop, hdone, hprog⟩ := h
  change Host.Outcome.next (withCmdW s id 0x11 _) = _
  rw [withCmdW_of_cmdOf hc hop hdone (by simp [hprog])]
  have hnone : abortTargets s [] = ([], 0) := rfl
  have hsame : abortList s 0x47 id [] = s := rfl
  simp [hprog, hu, hnone, hsame, eraseUsers_postAll_eq_nil _ hu]

/-- Without FORCE, a slot in use stays. -/
theorem exec_keyErase_in_use (h : Started s id 0x11 c) (hu : eraseUsers s c ≠ []) (hf : bitOf (c.fld 0x14 1) 0 = false) :
    exec (.keyErase id) s = .next (complete s id (Compl.of 4)) := by
  obtain ⟨hc, hop, hdone, hprog⟩ := h
  change Host.Outcome.next (withCmdW s id 0x11 _) = _
  rw [withCmdW_of_cmdOf hc hop hdone (by simp [hprog])]
  simp [hprog, hu, hf]

theorem exec_keyErase_waiting (h : Waiting s id 0x11 c (.waiting n)) : exec (.keyErase id) s = .next (
    if (eraseUsers s c).isEmpty then complete (eraseSlot s (c.fld 0x10 1) (c.fld 0x12 2)) id (Compl.ok n 0) else s) := by
  obtain ⟨hc, hop, hdone, hprog⟩ := h
  change Host.Outcome.next (withCmdW s id 0x11 _) = _
  rw [withCmdW_of_cmdOf hc hop hdone (by simp [hprog])]
  simp only [hprog]

end erase

/-! ### DOMAIN_JOIN and GET_DEVICE_CERT (R375 to R379, R403, R410) -/

section domain
variable {s : State} {id : Nat} {c : Cmd} (blk : BitVec 1536)

/-- What a join block leaves: the domain and its key, or the reason of its rejection (R375). -/
def domainOpened (s : State) (id : Nat) (b : BitVec 1536) : State :=
  match openJoin b with
  | .error r => complete s id (rejectBlob r)
  | .ok k => complete (noteNstate s { s with
      pmu.flash.domain := some (fieldOf b 0 4, fieldOf b 8 8, k), keys.oper := [(0, k)],
      keys.fid := fieldOf b 0 4, keys.did := fieldOf b 8 8 }) id (Compl.ok 0 0)

/-- A DOMAIN_JOIN that the boot flash can take. -/
theorem exec_domainJoin (h : Started s id 0x12 c) (hresv : s.keys.resv = none) (hp : s.pmu.pfail = false) :
    exec (.domainJoin id blk) s = .next (
      if (s.strm.any fun p => !p.2.read) || encrypting s then complete s id (Compl.of 5)
      else if bitOf (c.fld 0x18 1) 0 then
        complete { s with pmu.flash.domain := none, keys.oper := [], keys.fid := 0, keys.did := 0 } id (Compl.ok 0 0)
      else if !dataOk s c then complete s id (Compl.of 7)
      else domainOpened (cmdRead s c (c.fld 0x10 8) 192) id (cmdBlock s c (c.fld 0x10 8) blk)) := by
  obtain ⟨o, ho⟩ := cmdRead_eq_out s c (c.fld 0x10 8) 192
  change Host.Outcome.next (withCmd s id 0x12 _) = _
  rw [withCmd_of_started h, hresv, hp, ho]
  rfl

theorem exec_getDeviceCert (h : Started s id 0x13 c) : exec (.getDeviceCert id) s = .next (
    let der := (Config.certDer (c.fld 0x1C 1)).take 2048
    if der.length ≤ c.fld 0x18 4 then answer s c 0x10 der (Compl.ok der.length 0)
    else complete s id { Compl.field 0x18 with result2 := der.length }) := by
  change Host.Outcome.next (withCmd s id 0x13 _) = _
  rw [withCmd_of_started h]
  simp only [← Nat.not_lt, ite_not]

end domain

/-! ### SESSION_KEY_CLEAR (R404, R405) -/

section clear
variable {s : State} {id : Nat} {c : Cmd} {r : Ring}

/-- The session keys that MASK selects. -/
def skMask (c : Cmd) : List Nat := (List.range 4).filter fun i => bitOf (c.fld 0x10 1) i

theorem mem_skMask {i : Nat} : i ∈ skMask c ↔ i < 4 ∧ bitOf (c.fld 0x10 1) i = true := by
  rw [skMask, List.mem_filter, List.mem_range]

theorem exec_sessionKeyClear (h : Started s id 0x85 c) (hr : Tbl.get? s.rings.tbl c.ring = some r) :
    exec (.sessionKeyClear id) s = .next (if (skMask c).any fun i => skUsed s c.ring i then s else complete
      (updSk s c.ring fun w => { w with keys := Tbl.keep w.keys fun i _ => !(skMask c).elem i, loadErr := [] })
      id (Compl.ok
        (maskOf (r.sk.keys.map (·.1)) + 16 * maskOf ((r.sk.keys.filter fun p => p.2.bits256).map (·.1)) + 256 * maskOf r.sk.loadErr)
        (sumOf ((List.range 4).map fun i => (Tbl.get? r.sk.gens i).getD 0 * 2 ^ (16 * i))))) := by
  change Host.Outcome.next (withCmd s id 0x85 _) = _
  rw [withCmd_of_started h, hr]
  rfl

end clear

/-! ### SK_COMMIT (R370 to R374, Table 7-5) -/

section commit
variable {s : State} {fn slot n : Nat} {r : Ring} {v : Word}

theorem exec_skCommitGo (hreach : windowReach s fn = true) (hring : ringAt s fn slot = some (n, r)) (hgo : bitOf v.toNat 3 = true) :
    exec (.skCommitGo fn slot v) s = .next (skCommit s n r v) := by
  change execSkCommitGo fn slot v s = _
  simp only [execSkCommitGo, windowCommit, hreach, hgo, hring, if_true]

theorem exec_skCommitClear (hreach : windowReach s fn = true) (hring : ringAt s fn slot = some (n, r))
    (hclear : bitOf v.toNat 4 = true) : exec (.skCommitClear fn slot v) s = .next (skCommit s n r v) := by
  change execSkCommitClear fn slot v s = _
  simp only [execSkCommitClear, windowCommit, hreach, hclear, hring, if_true]

/-- A commit that changes no key: both or none of GO and CLEAR, a reserved bit, no SK_KEY_ID to load, or a key in use. -/
def commitBad (s : State) (n : Nat) (r : Ring) (v : Word) : Bool :=
  bitOf v.toNat 3 == bitOf v.toNat 4 || decide (32 ≤ v.toNat) || (bitOf v.toNat 3 && r.sk.keyId == 0) || skUsed s n (v.toNat % 4)

theorem skCommit_of_bad (h : commitBad s n r v = true) : skCommit s n r v = raise (updSk s n fun w => { w with
    stage := 0, keyId := 0, loadErr := setIns w.loadErr (v.toNat % 4) }) evSessionLoad subjRing n 0 := if_pos h

theorem skCommit_of_go (h : commitBad s n r v = false) (hgo : bitOf v.toNat 3 = true) : skCommit s n r v = updSk s n fun w => { w with
    stage := 0, keyId := 0,
    keys := Tbl.put w.keys (v.toNat % 4) (keyOf (leBytes (if bitOf v.toNat 2 then 32 else 16) w.stage.toNat) w.keyId),
    gens := Tbl.put w.gens (v.toNat % 4) (((Tbl.get? w.gens (v.toNat % 4)).getD 0 + 1) % 65536) } :=
  (if_neg (ne_true_of_eq_false h)).trans (if_pos hgo)

theorem skCommit_of_clear (h : commitBad s n r v = false) (hgo : bitOf v.toNat 3 = false) : skCommit s n r v = updSk s n fun w => { w with
    stage := 0, keys := Tbl.del w.keys (v.toNat % 4) } :=
  (if_neg (ne_true_of_eq_false h)).trans (if_neg (ne_true_of_eq_false hgo))

end commit

/-- Settles O15: each clause is the outcome of its row that the blob or block, the users of the key, and the word written select. -/
theorem keySlotsAndWindows : Obligations.KeySlotsAndWindows := by
  unfold Obligations.KeySlotsAndWindows
  refine ⟨fun s id c blob blk n r => ⟨fun h hd => ?load, exec_keyErase_unused, exec_keyErase_in_use, fun h => ?erase,
      fun h hresv hp => ?join, fun h => exec_getDeviceCert h, fun h hr hfree => ?clears, fun h hr hused => ?waits⟩,
    fun s fn slot n r v hreach hring => ⟨fun hgo hcl hw hid hu => ?go, fun hgo hcl hw hu => ?clear, fun hgo hbad => ?badGo,
      fun hcl hbad => ?badClear⟩⟩
  case load =>
    refine ⟨fun hb => ?_, fun hb hk hfree hidle => ?_, fun hb hk hbusy => ?_, fun hb hk hlo hhi hkek hfree => ?_⟩
    · rw [exec_keyLoadWrapped blob h hd]
      dsimp only
      rw [hb]
      rfl
    · rw [exec_keyLoadWrapped_of_good blob h hd rfl hb hk nofun hfree fun _ => hidle]
      simp only [keyUnwrapped, putKey, keys_cmdRead]
      cases unwrapBlob s (cmdBlock s c (c.fld 0x10 8) blob) <;> rfl
    · rw [exec_keyLoadWrapped blob h hd]
      simp only [hb, hk]
      rcases hbusy with ⟨hr, hfull⟩ | ⟨hr, hused⟩
      · simp [slotsOf, hr, hfull]
      · simp [hr, hused]
    · rw [exec_keyLoadWrapped_of_good blob h hd rfl hb hk (fun _ => ⟨hlo, hhi, hkek⟩) hfree nofun]
      simp only [keyUnwrapped, putKey, keys_cmdRead]
      cases unwrapBlob s (cmdBlock s c (c.fld 0x10 8) blob) <;> rfl
  case erase =>
    rw [exec_keyErase_waiting h]
    exact ⟨fun hu => by rw [hu]; rfl, fun hu => by rw [if_neg (mt List.isEmpty_iff.1 hu)]⟩
  case join =>
    rw [exec_domainJoin blk h hresv hp]
    refine ⟨fun hbusy => ?_, fun hw he hjoin hd => ?_, fun hw he hleave => ?_⟩
    · rw [if_pos (by simpa using hbusy)]
    · rw [hw, he, hjoin, hd]
      dsimp only [domainOpened]
      cases openJoin (cmdBlock s c (c.fld 0x10 8) blk) <;> rfl
    · rw [hw, he, hleave]; rfl
  case clears =>
    have hnone : ((skMask c).any fun i => skUsed s c.ring i) = false :=
      List.any_eq_false.2 fun i hi => by simp [hfree i (mem_skMask.1 hi).1 (mem_skMask.1 hi).2]
    rw [exec_sessionKeyClear h hr, hnone]; rfl
  case waits =>
    obtain ⟨i, hi, hm, hu⟩ := hused
    rw [exec_sessionKeyClear h hr, if_pos (List.any_eq_true.2 ⟨i, mem_skMask.2 ⟨hi, hm⟩, hu⟩)]
  case go =>
    have hok : commitBad s n r v = false := by simp [commitBad, hgo, hcl, hid, hu, hw]
    rw [exec_skCommitGo hreach hring hgo, skCommit_of_go hok hgo]
  case clear =>
    have hok : commitBad s n r v = false := by simp [commitBad, hgo, hcl, hu, hw]
    rw [exec_skCommitClear hreach hring hcl, skCommit_of_clear hok hgo]
  case badGo =>
    have hb : commitBad s n r v = true := by rcases hbad with h | h | h | h <;> simp [commitBad, hgo, h]
    rw [exec_skCommitGo hreach hring hgo, skCommit_of_bad hb]
  case badClear =>
    have hb : commitBad s n r v = true := by rcases hbad with h | h | h <;> simp [commitBad, hcl, h]
    rw [exec_skCommitClear hreach hring hcl, skCommit_of_bad hb]

end Sys2Proof.Machine
end

section
/-! Parameter blocks, the transport's status and its calibration (O30, O29). -/

namespace Sys2Proof.Machine

/-! ### Structures whose fields follow one another (R6) -/

/-- The fields of `b` with the given sizes, one after another from byte `o`. -/
def fieldsFrom {w : Nat} (b : BitVec w) (o : Nat) (sizes : List Nat) : List (Nat × Nat × Nat) :=
  match sizes with
  | [] => []
  | n :: r => (o, n, fieldOf b o n) :: fieldsFrom b (o + n) r

/-- A field above the bytes below it. -/
theorem low_bytes_or_field (v o n : Nat) :
    v % 2 ^ (8 * o) ||| (((v >>> (8 * o)) % 2 ^ (8 * n)) <<< (8 * o)) = v % 2 ^ (8 * (o + n)) := by
  refine Nat.eq_of_testBit_eq fun i => ?_
  simp only [Nat.testBit_or, Nat.testBit_mod_two_pow, Nat.testBit_shiftLeft, Nat.testBit_shiftRight]
  by_cases hi : i < 8 * o
  · simp [hi, show i < 8 * (o + n) by omega]
  · have hback : 8 * o + (i - 8 * o) = i := by omega
    have hin : i - 8 * o < 8 * n ↔ i < 8 * (o + n) := by omega
    simp [hi, hback, hin, Nat.not_lt.1 hi]

/-- Laid on the bytes below them, fields that follow one another give the bytes up to their end. -/
theorem foldl_fieldsFrom {w : Nat} (b : BitVec w) (sizes : List Nat) (o : Nat) :
    (fieldsFrom b o sizes).foldl (fun a f => a ||| ((f.2.2 % 2 ^ (8 * f.2.1)) <<< (8 * f.1))) (b.toNat % 2 ^ (8 * o)) =
      b.toNat % 2 ^ (8 * (o + sizes.sum)) := by
  induction sizes generalizing o with
  | nil => rfl
  | cons n r ih =>
    simp only [fieldsFrom, List.foldl_cons, fieldOf, Nat.mod_mod, low_bytes_or_field, ih, List.sum_cons, Nat.add_assoc]

/-- A number whose upper bytes are zero is spelt by its lower bytes. -/
theorem toNat_mod_of_field_zero {w o n : Nat} {b : BitVec w} (hw : w = 8 * (o + n)) (h : fieldOf b o n = 0) :
    b.toNat % 2 ^ (8 * o) = b.toNat := by
  have hb : b.toNat < 2 ^ (8 * (o + n)) := hw ▸ b.isLt
  calc b.toNat % 2 ^ (8 * o)
      = b.toNat % 2 ^ (8 * o) ||| (((b.toNat >>> (8 * o)) % 2 ^ (8 * n)) <<< (8 * o)) := by
        rw [show (b.toNat >>> (8 * o)) % 2 ^ (8 * n) = 0 from h, Nat.zero_shiftLeft, Nat.or_zero]
    _ = b.toNat := by rw [low_bytes_or_field, Nat.mod_eq_of_lt hb]

/-- A structure of fields that follow one another, its reserved bytes zero (R12), is the bytes it was read from. -/
theorem pageOf_fieldsFrom {w o n : Nat} {b : BitVec w} (len : Nat) (sizes : List Nat) (h : fieldOf b o n = 0)
    (hw : w = 8 * (o + n)) (ho : sizes.sum = o) : pageOf len (fieldsFrom b 0 sizes) = leBytes len b.toNat := by
  have hfold := foldl_fieldsFrom b sizes 0
  rw [Nat.mul_zero, pow_zero, Nat.mod_one, Nat.zero_add, ho, toNat_mod_of_field_zero hw h] at hfold
  rw [pageOf, hfold]

/-! ### The blocks read back (Tables 10-5, 10-6 and 11-10) -/

section blocks
variable {b : BitVec 256}

theorem xpBlockBytes_of_read {k : XpBlock} (h : readXpBlock b = some k) : xpBlockBytes k = leBytes 32 b.toNat := by
  simp only [readXpBlock, Option.ite_none_right_eq_some, Bool.and_eq_true, beq_iff_eq, Option.some.injEq] at h
  obtain ⟨⟨⟨⟨⟨⟨-, hres⟩, -⟩, -⟩, -⟩, -⟩, rfl⟩ := h
  exact pageOf_fieldsFrom 32 [2, 2, 1, 1, 2, 2, 2, 2, 2, 2, 2, 2, 2] hres rfl rfl

theorem rcBlockBytes_of_read {k : RcBlock} (h : readRcBlock b = some k) : rcBlockBytes k = leBytes 32 b.toNat := by
  simp only [readRcBlock, Option.ite_none_right_eq_some, Bool.and_eq_true, beq_iff_eq, Option.some.injEq] at h
  obtain ⟨⟨-, hres⟩, rfl⟩ := h
  exact pageOf_fieldsFrom 32 (List.replicate 21 1) hres rfl rfl

/-- SHRINK is in its range, so that it is the bit read (R541). -/
theorem shrink_of_rangesOk (h : rangesOk b poolRanges = true) : b2n (fieldOf b 0x12 1 == 1) = fieldOf b 0x12 1 := by
  have hle : fieldOf b 0x12 1 ≤ 1 := (of_decide_eq_true (List.all_eq_true.1 h (0x12, 1, 0, 1) (by decide))).2
  interval_cases fieldOf b 0x12 1 <;> rfl

theorem poolBlockBytes_of_read {k : PoolBlock} (h : readPoolBlock b = some k) : poolBlockBytes k = leBytes 32 b.toNat := by
  simp only [readPoolBlock, Option.ite_none_right_eq_some, Bool.and_eq_true, beq_iff_eq, Option.some.injEq] at h
  obtain ⟨⟨⟨⟨⟨⟨⟨⟨hranges, hres⟩, -⟩, -⟩, -⟩, -⟩, -⟩, -⟩, rfl⟩ := h
  simp only [poolBlockBytes, shrink_of_rangesOk hranges]
  exact pageOf_fieldsFrom 32 (List.replicate 16 1 ++ [2, 1]) hres rfl rfl

end blocks

/-- Settles O30: the fields of each block follow one another, and what an accepted block reserves is zero. -/
theorem blocksRoundTrip : Obligations.BlocksRoundTrip := by
  unfold Obligations.BlocksRoundTrip
  exact fun b => ⟨fun _ => xpBlockBytes_of_read, fun _ => rcBlockBytes_of_read, fun _ => poolBlockBytes_of_read⟩

/-! ### Updates of one transport in a row -/

theorem Tbl.upd_upd {α : Type} (t : Tbl α) (k : Nat) (f g : α → α) : Tbl.upd (Tbl.upd t k f) k g = Tbl.upd t k (g ∘ f) := by
  induction t with
  | nil => rfl
  | cons p r ih =>
    obtain ⟨j, v⟩ := p
    by_cases e : j = k
    · simp [Tbl.upd, e]
    · simp [Tbl.upd, e, ih]

theorem updXp_updXp (s : State) (t : Nat) (f g : Xport → Xport) : updXp (updXp s t f) t g = updXp s t (g ∘ f) := by
  simp only [updXp, Tbl.upd_upd]

/-! ### TRANSPORT_CONFIG (R539 to R542, R589) -/

section config
variable {s : State} {id : Nat} {c : Cmd} (blk : BitVec 256)

/-- A transport block takes effect at once unless the transport is writing (R589). -/
def takeXpBlock (k : XpBlock) (x : Xport) : Xport :=
  if x.motion = .writing then { x with blkNext := some k } else { x with blk := k, blkNext := none }

/-- What TRANSPORT_CONFIG makes of the block `b` of a kind, once it has been read. -/
def takeBlock (u : State) (t id kind : Nat) (b : BitVec 256) : State :=
  let bad := complete u id (Compl.field 0xFF)
  if kind = 0 then (readXpBlock b).elim bad fun k => complete (updXp u t (takeXpBlock k)) id (Compl.ok 0 0)
  else if kind = 1 then (readRcBlock b).elim bad fun k => complete (updXp u t fun x => { x with rcNext := some k }) id (Compl.ok 0 0)
  else (readPoolBlock b).elim bad fun k => complete { u with rc.blkNext := some k } id (Compl.ok 0 0)

theorem exec_transportConfig (h : Started s id 0x1B c) (hd : dataOk s c = true) : exec (.transportConfig id blk) s = .next (
    if c.mailbox = true ∧ 4096 < c.fld 0x18 8 + 32 then complete s id (Compl.field 0x18)
    else takeBlock (cmdRead s c (c.fld 0x18 8) 32) (c.fld 0x10 1) id (c.fld 0x11 1) (cmdBlock s c (c.fld 0x18 8) blk)) := by
  have htake (k : XpBlock) : takeXpBlock k =
      fun x => if writingNow x then { x with blkNext := some k } else { x with blk := k, blkNext := none } := by
    funext x
    simp only [takeXpBlock, writingNow, beq_iff_eq]
  change Host.Outcome.next (withCmd s id 0x1B _) = _
  rw [withCmd_of_started h]
  simp only [hd, takeBlock, htake, Bool.not_true, Bool.false_eq_true, if_false]
  split
  case isTrue => rfl
  case isFalse =>
    generalize c.fld 0x11 1 = kind
    match kind with
    | 0 => rfl
    | 1 => rfl
    | _ + 2 => rfl

end config

/-! ### GET_TRANSPORT_STATUS (R539, R590) -/

/-- What SELECT asks for: the status page, or the block last accepted. -/
def selected (s : State) (t select : Nat) (x : Xport) : Bytes :=
  if select = 0 then statusPage s t x else if select = 1 then xpBlockBytes (x.blkNext.getD x.blk)
  else if select = 2 then rcBlockBytes (x.rcNext.getD x.rc) else poolBlockBytes (s.rc.blkNext.getD s.rc.blk)

theorem exec_getTransportStatus {s : State} {id : Nat} {c : Cmd} {x : Xport} (h : Started s id 0x1C c)
    (hx : xpOf s (c.fld 0x10 1) = some x) : exec (.getTransportStatus id) s =
      .next (answer s c 0x18 (selected s (c.fld 0x10 1) (c.fld 0x11 1) x) (Compl.ok (tstate x + 256 * x.motion.code) 0)) := by
  change Host.Outcome.next (withCmd s id 0x1C _) = _
  rw [withCmd_of_started h]
  simp only [hx]
  generalize c.fld 0x11 1 = select
  match select with
  | 0 => rfl
  | 1 => rfl
  | 2 => rfl
  | _ + 3 => rfl

/-! ### Calibration (R591 to R594, R602, R681) -/

theorem exec_startupCalibration {s : State} {t : Nat} {x : Xport} (b : Bool) (hx : xpOf s t = some x) (hb : s.pmu.booted = true)
    (hs : x.startup = false) (he : engRun s 4 t = true) (hp : s.pmu.ps = .run) :
    exec (.startupCalibration t b) s = .next (raise (startedUp s t (b && !drivesDisabled s t)) (evXp t 11) subjXp t 0) := by
  have hdue : (s.pmu.booted && !x.startup && engRun s 4 t && s.pmu.ps == .run) = true := by rw [hb, hs, he, hp]; rfl
  change execStartupCalibration t b s = _
  simp only [execStartupCalibration, hx, hdue, if_true]

/-- What a start-up calibration leaves of a transport, its lanes configured as the calibration record says. -/
theorem startedUp_eq (s : State) (t : Nat) (r : Bool) : startedUp s t r = updXp s t fun x => { x with
    fitted := r, startup := r, faulted := if r then false else x.faulted,
    motionOk := s.pmu.flash.calMotion.elem t, rcOk := s.pmu.flash.calRc.elem t } := by
  rw [startedUp, calibrated, updXp_updXp]
  rfl

section calibrate
variable {s : State} {id : Nat} {c : Cmd} {x : Xport} (p : BitVec 3)

/-- The transport held for a calibration, in the motion that CKIND needs (R593). -/
def heldFor (kind : Nat) (x : Xport) : Xport := { x with
  calibrating := true, goal := none,
  motion := if bitOf kind 2 then .reading else if bitOf kind 1 then .ramp else .stopped,
  mount := x.mount.map fun m => { m with away := m.away || (bitOf kind 2 && m.wrPart.isSome) } }

/-- CALIBRATE's checks, in their order. -/
theorem exec_calibrate_of_started (h : Started s id 0x1D c) (hx : xpOf s (c.fld 0x10 1) = some x) :
    exec (.calibrate id p) s = .next (
      let t := c.fld 0x10 1
      let kind := c.fld 0x11 1
      if 2 ≤ kind ∧ x.mount.isNone then complete s id (Compl.of 0x62)
      else if 2 ≤ kind ∧ s.strm.any (fun q => q.2.xp == t) then complete s id (Compl.of 5)
      else if !engRun s 4 t then complete s id (Compl.of 0x42)
      else if bitOf kind 2 ∧ !hasComplete x (c.fld 0x12 1) then complete s id (Compl.of 0x60)
      else if (x.motion ≠ .stopped ∧ x.motion ≠ .backhitch) ∨ x.calibrating ∨ x.cmTry.isSome then s
      else setProg (updXp s t (heldFor kind)) id (.waiting 0)) := by
  obtain ⟨hc, hop, hdone, hprog⟩ := h
  change Host.Outcome.next (withCmdW s id 0x1D _) = _
  rw [withCmdW_of_cmdOf hc hop hdone (by simp [hprog])]
  simp only [hx, hprog, reduceCtorEq, if_false]
  rfl

theorem exec_calibrate_of_waiting (h : Waiting s id 0x1D c (.waiting 0)) (hx : xpOf s (c.fld 0x10 1) = some x) :
    exec (.calibrate id p) s = .next (
      if s.pmu.pfail then s
      else complete (calibrateDone s (c.fld 0x10 1) (p.toNat &&& c.fld 0x11 1) (c.fld 0x11 1)) id
        (Compl.ok (p.toNat &&& c.fld 0x11 1) 0)) := by
  obtain ⟨hc, hop, hdone, hprog⟩ := h
  change Host.Outcome.next (withCmdW s id 0x1D _) = _
  rw [withCmdW_of_cmdOf hc hop hdone (by simp [hprog])]
  simp only [hx, hprog, if_true]

/-- A CALIBRATE that needs no session, or has one and no stream open, goes by the engine, the tape and the transport's motion. -/
theorem exec_calibrate_of_free (h : Started s id 0x1D c) (hx : xpOf s (c.fld 0x10 1) = some x)
    (hfree : c.fld 0x11 1 < 2 ∨ (x.mount ≠ none ∧ ∀ q ∈ s.strm, q.2.xp ≠ c.fld 0x10 1)) :
    exec (.calibrate id p) s = .next (
      if !engRun s 4 (c.fld 0x10 1) then complete s id (Compl.of 0x42)
      else if bitOf (c.fld 0x11 1) 2 ∧ !hasComplete x (c.fld 0x12 1) then complete s id (Compl.of 0x60)
      else if (x.motion ≠ .stopped ∧ x.motion ≠ .backhitch) ∨ x.calibrating ∨ x.cmTry.isSome then s
      else setProg (updXp s (c.fld 0x10 1) (heldFor (c.fld 0x11 1))) id (.waiting 0)) := by
  have hmount : ¬(2 ≤ c.fld 0x11 1 ∧ x.mount.isNone = true) := by
    rintro ⟨hk, hm⟩
    rcases hfree with hlt | ⟨hsome, -⟩
    · omega
    · exact hsome (Option.isNone_iff_eq_none.1 hm)
  have hstrm : ¬(2 ≤ c.fld 0x11 1 ∧ (s.strm.any fun q => q.2.xp == c.fld 0x10 1) = true) := by
    rintro ⟨hk, hany⟩
    rcases hfree with hlt | ⟨-, hno⟩
    · omega
    · obtain ⟨q, hq, hxp⟩ := List.any_eq_true.1 hany
      exact hno q hq (beq_iff_eq.1 hxp)
  rw [exec_calibrate_of_started p h hx]
  simp only [hmount, hstrm, if_false]

end calibrate

/-- Settles O29: each clause is the outcome of its row that the block, the transport and CKIND select. -/
theorem transportCommands : Obligations.TransportCommands := by
  unfold Obligations.TransportCommands
  refine ⟨fun s id c blk h hd => ⟨fun hm hlt => ?outside, fun hin => ?block⟩, fun s id c x h hx => exec_getTransportStatus h hx,
    fun s t id x c => ⟨fun b hx hb hs he hp => ?startup, fun p h hx => ⟨fun hk hm => ?noSession, fun hk hm hopen => ?streamOpen,
      fun hfree => ⟨fun he => ?fenced, fun he => ⟨fun hr hno => ?noDataset, fun hr hmot hcal htry => ?holds⟩⟩⟩,
      fun p h hx => ?waits⟩⟩
  case outside => rw [exec_transportConfig blk h hd, if_pos ⟨hm, hlt⟩]
  case block =>
    have hwithin : ¬(c.mailbox = true ∧ 4096 < c.fld 0x18 8 + 32) := by
      rintro ⟨hm, hlt⟩
      rcases hin with hhost | hle
      · simp [hhost] at hm
      · omega
    rw [exec_transportConfig blk h hd, if_neg hwithin]
    refine ⟨fun k hk hr => ?_, fun k hk hr => ?_, fun k hk0 hk1 hr => ?_, fun hbad => ?_⟩
    · simp only [takeBlock, hk, hr, if_true, Option.elim_some]
      rfl
    · simp only [takeBlock, hk, hr, if_true, Option.elim_some, one_ne_zero, if_false]
    · simp only [takeBlock, hk0, hk1, hr, Option.elim_some, if_false]
    · rcases hbad with ⟨hk, hr⟩ | ⟨hk, hr⟩ | ⟨hk0, hk1, hr⟩
      · simp only [takeBlock, hk, hr, if_true, Option.elim_none]
      · simp only [takeBlock, hk, hr, if_true, Option.elim_none, one_ne_zero, if_false]
      · simp only [takeBlock, hk0, hk1, hr, Option.elim_none, if_false]
  case startup => rw [exec_startupCalibration b hx hb hs he hp, startedUp_eq]
  case noSession => rw [exec_calibrate_of_started p h hx, if_pos ⟨hk, Option.isNone_iff_eq_none.2 hm⟩]
  case streamOpen =>
    obtain ⟨q, hq, hxp⟩ := hopen
    have hany : (s.strm.any fun q => q.2.xp == c.fld 0x10 1) = true := List.any_eq_true.2 ⟨q, hq, beq_iff_eq.2 hxp⟩
    rw [exec_calibrate_of_started p h hx, if_neg fun hnone => hm (Option.isNone_iff_eq_none.1 hnone.2), if_pos ⟨hk, hany⟩]
  case fenced => rw [exec_calibrate_of_free p h hx hfree, he]; rfl
  case noDataset => rw [exec_calibrate_of_free p h hx hfree, he, hr, hno]; rfl
  case holds =>
    have htape : ¬(bitOf (c.fld 0x11 1) 2 = true ∧ (!hasComplete x (c.fld 0x12 1)) = true) := by
      rcases hr with h | h <;> simp [h]
    have hstill : ¬((x.motion ≠ .stopped ∧ x.motion ≠ .backhitch) ∨ x.calibrating = true ∨ x.cmTry.isSome = true) := by
      rcases hmot with h | h <;> simp [h, hcal, htry]
    rw [exec_calibrate_of_free p h hx hfree, he, Bool.not_true, if_neg Bool.false_ne_true, if_neg htape, if_neg hstill]
    rfl
  case waits =>
    rw [exec_calibrate_of_waiting p h hx]
    exact ⟨fun hp => by rw [hp]; rfl, fun hp => by rw [hp]; rfl⟩

end Sys2Proof.Machine
end

section
/-! The choice of a sync mark, and the search states and dropouts of a lane (O46, O45). -/

namespace Sys2Proof.Machine

/-! ### The mark taken (R509, R511) -/

/-- The order of matching positions: by bit errors, then by distance from nominal, then by place. -/
def markOrder (f : Int × Nat) : Nat ×ₗ Nat ×ₗ Int := toLex (f.2, toLex (f.1.natAbs, f.1))

theorem markOrder_le {f g : Int × Nat} : markOrder f ≤ markOrder g ↔
    f.2 < g.2 ∨ (f.2 = g.2 ∧ (f.1.natAbs < g.1.natAbs ∨ (f.1.natAbs = g.1.natAbs ∧ f.1 ≤ g.1))) := by
  simp only [markOrder, Prod.Lex.toLex_le_toLex]

theorem markOrder_lt {f g : Int × Nat} : markOrder f < markOrder g ↔
    f.2 < g.2 ∨ (f.2 = g.2 ∧ (f.1.natAbs < g.1.natAbs ∨ (f.1.natAbs = g.1.natAbs ∧ f.1 < g.1))) := by
  simp only [markOrder, Prod.Lex.toLex_lt_toLex]

/-- The positions of a window that may be taken (R509). -/
def matching (k : RcBlock) (found : List (Int × Nat)) : List (Int × Nat) :=
  found.filter fun f => decide (f.1.natAbs ≤ k.syncWin ∧ f.2 ≤ k.maxErr)

theorem mem_matching {k : RcBlock} {found : List (Int × Nat)} {f : Int × Nat} :
    f ∈ matching k found ↔ f ∈ found ∧ f.1.natAbs ≤ k.syncWin ∧ f.2 ≤ k.maxErr := by
  simp only [matching, List.mem_filter, decide_eq_true_eq]

/-- Of two positions the better is the lesser. -/
theorem betterMark_eq (g f : Int × Nat) : betterMark g f = if markOrder f < markOrder g then f else g := by
  obtain ⟨a, m⟩ := g
  obtain ⟨b, n⟩ := f
  simp only [betterMark, markOrder_lt]
  grind

/-- The mark taken is the least of the matching positions. -/
theorem markOf_eq_argmin (k : RcBlock) (found : List (Int × Nat)) : markOf k found = (matching k found).argmin markOrder := by
  unfold markOf List.argmin
  change List.foldl _ none (matching k found) = _
  congr 1
  funext b f
  cases b with
  | none => rfl
  | some g => simp only [List.argAux, betterMark_eq, apply_ite some]

/-- Settles O46: the search takes the least matching position in the order of errors, distance and place. -/
theorem bestMarkTaken : Obligations.BestMarkTaken := by
  unfold Obligations.BestMarkTaken
  intro k found
  rw [markOf_eq_argmin]
  refine ⟨fun ⟨f, hf, hwin, herr⟩ => ?_, fun b hb => ?_⟩
  · rw [Option.isSome_iff_ne_none, Ne, List.argmin_eq_none]
    exact List.ne_nil_of_mem (mem_matching.2 ⟨hf, hwin, herr⟩)
  · obtain ⟨hmem, hwin, herr⟩ := mem_matching.1 (List.argmin_mem hb)
    exact ⟨hmem, hwin, herr, fun f hf hfwin hferr => markOrder_le.1 (List.le_of_mem_argmin (mem_matching.2 ⟨hf, hfwin, hferr⟩) hb)⟩

/-! ### Window searches, acquisition and separators (R510 to R514, R546) -/

section search
variable {s : State} {l : Nat} (hon : laneOn s l = true)
include hon

theorem exec_syncAcquired {m p e : Nat} (hs : (laneAt s l).search = .acquisition) (hm : 32 ≤ m) (hp : p ≤ 2)
    (he : e ≤ (laneBlk s l).maxErr) : exec (.syncAcquired l m p e) s =
      .next (setLane s l { laneAt s l with search := .tracking, missed := false, margin := false, fly := 0 }) := by
  change execSyncAcquired l m p e s = _
  simp only [execSyncAcquired, hon, hs, hm, hp, he, beq_self_eq_true, and_self, decide_true, Bool.and_self, if_true]

theorem exec_separatorDetected {e : Nat} (he : e ≤ 8) : exec (.separatorDetected l e) s =
    .next (setLane s l { laneAt s l with
      search := .positionStart, place := some 0,
      ord := if (laneAt s l).place = some 0 then (laneAt s l).ord else (laneAt s l).ord + 1 }) := by
  change execSeparatorDetected l e s = _
  simp only [execSeparatorDetected, hon, he, decide_true, Bool.and_self, if_true]

variable {found : List (Int × Nat)} (hs : (laneAt s l).search ≠ .acquisition)
include hs

/-- A window whose search takes a mark. -/
theorem exec_syncWindowEnd_of_mark {f : Int × Nat} (hd : (laneAt s l).dropout = false) (hf : markOf (laneBlk s l) found = some f) :
    exec (.syncWindowEnd l found) s = .next (setLane s l { laneAt s l with
      search := .tracking, missed := false, margin := decide ((laneBlk s l).syncWin < 2 * f.1.natAbs), fly := 0,
      markMargin := if (laneBlk s l).syncWin < 2 * f.1.natAbs then satAdd 32 (laneAt s l).markMargin 1 else (laneAt s l).markMargin }) := by
  have hgo : (!laneOn s l || (laneAt s l).search == .acquisition) = false := by simp [hon, hs]
  change execSyncWindowEnd l found s = _
  simp only [execSyncWindowEnd, hgo, hd, hf, Bool.false_eq_true, if_false, decide_eq_true_eq]

/-- A window in a dropout, or without a mark, flywheels; the fourth in a row returns the lane to acquisition. -/
theorem exec_syncWindowEnd_of_no_mark (h : (laneAt s l).dropout = true ∨ markOf (laneBlk s l) found = none) :
    exec (.syncWindowEnd l found) s = .next (setLane s l { laneAt s l with
      search := if 3 ≤ (laneAt s l).fly then .acquisition else .tracking, missed := true, margin := false,
      place := if 3 ≤ (laneAt s l).fly then none else (laneAt s l).place,
      fly := if 3 ≤ (laneAt s l).fly then 0 else (laneAt s l).fly + 1, markMissed := satAdd 32 (laneAt s l).markMissed 1 }) := by
  have hgo : (!laneOn s l || (laneAt s l).search == .acquisition) = false := by simp [hon, hs]
  have hnone : (if (laneAt s l).dropout = true then none else markOf (laneBlk s l) found) = none := by
    rcases h with h | h <;> simp [h]
  change execSyncWindowEnd l found s = _
  simp only [execSyncWindowEnd, hgo, hnone, Bool.false_eq_true, if_false]

theorem exec_syncWindowEnd_flywheels (h : (laneAt s l).dropout = true ∨ markOf (laneBlk s l) found = none) (hfly : (laneAt s l).fly < 3) :
    exec (.syncWindowEnd l found) s = .next (setLane s l { laneAt s l with
      search := .tracking, missed := true, margin := false, fly := (laneAt s l).fly + 1,
      markMissed := satAdd 32 (laneAt s l).markMissed 1 }) := by
  rw [exec_syncWindowEnd_of_no_mark hon hs h]
  simp only [Nat.not_le.2 hfly, if_false]

end search

/-! ### Adaptation and dropouts (R505 to R507) -/

section dropouts
variable (s : State) (l : Nat)

/-- What the loops learn, and what they may not learn. -/
theorem laneAt_adapt : laneAt (adapt s l) l = { laneAt s l with
    gain := Config.freeValue s.clk.free % 241, snr := Config.freeInt s.clk.free, base := Config.freeInt (s.clk.free + 1),
    asym := if bitOf (laneBlk s l).rcFlags 1 then Config.freeInt (s.clk.free + 2) else (laneAt s l).asym,
    fir := if bitOf (laneBlk s l).rcFlags 0 then (List.range 10).map fun j => Config.freeInt (s.clk.free + 4 + j) else (laneAt s l).fir,
    freq := Config.freeInt (s.clk.free + 3) } := by
  rw [adapt, laneAt_setLane_self]

theorem adapt_rings : (adapt s l).rings = s.rings := rfl

theorem adapt_xp : (adapt s l).xp = s.xp := rfl

variable {s l} (hon : laneOn s l = true)
include hon

theorem exec_dropoutEntry (hd : (laneAt s l).dropout = false) : exec (.dropoutEntry l) s =
    .next (setLane (adapt s l) l { laneAt (adapt s l) l with dropout := true, dropouts := satAdd 32 (laneAt s l).dropouts 1 }) := by
  change execDropoutEntry l s = _
  simp only [execDropoutEntry, hon, hd, laneAt_adapt, Bool.not_false, Bool.and_self, if_true]

theorem exec_dropoutExit (hd : (laneAt s l).dropout = true) : exec (.dropoutExit l) s =
    .next (setLane s l { laneAt s l with dropout := false }) := by
  change execDropoutExit l s = _
  simp only [execDropoutExit, hon, hd, Bool.and_self, if_true]

end dropouts

/-- Settles O45: each clause is the outcome of its row that the lane's search state and the operands select. -/
theorem syncSearch : Obligations.SyncSearch := by
  unfold Obligations.SyncSearch
  intro s l hon
  refine ⟨fun m p e hs hm hp he => exec_syncAcquired hon hs hm hp he, fun e he => exec_separatorDetected hon he,
    fun o e hs hd hwin herr => ?taken, fun found hs hd hfly => exec_syncWindowEnd_flywheels hon hs (.inl hd) hfly,
    fun hs hfly => exec_syncWindowEnd_flywheels hon hs (.inr rfl) hfly, fun hs hfly => ?lost,
    fun hd => exec_dropoutEntry hon hd, ⟨?store, adapt_rings s l, adapt_xp s l, fun hfir => ?fir, fun hasym => ?asym⟩,
    fun hd => exec_dropoutExit hon hd⟩
  case taken =>
    have hmark : markOf (laneBlk s l) [(o, e)] = some (o, e) := by simp [markOf, hwin, herr]
    exact exec_syncWindowEnd_of_mark hon hs hd hmark
  case lost =>
    rw [exec_syncWindowEnd_of_no_mark hon hs (.inr rfl), hfly]
    rfl
  case store => rw [laneAt_adapt]
  case fir => rw [laneAt_adapt, hfir]; rfl
  case asym => rw [laneAt_adapt, hasym]; rfl

end Sys2Proof.Machine
end

section
/-! Codewords in the sample store and the decoder pool, the pool's load level, and the service domain's tick (O47). -/

namespace Sys2Proof.Machine

/-! ### CODEWORD_ARRIVAL (R514, R519) -/

section arrival
variable {s : State} {l : Nat} {cls : CwClass} (y : List Int) (gaps : List (Nat × Nat)) (hon : laneOn s l = true)
include hon

theorem exec_codewordArrival_written {w : CwId} {r : List CwId} (hf : (laneAt s l).flight = w :: r) :
    exec (.codewordArrival l .verify y gaps) s = .next (
      let u := setLane s l { laneAt s l with flight := r }
      if (laneAt s l).search = .acquisition then judge u (l / 32) (l % 32) w 1 else arrive u l .verify w y gaps) := by
  change execCodewordArrival l .verify y gaps s = _
  simp only [execCodewordArrival, hon, hf, Bool.not_true, Bool.false_eq_true, if_false, if_true]
  exact (apply_ite Host.Outcome.next _ _ _).symm

theorem exec_codewordArrival_read (hv : cls ≠ .verify) (hr : readClass s (l / 32) = some cls)
    (hs : (laneAt s l).search ≠ .acquisition) :
    exec (.codewordArrival l cls y gaps) s = .next (arrive s l cls ⟨0, 0, 0, false, false, true, false⟩ y gaps) := by
  change execCodewordArrival l cls y gaps s = _
  simp only [execCodewordArrival, hon, hv, hr, hs, Bool.not_true, Bool.false_eq_true, if_false, ne_eq, not_false_eq_true, and_self, if_true]

end arrival

/-- The sample that a codeword becomes on arrival (R519). -/
def arrived (s : State) (l : Nat) (cls : CwClass) (w : CwId) (y : List Int) (gaps : List (Nat × Nat)) : Sample :=
  { ticket := s.rc.ticket, cls := cls, what := w, missed := (laneAt s l).missed, margin := (laneAt s l).margin, passes := 0, iters := 0,
    decoder := none, evicted := false, atTick := now s, y := y, gaps := gaps, prior := [], post := [], ord := (laneAt s l).ord,
    place := (laneAt s l).place, limit := 0 }

/-- Adaptation leaves the samples. -/
theorem store_adapt (s : State) (l : Nat) : (laneAt (adapt s l) l).store = (laneAt s l).store := by rw [laneAt_adapt]

section arrive
variable {s : State} {l : Nat} (cls : CwClass) (w : CwId) (y : List Int) (gaps : List (Nat × Nat))
  (hroom : (held (laneAt s l)).length < 4)
include hroom

/-- A store with room takes the codeword behind those it holds. -/
theorem store_arrive : (laneAt (arrive s l cls w y gaps) l).store = (laneAt s l).store ++ [arrived s l cls w y gaps] := by
  simp only [arrive, hroom, if_true]
  split
  · rw [laneAt_setLane_self]; rfl
  · rw [store_adapt, laneAt_setLane_self]; rfl

theorem ticket_arrive : (arrive s l cls w y gaps).rc.ticket = s.rc.ticket + 1 := by
  simp only [arrive, hroom, if_true]
  split <;> rfl

end arrive

/-! ### DECODER_GRANT (R517, R518, R523) -/

section grant
variable {s : State} {d l : Nat} {a : Sample}

theorem exec_decoderGrant_none (h : nextCodeword s = none) : exec (.decoderGrant d) s = .next s := by
  change execDecoderGrant d s = _
  simp only [execDecoderGrant, h, ite_self]

variable (hd : d < 40) (he : engRun s 3 d = true) (hfree : Tbl.has s.rc.decs d = false) (hn : nextCodeword s = some (l, a))
include hd he hfree hn

/-- A free decoder in RUN goes to the codeword that is due, which ends here when it has used up its budget. -/
theorem exec_decoderGrant : exec (.decoderGrant d) s = .next (
    if a.cls ≠ .verify ∧ ((poolLevel s).total ≤ a.iters ∨ (poolLevel s).passes ≤ a.passes) then
      endUnconverged (dropSample s l a.ticket) l a
    else updSample { s with
      rc.waitMax := if a.cls = .verify then min (max s.rc.waitMax (4 * (now s - a.atTick))) (satMax 32) else s.rc.waitMax,
      rc.decs := Tbl.put s.rc.decs d (l, a.ticket) } l a.ticket fun b => { b with
        decoder := some d,
        limit := if a.cls = .verify then verifyLimit s l else min (poolLevel s).perPass ((poolLevel s).total - a.iters) }) := by
  have hgo : ¬(40 ≤ d ∨ (!engRun s 3 d) = true ∨ Tbl.has s.rc.decs d = true) := by simp [he, hfree, hd]
  change execDecoderGrant d s = _
  simp only [execDecoderGrant, hgo, hn, if_false]
  exact (apply_ite Host.Outcome.next _ _ _).symm

theorem exec_decoderGrant_verify (hv : a.cls = .verify) : exec (.decoderGrant d) s = .next (updSample { s with
    rc.waitMax := min (max s.rc.waitMax (4 * (now s - a.atTick))) (satMax 32),
    rc.decs := Tbl.put s.rc.decs d (l, a.ticket) } l a.ticket fun b => { b with decoder := some d, limit := verifyLimit s l }) := by
  rw [exec_decoderGrant hd he hfree hn, if_neg fun h => h.1 hv]
  simp only [hv, if_true]

theorem exec_decoderGrant_read (hv : a.cls ≠ .verify) (hi : a.iters < (poolLevel s).total) (hp : a.passes < (poolLevel s).passes) :
    exec (.decoderGrant d) s = .next (updSample { s with rc.decs := Tbl.put s.rc.decs d (l, a.ticket) } l a.ticket fun b => { b with
      decoder := some d, limit := min (poolLevel s).perPass ((poolLevel s).total - a.iters) }) := by
  have hleft : ¬(a.cls ≠ .verify ∧ ((poolLevel s).total ≤ a.iters ∨ (poolLevel s).passes ≤ a.passes)) := by
    rintro ⟨-, h | h⟩ <;> omega
  rw [exec_decoderGrant hd he hfree hn, if_neg hleft]
  simp only [hv, if_false]

end grant

/-! ### DECODE_END (R515 to R517, R520, R525, R547) -/

/-- A grant ends when its iterations are used as the decoder uses them, by convergence, by eviction or at its limit. -/
theorem exec_decodeEnd {s : State} {d l n : Nat} {a : Sample} {q : List Int × Nat × Bool}
    (hdec : Tbl.get? s.rc.decs d = some (l, a.ticket))
    (ha : (laneAt s l).store.find? (fun b => b.ticket == a.ticket) = some a)
    (hq : ldpcRun n (detect (laneBlk s l) (markNibble s (l / 32)) a.y a.prior a.gaps) = q) (hn : 0 < n) (hlim : n ≤ a.limit)
    (hused : q.2.1 = n) (hend : q.2.2 = true ∨ a.evicted = true ∨ n = a.limit) :
    exec (.decodeEnd d n) s = .next (
      let u := countIters { s with rc.decs := Tbl.del s.rc.decs d } l n a.cls
      if a.cls = .verify then judge (dropSample u l a.ticket) (l / 32) (l % 32) a.what
        (verifyCause a q.2.2 ((infoBytes q.1).take 16 == writtenHeader u (l / 32) a.what))
      else endPass u l a (detect (laneBlk s l) (markNibble s (l / 32)) a.y a.prior a.gaps) q.1 n q.2.2) := by
  have hgo : ¬(n = 0 ∨ a.limit < n ∨ q.2.1 ≠ n ∨ ((!q.2.2) = true ∧ (!a.evicted) = true ∧ n ≠ a.limit)) := by
    rintro (h | h | h | ⟨hc, hev, hl⟩)
    · omega
    · omega
    · exact h hused
    · rcases hend with h | h | h
      · simp [h] at hc
      · simp [h] at hev
      · exact hl h
  change execDecodeEnd d n s = _
  simp only [execDecodeEnd, hdec, ha, hq, hgo, if_false]
  exact (apply_ite Host.Outcome.next _ _ _).symm

section pass
variable (s : State) (l n : Nat) (a : Sample) (llr post : List Int)

/-- A sample after a pass: the extrinsic information becomes the prior of the next (R515, R547). -/
def afterPass : Sample :=
  { a with decoder := none, passes := a.passes + 1, iters := a.iters + n, post := post, prior := List.zipWith (· - ·) post llr }

/-- A scan's report notes the iterations of a pass. -/
def passNoted : State := if a.cls = .scan then noteScanIters s (l / 32) (a.iters + n) else s

theorem poolLevel_passNoted : poolLevel (passNoted s l n a) = poolLevel s := by
  unfold passNoted
  split <;> rfl

theorem endPass_converged : endPass s l a llr post n true =
    endConverged (dropSample (passNoted s l n a) l a.ticket) l (afterPass n a llr post) post := by
  rw [endPass]
  exact if_pos rfl

theorem endPass_unconverged : endPass s l a llr post n false =
    if a.evicted = true ∨ (poolLevel s).passes ≤ a.passes + 1 ∨ (poolLevel s).total ≤ a.iters + n then
      endUnconverged (dropSample (passNoted s l n a) l a.ticket) l (afterPass n a llr post)
    else updSample (passNoted s l n a) l a.ticket fun _ => afterPass n a llr post := by
  rw [← poolLevel_passNoted s l n a, endPass]
  exact if_neg Bool.false_ne_true

end pass

/-! ### The detector (R508, R515) -/

theorem length_detect (k : RcBlock) (mark : Nat) (y prior : List Int) (gaps : List (Nat × Nat)) :
    (detect k mark y prior gaps).length = 8832 := by
  simp only [detect, List.length_map, List.length_range, cwBits]

/-- A bit of a dropout, or among the 32 before one, has LLR 0. -/
theorem detect_in_gap (k : RcBlock) (mark : Nat) (y prior : List Int) {gaps : List (Nat × Nat)} {i : Nat} (hi : i < 8832)
    (hg : ∃ g ∈ gaps, g.1 ≤ i + 32 ∧ i < g.2) : (detect k mark y prior gaps)[i]? = some 0 := by
  have hin : inGap gaps i = true := by
    obtain ⟨g, hg, hle, hlt⟩ := hg
    exact List.any_eq_true.2 ⟨g, hg, decide_eq_true ⟨hle, hlt⟩⟩
  rw [detect, List.getElem?_map, List.getElem?_range (by rwa [cwBits]), Option.map_some, if_pos hin]

/-! ### POOL_EVALUATION (R521, R522, R541) -/

/-- What an evaluation leaves behind: the new block and level, U, and the counters of the level. -/
def evaluated (u : State) (n : Nat) : State :=
  { u with rc := { u.rc with
    blk := u.rc.blkNext.getD u.rc.blk, blkNext := none, level := n, evals := if n = u.rc.level then u.rc.evals + 1 else 0,
    uPermille := (u.rc.busyNs * 1000 + 20 * 256000) / (40 * 256000), busyNs := 0,
    changes := if n = u.rc.level then u.rc.changes else satAdd 32 u.rc.changes 1 } }

theorem exec_poolEvaluation (s : State) (dt : Nat) : exec (.poolEvaluation dt) s =
    let u := advance s dt
    let n := nextLevel (u.rc.blkNext.getD u.rc.blk) u.rc.level (u.rc.evals + 1) u.rc.busyNs
    .next (if n = u.rc.level then evaluated u n else raise (evaluated u n) evPoolLevel subjNone 0 n) := by
  change execPoolEvaluation dt s = _
  simp only [execPoolEvaluation, evaluated]
  split
  case isTrue hm =>
    simp only [bne_iff_ne, ne_eq] at hm
    simp only [hm, if_false]
  case isFalse hm =>
    simp only [bne_iff_ne, ne_eq, not_not] at hm
    simp only [hm, if_true]

/-- Is U, of 40 decoders over 256 µs, at or above `p` percent (R521)? -/
abbrev loadReaches (busy p : Nat) : Prop := p * (40 * 256000) ≤ busy * 100

/-- Has a level lasted its dwell after `evals` evaluations (R522)? -/
abbrev dwelt (b : PoolBlock) (evals : Nat) : Prop := b.dwell * 1000 ≤ evals * 256

section level
variable (b : PoolBlock) {level : Nat} (evals busy : Nat)

theorem nextLevel_of_zero (h : level = 0) : nextLevel b level evals busy =
    if loadReaches busy b.enter2 then 2 else if loadReaches busy b.enter1 then 1 else 0 := by
  simp [nextLevel, h]

theorem nextLevel_of_one (h : level = 1) : nextLevel b level evals busy =
    if loadReaches busy b.enter2 then 2 else if ¬loadReaches busy b.exit1 ∧ dwelt b evals then 0 else 1 := by
  simp [nextLevel, h]

theorem nextLevel_of_two (h : level = 2) : nextLevel b level evals busy =
    if ¬loadReaches busy b.exit2 ∧ dwelt b evals then 1 else 2 := by
  simp [nextLevel, h]

/-- Level 2 is entered from both lower levels. -/
theorem nextLevel_enters_two (hl : level < 2) (h : loadReaches busy b.enter2) : nextLevel b level evals busy = 2 := by
  obtain h0 | h1 : level = 0 ∨ level = 1 := by omega
  · rw [nextLevel_of_zero b evals busy h0, if_pos h]
  · rw [nextLevel_of_one b evals busy h1, if_pos h]

end level

/-! ### SERVICE_DOMAIN_TICK (R73) -/

/-- The opcodes of the entries of context `k` that head a ring. -/
def headOps (u : State) (k : Nat) : List Nat :=
  (u.rings.tbl.filter fun p => p.2.look.elim false fun l => fieldOf l.entry 4 2 % 4096 == k).map fun p =>
    p.2.look.elim 0 fun l => fieldOf l.entry 0 1

/-- The service rate of a context (R73, log entry 141). -/
def serviceRate (u : State) (k : Nat) : Nat :=
  if (headOps u k).elem 0x81 then 8000000000
  else if (headOps u k).elem 0x84 then
    ((runEngines u 2).length - recordingEngines u) * ((ctxOf u k).elim 0 fun x => if x.d.cipher = 1 then 1600000000 else 16000000000 / 14)
  else 6400000000

theorem exec_serviceDomainTick (s : State) (dt : Nat) : exec (.serviceDomainTick dt) s =
    .next (recompute (advance s dt) 4 (serviceRate (advance s dt)) 0) := rfl

theorem elem_headOps {u : State} {k op : Nat} : (headOps u k).elem op = true ↔ ∃ n r l, (n, r) ∈ u.rings.tbl ∧ r.look = some l ∧
    fieldOf l.entry 4 2 % 4096 = k ∧ fieldOf l.entry 0 1 = op := by
  rw [List.elem_iff, headOps, List.mem_map]
  constructor
  · rintro ⟨⟨n, r⟩, hmem, hop⟩
    obtain ⟨hr, hk⟩ := List.mem_filter.1 hmem
    cases hl : r.look with
    | none => simp [hl] at hk
    | some l => exact ⟨n, r, l, hr, hl, by simpa [hl] using hk, by simpa [hl] using hop⟩
  · rintro ⟨n, r, l, hr, hl, hk, hop⟩
    exact ⟨(n, r), List.mem_filter.2 ⟨hr, by simp [hl, hk]⟩, by simp [hl, hop]⟩

/-- Settles O47: each clause is the outcome of its row that the lane, the pool and the operands select. -/
theorem codewordsDecode : Obligations.CodewordsDecode := by
  unfold Obligations.CodewordsDecode
  refine ⟨fun s l d n a y gaps => ⟨fun w r hon hf => ?written, fun cls hon hv hr hs => exec_codewordArrival_read y gaps hon hv hr hs,
      fun cls w hroom => ?arrives, fun hd he hfree hn => ?grant, fun hn => exec_decoderGrant_none hn, fun hdec ha => ?decoded⟩,
    fun s l n a llr post => ⟨endPass_converged s l n a llr post, fun hev hp hi => ?again, fun hends => ?ends⟩,
    fun k mark y prior gaps => ⟨length_detect k mark y prior gaps, fun i hi hg => detect_in_gap k mark y prior hi hg⟩,
    fun s dt => ⟨?evaluation, serviceRate (advance s dt), exec_serviceDomainTick s dt, fun k => ?rates⟩⟩
  case written =>
    rw [exec_codewordArrival_written y gaps hon hf]
    exact ⟨fun hs => by rw [if_pos hs], fun hs => by rw [if_neg hs]⟩
  case arrives =>
    exact ⟨arrived s l cls w y gaps, store_arrive cls w y gaps hroom, rfl, rfl, rfl, rfl, rfl, rfl, rfl, rfl, rfl,
      ticket_arrive cls w y gaps hroom⟩
  case grant =>
    exact ⟨exec_decoderGrant_verify hd he hfree hn, exec_decoderGrant_read hd he hfree hn,
      fun hv hspent => by rw [exec_decoderGrant hd he hfree hn, if_pos ⟨hv, hspent⟩]⟩
  case decoded =>
    intro llr q u hn hlim hused hend
    have hout := exec_decodeEnd hdec ha (q := q) rfl hn hlim hused hend
    exact ⟨fun hv => hout.trans (congrArg Host.Outcome.next (if_pos hv)), fun hv => hout.trans (congrArg Host.Outcome.next (if_neg hv))⟩
  case again =>
    refine (endPass_unconverged s l n a llr post).trans (if_neg ?_)
    rintro (h | h | h)
    · rw [hev] at h; cases h
    · omega
    · omega
  case ends => exact (endPass_unconverged s l n a llr post).trans (if_pos hends)
  case evaluation =>
    intro u b n v above long
    exact ⟨exec_poolEvaluation s dt, fun hl h2 => nextLevel_enters_two b _ _ hl h2,
      fun hl h2 h1 => (nextLevel_of_zero b _ _ hl).trans ((if_neg h2).trans (if_pos h1)),
      fun hl h2 h1 => (nextLevel_of_zero b _ _ hl).trans ((if_neg h2).trans (if_neg h1)),
      fun hl h2 h1 => (nextLevel_of_one b _ _ hl).trans ((if_neg h2).trans (if_neg fun hfall => hfall.1 h1)),
      fun hl h2 h1 hlong => (nextLevel_of_one b _ _ hl).trans ((if_neg h2).trans (if_pos ⟨h1, hlong⟩)),
      fun hl h2 hshort => (nextLevel_of_one b _ _ hl).trans ((if_neg h2).trans (if_neg fun hfall => hshort hfall.2)),
      fun hl h2 hlong => (nextLevel_of_two b _ _ hl).trans (if_pos ⟨h2, hlong⟩),
      fun hl hstay => (nextLevel_of_two b _ _ hl).trans (if_neg fun hfall => hstay.elim hfall.1 fun hshort => hshort hfall.2)⟩
  case rates =>
    intro u heads
    exact ⟨fun h81 => if_pos (elem_headOps.2 h81),
      fun h81 h84 => (if_neg (mt elem_headOps.1 h81)).trans (if_pos (elem_headOps.2 h84)),
      fun h81 h84 => (if_neg (mt elem_headOps.1 h81)).trans (if_neg (mt elem_headOps.1 h84))⟩

end Sys2Proof.Machine
end

section
/-! The write-inhibit logic of a transport: the re-arm, the level of Tt_WG, and what a change of its conditions does (O50, O51, O52). -/

namespace Sys2Proof.Machine

/-! ### The re-arm (R567, R568) -/

/-- The inhibit logic once `n` more good frame edges are counted. -/
def counted (w : Inhibit) (n : Nat) : Inhibit := { w with good := min (w.good + n) 64, armed := decide (64 ≤ w.good + n) }

theorem rearm_of_inhibited {w : Inhibit} (h : inhibited w = true) (pes : Option Int) (was : Bool) : rearm w pes was = w := by
  simp [rearm, h]

theorem rearm_of_wide {w : Inhibit} (hin : inhibited w = false) (harm : w.armed = false) {p : Int}
    (hp : 3 * (w.pesLimit : Int) < 4 * |p|) : rearm w (some p) false = { w with good := 0, armed := false } := by
  simp [rearm, hin, harm, Int.not_le.2 hp]

section rearm
variable {w : Inhibit} (hin : inhibited w = false) (hle : w.good ≤ 64) (harm : w.armed = decide (64 ≤ w.good))
include hin hle harm

/-- A good frame edge counts one, until the re-arm is complete. -/
theorem rearm_of_good {p : Int} (hp : 4 * |p| ≤ 3 * (w.pesLimit : Int)) : rearm w (some p) false = counted w 1 := by
  by_cases hdone : 64 ≤ w.good
  · have hstay : min (w.good + 1) 64 = w.good := by omega
    have harmed : w.armed = true := by rw [harm, decide_eq_true hdone]
    have hnext : decide (64 ≤ w.good + 1) = w.armed := by rw [harmed, decide_eq_true (by omega)]
    rw [counted, hstay, hnext]
    exact if_pos (by rw [harmed, Bool.or_true])
  · have hcount : min (w.good + 1) 64 = w.good + 1 := by omega
    have hopen : w.armed = false := by simp [harm, hdone]
    simp [rearm, counted, hin, hopen, hp, hcount]

theorem foldl_rearm_of_good (l : List Int) (hl : ∀ p ∈ l, 4 * |p| ≤ 3 * (w.pesLimit : Int)) :
    l.foldl (fun w p => rearm w (some p) false) w = counted w l.length := by
  induction l generalizing w with
  | nil =>
    have hsame : min w.good 64 = w.good := by omega
    simp [counted, hsame, ← harm]
  | cons p r ih =>
    obtain ⟨hp, hr⟩ := List.forall_mem_cons.1 hl
    have hagain : counted (counted w 1) r.length = counted w (r.length + 1) := by
      have hgood : min (min (w.good + 1) 64 + r.length) 64 = min (w.good + (r.length + 1)) 64 := by omega
      have harmed : 64 ≤ min (w.good + 1) 64 + r.length ↔ 64 ≤ w.good + (r.length + 1) := by omega
      simp only [counted, hgood, harmed]
    rw [List.foldl_cons, rearm_of_good hin hle harm hp, List.length_cons, ← hagain]
    refine ih hin ?_ ?_ hr
    · simp [counted]
    · simp [counted]

end rearm

theorem foldl_rearm_of_inhibited {w : Inhibit} (h : inhibited w = true) (l : List Int) :
    l.foldl (fun w p => rearm w (some p) false) w = w := by
  induction l with
  | nil => rfl
  | cons p r ih => rw [List.foldl_cons, rearm_of_inhibited h, ih]

/-- Settles O50: a run of good frame edges counts its length (`foldl_rearm_of_good`), by induction on the run. -/
theorem rearmTakes64Frames : Obligations.RearmTakes64Frames := by
  unfold Obligations.RearmTakes64Frames
  refine fun w l harm hgood => ⟨fun hin hl => ?_, fun hin => foldl_rearm_of_inhibited hin l⟩
  rw [foldl_rearm_of_good hin (by omega) (by simp [harm, hgood]) l hl]
  refine ⟨by simp [counted, hgood], fun p hp hlen => ?_⟩
  have hopen : (counted w l.length).armed = false := by simp [counted, hgood, hlen]
  exact congrArg Inhibit.good (rearm_of_wide (w := counted w l.length) hin hopen hp)

/-! ### The level of Tt_WG (R568) -/

theorem inhibited_eq_false_iff {w : Inhibit} : inhibited w = false ↔ ∀ k, k < 6 → w.cond.getLsbD k = false := by
  simp only [inhibited, bne_eq_false_iff_eq]
  refine ⟨fun h k _ => by simp [h], fun h => BitVec.eq_of_getLsbD_eq fun k hk => ?_⟩
  simp [h k hk]

/-- Settles O51: INHIBIT is 0 when no condition is in force. -/
theorem writeGateLevel : Obligations.WriteGateLevel := by
  unfold Obligations.WriteGateLevel
  intro w
  rw [← inhibited_eq_false_iff]
  simp [wgHigh, and_assoc]

/-! ### New conditions (R565, R567, R569, R571, R595, R596) -/

/-- Counting each cause of a list that satisfies `p` once. -/
def countCauses (p : Nat → Bool) (l : List Nat) (t : Tbl Nat) : Tbl Nat :=
  l.foldl (fun t k => if p k then Tbl.put t k (satAdd 32 ((Tbl.get? t k).getD 0) 1) else t) t

theorem get?_countCauses (p : Nat → Bool) {l : List Nat} (hl : l.Nodup) (t : Tbl Nat) (k : Nat) :
    (Tbl.get? (countCauses p l t) k).getD 0 =
      if k ∈ l ∧ p k = true then satAdd 32 ((Tbl.get? t k).getD 0) 1 else (Tbl.get? t k).getD 0 := by
  induction l generalizing t with
  | nil => simp [countCauses]
  | cons j r ih =>
    obtain ⟨hj, hr⟩ := List.nodup_cons.1 hl
    refine (ih hr _).trans ?_
    by_cases hk : k = j
    · subst hk
      by_cases hp : p k = true <;> simp [hj, hp]
    · by_cases hp : p j = true <;> simp [hk, hp, Tbl.get?_put_of_ne _ _ hk]

/-- The causes of `c` that were not in force. -/
def risen (w : Inhibit) (c : BitVec 6) : BitVec 6 := c &&& ~~~w.cond

/-- The inhibit logic under the conditions `c`. -/
def withConds (w : Inhibit) (c : BitVec 6) : Inhibit := { w with
  cond := c, cause := w.cause ||| risen w c, counts := countCauses (risen w c).getLsbD (List.range 6) w.counts,
  armed := w.armed && c == 0, good := if risen w c != 0 then 0 else w.good,
  episodes := if w.cond == 0 && c != 0 && w.wgReq then satAdd 32 w.episodes 1 else w.episodes }

/-- An event leaves the transports as they are. -/
@[simp] theorem raise_xp (s : State) (e kind subj detail : Nat) : (raise s e kind subj detail).xp = s.xp :=
  raise_only (L := raising) .refl (by decide) .transports (by decide)

/-- Does the gate fall when the conditions become `c`? -/
def gateFalls (w : Inhibit) (c : BitVec 6) : Bool := wgHigh w && !wgHigh (withConds w c)

theorem setCond_of_xport {s : State} {t : Nat} {x : Xport} (c : BitVec 6) (hx : xpOf s t = some x) : setCond s t c =
    let y := { x with wi := withConds x.wi c }
    let u := { s with xp := Tbl.put s.xp t (if gateFalls x.wi c then cutSegment y else y) }
    if gateFalls x.wi c then raise u (evXp t 0) subjXp t 0 else u := by
  simp only [setCond, hx]
  rfl

theorem setCond_xp {s : State} {t : Nat} {x : Xport} (c : BitVec 6) (hx : xpOf s t = some x) : ∃ m, (setCond s t c).xp =
    Tbl.put s.xp t { x with mount := m, wi := withConds x.wi c } := by
  rw [setCond_of_xport c hx]
  cases gateFalls x.wi c with
  | true => exact ⟨_, raise_xp _ _ _ _ _⟩
  | false => exact ⟨_, rfl⟩

/-- A transport under new conditions: its inhibit logic changes, and of its mount at most the segment in progress. -/
theorem xpOf_setCond {s : State} {t : Nat} {x : Xport} (c : BitVec 6) (hx : xpOf s t = some x) :
    ∃ m, xpOf (setCond s t c) t = some { x with mount := m, wi := withConds x.wi c } := by
  obtain ⟨m, h⟩ := setCond_xp c hx
  exact ⟨m, by rw [xpOf, h, Tbl.get?_put_self]⟩

theorem xpOf_setCond_of_ne {s : State} {t j : Nat} {x : Xport} (c : BitVec 6) (hx : xpOf s t = some x) (hj : j ≠ t) :
    xpOf (setCond s t c) j = xpOf s j := by
  obtain ⟨m, h⟩ := setCond_xp c hx
  rw [xpOf, h, Tbl.get?_put_of_ne _ _ hj, xpOf]

theorem wgHigh_of_cond_ne_zero {w : Inhibit} (h : w.cond ≠ 0) : wgHigh w = false := by
  have hin : inhibited w = true := bne_iff_ne.2 h
  simp [wgHigh, hin]

/-- Settles O52: the new conditions give `withConds`, whose counts are those of `get?_countCauses`. -/
theorem inhibitDropsTheGate : Obligations.InhibitDropsTheGate := by
  unfold Obligations.InhibitDropsTheGate
  intro s t x c hx
  obtain ⟨m, hy⟩ := xpOf_setCond c hx
  refine ⟨_, hy, rfl, fun hc => ⟨wgHigh_of_cond_ne_zero hc, by rw [withConds, beq_false_of_ne hc, Bool.and_false]⟩,
    fun k hk => ?cause, ?episodes, fun j hj => xpOf_setCond_of_ne c hx hj⟩
  case cause =>
    have hrise : (risen x.wi c).getLsbD k = (c.getLsbD k && !x.wi.cond.getLsbD k) := by simp [risen, hk]
    refine ⟨by simp [withConds, hrise], ?_⟩
    rw [← hrise]
    exact (get?_countCauses _ List.nodup_range _ _).trans (by simp [List.mem_range, hk, satAdd, satMax])
  case episodes => simp [withConds, satAdd, satMax, and_assoc]

end Sys2Proof.Machine
end

section
/-! The pins and registers of the write-inhibit logic (O53). -/

namespace Sys2Proof.Machine

/-! ### One condition (R565) -/

theorem getLsbD_condWith (c : BitVec 6) {k j : Nat} (v : Bool) (hj : j < 6) :
    (condWith c k v).getLsbD j = if k = j then v else c.getLsbD j := by
  have hbit : (BitVec.ofNat 6 (2 ^ k)).getLsbD j = decide (k = j) := by
    rw [BitVec.getLsbD_ofNat, Nat.testBit_two_pow, decide_eq_true hj, Bool.true_and]
  cases v with
  | true =>
    rw [condWith, if_pos rfl, BitVec.getLsbD_or, hbit]
    by_cases h : k = j <;> simp [h, hj]
  | false =>
    rw [condWith, if_neg Bool.false_ne_true, BitVec.getLsbD_and, BitVec.getLsbD_not, hbit]
    by_cases h : k = j <;> simp [h, hj]

/-- No cause asserts where conditions only end. -/
theorem risen_of_ended (w : Inhibit) (k : Nat) : risen w (condWith w.cond k false) = 0#6 := by
  refine BitVec.eq_of_getLsbD_eq fun j hj => ?_
  rw [risen, BitVec.getLsbD_and, getLsbD_condWith _ _ hj, BitVec.getLsbD_not]
  by_cases h : k = j <;> simp [h, hj]

theorem cause_withConds_of_ended (w : Inhibit) (k : Nat) : (withConds w (condWith w.cond k false)).cause = w.cause := by
  rw [withConds, risen_of_ended, BitVec.or_zero]

theorem xpOf_updXp_of_xport {s : State} {t : Nat} {x : Xport} (hx : xpOf s t = some x) (f : Xport → Xport) :
    xpOf (updXp s t f) t = some (f x) := by
  rw [xpOf_updXp_self, hx]
  rfl

theorem xpOf_setCause {s : State} {t : Nat} {x : Xport} (k : Nat) (v : Bool) (hx : xpOf s t = some x) : ∃ m, xpOf (setCause s t k v) t =
    some { x with mount := m, wi := withConds x.wi (condWith x.wi.cond k v) } := by
  simp only [setCause, hx]
  exact xpOf_setCond _ hx

/-! ### What the rows make of a transport (R573, Tables 11-5 and 11-7) -/

theorem recognised_of_long {w : Nat} (s : State) (h : 40 ≤ w) : recognised s w = (true, s) := if_pos h

theorem recognised_of_short {w : Nat} (s : State) (h : w < 20) : recognised s w = (false, s) :=
  (if_neg (by omega)).trans (if_pos h)

/-- WFLT_LATCH sets while Tt_WFLT_N is low for `w` ns, and firmware is to clear it. -/
def latchFault (s : State) (w : Nat) (x : Xport) : Xport := { x with
  wfltHighAt := max x.wfltHighAt (now s + (w + 3) / 4), wi := { x.wi with wfltLatch := true },
  wfltTry := if x.wfltTry.isSome then x.wfltTry else some (0, now s + 2500000) }

theorem wfltTry_latchFault (s : State) (w : Nat) (x : Xport) : (latchFault s w x).wfltTry.isSome = true := by
  unfold latchFault
  cases h : x.wfltTry <;> simp

/-- The inhibit logic with WFLT_LATCH, its cause bit and its condition cleared together. -/
def wfltCleared (w : Inhibit) : Inhibit :=
  withConds { w with wfltLatch := false, cause := condWith w.cause causeWflt false } (condWith w.cond causeWflt false)

theorem cond_wfltCleared (w : Inhibit) {k : Nat} (hk : k < 6) :
    (wfltCleared w).cond.getLsbD k = if 4 = k then false else w.cond.getLsbD k :=
  getLsbD_condWith w.cond false hk

theorem cause_wfltCleared (w : Inhibit) {k : Nat} (hk : k < 6) :
    (wfltCleared w).cause.getLsbD k = if 4 = k then false else w.cause.getLsbD k := by
  refine Eq.trans ?_ (getLsbD_condWith w.cause false hk)
  exact congrArg (BitVec.getLsbD · k)
    (cause_withConds_of_ended { w with wfltLatch := false, cause := condWith w.cause causeWflt false } causeWflt)

/-- The cause bits that a write of WI_CAUSE clears by itself. -/
def clearCauses (v : Word) (x : Xport) : Xport := { x with wi := { x.wi with cause := x.wi.cause &&& ~~~(v.setWidth 6 &&& ~~~16#6) } }

theorem cause_clearCauses (v : Word) (x : Xport) {k : Nat} (hk : k < 6) : (clearCauses v x).wi.cause.getLsbD k =
    (x.wi.cause.getLsbD k && !(v.getLsbD k && decide (k ≠ 4))) := by
  have hbit : (~~~16#6).getLsbD k = decide (k ≠ 4) := by
    rw [BitVec.getLsbD_not, show 16#6 = BitVec.ofNat 6 (2 ^ 4) from rfl, BitVec.getLsbD_ofNat, Nat.testBit_two_pow]
    simp [hk, eq_comm]
  rw [clearCauses, BitVec.getLsbD_and, BitVec.getLsbD_not, BitVec.getLsbD_and, hbit, BitVec.getLsbD_setWidth]
  simp [hk]

/-- A try to clear WFLT_LATCH counts: the first as a fault of class 8, the others as its retries. -/
def retryNoted (u : State) (n : Nat) : State := if n = 0 then countFault u 8 1 0 0 0 else countFault u 8 0 0 0 1

theorem retryNoted_clk (u : State) (n : Nat) : (retryNoted u n).clk = u.clk := by
  unfold retryNoted
  split <;> simp

theorem retryNoted_xp (u : State) (n : Nat) : (retryNoted u n).xp = u.xp := by
  unfold retryNoted
  split <;> simp

theorem exec_forceInhibitWrite {s : State} (t : Nat) (v : Bool) (hreach : hostReach s 0 = true) :
    exec (.forceInhibitWrite t v) s = .next (setForce s t v) :=
  congrArg Host.Outcome.next (whenReached_of_hostReach _ hreach)

theorem exec_wiCauseWrite {s : State} (t : Nat) (v : Word) (hreach : hostReach s 0 = true) :
    exec (.wiCauseWrite t v) s = .next (writeCause s t v) :=
  congrArg Host.Outcome.next (whenReached_of_hostReach _ hreach)

section pins
variable {s : State} {t w : Nat} {x : Xport} (hx : xpOf s t = some x)

/-! ### Tt_SHK_N and Tt_WFLT_N (R565, R573) -/

include hx

theorem exec_shockInput_of_long (hw : 40 ≤ w) : exec (.shockInput t w) s =
    .next (setCause (updXp s t fun x => { x with shkLow := true }) t causeShock true) := by
  change execShockInput t w s = _
  simp only [execShockInput, hx, recognised_of_long s hw, if_true]

theorem exec_shockInput_of_short (hw : w < 20) : exec (.shockInput t w) s = .next s := by
  change execShockInput t w s = _
  simp only [execShockInput, hx, recognised_of_short s hw, Bool.false_eq_true, if_false]

theorem exec_shockCleared : exec (.shockCleared t) s =
    .next (setCause (updXp s t fun x => { x with shkLow := false }) t causeShock false) := by
  change execShockCleared t s = _
  simp only [execShockCleared, hx]

theorem exec_writeFaultInput_of_long (hw : 40 ≤ w) : exec (.writeFaultInput t w) s =
    .next (setCause (updXp s t (latchFault s w)) t causeWflt true) := by
  change execWriteFaultInput t w s = _
  simp only [execWriteFaultInput, hx, recognised_of_long s hw, if_true]
  rfl

theorem exec_writeFaultInput_of_short (hw : w < 20) : exec (.writeFaultInput t w) s = .next s := by
  change execWriteFaultInput t w s = _
  simp only [execWriteFaultInput, hx, recognised_of_short s hw, Bool.false_eq_true, if_false]

/-! ### WI_CTRL and WI_CAUSE (R574, Tables 11-5 and 11-7) -/

theorem xpOf_clearWflt : ∃ m, xpOf (clearWflt s t) t = some { x with mount := m, wfltTry := none, wi := wfltCleared x.wi } :=
  xpOf_setCause causeWflt false (xpOf_updXp_of_xport hx _)

theorem writeCause_of_xport (v : Word) : writeCause s t v =
    if v.getLsbD 4 && wfltHigh s x then clearWflt (updXp s t (clearCauses v)) t else updXp s t (clearCauses v) := by
  have hbit : (v.setWidth 6).getLsbD 4 = v.getLsbD 4 := by simp
  simp only [writeCause, hx, hbit]
  rfl

/-! ### WFLT_CLEAR_RETRY (R573, Table 16-4) -/

section retry
variable {dt n due : Nat} (htry : x.wfltTry = some (n, due))
include htry

theorem exec_wfltClearRetry_early (hdue : now (advance s dt) < due) : exec (.wfltClearRetry dt t) s = .next (advance s dt) := by
  change execWfltClearRetry dt t s = _
  simp only [execWfltClearRetry, xpOf_advance, hx, htry, hdue, if_true]

theorem exec_wfltClearRetry_due (hdue : due ≤ now (advance s dt)) : exec (.wfltClearRetry dt t) s = .next (
    let v := retryNoted (advance s dt) n
    if wfltHigh (advance s dt) x then countFault (clearWflt v t) 8 0 1 0 0
    else if n < 2 then updXp v t fun x => { x with wfltTry := some (n + 1, now (advance s dt) + 2500000) }
    else faultXport (updXp v t fun x => { x with wfltTry := none }) t 8 3 (2 ^ 64 - 1)) := by
  have hnow : now (retryNoted (advance s dt) n) = now (advance s dt) := by rw [now, retryNoted_clk, now]
  have hhigh : wfltHigh (retryNoted (advance s dt) n) x = wfltHigh (advance s dt) x := by rw [wfltHigh, hnow, wfltHigh]
  rw [← hhigh, ← hnow]
  change execWfltClearRetry dt t s = _
  simp only [execWfltClearRetry, xpOf_advance, hx, htry, if_neg (Nat.not_lt.2 hdue)]
  rw [apply_ite Host.Outcome.next, apply_ite Host.Outcome.next]
  rfl

end retry

end pins

/-- Settles O53: each clause is the outcome of its row that the pin, the word written or the time selects. -/
theorem inhibitPins : Obligations.InhibitPins := by
  unfold Obligations.InhibitPins
  intro s t w x hx
  refine ⟨fun hw => ⟨exec_shockInput_of_long hx hw, ?shock⟩,
    fun hw => ⟨exec_shockInput_of_short hx hw, exec_writeFaultInput_of_short hx hw⟩,
    ⟨exec_shockCleared hx, ?cleared⟩, fun hw => ⟨exec_writeFaultInput_of_long hx hw, ?fault⟩,
    fun v hreach => ⟨exec_forceInhibitWrite t v hreach, ?force⟩, fun v hreach => ?cause,
    fun hoff => ⟨fun v => congrArg Host.Outcome.next (whenReached_of_barOff _ hoff),
      fun v => congrArg Host.Outcome.next (whenReached_of_barOff _ hoff)⟩,
    fun dt n due htry => ⟨exec_wfltClearRetry_early hx htry, fun hdue => ?retry⟩⟩
  case shock =>
    obtain ⟨m, hz⟩ := xpOf_setCause causeShock true (xpOf_updXp_of_xport hx fun x => { x with shkLow := true })
    exact ⟨_, _, exec_shockInput_of_long hx hw, hz, rfl, rfl⟩
  case cleared =>
    obtain ⟨m, hz⟩ := xpOf_setCause causeShock false (xpOf_updXp_of_xport hx fun x => { x with shkLow := false })
    exact ⟨_, _, exec_shockCleared hx, hz, rfl, rfl⟩
  case fault =>
    obtain ⟨m, hz⟩ := xpOf_setCause causeWflt true (xpOf_updXp_of_xport hx (latchFault s w))
    exact ⟨_, _, exec_writeFaultInput_of_long hx hw, hz, rfl, rfl, wfltTry_latchFault s w x⟩
  case force =>
    obtain ⟨m, hz⟩ := xpOf_setCause causeForce v (xpOf_updXp_of_xport hx fun x => { x with wi := { x.wi with force := v } })
    exact ⟨_, _, exec_forceInhibitWrite t v hreach, hz, rfl, rfl⟩
  case cause =>
    have hexec := exec_wiCauseWrite t v hreach
    have hcleared := xpOf_updXp_of_xport hx (clearCauses v)
    rw [writeCause_of_xport hx] at hexec
    by_cases hclear : (v.getLsbD 4 && wfltHigh s x) = true
    · obtain ⟨m, hz⟩ := xpOf_clearWflt hcleared
      refine ⟨_, _, hexec.trans (congrArg Host.Outcome.next (if_pos hclear)), hz, fun k hk h4 => ⟨?_, ?_⟩,
        fun _ _ => ⟨rfl, cause_wfltCleared _ (by decide), cond_wfltCleared _ (by decide), rfl⟩, fun hnot => ?_⟩
      · rw [cause_wfltCleared _ hk, if_neg (Ne.symm h4), cause_clearCauses v x hk, decide_eq_true h4, Bool.and_true]
      · exact (cond_wfltCleared _ hk).trans (if_neg (Ne.symm h4))
      · obtain ⟨h4, hhigh⟩ := Bool.and_eq_true_iff.1 hclear
        exact hnot.elim (fun h => absurd (h4.symm.trans h) (by decide)) fun h => absurd (hhigh.symm.trans h) (by decide)
    · refine ⟨_, _, hexec.trans (congrArg Host.Outcome.next (if_neg hclear)), hcleared, fun k hk h4 => ⟨?_, rfl⟩,
        fun h4 hhigh => absurd (by rw [h4, hhigh]; rfl) hclear, fun _ => ⟨rfl, ?_, rfl⟩⟩
      · rw [cause_clearCauses v x hk, decide_eq_true h4, Bool.and_true]
      · exact (cause_clearCauses v x (by decide)).trans (by simp)
  case retry =>
    have hdone := exec_wfltClearRetry_due hx htry hdue
    refine ⟨fun hhigh => ?_, fun hlow hn => ?_, fun hlow hn => ?_⟩
    · have hclear := hdone.trans (congrArg Host.Outcome.next (if_pos hhigh))
      have hu : xpOf (retryNoted (advance s dt) n) t = some x := by rw [xpOf, retryNoted_xp, ← xpOf, xpOf_advance, hx]
      obtain ⟨m, hz⟩ := xpOf_clearWflt hu
      exact ⟨hclear, _, _, hclear, hz, rfl, rfl, rfl⟩
    · rw [hdone, if_neg (by simp [hlow]), if_pos hn]
      rfl
    · rw [hdone, if_neg (by simp [hlow]), if_neg (by omega)]
      rfl

end Sys2Proof.Machine
end

section
/-! The velocity loop's turn at its port (O49). -/

namespace Sys2Proof.Machine

/-! ### The port's turn (R588) -/

/-- The table of what waits on the ports, once the port has had its turn. -/
def afterTurn (q : Tbl (List Out)) (port : Nat) : Tbl (List Out) :=
  match (Tbl.get? q port).getD [] with
  | [] => q
  | _ :: r => if r.isEmpty then Tbl.del q port else Tbl.put q port r

theorem pspTurn_pspQ (s : State) (port : Nat) : (pspTurn s port).smp.pspQ = afterTurn s.smp.pspQ port := by
  unfold pspTurn afterTurn pspWaiting
  cases (Tbl.get? s.smp.pspQ port).getD [] with
  | nil => rfl
  | cons m r => rfl

/-- In a canonical table nothing but the oldest piece leaves the port. -/
theorem get?_afterTurn {q : Tbl (List Out)} {port : Nat} {m : Out} {r : List Out} (hwf : Tbl.wf q = true)
    (h : (Tbl.get? q port).getD [] = m :: r) : (Tbl.get? (afterTurn q port) port).getD [] = r := by
  rw [afterTurn, h]
  cases r with
  | nil => exact congrArg (Option.getD · []) (Tbl.get?_del_self _ _ hwf)
  | cons o l => exact congrArg (Option.getD · []) (Tbl.get?_put_self _ _ _)

/-! ### VELOCITY_LOOP_TICK (R575, R587, R588) -/

/-- The loop's new torque, and both channels unlocked below a commanded 0.5 m/s. -/
def loopRun (s : State) (x : Xport) (y : Xport) : Xport := { y with
  torque := Config.freeInt s.clk.free, loopTick := (y.loopTick + 1) % 10,
  servo := if commanded x < 500 then Tbl.mapVal y.servo fun _ c => { c with locked := false, good := 0 } else y.servo }

section tick
variable {s : State} {t : Nat} {x : Xport} (hx : xpOf s t = some x) (hlive : pathLive s x = true) (hnine : x.loopTick ≠ 9)
include hx hlive hnine

/-- A tick without status reads: both motor drivers get their torque, then the port has a turn. -/
theorem exec_velocityLoopTick : exec (.velocityLoopTick t) s = .next (
    let u := judgeServo (updXp (drawFree s).2 t (loopRun s x)) t
    let q := Config.freeInt s.clk.free
    pspTurn (sendPsp (sendPsp u t 1 4 (twos 32 (q + x.diffTorque))) t 2 4 (twos 32 (q - x.diffTorque))) (t / 2)) := by
  change execVelocityLoopTick t s = _
  simp only [execVelocityLoopTick, hx, hlive, hnine, Bool.not_true, Bool.false_eq_true, if_false, decide_eq_true_eq]
  rfl

/-- What the tick leaves waiting on the port is what the port's turn leaves. -/
theorem pspQ_velocityLoopTick {u : State} (hu : exec (.velocityLoopTick t) s = .next u) :
    u.smp.pspQ = afterTurn s.smp.pspQ (t / 2) := by
  have hframe : Only (raising ++ [.free, .transports]) s (judgeServo (updXp (drawFree s).2 t (loopRun s x)) t) :=
    judgeServo_only (updXp_only (drawFree_only .refl (by decide)) (by decide)) (by decide)
  obtain ⟨-, hq, -⟩ := hframe .peripherals (by decide)
  rw [exec_velocityLoopTick hx hlive hnine] at hu
  rw [← Host.Outcome.next.inj hu, pspTurn_pspQ, ← hq]
  rfl

/-- With a canonical table of the ports, the pieces behind the oldest one wait on. -/
theorem pspWaiting_velocityLoopTick {u : State} {m : Out} {r : List Out} (hwf : Tbl.wf s.smp.pspQ = true)
    (hm : pspWaiting s (t / 2) = m :: r) (hu : exec (.velocityLoopTick t) s = .next u) : pspWaiting u (t / 2) = r := by
  rw [pspWaiting, pspQ_velocityLoopTick hx hlive hnine hu]
  exact get?_afterTurn hwf hm

end tick

/-- Transport 0 with a cartridge in. -/
def tapeIn : Xport := Xport.reset (some ⟨[], false, 1, none, none, []⟩)

/-- A message that waits on port 0. -/
def waitingRead : Out := .psp 0 5 [1, 2]

/-- The tape path of transport 0 is live, and the ports' table names port 0 twice. -/
def twinPorts : State := { State.reset with
  host.sysRst := true, pmu.ps := .run, clk.frozen := false, xp := [(0, tapeIn)], smp.pspQ := [(0, [waitingRead]), (0, [waitingRead])] }

/-- Refutes O49: its clause for VELOCITY_LOOP_TICK says that the oldest piece alone leaves the port, of every state. In `twinPorts` the
ports' table is not canonical: port 0 stands in it twice, each time with one piece. The turn removes the first entry with its only piece
(`pspQ_velocityLoopTick`), and the second entry's piece then waits, where the clause leaves nothing. In a canonical table what it says of
a tick without status reads holds (`pspWaiting_velocityLoopTick`). -/
theorem not_servoControl : ¬ Obligations.ServoControl := by
  unfold Obligations.ServoControl
  intro hall
  have hlive : pathLive twinPorts tapeIn = true := rfl
  obtain ⟨-, hrows⟩ := hall
  obtain ⟨-, -, htick, -⟩ := hrows twinPorts 0 0 tapeIn rfl
  obtain ⟨u, z, b, hu, -, -, -, -, ⟨-, hnext⟩, -⟩ := htick hlive
  obtain ⟨-, hclaim⟩ := hnext waitingRead [] rfl
  have hleft : pspWaiting u 0 = [waitingRead] := by
    rw [pspWaiting, pspQ_velocityLoopTick (x := tapeIn) rfl hlive (by decide) hu]
    rfl
  exact absurd (hleft.symm.trans hclaim) (by simp)

end Sys2Proof.Machine
end

section
/-! Bursts and iterations of the copy engine, and what a copy inside the buffer writes (O55). -/

namespace Sys2Proof.Machine

/-! ### What leaves the channels as they were -/

/-- The channels of two states that agree on them. -/
theorem aceOf_of_only {l : List Part} {s t : State} (h : Only l s t) (hl : .copyEngine ∉ l) (c : Nat) : aceOf t c = aceOf s c := by
  obtain ⟨hch, -⟩ := h .copyEngine hl
  simp only [aceOf, hch]

theorem buf_endIter (s : State) (c : Nat) : (endIter s c).ace.buf = s.ace.buf :=
  endIter_only (L := [.outputs, .events, .copyEngine]) .refl (by decide) .buffer (by decide)

/-! ### One burst (R605 to R607) -/

/-- Where the current iteration starts to read and to write (R606). -/
def Ace.srcBase (a : Ace) : Nat := iterBase a.src a.srcStep a.ringLog2 a.iterDone a.len
def Ace.dstBase (a : Ace) : Nat := iterBase a.dst a.dstStep a.ringLog2 a.iterDone a.len

/-- The length of the next burst (R607). -/
def Ace.burstLen (a : Ace) : Nat := min 512 (a.len - a.served)

/-- The channel after its next burst is copied. -/
def Ace.moved (a : Ace) : Ace := { a with served := a.served + a.burstLen, doneBytes := a.served + a.burstLen }

@[simp] theorem Ace.served_moved (a : Ace) : a.moved.served = a.served + a.burstLen := rfl
@[simp] theorem Ace.len_moved (a : Ace) : a.moved.len = a.len := rfl
@[simp] theorem Ace.srcBase_moved (a : Ace) : a.moved.srcBase = a.srcBase := rfl
@[simp] theorem Ace.dstBase_moved (a : Ace) : a.moved.dstBase = a.dstBase := rfl

/-- A burst from BUFFER or DEVICE space is copied at once. -/
theorem serveBurst_of_copied {s : State} {c : Nat} (h : (aceOf s c).srcSpace ≠ 0) : serveBurst s c =
    (let u : State := { s with ace.last := c }
     setAce (burstSink u (aceOf s c) (aceOf s c).served (burstSource u c (aceOf s c) (aceOf s c).burstLen)) c (aceOf s c).moved) :=
  if_neg h

/-- A burst from HOST is asked for. -/
theorem serveBurst_of_host {s : State} {c : Nat} (h : (aceOf s c).srcSpace = 0) : serveBurst s c =
    setAce { s with
      ace.last := c, out := .rd 0 none (srcAt (aceOf s c) (aceOf s c).served) (aceOf s c).burstLen :: s.out } c
      { aceOf s c with served := (aceOf s c).served + (aceOf s c).burstLen } :=
  if_pos h

/-- A burst moves only its own channel's counts of bytes. -/
theorem aceOf_serveBurst (s : State) (c d : Nat) :
    ∃ i j, aceOf (serveBurst s c) d = { aceOf s d with served := i, doneBytes := j } := by
  by_cases hd : d = c
  · subst hd
    by_cases hsrc : (aceOf s d).srcSpace = 0
    · rw [serveBurst_of_host hsrc, aceOf_setAce_self]
      exact ⟨_, _, rfl⟩
    · rw [serveBurst_of_copied hsrc, aceOf_setAce_self]
      exact ⟨_, _, rfl⟩
  · refine ⟨(aceOf s d).served, (aceOf s d).doneBytes, ?_⟩
    by_cases hsrc : (aceOf s c).srcSpace = 0
    · rw [serveBurst_of_host hsrc, aceOf_setAce_of_ne _ _ hd]
      rfl
    · rw [serveBurst_of_copied hsrc, aceOf_setAce_of_ne _ _ hd]
      exact aceOf_of_only (burstSink_only (L := [.outputs, .buffer]) .refl (by decide)) (by decide) d

/-- So do any number of bursts. -/
theorem aceOf_serveTo (s : State) (c goal n d : Nat) :
    ∃ i j, aceOf (serveTo s c goal n) d = { aceOf s d with served := i, doneBytes := j } := by
  induction n generalizing s with
  | zero => exact ⟨_, _, rfl⟩
  | succ n ih =>
    rw [serveTo]
    split
    case isTrue => exact ⟨_, _, rfl⟩
    case isFalse =>
      split
      next e _ =>
        obtain ⟨i, j, hrest⟩ := ih (serveBurst s e)
        obtain ⟨_, _, hone⟩ := aceOf_serveBurst s e d
        exact ⟨i, j, by rw [hrest, hone]⟩
      next => exact ⟨_, _, rfl⟩

/-- The bursts left are at least a channel's own. -/
theorem le_burstsLeft (s : State) {c : Nat} (hc : c < 32) : ((aceOf s c).len - (aceOf s c).served + 511) / 512 ≤ burstsLeft s := by
  rw [burstsLeft, sumOf_eq_sum]
  exact List.single_le_sum (fun _ _ => Nat.zero_le _) _ (List.mem_map_of_mem (List.mem_range.2 hc))

/-! ### A copy inside the buffer while no other channel runs (R605 to R607) -/

/-- Channel `c` copies from buffer to buffer, with neither address FIXED, and no other channel's bursts go. -/
structure CopiesAlone (s : State) (c : Nat) : Prop where
  lt : c < 32
  running : (aceOf s c).st = .running
  parked : (aceOf s c).parked = false
  retryAt : (aceOf s c).retryAt = none
  srcSpace : (aceOf s c).srcSpace = 1
  dstSpace : (aceOf s c).dstSpace = 1
  srcFixed : (aceOf s c).srcFixed = false
  dstFixed : (aceOf s c).dstFixed = false
  alone : ∀ d, d ≠ c → (aceOf s d).st ≠ .running
  wf : Memory.wf s.ace.buf = true

namespace CopiesAlone
variable {s : State} {c : Nat} (h : CopiesAlone s c)
include h

theorem usesHost_eq_false : usesHost (aceOf s c) = false := by simp [usesHost, h.srcSpace, h.dstSpace]

theorem burstsGo_eq_true : burstsGo s (aceOf s c) = true := by
  simp [burstsGo, h.running, h.parked, h.retryAt, h.usesHost_eq_false]

theorem burstReady_iff (d : Nat) : burstReady s d = true ↔ d = c ∧ (aceOf s c).served < (aceOf s c).len := by
  by_cases hd : d = c
  · subst hd
    simp [burstReady, h.running, h.parked, h.retryAt, h.usesHost_eq_false, h.srcSpace]
  · simp [burstReady, h.alone d hd, hd]

/-- The turn is the channel's as long as it has bytes left. -/
theorem nextBurst_eq (hleft : (aceOf s c).served < (aceOf s c).len) : nextBurst s = some c := by
  have hready : (List.range 32).filter (burstReady s) = [c] := by
    have hfilter : (List.range 32).filter (burstReady s) = (List.range 32).filter (· == c) :=
      List.filter_congr fun d _ => Bool.eq_iff_iff.2 (by simp [h.burstReady_iff, hleft])
    have hcount : (List.range 32).count c = 1 := List.count_eq_one_of_mem List.nodup_range (List.mem_range.2 h.lt)
    rw [hfilter, List.filter_beq, hcount, List.replicate_one]
  have hprio : (if ([c].filter fun d => (aceOf s d).prio).isEmpty then [c] else [c].filter fun d => (aceOf s d).prio) = [c] := by
    by_cases hp : (aceOf s c).prio = true <;> simp [hp]
  simp only [nextBurst, hready, hprio]
  by_cases hlast : s.ace.last < c <;> simp [hlast]

/-- With fuel left, the channel's next burst is served first. -/
theorem serveTo_succ (n : Nat) : serveTo s c (aceOf s c).len (n + 1) =
    if (aceOf s c).len ≤ (aceOf s c).served then s else serveTo (serveBurst s c) c (aceOf s c).len n := by
  rw [serveTo]
  split
  case isTrue => rfl
  case isFalse hleft => rw [h.nextBurst_eq (not_le.1 hleft)]

theorem aceOf_serveBurst_self : aceOf (serveBurst s c) c = (aceOf s c).moved := by
  rw [serveBurst_of_copied (by simp [h.srcSpace])]
  exact aceOf_setAce_self _ _ _

/-- A burst copies the next bytes. -/
theorem buf_serveBurst : (serveBurst s c).ace.buf = Memory.writeAll s.ace.buf ((aceOf s c).dstBase + (aceOf s c).served)
    (Memory.readAll s.ace.buf ((aceOf s c).srcBase + (aceOf s c).served) (aceOf s c).burstLen) := by
  rw [serveBurst_of_copied (by simp [h.srcSpace])]
  simp [setAce, burstSink, burstSource, bufBytes, putBuf, srcAt, dstAt, h.srcSpace, h.dstSpace, h.srcFixed, h.dstFixed,
    Ace.srcBase, Ace.dstBase]

theorem copiesAlone_serveBurst : CopiesAlone (serveBurst s c) c where
  lt := h.lt
  running := by rw [h.aceOf_serveBurst_self]; exact h.running
  parked := by rw [h.aceOf_serveBurst_self]; exact h.parked
  retryAt := by rw [h.aceOf_serveBurst_self]; exact h.retryAt
  srcSpace := by rw [h.aceOf_serveBurst_self]; exact h.srcSpace
  dstSpace := by rw [h.aceOf_serveBurst_self]; exact h.dstSpace
  srcFixed := by rw [h.aceOf_serveBurst_self]; exact h.srcFixed
  dstFixed := by rw [h.aceOf_serveBurst_self]; exact h.dstFixed
  alone d hd := by
    obtain ⟨_, _, hch⟩ := aceOf_serveBurst s c d
    rw [hch]
    exact h.alone d hd
  wf := by rw [h.buf_serveBurst]; exact Memory.wf_writeAll _ _ _ h.wf

/-- A burst leaves what is outside its destination. -/
theorem read_serveBurst_outside {p : Nat} (hp : p < (aceOf s c).dstBase + (aceOf s c).served ∨
    (aceOf s c).dstBase + (aceOf s c).served + (aceOf s c).burstLen ≤ p) :
    Memory.read (serveBurst s c).ace.buf p = Memory.read s.ace.buf p := by
  rw [h.buf_serveBurst]
  exact Memory.read_writeAll_outside _ _ _ _ (by rwa [Memory.length_readAll])

/-- A burst copies its own bytes. -/
theorem read_serveBurst_inside {i : Nat} (hlo : (aceOf s c).served ≤ i) (hhi : i < (aceOf s c).served + (aceOf s c).burstLen) :
    Memory.read (serveBurst s c).ace.buf ((aceOf s c).dstBase + i) = Memory.read s.ace.buf ((aceOf s c).srcBase + i) := by
  obtain ⟨k, rfl⟩ := Nat.exists_eq_add_of_le hlo
  have hk : k < (Memory.readAll s.ace.buf ((aceOf s c).srcBase + (aceOf s c).served) (aceOf s c).burstLen).length := by
    rw [Memory.length_readAll]; omega
  rw [h.buf_serveBurst, ← Nat.add_assoc, Memory.read_writeAll_inside _ _ _ _ h.wf hk, Memory.getElem_readAll, Nat.add_assoc]

/-- Bursts leave what is outside the rest of the iteration's destination. -/
theorem read_serveTo_outside {p : Nat} (n : Nat)
    (hp : p < (aceOf s c).dstBase + (aceOf s c).served ∨ (aceOf s c).dstBase + (aceOf s c).len ≤ p) :
    Memory.read (serveTo s c (aceOf s c).len n).ace.buf p = Memory.read s.ace.buf p := by
  induction n generalizing s with
  | zero => rfl
  | succ n ih =>
    rw [h.serveTo_succ]
    split
    case isTrue => rfl
    case isFalse hleft =>
      have hlen : (aceOf s c).burstLen ≤ (aceOf s c).len - (aceOf s c).served := Nat.min_le_right _ _
      have hrest := ih h.copiesAlone_serveBurst
      simp only [h.aceOf_serveBurst_self, Ace.served_moved, Ace.len_moved, Ace.dstBase_moved] at hrest
      rw [hrest (by omega), h.read_serveBurst_outside (by omega)]

/-- With enough bursts the rest of the iteration is copied, if it is one burst, or if its source is not what it overwrites. -/
theorem read_serveTo_inside {n i : Nat} (hsafe : (aceOf s c).len ≤ (aceOf s c).served + 512 ∨
      (aceOf s c).srcBase + (aceOf s c).len ≤ (aceOf s c).dstBase ∨ (aceOf s c).dstBase + (aceOf s c).len ≤ (aceOf s c).srcBase)
    (hn : ((aceOf s c).len - (aceOf s c).served + 511) / 512 ≤ n) (hlo : (aceOf s c).served ≤ i) (hhi : i < (aceOf s c).len) :
    Memory.read (serveTo s c (aceOf s c).len n).ace.buf ((aceOf s c).dstBase + i) = Memory.read s.ace.buf ((aceOf s c).srcBase + i) := by
  induction n generalizing s with
  | zero => omega
  | succ n ih =>
    have hlen : (aceOf s c).burstLen = min 512 ((aceOf s c).len - (aceOf s c).served) := rfl
    rw [h.serveTo_succ, if_neg (by omega)]
    by_cases hburst : i < (aceOf s c).served + (aceOf s c).burstLen
    case pos =>
      have hlater := h.copiesAlone_serveBurst.read_serveTo_outside (p := (aceOf s c).dstBase + i) n
      simp only [h.aceOf_serveBurst_self, Ace.served_moved, Ace.len_moved, Ace.dstBase_moved] at hlater
      rw [hlater (by omega), h.read_serveBurst_inside hlo hburst]
    case neg =>
      have hrest := ih h.copiesAlone_serveBurst
      simp only [h.aceOf_serveBurst_self, Ace.served_moved, Ace.len_moved, Ace.srcBase_moved, Ace.dstBase_moved] at hrest
      rw [hrest (by omega) (by omega) (by omega) hhi, h.read_serveBurst_outside (by omega)]

end CopiesAlone

/-! ### ACE_ITERATION_COMPLETE (R606 to R609) -/

/-- An iteration whose source is neither HOST nor DEVICE is served and ends. -/
theorem exec_aceIterationComplete_of_buffer {s : State} {c : Nat} (data : Bytes) (hgo : burstsGo s (aceOf s c) = true)
    (h0 : (aceOf s c).srcSpace ≠ 0) (h2 : (aceOf s c).srcSpace ≠ 2) :
    exec (.aceIterationComplete c data) s = .next (endIter (serveTo s c (aceOf s c).len (burstsLeft s)) c) := by
  change execAceIterationComplete c data s = _
  simp [execAceIterationComplete, hgo, h0, h2]

/-- Settles O55: the iteration is as many bursts as `burstsLeft` allows, each of which copies the next bytes. -/
theorem aceCopyFrame : Obligations.AceCopyFrame := by
  unfold Obligations.AceCopyFrame
  intro s c data hc a src dst hrun hpark hretry hsrc hdst hsf hdf hserved halone hwf
  have h : CopiesAlone s c := ⟨hc, hrun, hpark, hretry, hsrc, hdst, hsf, hdf, halone, hwf⟩
  have hserved' : (aceOf s c).served = 0 := hserved
  refine ⟨_, exec_aceIterationComplete_of_buffer data h.burstsGo_eq_true (by simp [h.srcSpace]) (by simp [h.srcSpace]),
    fun p hp => ?outside, fun hsafe i hi => ?inside⟩
  case outside =>
    rw [buf_endIter]
    exact h.read_serveTo_outside _ (by rwa [hserved'])
  case inside =>
    rw [buf_endIter]
    exact h.read_serveTo_inside (by rwa [hserved', Nat.zero_add]) (le_burstsLeft s hc) (by omega) hi

end Sys2Proof.Machine
end

section
/-! Control writes and triggers of ACE channels, iterations that end and bursts that fail (O54). -/

namespace Sys2Proof.Machine

/-! ### Control writes (R154, R604, R611, R617, R620, R627, R747) -/

theorem exec_aceArm (s : State) (c : Nat) : exec (.aceArm c) s = .next (whenReached s 0 (ctrlWrite s c 0x20 armChannel)) := rfl
theorem exec_aceDisarm (s : State) (c : Nat) :
    exec (.aceDisarm c) s = .next (whenReached s 0 (ctrlWrite s c 0x20 disarmChannel)) := rfl
theorem exec_aceGo (s : State) (c : Nat) : exec (.aceGo c) s = .next (whenReached s 0 (ctrlWrite s c 0x20 goChannel)) := rfl

theorem sysRst_of_hostReach {s : State} {fn : Nat} (h : hostReach s fn = true) : s.host.sysRst = true := by
  simp only [hostReach, linkOn, Bool.and_eq_true] at h
  tauto

/-- Equal channels, own bits, counts and contents are the same engine. -/
theorem ace_of_only {l : List Part} {s t : State} (h : Only l s t) (hch : .copyEngine ∉ l) (htele : .telemetry ∉ l)
    (hbuf : .buffer ∉ l) : t.ace = s.ace := by
  obtain ⟨hc, ho, hv, hs, hl⟩ := h .copyEngine hch
  calc t.ace = ⟨t.ace.ch, t.ace.own, t.ace.ownViol, t.ace.stopped, t.ace.last, t.ace.tele, t.ace.buf⟩ := rfl
    _ = s.ace := by rw [hc, ho, hv, hs, hl, h .telemetry htele, h .buffer hbuf]

theorem ace_refusePosted (s : State) (k origin : Nat) : (refusePosted s k origin).ace = s.ace :=
  ace_of_only (refusePosted_only (L := [.free, .outputs, .events, .gates]) .refl (by decide)) (by decide) (by decide) (by decide)

section control
variable {s : State} {c : Nat} (hc : c < 32) (hreach : hostReach s 0 = true) (origin : Nat) (f : State → Nat → State)
include hc hreach

/-- Gate 13 refuses first (R747). -/
theorem ctrlWrite_of_gate (hg : (gateOf s 13).st ≠ 0) : ctrlWrite s c origin f = refusePosted s 13 origin := by
  simp [ctrlWrite, Nat.not_le.2 hc, sysRst_of_hostReach hreach, hg]

/-- A held channel takes no control write (R627). -/
theorem ctrlWrite_of_held (hg : (gateOf s 13).st = 0) (hh : aceHeld s c = true) :
    ctrlWrite s c origin f = { s with ace.ownViol := min (s.ace.ownViol + 1) (2 ^ 32 - 1) } := by
  simp [ctrlWrite, Nat.not_le.2 hc, sysRst_of_hostReach hreach, hg, hh, satAdd, satMax]

theorem ctrlWrite_of_free (hg : (gateOf s 13).st = 0) (hh : aceHeld s c = false) : ctrlWrite s c origin f = f s c := by
  simp [ctrlWrite, Nat.not_le.2 hc, sysRst_of_hostReach hreach, hg, hh]

end control

section arm
variable {s : State} {c : Nat}

theorem armChannel_of_live (h : (aceOf s c).st = .armed ∨ (aceOf s c).st = .running) : armChannel s c = s := by
  obtain h | h := h <;> simp [armChannel, h]

variable (ha : (aceOf s c).st ≠ .armed) (hr : (aceOf s c).st ≠ .running)
include ha hr

/-- A channel that is neither ARMED nor RUNNING is IDLE, DONE or HALTED. -/
theorem armable : ((aceOf s c).st == .idle || (aceOf s c).st == .done || (aceOf s c).st == .halted) = true := by
  cases hst : (aceOf s c).st <;> simp_all

theorem armChannel_of_config (hcfg : aceConfigOk s c (aceOf s c) = false) : armChannel s c =
    raise (setAce s c { aceOf s c with st := .idle, err := 3, domain := false }) (evAce c) subjAce c 0 := by
  simp [armChannel, armable ha hr, hcfg]

theorem armChannel_of_cycle (hcfg : aceConfigOk s c (aceOf s c) = true) (he : eddyOk s c = false) : armChannel s c =
    raise (setAce s c { aceOf s c with st := .idle, err := 1, domain := false }) (evAce c) subjAce c 0 := by
  simp [armChannel, armable ha hr, hcfg, he]

theorem armChannel_of_ok (hcfg : aceConfigOk s c (aceOf s c) = true) (he : eddyOk s c = true) : armChannel s c =
    setAce s c { aceOf s c with
      st := if usesHost (aceOf s c) && hostDown s then .halted else .armed, err := if usesHost (aceOf s c) && hostDown s then 4 else 0,
      domain := false, pending := false, doneBytes := 0, served := 0, retryNo := 0, retryAt := none,
      iterDone := if (aceOf s c).st = .halted then (aceOf s c).iterDone else 0,
      dstPos := if (aceOf s c).st = .halted then (aceOf s c).dstPos else 0 } := by
  simp [armChannel, armable ha hr, hcfg, he]

end arm

section disarmGo
variable {s : State} {c : Nat}

theorem disarmChannel_of_running (hr : (aceOf s c).st = .running) (hp : (aceOf s c).parked = false) :
    disarmChannel s c = setAce s c { aceOf s c with pending := false, disarm := true } := by
  simp [disarmChannel, hr, hp]

theorem disarmChannel_of_resting (h : (aceOf s c).st ≠ .running ∨ (aceOf s c).parked = true) :
    disarmChannel s c = setAce s c { aceOf s c with st := .idle, pending := false, parked := false } := by
  obtain h | h := h <;> simp [disarmChannel, h]

theorem goChannel_of_software (hm : (aceOf s c).mode = 0) (ha : (aceOf s c).st = .armed) (hs : aceStopped s = false) :
    goChannel s c = startIter s c := by
  simp [goChannel, hm, ha, hs]

theorem goChannel_of_software_waits (hm : (aceOf s c).mode = 0) (h : (aceOf s c).st ≠ .armed ∨ aceStopped s = true) :
    goChannel s c = s := by
  obtain h | h := h <;> simp [goChannel, hm, h]

theorem goChannel_of_triggered (hm : (aceOf s c).mode ≠ 0) :
    goChannel s c = if (aceOf s c).kickEn then trigger s c else s := by
  simp [goChannel, hm]

end disarmGo

/-! ### Triggers (R610 to R613, R623) -/

section triggers
variable {s : State} {c : Nat}

theorem aceLive_iff (a : Ace) : aceLive a = true ↔ a.st = .armed ∨ a.st = .running := by simp [aceLive]

theorem trigger_of_not_live (h : aceLive (aceOf s c) = false) : trigger s c = s := by simp [trigger, h]

theorem trigger_of_stopped (hs : s.ace.stopped = true) (h : aceLive (aceOf s c) = true) : trigger s c = overrun s c := by
  simp [trigger, h, aceStopped, hs]

theorem trigger_of_armed (hs : s.ace.stopped = false) (h : (aceOf s c).st = .armed) : trigger s c = startIter s c := by
  simp [trigger, aceLive, aceStopped, hs, h]

theorem trigger_of_running (hs : s.ace.stopped = false) (h : (aceOf s c).st = .running) :
    trigger s c = if (aceOf s c).pending then overrun s c else setAce s c { aceOf s c with pending := true } := by
  simp [trigger, aceLive, aceStopped, hs, h]

theorem aceOf_startIter (s : State) (c : Nat) : aceOf (startIter s c) c =
    { aceOf s c with st := .running, doneBytes := 0, served := 0, retryNo := 0, retryAt := none } := aceOf_setAce_self _ _ _

theorem aceOf_overrun (s : State) (c : Nat) :
    aceOf (overrun s c) c = { aceOf s c with overrun := min ((aceOf s c).overrun + 1) (2 ^ 16 - 1) } := aceOf_setAce_self _ _ _

/-- A trigger leaves everything, or stores its own channel with the count of iterations and DST_POS unchanged. -/
theorem trigger_cases (s : State) (c : Nat) : trigger s c = s ∨ aceLive (aceOf s c) = true ∧
    ∃ a, trigger s c = setAce s c a ∧ a.iterDone = (aceOf s c).iterDone ∧ a.dstPos = (aceOf s c).dstPos := by
  cases hlive : aceLive (aceOf s c)
  case false => exact .inl (trigger_of_not_live hlive)
  case true =>
    refine .inr ⟨rfl, ?_⟩
    cases hs : s.ace.stopped
    case true => exact ⟨_, trigger_of_stopped hs hlive, rfl, rfl⟩
    case false =>
      obtain hst | hst := (aceLive_iff _).1 hlive
      case inl => exact ⟨_, trigger_of_armed hs hst, rfl, rfl⟩
      case inr =>
        rw [trigger_of_running hs hst]
        cases (aceOf s c).pending
        case false => exact ⟨_, rfl, rfl, rfl⟩
        case true => exact ⟨_, rfl, rfl, rfl⟩

theorem aceOf_trigger_of_ne {d : Nat} (h : d ≠ c) : aceOf (trigger s c) d = aceOf s d := by
  obtain hsame | ⟨-, a, hset, -⟩ := trigger_cases s c
  · rw [hsame]
  · rw [hset, aceOf_setAce_of_ne _ _ h]

/-- A trigger does not touch a channel that is neither ARMED nor RUNNING. -/
theorem aceOf_trigger_of_not_live (h : aceLive (aceOf s c) = false) (d : Nat) : aceOf (trigger s d) c = aceOf s c := by
  by_cases hd : c = d
  · rw [← hd, trigger_of_not_live h]
  · exact aceOf_trigger_of_ne hd

theorem position_trigger (s : State) (c d : Nat) : (aceOf (trigger s d) c).iterDone = (aceOf s c).iterDone ∧
    (aceOf (trigger s d) c).dstPos = (aceOf s c).dstPos := by
  by_cases hd : c = d
  · subst hd
    obtain hsame | ⟨-, a, hset, hpos⟩ := trigger_cases s c
    · rw [hsame]; exact ⟨rfl, rfl⟩
    · rw [hset, aceOf_setAce_self]; exact hpos
  · rw [aceOf_trigger_of_ne hd]; exact ⟨rfl, rfl⟩

/-- What every trigger keeps, a source that fires keeps. -/
theorem fireSource_keeps_of_trigger {P : State → Prop} (hP : ∀ u d, P u → P (trigger u d)) (v : Nat) (h : P s) :
    P (fireSource s v) := by
  unfold fireSource
  generalize s.ace.ch = l
  induction l generalizing s with
  | nil => exact h
  | cons p r ih =>
    refine ih ?_
    dsimp only
    split
    case isTrue => exact h
    case isFalse =>
      have hfirst : P (if (aceOf s p.1).sel0 == v then trigger s p.1 else s) := by
        split
        case isTrue => exact hP _ _ h
        case isFalse => exact h
      split
      case isTrue => exact hP _ _ hfirst
      case isFalse => exact hfirst

theorem aceOf_fireSource_of_not_live (v : Nat) (h : aceLive (aceOf s c) = false) : aceOf (fireSource s v) c = aceOf s c :=
  fireSource_keeps_of_trigger (P := fun u => aceOf u c = aceOf s c)
    (fun u d hu => (aceOf_trigger_of_not_live (by rwa [hu]) d).trans hu) v rfl

theorem position_fireSource (s : State) (c v : Nat) : (aceOf (fireSource s v) c).iterDone = (aceOf s c).iterDone ∧
    (aceOf (fireSource s v) c).dstPos = (aceOf s c).dstPos :=
  fireSource_keeps_of_trigger (P := fun u => (aceOf u c).iterDone = (aceOf s c).iterDone ∧ (aceOf u c).dstPos = (aceOf s c).dstPos)
    (fun u d hu => ⟨(position_trigger u c d).1.trans hu.1, (position_trigger u c d).2.trans hu.2⟩) v ⟨rfl, rfl⟩

end triggers

/-! ### The count of an event (R789, R793) -/

theorem evr_sendMsix (s : State) (n v : Nat) : (sendMsix s n v).evr = s.evr := by
  unfold sendMsix
  split
  case isTrue => rfl
  case isFalse => split <;> rfl

theorem evr_notify (s : State) (e : Nat) (tgt : Nat × Nat) (holdUs : Nat) : (notify s e tgt holdUs).evr = s.evr := by
  unfold notify
  split
  case h_1 => rfl
  case h_2 =>
    dsimp only
    split
    case isTrue => exact evr_sendMsix _ _ _
    case isFalse => exact evr_sendMsix _ _ _

/-- An event raised outside Lull-2 and Lull-3 is counted at once. -/
theorem count_raise {s : State} (h : deepLull s = false) (e kind subj detail : Nat) :
    (Tbl.get? (raise s e kind subj detail).evr.counts e).getD 0 = min ((Tbl.get? s.evr.counts e).getD 0 + 1) (2 ^ 32 - 1) := by
  have hcounts : (raise s e kind subj detail).evr.counts =
      Tbl.put s.evr.counts e (satAdd 32 ((Tbl.get? s.evr.counts e).getD 0) 1) := by
    rw [raise, h, if_neg Bool.false_ne_true, raiseNow]
    dsimp only
    split
    case isTrue =>
      split
      case isTrue => exact congrArg Evr.counts (evr_notify _ _ _ _)
      case isFalse => exact congrArg Evr.counts (evr_notify _ _ _ _)
    case isFalse => rfl
  rw [hcounts, Tbl.get?_put_self]
  rfl

/-! ### The end of an iteration (R606, R609, R611, R612, R623) -/

/-- The iteration that ends is the run's last. -/
def Ace.atLast (a : Ace) : Bool := a.iter != 0 && decide (a.iter ≤ a.iterDone + 1)

/-- A SOFTWARE run goes on with its next iteration. -/
def Ace.goesOn (a : Ace) : Bool := !a.disarm && !a.atLast && a.mode == 0

/-- The channel at the end of an iteration, before its completion trigger. -/
def Ace.ended (a : Ace) (stopped : Bool) : Ace := { a with
  iterDone := a.iterDone + 1, dstPos := nextPos a (a.iterDone + 1), doneBytes := if a.goesOn then 0 else a.len,
  served := if a.goesOn then 0 else a.len, retryNo := 0, retryAt := none,
  st := if a.disarm then .idle else if a.atLast then .done else if a.goesOn then .running else .armed,
  parked := a.goesOn && stopped, pending := if a.disarm || a.atLast then false else a.pending,
  overrun := if a.atLast && a.pending && !a.disarm then satAdd 16 a.overrun 1 else a.overrun, disarm := false }

/-- The end of an iteration is stored, and its event raised (R609). -/
def storeEnd (s : State) (c : Nat) : State :=
  let a := aceOf s c
  let u := setAce s c (a.ended (aceStopped s))
  if a.atLast || a.evtEach || (a.evtWrap && (a.dstStep == 2 && nextPos a (a.iterDone + 1) == 0)) then raise u (evAce c) subjAce c 0 else u

/-- A pending trigger starts the next iteration (R612). -/
def startPending (s : State) (c : Nat) : State :=
  let b := aceOf s c
  if b.st == .armed && b.pending && !aceStopped s then startIter (setAce s c { b with pending := false }) c else s

theorem endIter_eq (s : State) (c : Nat) : endIter s c = startPending (fireSource (storeEnd s c) (0x40 + c)) c := rfl

section ends
variable {s : State} {c : Nat}

theorem aceOf_storeEnd (s : State) (c : Nat) : aceOf (storeEnd s c) c = (aceOf s c).ended (aceStopped s) := by
  rw [storeEnd]
  split
  case isTrue =>
    rw [aceOf_of_only (raise_only (L := raising) .refl (by decide)) (by decide), aceOf_setAce_self]
  case isFalse => exact aceOf_setAce_self _ _ _

theorem startPending_of_not_armed (h : (aceOf s c).st ≠ .armed) : startPending s c = s := by simp [startPending, h]

theorem position_startPending (s : State) (c : Nat) : (aceOf (startPending s c) c).iterDone = (aceOf s c).iterDone ∧
    (aceOf (startPending s c) c).dstPos = (aceOf s c).dstPos := by
  rw [startPending]
  split
  case isTrue => rw [aceOf_startIter, aceOf_setAce_self]; exact ⟨rfl, rfl⟩
  case isFalse => exact ⟨rfl, rfl⟩

/-- ITER_DONE goes on by one, and DST_POS moves. -/
theorem position_endIter (s : State) (c : Nat) : (aceOf (endIter s c) c).iterDone = (aceOf s c).iterDone + 1 ∧
    (aceOf (endIter s c) c).dstPos = nextPos (aceOf s c) ((aceOf s c).iterDone + 1) := by
  obtain ⟨hi, hd⟩ := position_startPending (fireSource (storeEnd s c) (0x40 + c)) c
  obtain ⟨hi', hd'⟩ := position_fireSource (storeEnd s c) c (0x40 + c)
  rw [endIter_eq, hi, hd, hi', hd', aceOf_storeEnd]
  exact ⟨rfl, rfl⟩

/-- A run that ends takes no trigger of its own completion. -/
theorem aceOf_endIter_of_not_live (h : aceLive ((aceOf s c).ended (aceStopped s)) = false) :
    aceOf (endIter s c) c = (aceOf s c).ended (aceStopped s) := by
  have hfire : aceOf (fireSource (storeEnd s c) (0x40 + c)) c = (aceOf s c).ended (aceStopped s) := by
    rw [aceOf_fireSource_of_not_live _ (by rwa [aceOf_storeEnd]), aceOf_storeEnd]
  have harmed : (aceOf (fireSource (storeEnd s c) (0x40 + c)) c).st ≠ .armed := fun hst => by
    rw [hfire] at hst
    simp [aceLive, hst] at h
  rw [endIter_eq, startPending_of_not_armed harmed, hfire]

theorem st_endIter_of_disarm (h : (aceOf s c).disarm = true) : (aceOf (endIter s c) c).st = .idle := by
  have hst : ((aceOf s c).ended (aceStopped s)).st = .idle := by simp [Ace.ended, h]
  rw [aceOf_endIter_of_not_live (by simp [aceLive, hst]), hst]

theorem st_endIter_of_atLast (hd : (aceOf s c).disarm = false) (h : (aceOf s c).atLast = true) :
    (aceOf (endIter s c) c).st = .done := by
  have hst : ((aceOf s c).ended (aceStopped s)).st = .done := by simp [Ace.ended, hd, h]
  rw [aceOf_endIter_of_not_live (by simp [aceLive, hst]), hst]

theorem evr_endIter (s : State) (c : Nat) : (endIter s c).evr = (storeEnd s c).evr := by
  have hfire : Only [.copyEngine] (storeEnd s c) (fireSource (storeEnd s c) (0x40 + c)) := fireSource_only .refl (by decide)
  have hstart : Only [.copyEngine] (storeEnd s c) (endIter s c) := by
    rw [endIter_eq, startPending]
    exact .ite (startIter_only (setAce_only hfire (by decide)) (by decide)) hfire
  obtain ⟨-, -, -, -, -, -, hevr, -⟩ := hstart .events (by decide)
  exact hevr

/-- The last iteration's event is counted. -/
theorem count_endIter_of_atLast (h : (aceOf s c).atLast = true) (hl : deepLull s = false) :
    (Tbl.get? (endIter s c).evr.counts (1376 + c)).getD 0 = min ((Tbl.get? s.evr.counts (1376 + c)).getD 0 + 1) (2 ^ 32 - 1) := by
  have hlull : deepLull (setAce s c ((aceOf s c).ended (aceStopped s))) = false := hl
  have hstore : storeEnd s c = raise (setAce s c ((aceOf s c).ended (aceStopped s))) (1376 + c) subjAce c 0 := by
    simp [storeEnd, h, evAce]
  rw [evr_endIter, hstore, count_raise hlull]
  rfl

end ends

/-! ### ACE_ITERATION_COMPLETE of other sources (R605, R607, R622, R629) -/

section complete
variable {s : State} {c : Nat} {data : Bytes}

theorem exec_aceIterationComplete_of_waiting (h : burstsGo s (aceOf s c) = false) :
    exec (.aceIterationComplete c data) s = .next s := by
  change execAceIterationComplete c data s = _
  simp [execAceIterationComplete, h]

theorem exec_aceIterationComplete_of_host (hgo : burstsGo s (aceOf s c) = true) (hsrc : (aceOf s c).srcSpace = 0)
    (hlen : data.length = (aceOf s c).len) : exec (.aceIterationComplete c data) s =
      .next (endIter (writeHost (serveTo s c (aceOf s c).len (burstsLeft s)) c (aceOf s c).len data) c) := by
  change execAceIterationComplete c data s = _
  simp [execAceIterationComplete, hgo, hsrc, hlen]

theorem exec_aceIterationComplete_of_window {b : Bytes} (hgo : burstsGo s (aceOf s c) = true) (hsrc : (aceOf s c).srcSpace = 2)
    (hw : windowOf s c = some b) : exec (.aceIterationComplete c data) s = .next (
      let u := serveTo s c (aceOf s c).len (burstsLeft s)
      endIter { u with ace.tele := Tbl.upd u.ace.tele (c - 24) fun x => { x with window := none } } c) := by
  change execAceIterationComplete c data s = _
  simp [execAceIterationComplete, hgo, hsrc, hw]

/-- Host bursts wait for Bus Master Enable (R622). -/
theorem burstsGo_of_host_waits (hu : usesHost (aceOf s c) = true) (hm : mayIssue s 0 = false) : burstsGo s (aceOf s c) = false := by
  simp [burstsGo, hu, hm]

/-- In the buffer nothing but the channel's own state holds a burst up. -/
theorem burstsGo_of_buffer (hr : (aceOf s c).st = .running) (hp : (aceOf s c).parked = false) (ht : (aceOf s c).retryAt = none)
    (hsrc : (aceOf s c).srcSpace = 1) (hdst : (aceOf s c).dstSpace = 1) : burstsGo s (aceOf s c) = true := by
  simp [burstsGo, usesHost, hr, hp, ht, hsrc, hdst]

theorem only_serveTo (s : State) (c goal n : Nat) : Only [.outputs, .copyEngine, .buffer] s (serveTo s c goal n) :=
  serveTo_only .refl (by decide)

theorem deepLull_of_only {l : List Part} {s t : State} (h : Only l s t) (hl : .power ∉ l) : deepLull t = deepLull s := by
  obtain ⟨-, hlull, -⟩ := h .power hl
  rw [deepLull, deepLull, hlull]

end complete

/-! ### ACE_BURST_FAIL (R150, R423, R618, R619) -/

/-- How the failure shows: in the PF's AER, or as a poisoned burst. -/
def failShown (s : State) (c : Nat) (domainClosed : Bool) (err : Option ReadErr) : State :=
  match err with
  | some k => if usesHost (aceOf s c) then logReadErr s 0 k else s
  | none => if domainClosed then s else noteBmu s

/-- A burst's first failure counts as a fault found. -/
def failNoted (s : State) (c : Nat) (domainClosed : Bool) (err : Option ReadErr) : State :=
  if (aceOf s c).retryNo = 0 then countFault (failShown s c domainClosed err) 12 1 0 0 0 else failShown s c domainClosed err

/-- The bytes before the failed burst are written. -/
def stoppedAt (s : State) (c done : Nat) (domainClosed : Bool) (err : Option ReadErr) (data : Bytes) : State :=
  let u := failNoted s c domainClosed err
  let u := serveTo u c done (burstsLeft u)
  let u := if (aceOf s c).srcSpace = 0 then writeHost u c done data else u
  setAce u c { aceOf u c with doneBytes := done, served := done }

/-- The failed burst waits for its next retry. -/
def retryLater (u : State) (c retries : Nat) (retryNo : Nat) : State :=
  countFault (setAce u c { aceOf u c with
    retryNo := retryNo + 1, retries := satAdd 16 retries 1, retryAt := some (now u + min (2 ^ retryNo) 1000 * usTicks) }) 12 0 0 0 1

/-- The channel halts with ACE_ERR_BUS, and the fault is logged. -/
def haltOnBus (u : State) (c : Nat) (domainClosed : Bool) (retryMax : Nat) : State :=
  logFault (countFault (haltAce u c 2 domainClosed) 12 0 0 1 0)
    { FltLog.blank with cls := 12, event := evAce c, tries := retryMax + 1, detail := c }

section fail
variable {s : State} {c n : Nat} (d : Bool) (err : Option ReadErr) {data : Bytes}

theorem exec_aceBurstFail (hgo : burstsGo s (aceOf s c) = true) (hlo : (aceOf s c).doneBytes ≤ n) (hhi : n < (aceOf s c).len)
    (hdata : (aceOf s c).srcSpace = 0 → data.length = n) : exec (.aceBurstFail c n d err data) s = .next (
      if (aceOf s c).retryNo < (aceOf s c).retryMax
      then retryLater (stoppedAt s c n d err data) c (aceOf s c).retries (aceOf s c).retryNo
      else haltOnBus (stoppedAt s c n d err data) c d (aceOf s c).retryMax) := by
  have hgoes : ¬(!burstsGo s (aceOf s c) ∨ (aceOf s c).len ≤ n ∨ n < (aceOf s c).doneBytes ∨
      ((aceOf s c).srcSpace = 0 ∧ data.length ≠ n)) := by
    simp only [hgo]
    simp
    omega
  refine (if_neg hgoes).trans ?_
  change (if (aceOf s c).retryNo < (aceOf s c).retryMax
    then Host.Outcome.next (retryLater (stoppedAt s c n d err data) c (aceOf s c).retries (aceOf s c).retryNo)
    else Host.Outcome.next (haltOnBus (stoppedAt s c n d err data) c d (aceOf s c).retryMax)) = _
  exact (apply_ite Host.Outcome.next _ _ _).symm

theorem only_failShown (s : State) (c : Nat) :
    Only [.free, .functions, .outputs, .events, .faults] s (failShown s c d err) := by
  cases err with
  | none => exact .ite .refl (noteBmu_only .refl (by decide))
  | some k => exact .ite (logReadErr_only .refl (by decide)) .refl

theorem only_failNoted (s : State) (c : Nat) :
    Only [.free, .functions, .outputs, .events, .faults] s (failNoted s c d err) :=
  .ite (countFault_only (only_failShown d err s c) (by decide)) (only_failShown d err s c)

theorem only_stoppedAt (s : State) (c n : Nat) :
    Only [.free, .functions, .outputs, .events, .faults, .copyEngine, .buffer] s (stoppedAt s c n d err data) := by
  have hserved := serveTo_only (c := c) (goal := n) (n := burstsLeft (failNoted s c d err))
    (L := [.free, .functions, .outputs, .events, .faults, .copyEngine, .buffer]) ((only_failNoted d err s c).mono (by decide)) (by decide)
  exact setAce_only (.ite (writeHost_only hserved (by decide)) hserved) (by decide)

/-- The failure is noted at the byte where the burst began; the channel's other registers are as before. -/
theorem aceOf_stoppedAt (s : State) (c n : Nat) :
    aceOf (stoppedAt s c n d err data) c = { aceOf s c with doneBytes := n, served := n } := by
  have hnoted : aceOf (failNoted s c d err) c = aceOf s c := aceOf_of_only (only_failNoted d err s c) (by decide) c
  obtain ⟨i, j, hserved⟩ := aceOf_serveTo (failNoted s c d err) c n (burstsLeft (failNoted s c d err)) c
  have hwritten (u : State) : aceOf (if (aceOf s c).srcSpace = 0 then writeHost u c n data else u) c = aceOf u c :=
    aceOf_of_only (.ite (writeHost_only (L := [.outputs, .buffer]) .refl (by decide)) .refl) (by decide) c
  rw [stoppedAt]
  dsimp only
  rw [aceOf_setAce_self, hwritten, hserved, hnoted]

theorem flt_raise (s : State) (e kind subj detail : Nat) : (raise s e kind subj detail).flt = s.flt :=
  raise_only (L := raising) .refl (by decide) .faults (by decide)

theorem flt_raiseTimes (s : State) (e n : Nat) : (raiseTimes s e n).flt = s.flt :=
  raiseTimes_only (L := raising) .refl (by decide) .faults (by decide)

theorem fltNext_noteBmu (s : State) : (noteBmu s).flt.next = s.flt.next := by
  rw [noteBmu, noteSeen]
  simp only [Bool.false_eq_true, if_false, flt_raiseTimes]

theorem fltNext_countFault (s : State) (k a b e f : Nat) : (countFault s k a b e f).flt.next = s.flt.next := rfl

theorem fltNext_logFault (s : State) (e : FltLog) : (logFault s e).flt.next = s.flt.next + 1 := by
  rw [logFault]
  simp only [flt_raise]

theorem fltNext_failShown (s : State) (c : Nat) : (failShown s c d err).flt.next = s.flt.next := by
  cases err with
  | none =>
    change (if d then s else noteBmu s).flt.next = _
    split
    case isTrue => rfl
    case isFalse => exact fltNext_noteBmu s
  | some k =>
    change (if usesHost (aceOf s c) then logReadErr s 0 k else s).flt.next = _
    split
    case isTrue => exact congrArg Faults.next (logReadErr_only (L := [.free, .functions]) .refl (by decide) .faults (by decide))
    case isFalse => rfl

theorem fltNext_failNoted (s : State) (c : Nat) : (failNoted s c d err).flt.next = s.flt.next := by
  rw [failNoted]
  split
  case isTrue => rw [fltNext_countFault, fltNext_failShown]
  case isFalse => exact fltNext_failShown d err s c

theorem fltNext_stoppedAt (s : State) (c n : Nat) : (stoppedAt s c n d err data).flt.next = s.flt.next := by
  have hserved := serveTo_only (s := failNoted s c d err) (c := c) (goal := n) (n := burstsLeft (failNoted s c d err))
    (L := [.outputs, .copyEngine, .buffer]) .refl (by decide)
  have hstopped : Only [.outputs, .copyEngine, .buffer] (failNoted s c d err) (stoppedAt s c n d err data) :=
    setAce_only (.ite (writeHost_only hserved (by decide)) hserved) (by decide)
  rw [hstopped .faults (by decide), fltNext_failNoted]

theorem aceOf_retryLater (u : State) (c retries retryNo : Nat) : aceOf (retryLater u c retries retryNo) c = { aceOf u c with
    retryNo := retryNo + 1, retries := min (retries + 1) (2 ^ 16 - 1), retryAt := some (now u + min (2 ^ retryNo) 1000 * 250) } :=
  aceOf_setAce_self _ _ _

theorem only_retryLater (u : State) (c retries retryNo : Nat) : Only [.copyEngine, .faults] u (retryLater u c retries retryNo) :=
  countFault_only (setAce_only .refl (by decide)) (by decide)

theorem aceOf_haltAce (s : State) (c e : Nat) (d : Bool) : aceOf (haltAce s c e d) c = { aceOf s c with
    st := .halted, pending := false, err := e, domain := d, retryAt := none, disarm := false, parked := false } := by
  rw [haltAce]
  exact (aceOf_of_only (raise_only (L := raising) .refl (by decide)) (by decide) c).trans (aceOf_setAce_self _ _ _)

theorem only_haltOnBus (u : State) (c m : Nat) : Only [.outputs, .events, .copyEngine, .faults] u (haltOnBus u c d m) :=
  logFault_only (countFault_only (haltAce_only .refl (by decide)) (by decide)) (by decide)

theorem aceOf_haltOnBus (u : State) (c m : Nat) : aceOf (haltOnBus u c d m) c = { aceOf u c with
    st := .halted, pending := false, err := 2, domain := d, retryAt := none, disarm := false, parked := false } := by
  rw [haltOnBus, aceOf_of_only (logFault_only (L := [.outputs, .events, .faults]) .refl (by decide)) (by decide)]
  exact aceOf_haltAce u c 2 d

theorem fltNext_haltOnBus (u : State) (c m : Nat) : (haltOnBus u c d m).flt.next = u.flt.next + 1 := by
  have hhalt : (haltAce u c 2 d).flt = u.flt := haltAce_only (L := [.outputs, .events, .copyEngine]) .refl (by decide) .faults (by decide)
  rw [haltOnBus, fltNext_logFault, fltNext_countFault, hhalt]

end fail

/-! ### ACE_RETRY_WAIT_END (R618) -/

theorem aceOf_advance (s : State) (dt c : Nat) : aceOf (advance s dt) c = aceOf s c :=
  aceOf_of_only (advance_only (L := passing) .refl (by decide)) (by decide) c

theorem exec_aceRetryWaitEnd {s : State} {c r : Nat} (dt : Nat) (hr : (aceOf s c).retryAt = some r) (hst : (aceOf s c).st = .running) :
    exec (.aceRetryWaitEnd dt c) s = .next (if r ≤ now (advance s dt) then
      setAce (advance s dt) c { aceOf s c with retryAt := none } else advance s dt) := by
  change execAceRetryWaitEnd dt c s = _
  simp only [execAceRetryWaitEnd, aceOf_advance, hr, hst, and_true]
  split <;> rfl

/-! ### ARM, DISARM and GO of a channel that takes them -/

section taken
variable {s : State} {c : Nat}

/-- A control write reaches a channel that is not held, and gate 13 lets it through. -/
structure ControlTaken (s : State) (c : Nat) : Prop where
  lt : c < 32
  reach : hostReach s 0 = true
  gate : (gateOf s 13).st = 0
  free : aceHeld s c = false

variable (h : ControlTaken s c)
include h

theorem exec_aceArm_of_taken : exec (.aceArm c) s = .next (armChannel s c) := by
  rw [exec_aceArm, whenReached_of_hostReach _ h.reach, ctrlWrite_of_free h.lt h.reach _ _ h.gate h.free]

theorem exec_aceDisarm_of_taken : exec (.aceDisarm c) s = .next (disarmChannel s c) := by
  rw [exec_aceDisarm, whenReached_of_hostReach _ h.reach, ctrlWrite_of_free h.lt h.reach _ _ h.gate h.free]

theorem exec_aceGo_of_taken : exec (.aceGo c) s = .next (goChannel s c) := by
  rw [exec_aceGo, whenReached_of_hostReach _ h.reach, ctrlWrite_of_free h.lt h.reach _ _ h.gate h.free]

end taken

/-- Settles O54: a control write is refused, counted or applied as gate 13 and the channel's owner say; a trigger, an iteration and a
failed burst are the outcomes that the channel's state selects. -/
theorem aceChannels : Obligations.AceChannels := by
  unfold Obligations.AceChannels
  refine ⟨fun s c hc hreach => ⟨fun hg => ⟨?gateArm, ?gateDisarm, ?gateGo, ace_refusePosted s 13 0x20⟩,
      fun hg hh => ⟨?heldArm, ?heldDisarm, ?heldGo⟩, fun hg hh => ?taken⟩,
    fun s c hoff => ⟨?offArm, ?offDisarm, ?offGo⟩,
    fun s c => ⟨fun ha hr => ?notLive, fun hs hlive => ?stopped, fun hs ha => ?armed, fun hs hr hp => ?running,
      fun hs hr hp => ?overrun, fun j hj => aceOf_trigger_of_ne hj⟩,
    fun s c => ⟨fun data hgo => ⟨fun h0 h2 => ?copied, fun h0 hlen => ?host, fun b h2 hw => ?window⟩,
      fun data hr hp ht hsrc hdst => ?buffer, fun data hu hm => ?waits, fun n d err data hgo hlo hhi hdata => ⟨fun hleft => ?retry,
      fun hspent => ?halt⟩, fun dt r hr hst => ⟨fun hdue => ?waitEnd, fun hearly => ?waitOn⟩⟩⟩
  case gateArm => rw [exec_aceArm, whenReached_of_hostReach _ hreach, ctrlWrite_of_gate hc hreach _ _ hg]
  case gateDisarm => rw [exec_aceDisarm, whenReached_of_hostReach _ hreach, ctrlWrite_of_gate hc hreach _ _ hg]
  case gateGo => rw [exec_aceGo, whenReached_of_hostReach _ hreach, ctrlWrite_of_gate hc hreach _ _ hg]
  case heldArm => rw [exec_aceArm, whenReached_of_hostReach _ hreach, ctrlWrite_of_held hc hreach _ _ hg hh]
  case heldDisarm => rw [exec_aceDisarm, whenReached_of_hostReach _ hreach, ctrlWrite_of_held hc hreach _ _ hg hh]
  case heldGo => rw [exec_aceGo, whenReached_of_hostReach _ hreach, ctrlWrite_of_held hc hreach _ _ hg hh]
  case taken =>
    have h : ControlTaken s c := ⟨hc, hreach, hg, hh⟩
    rw [exec_aceArm_of_taken h, exec_aceDisarm_of_taken h, exec_aceGo_of_taken h]
    refine ⟨fun hlive => ?live, fun ha hr => ⟨fun hcfg => ?config, fun hcfg he => ?cycle, fun hcfg he => ?ok⟩,
      fun hr hp => ?disarmRuns,
      fun hrest => ?disarmRests, fun hm ha hs => ?goes, fun hm hwait => ?goWaits, fun hm hk => ?kick, fun hm hk => ?noKick⟩
    case live => rw [armChannel_of_live hlive]
    case config => rw [armChannel_of_config ha hr hcfg]
    case cycle => rw [armChannel_of_cycle ha hr hcfg he]
    case ok => rw [armChannel_of_ok ha hr hcfg he]
    case disarmRuns => rw [disarmChannel_of_running hr hp]
    case disarmRests => rw [disarmChannel_of_resting hrest]
    case goes => rw [goChannel_of_software hm ha hs]; rfl
    case goWaits => rw [goChannel_of_software_waits hm hwait]
    case kick => rw [goChannel_of_triggered hm, if_pos hk]
    case noKick => rw [goChannel_of_triggered hm, if_neg (Bool.eq_false_iff.1 hk)]
  case offArm => rw [exec_aceArm, whenReached_of_barOff _ hoff]; rfl
  case offDisarm => rw [exec_aceDisarm, whenReached_of_barOff _ hoff]; rfl
  case offGo => rw [exec_aceGo, whenReached_of_barOff _ hoff]; rfl
  case notLive => exact trigger_of_not_live (Bool.eq_false_iff.2 fun hlive => ((aceLive_iff _).1 hlive).elim ha hr)
  case stopped => rw [trigger_of_stopped hs ((aceLive_iff _).2 hlive), aceOf_overrun]
  case armed => rw [trigger_of_armed hs ha, aceOf_startIter]
  case running => rw [trigger_of_running hs hr, if_neg (Bool.eq_false_iff.1 hp), aceOf_setAce_self]
  case overrun => rw [trigger_of_running hs hr, if_pos hp, aceOf_overrun]
  case copied => exact exec_aceIterationComplete_of_buffer data hgo h0 h2
  case host => exact exec_aceIterationComplete_of_host hgo h0 hlen
  case window => exact exec_aceIterationComplete_of_window hgo h2 hw
  case buffer =>
    have hgo := burstsGo_of_buffer hr hp ht hsrc hdst
    obtain ⟨i, j, hserved⟩ := aceOf_serveTo s c (aceOf s c).len (burstsLeft s) c
    have honly := only_serveTo s c (aceOf s c).len (burstsLeft s)
    obtain ⟨hdone, hpos⟩ := position_endIter (serveTo s c (aceOf s c).len (burstsLeft s)) c
    rw [hserved] at hdone hpos
    refine ⟨_, exec_aceIterationComplete_of_buffer data hgo (by rw [hsrc]; decide) (by rw [hsrc]; decide), hdone, hpos,
      fun hd => st_endIter_of_disarm (by rw [hserved]; exact hd), fun hd hiter hlast => ?last⟩
    have hfin : (aceOf (serveTo s c (aceOf s c).len (burstsLeft s)) c).atLast = true := by
      rw [hserved]
      simp [Ace.atLast, hiter, hlast]
    refine ⟨st_endIter_of_atLast (by rw [hserved]; exact hd) hfin, fun hl => ?_⟩
    obtain ⟨-, -, -, -, -, -, hevr, -⟩ := honly .events (by decide)
    rw [count_endIter_of_atLast hfin ((deepLull_of_only honly (by decide)).trans hl), hevr]
  case waits => exact exec_aceIterationComplete_of_waiting (burstsGo_of_host_waits hu hm)
  case retry =>
    have hstop := only_stoppedAt d err (data := data) s c n
    have honly := hstop.trans ((only_retryLater (stoppedAt s c n d err data) c (aceOf s c).retries (aceOf s c).retryNo).mono (by decide))
    obtain ⟨-, -, -, -, -, -, -, -, -, -, howed⟩ := honly .link (by decide)
    obtain ⟨hnow, -⟩ := hstop .time (by decide)
    refine ⟨_, (exec_aceBurstFail d err hgo hlo hhi hdata).trans (by rw [if_pos hleft]), ?_, howed, honly .rings (by decide),
      honly .commands (by decide), honly .transports (by decide), (honly .power (by decide)).1⟩
    rw [aceOf_retryLater, aceOf_stoppedAt, now, hnow]
    rfl
  case halt =>
    have honly := (only_stoppedAt d err (data := data) s c n).trans
      ((only_haltOnBus d (stoppedAt s c n d err data) c (aceOf s c).retryMax).mono (by decide))
    have hpark : (aceOf s c).parked = false := by
      simp only [burstsGo, Bool.and_eq_true, Bool.not_eq_true'] at hgo
      tauto
    refine ⟨_, (exec_aceBurstFail d err hgo hlo hhi hdata).trans (by rw [if_neg (not_lt.2 hspent)]), ?_,
      by rw [fltNext_haltOnBus, fltNext_stoppedAt], honly .rings (by decide), honly .commands (by decide), honly .transports (by decide)⟩
    rw [aceOf_haltOnBus, aceOf_stoppedAt, ← hpark]
  case waitEnd => rw [exec_aceRetryWaitEnd dt hr hst, if_pos hdue]
  case waitOn => rw [exec_aceRetryWaitEnd dt hr hst, if_neg (not_le.2 hearly)]

end Sys2Proof.Machine
end

section
/-! Configuration writes of a live ACE channel, by the host and by the SMP (O56). -/

namespace Sys2Proof.Machine

/-! ### Writes of ACE registers (R626, R747) -/

section held
variable {s : State} {c r : Nat} (hc : c < 32) (hlive : aceLive (aceOf s c) = true) (hlo : 4 ≤ r) (hhi : r ≤ 0x20)
include hc hlive hlo hhi

/-- Gate 13 and the channel's owner may refuse the write; what is left of it a live channel discards. -/
theorem ch_writeAce_of_live (origin : Nat) (v : Word) : (writeAce s origin (0x1000 + 0x40 * c + r) v).ace.ch = s.ace.ch := by
  have hch : (0x1000 + 0x40 * c + r - 0x1000) / 0x40 = c := by omega
  have hreg : (0x1000 + 0x40 * c + r - 0x1000) % 0x40 = r := by omega
  have hin : ¬(0x1000 + 0x40 * c + r < 0x1000 ∨ 0x1000 + 0x40 * 32 ≤ 0x1000 + 0x40 * c + r ∨ 0x20 < r) := by omega
  simp only [writeAce, hch, hreg]
  by_cases hgate : (gateOf s 13).st ≠ 0
  case pos => rw [if_pos hgate, ace_refusePosted]
  case neg =>
    rw [if_neg hgate, if_neg hin, if_neg (by omega)]
    by_cases hheld : aceHeld s c = true
    case pos => rw [if_pos hheld]
    case neg => rw [if_neg hheld, if_pos hlive]

theorem ch_writeDev_of_live (origin : Nat) (v : Word) : (writeDev s origin (0x111000 + 0x40 * c + r) v).ace.ch = s.ace.ch := by
  have hoff : 0x111000 + 0x40 * c + r - 0x110000 = 0x1000 + 0x40 * c + r := by omega
  rw [writeDev, if_neg (by omega), if_neg (by omega), if_pos (by omega), hoff]
  exact ch_writeAce_of_live hc hlive hlo hhi origin v

/-- The ACE window lies outside doorbells, MSI-X table and session key windows (Table 3-3). -/
theorem ch_writeBar0_of_live (v : Word) : (writeBar0 s 0 (0x111000 + 0x40 * c + r) v).ace.ch = s.ace.ch := by
  have hsk : inSk 0 (0x111000 + 0x40 * c + r) = false := by simp [inSk, skBase, slotCount]; omega
  rw [writeBar0, if_neg (by omega), if_neg (by simp only [slotCount]; simp; omega),
    if_neg (by simp only [msixBase, vectorCount]; simp; omega), hsk, if_neg Bool.false_ne_true, if_pos rfl]
  exact ch_writeDev_of_live hc hlive hlo hhi 0x20 v

end held

/-! ### Host writes and indirect writes (R124, R150, R659 to R664) -/

section accesses
variable {s : State} {c r : Nat} (hc : c < 32) (hlive : aceLive (aceOf s c) = true) (hlo : 4 ≤ r) (hhi : r ≤ 0x20)
include hc hlive hlo hhi

/-- Of 8 bytes both halves are discarded. -/
theorem ch_hostWrite_of_live {size : Nat} (v : BitVec 64) (hr : r % 4 = 0) (hsize : size = 4 ∨ (size = 8 ∧ r % 8 = 0 ∧ r < 0x20)) :
    (hostWrite s 0 (0x111000 + 0x40 * c + r) size v).ace.ch = s.ace.ch := by
  obtain rfl | ⟨rfl, h8, hlt⟩ := hsize
  case inl =>
    rw [hostWrite_four _ _ _ (by omega)]
    exact ch_writeBar0_of_live hc hlive hlo hhi _
  case inr =>
    have hfirst := ch_writeBar0_of_live hc hlive hlo hhi (v.setWidth 32)
    have hlive' : aceLive (aceOf (writeBar0 s 0 (0x111000 + 0x40 * c + r) (v.setWidth 32)) c) = true := by
      rwa [aceOf, hfirst]
    rw [hostWrite_eight_lower_first _ _ (by omega) (.inr (by simp [slotCount]; omega)), Nat.add_assoc _ r 4,
      ch_writeBar0_of_live hc hlive' (by omega) (by omega), hfirst]

theorem ch_barWrite_of_live {size : Nat} (v : BitVec 64) (p e : Bool) (hr : r % 4 = 0)
    (hsize : size = 4 ∨ (size = 8 ∧ r % 8 = 0 ∧ r < 0x20)) :
    (barWrite s 0 (0x111000 + 0x40 * c + r) size v p e).ace.ch = s.ace.ch := by
  have hlogged (b : Nat) : (logUnc s 0 b).ace.ch = s.ace.ch :=
    (logUnc_only (L := [.free, .functions]) .refl (by decide) .copyEngine (by decide)).1
  have hwritten := ch_hostWrite_of_live hc hlive hlo hhi v hr hsize
  rw [barWrite]
  split
  case isTrue => rfl
  case isFalse =>
    split
    case isTrue => exact hlogged _
    case isFalse =>
      split
      case isTrue => rfl
      case isFalse =>
        split
        case isTrue => exact hlogged _
        case isFalse =>
          split
          case isTrue => exact hlogged _
          case isFalse => exact hwritten

end accesses

theorem ch_endInd (s : State) (w inc : Bool) (err v : Nat) : (endInd s w inc err v).ace.ch = s.ace.ch :=
  (startNotch_only (L := [.events]) (raiseAttn_only .refl (by decide)) (by decide) .copyEngine (by decide)).1

/-- Settles O56: whatever becomes of the access, its write is one of `writeAce` at a live channel's configuration, or none. -/
theorem aceConfigHeldWhileLive : Obligations.AceConfigHeldWhileLive := by
  unfold Obligations.AceConfigHeldWhileLive
  intro s c r v hc hlive hlo hhi hr
  refine ⟨fun size p e hsize => ⟨_, exec_registerWrite_bar0 .., ch_barWrite_of_live hc hlive hlo hhi v p e hr hsize⟩,
    fun inc hop hoff => ?smp⟩
  case smp =>
    change ∃ t, execSmpIndDone s = .next t ∧ t.ace.ch = s.ace.ch
    simp only [execSmpIndDone, hop, if_true]
    split
    case isTrue => exact ⟨_, rfl, rfl⟩
    case isFalse =>
      split
      case isTrue => exact ⟨_, rfl, ch_endInd ..⟩
      case isFalse =>
        split
        case isTrue => exact ⟨_, rfl, by rw [ch_endInd, ace_refusePosted]⟩
        case isFalse => exact ⟨_, rfl, by rw [ch_endInd, hoff, ch_writeDev_of_live hc hlive hlo hhi]⟩

end Sys2Proof.Machine
end

section
/-! Pacing timers, alarms, PPS_OUT and the registers of the time base (O40). -/

namespace Sys2Proof.Machine

/-! ### Rows that fire on time (R610, R705 to R709) -/

section fires
variable {s : State} {dt k : Nat} (hfrozen : (advance s dt).clk.frozen = false)

theorem frozen_advance (s : State) (dt : Nat) : (advance s dt).clk.frozen = s.clk.frozen := by
  unfold advance
  split <;> rfl

theorem exec_secondBoundary (hrst : s.host.sysRst = true) (hf : s.clk.frozen = false) : exec (.secondBoundary dt) s =
    .next (if 1000000000 ≤ s.tbu.ns + 4 * dt then fireSource (advance s dt) 0x21 else advance s dt) := by
  change execSecondBoundary dt s = _
  simp [execSecondBoundary, hrst, hf]

include hfrozen

theorem exec_pacingTimerFire (hen : (timerOf (advance s dt) k).en = true)
    (hdue : 0 ≤ timeDiff (timeNs (advance s dt)) (gridAfter (timerOf (advance s dt) k).last (timerOrigin (timerOf (advance s dt) k))
      (timerOf (advance s dt) k).period)) : exec (.pacingTimerFire dt k) s = .next (
    let u := advance s dt
    let x := timerOf u k
    fireTimer { u with tbu.timers := Tbl.put u.tbu.timers k { x with last := gridAfter x.last (timerOrigin x) x.period } } k) := by
  change execPacingTimerFire dt k s = _
  simp [execPacingTimerFire, hen, hdue, hfrozen]

theorem exec_alarmFire (hk : k < 4) (hen : (alarmOf (advance s dt) k).en = true)
    (hdue : alarmDue (advance s dt) (alarmOf (advance s dt) k) = true) : exec (.alarmFire dt k) s = .next (
    let u := advance s dt
    wake (raise { u with tbu.alarms := Tbl.put u.tbu.alarms k { alarmOf u k with fired := true, en := false } }
      (1408 + k) subjNone 0 0) 5) := by
  change execAlarmFire dt k s = _
  simp [execAlarmFire, hk, hen, hdue, hfrozen]

theorem exec_ppsOutRise (hen : (advance s dt).tbu.outEn = true) (hdue : 0 ≤ timeDiff (timeNs (advance s dt))
      (gridAfter (advance s dt).tbu.outLast (advance s dt).tbu.outOff 1000000000)) : exec (.ppsOutRise dt) s = .next (
    let u := advance s dt
    { u with
      tbu.ppsOut := true, tbu.outFallAt := now u + u.tbu.outWidth * msTicks,
      tbu.outLast := gridAfter u.tbu.outLast u.tbu.outOff 1000000000 }) := by
  change execPpsOutRise dt s = _
  simp [execPpsOutRise, risePpsOut, hen, hdue, hfrozen]

theorem exec_ppsOutFall (hout : (advance s dt).tbu.ppsOut = true) (hfall : (advance s dt).tbu.outFallAt ≤ now (advance s dt)) :
    exec (.ppsOutFall dt) s = .next { advance s dt with tbu.ppsOut := false } := by
  change execPpsOutFall dt s = _
  simp [execPpsOutFall, hout, hfall, hfrozen]

end fires

/-! ### Timer and alarm registers (R706, R707, R709, Table 14-3) -/

/-- A timer's registers, stored. -/
def storeTimer (s : State) (k : Nat) (x : PTimer) : State := { s with tbu.timers := Tbl.put s.tbu.timers k x }

section timers
variable {s : State} {k : Nat} {v : Word} (hk : k < 8)
include hk

/-- The first eight timers belong to no telemetry stream. -/
theorem not_teleTimer : (decide (16 ≤ k) || (decide (8 ≤ k) && aceHeld s (teleCh (k - 8)))) = false := by
  simp [show ¬16 ≤ k by omega, Nat.not_le.2 hk]

theorem writeTimer_ctrl : writeTimer s k true v =
    (let x := timerOf s k
     let en := bitOf v.toNat 0
     let align := bitOf v.toNat 1
     if en && !mayRun x.period align then storeTimer s k { x with cfgErr := true }
     else storeTimer s k { x with
       en := en, align := align, cfgErr := false, skipped := if en then 0 else x.skipped,
       origin := if en && !x.en then timeNs s else x.origin, last := if en && !x.en then timeNs s else x.last }) := by
  simp only [writeTimer, not_teleTimer hk, Bool.false_eq_true, if_false, if_true]
  rfl

theorem writeTimer_period : writeTimer s k false v =
    (let x := timerOf s k
     if !periodOk v.toNat then s
     else if x.en && !mayRun v.toNat x.align then storeTimer s k { x with cfgErr := true }
     else storeTimer s k { x with period := v.toNat, cfgErr := false }) := by
  simp only [writeTimer, not_teleTimer hk, Bool.false_eq_true, if_false]
  rfl

theorem writeTimer_starts (hen : bitOf v.toNat 0 = true) (hrun : mayRun (timerOf s k).period (bitOf v.toNat 1) = true)
    (hoff : (timerOf s k).en = false) : writeTimer s k true v = storeTimer s k { timerOf s k with
      en := true, align := bitOf v.toNat 1, cfgErr := false, skipped := 0, origin := timeNs s, last := timeNs s } := by
  simp [writeTimer_ctrl hk, hen, hrun, hoff]

theorem writeTimer_goes_on (hen : bitOf v.toNat 0 = true) (hrun : mayRun (timerOf s k).period (bitOf v.toNat 1) = true)
    (hon : (timerOf s k).en = true) : writeTimer s k true v = storeTimer s k { timerOf s k with
      align := bitOf v.toNat 1, cfgErr := false, skipped := 0 } := by
  simp [writeTimer_ctrl hk, hen, hrun, hon]

theorem writeTimer_may_not_run (hen : bitOf v.toNat 0 = true) (hrun : mayRun (timerOf s k).period (bitOf v.toNat 1) = false) :
    writeTimer s k true v = storeTimer s k { timerOf s k with cfgErr := true } := by
  simp [writeTimer_ctrl hk, hen, hrun]

theorem writeTimer_stops (hen : bitOf v.toNat 0 = false) : writeTimer s k true v = storeTimer s k { timerOf s k with
    en := false, align := bitOf v.toNat 1, cfgErr := false } := by
  simp [writeTimer_ctrl hk, hen]

theorem writeTimer_period_stored (hp : periodOk v.toNat = true)
    (hrun : (timerOf s k).en = false ∨ mayRun v.toNat (timerOf s k).align = true) :
    writeTimer s k false v = storeTimer s k { timerOf s k with period := v.toNat, cfgErr := false } := by
  obtain h | h := hrun <;> simp [writeTimer_period hk, hp, h]

theorem writeTimer_period_refused (hp : periodOk v.toNat = true) (hen : (timerOf s k).en = true)
    (hrun : mayRun v.toNat (timerOf s k).align = false) :
    writeTimer s k false v = storeTimer s k { timerOf s k with cfgErr := true } := by
  simp [writeTimer_period hk, hp, hen, hrun]

theorem writeTimer_period_out_of_range (hp : periodOk v.toNat = false) : writeTimer s k false v = s := by
  simp [writeTimer_period hk, hp]

end timers

theorem exec_pacingTimerCtrlWrite (s : State) (k : Nat) (b : Bool) (v : Word) :
    exec (.pacingTimerCtrlWrite k b v) s = .next (whenReached s 0 (writeTimer s k b v)) := rfl

theorem exec_alarmCtrlWrite (s : State) (k : Nat) (v : Word) :
    exec (.alarmCtrlWrite k v) s = .next (whenReached s 0 (writeAlarm s k v)) := rfl

/-! ### TBU_CFG and TBU_TIME_NS (R703, R712, R713, R722, Table 14-4) -/

theorem exec_tbuCfgWrite (s : State) (v : Word) : exec (.tbuCfgWrite v) s = .next (whenReached s 0 (writeTbuCfg s v)) := rfl

/-- The fields of TBU_CFG, stored. -/
def storeTbuCfg (s : State) (v : Word) : State :=
  let en := bitOf v.toNat 0
  let out := bitOf v.toNat 2
  let u := s.tbu
  { s with tbu := { u with
    ppsEn := en, manual := bitOf v.toNat 1, outEn := out, shift := bitsOf v.toNat 3 4,
    prev := if en && !u.ppsEn then none else u.prev, run := if en && !u.ppsEn then [] else u.run,
    near := if en && !u.ppsEn then 0 else u.near, slew := if en then u.slew else 0,
    ppsOut := u.ppsOut && out, outLast := if out && !u.outEn then timeNs s else u.outLast } }

theorem writeTbuCfg_of_ppsEn {s : State} {v : Word} (h : bitOf v.toNat 0 = true) : writeTbuCfg s v = storeTbuCfg s v := if_pos h

theorem writeTbuCfg_of_not_ppsEn {s : State} {v : Word} (h : bitOf v.toNat 0 = false) :
    writeTbuCfg s v = setPps (storeTbuCfg s v) .free := if_neg (Bool.eq_false_iff.1 h)

/-- A change of the PPS state leaves the rest of the time base. -/
theorem tbu_setPps (s : State) (p : PpsSt) : (setPps s p).tbu = { s.tbu with pps := p } := by
  rw [setPps]
  split
  case isTrue h => rw [← h]
  case isFalse => exact raise_only (L := raising) .refl (by decide) .timeBase (by decide)

section timeRead
variable {s : State}

theorem exec_tbuTimeRead_narrow (h : hostReach s 0 = true) : exec (.tbuTimeRead false) s = .next { s with
    tbu.snap := s.tbu.sec, out := .cpl 0 (BitVec.ofNat 64 s.tbu.ns) :: s.out } := by
  change execTbuTimeRead false s = _
  simp [execTbuTimeRead, h, reply, readTime]

theorem exec_tbuTimeRead_wide (h : hostReach s 0 = true) : exec (.tbuTimeRead true) s = .next { s with
    tbu.snap := s.tbu.sec, out := .cpl 0 (BitVec.ofNat 64 (s.tbu.ns + s.tbu.sec % 2 ^ 32 * 2 ^ 32)) :: s.out } := by
  change execTbuTimeRead true s = _
  simp [execTbuTimeRead, h, reply, readTime]

theorem exec_tbuTimeRead_of_barOff (wide : Bool) (h : barOff s 0 = true) : exec (.tbuTimeRead wide) s = .next (refuseRead s 0) := by
  change execTbuTimeRead wide s = _
  simp [execTbuTimeRead, hostReach_of_barOff h, h]

theorem exec_tbuTimeRead_of_inFlr (wide : Bool) (h : inFlr s 0 = true) (hl : linkOn s = true) :
    exec (.tbuTimeRead wide) s = .next (reply s 0 0) := by
  have hno : hostReach s 0 = false := by simp [hostReach, h]
  change execTbuTimeRead wide s = _
  simp [execTbuTimeRead, hno, barOff_of_inFlr h, h, hl]

end timeRead

/-- Settles O40: each clause is the outcome of its row that the time, the way of the host's request or the word written selects. -/
theorem timersAndTimeRegisters : Obligations.TimersAndTimeRegisters := by
  unfold Obligations.TimersAndTimeRegisters
  refine ⟨fun s dt k hrst hf => ?fires,
    fun s k v h => ⟨fun hk => ⟨fun hen hrun hoff => ?start, fun hen hrun hon => ?goesOn, fun hen hrun => ?noRun, fun hen => ?stop,
      fun hp hrun => ?period, fun hp hen hrun => ?periodRefused, fun hp => ?periodBad⟩, fun hk => ?alarmWrite⟩,
    fun s v => ⟨fun h => ?cfg, fun h => ⟨?cfgOff, fun k b => ?timerOff, fun k => ?alarmOff, fun b => ?readOff⟩,
      fun h => ⟨exec_tbuTimeRead_narrow h, exec_tbuTimeRead_wide h⟩, fun h hl b => exec_tbuTimeRead_of_inFlr b h hl⟩⟩
  case fires =>
    have hfrozen : (advance s dt).clk.frozen = false := (frozen_advance s dt).trans hf
    refine ⟨fun hen hdue => exec_pacingTimerFire hfrozen hen hdue,
      fun hk hen hdue => exec_alarmFire hfrozen hk hen (decide_eq_true hdue), fun hsec => ?second, fun hsec => ?noSecond,
      fun hen hdue => exec_ppsOutRise hfrozen hen hdue, fun hout hfall => exec_ppsOutFall hfrozen hout hfall⟩
    case second => rw [exec_secondBoundary hrst hf, if_pos hsec]
    case noSecond => rw [exec_secondBoundary hrst hf, if_neg (not_le.2 hsec)]
  case start => rw [exec_pacingTimerCtrlWrite, whenReached_of_hostReach _ h, writeTimer_starts hk hen hrun hoff]; rfl
  case goesOn => rw [exec_pacingTimerCtrlWrite, whenReached_of_hostReach _ h, writeTimer_goes_on hk hen hrun hon]; rfl
  case noRun => rw [exec_pacingTimerCtrlWrite, whenReached_of_hostReach _ h, writeTimer_may_not_run hk hen hrun]; rfl
  case stop => rw [exec_pacingTimerCtrlWrite, whenReached_of_hostReach _ h, writeTimer_stops hk hen]; rfl
  case period => rw [exec_pacingTimerCtrlWrite, whenReached_of_hostReach _ h, writeTimer_period_stored hk hp hrun]; rfl
  case periodRefused => rw [exec_pacingTimerCtrlWrite, whenReached_of_hostReach _ h, writeTimer_period_refused hk hp hen hrun]; rfl
  case periodBad => rw [exec_pacingTimerCtrlWrite, whenReached_of_hostReach _ h, writeTimer_period_out_of_range hk hp]
  case alarmWrite => rw [exec_alarmCtrlWrite, whenReached_of_hostReach _ h, writeAlarm, if_neg (not_le.2 hk)]
  case cfg =>
    refine ⟨_, by rw [exec_tbuCfgWrite, whenReached_of_hostReach _ h], rfl, fun hen => ?on, fun hen => ?off⟩
    case on =>
      rw [writeTbuCfg_of_ppsEn hen]
      exact ⟨hen, rfl, rfl, rfl, rfl, rfl, rfl, rfl, if_pos hen, rfl⟩
    case off =>
      rw [writeTbuCfg_of_not_ppsEn hen, tbu_setPps]
      exact ⟨hen, rfl, if_neg (Bool.eq_false_iff.1 hen), rfl⟩
  case cfgOff => rw [exec_tbuCfgWrite, whenReached_of_barOff _ h]
  case timerOff => rw [exec_pacingTimerCtrlWrite, whenReached_of_barOff _ h]
  case alarmOff => rw [exec_alarmCtrlWrite, whenReached_of_barOff _ h]
  case readOff => rw [exec_tbuTimeRead_of_barOff b h]; rfl

end Sys2Proof.Machine
end

section
/-! Every step keeps the SMP, the time base and the memories in range (O5): one lemma per command, in the order of the model's files. -/

namespace Sys2Proof.Machine

/-! ### Answers that keep the invariant -/

/-- Every next state that `a` answers meets the invariant when `s` does. -/
def Kept (s : State) (a : Answer) : Prop := ∀ t, a = .next t → Keeps s t

theorem Kept.next {s t : State} (h : Keeps s t) : Kept s (.next t) := fun _ hu => Host.Outcome.next.inj hu ▸ h

theorem Kept.ite {s : State} {a b : Answer} {c : Prop} {d : Decidable c} (h : Kept s a) (k : Kept s b) :
    Kept s (if c then a else b) := by
  split
  · exact h
  · exact k

/-- A change that is made or not. -/
theorem Keeps.ite_left {s t u : State} {c : Prop} {d : Decidable c} (h : Keeps s u) (k : Keeps s u → Keeps s t) :
    Keeps s (if c then t else u) := .ite (k h) h

/-- A change that is left out or not. -/
theorem Keeps.ite_right {s t u : State} {c : Prop} {d : Decidable c} (h : Keeps s t) (k : Keeps s t → Keeps s u) :
    Keeps s (if c then t else u) := .ite h (k h)

/-- One of two changes, or none. -/
theorem Keeps.ite_else {s t u v : State} {c c' : Prop} {d : Decidable c} {d' : Decidable c'} (h : Keeps s u)
    (k : Keeps s u → Keeps s t) (l : Keeps s u → Keeps s v) : Keeps s (if c then t else if c' then v else u) :=
  .ite (k h) (.ite (l h) h)

theorem Keeps.elim_right {s t : State} {α : Type} {o : Option α} {f : α → State} (h : Keeps s t)
    (k : Keeps s t → ∀ x, Keeps s (f x)) : Keeps s (o.elim t f) := .elim h (k h)

/-- An update, part by part. -/
theorem Keeps.set {s u : State} {a2 a3 a4 a5 a6 a7 a8 a9 a10 a11 a12 a13 a14 a15 a16 a17} (h : Keeps s u) (hs : SmpOk u.smp → SmpOk a13)
    (ht : TbuOk u.tbu → TbuOk a14) (hb : Memory.wf u.ace.buf = true → Memory.wf a12.buf = true) :
    Keeps s ⟨u.pending, a2, a3, a4, a5, a6, a7, a8, a9, a10, a11, a12, a13, a14, a15, a16, a17⟩ := fun x =>
  have ⟨k, l, m⟩ := h x
  ⟨hs k, ht l, hb m⟩

/-- SYS_RST_N leaves the SMP and the time base in range. -/
theorem smpOk_reset : SmpOk Smp.reset := by
  unfold SmpOk
  decide

theorem tbuOk_reset : TbuOk Tbu.reset := by
  unfold TbuOk
  decide

theorem withCmd_keeps {R s id op} {f : Cmd → State} (hR : Keeps R s) (hf : ∀ c, Keeps R (f c)) : Keeps R (withCmd s id op f) := by
  unfold withCmd
  split
  · split
    · exact hf _
    · exact hR
  · exact hR

theorem withCmdW_keeps {R s id op} {f : Cmd → State} (hR : Keeps R s) (hf : ∀ c, Keeps R (f c)) :
    Keeps R (withCmdW s id op f) := by
  unfold withCmdW
  split
  · split
    · exact hf _
    · exact hR
  · exact hR

theorem whenReached_keeps {R s fn t} (hR : Keeps R s) (ht : Keeps R t) : Keeps R (whenReached s fn t) :=
  .ite ht (.ite (logUnc_keeps hR) hR)

theorem cfgDo_keeps {R s fn t} (hR : Keeps R s) (ht : Keeps R t) : Keeps R (cfgDo s fn t) :=
  .ite ht (.ite (.set hR id id id) hR)

theorem ctrlWrite_keeps {R s c origin} {f : State → Nat → State} (hR : Keeps R s) (hf : ∀ s, Keeps s (f s c)) :
    Keeps R (ctrlWrite s c origin f) :=
  .ite hR (.ite (refusePosted_keeps hR) (.ite (.set hR id id id) (hR.trans (hf s))))

theorem recoverLater_keeps {R s t p n r u} (h : recoverLater s t p n r = some u) (hR : Keeps R s) : Keeps R u := by
  have hretry : Keeps R (retryDs s t p n).2 := hR.of_only (retryDs_only .refl (by decide))
  unfold recoverLater at h
  split at h
  · cases h
  · split at h
    · cases h
      exact .ite (updXp_keeps hR) hR
    · dsimp only at h
      split at h
      · cases h
        exact hretry
      · cases h

theorem recognised_keeps {R s w} (hR : Keeps R s) : Keeps R (recognised s w).2 :=
  hR.of_only (recognised_only .refl (by decide))

/-! ### Operations of other parts -/

theorem adapt_keeps {R s l} (hR : Keeps R s) : Keeps R (adapt s l) :=
  hR.of_only (adapt_only .refl (by decide))

theorem adminGone_keeps {R s} (hR : Keeps R s) : Keeps R (adminGone s) :=
  hR.of_only (adminGone_only .refl (by decide))

theorem adminOff_keeps {R s} (hR : Keeps R s) : Keeps R (adminOff s) :=
  hR.of_only (adminOff_only .refl (by decide))

theorem adminOn_keeps {R s} (hR : Keeps R s) : Keeps R (adminOn s) :=
  hR.of_only (adminOn_only .refl (by decide))

theorem admitLook_keeps {R s n r l id} (hR : Keeps R s) : Keeps R (admitLook s n r l id) :=
  hR.of_only (admitLook_only .refl (by decide))

theorem afterBoundary_keeps {R s t} (hR : Keeps R s) : Keeps R (afterBoundary s t) :=
  hR.of_only (afterBoundary_only .refl (by decide))

theorem applyChange_keeps {R port s p} (hR : Keeps R s) : Keeps R (applyChange port s p) :=
  hR.of_only (applyChange_only .refl (by decide))

theorem armChannel_keeps {R s c} (hR : Keeps R s) : Keeps R (armChannel s c) :=
  hR.of_only (armChannel_only .refl (by decide))

theorem arrive_keeps {R s l cls w y gaps} (hR : Keeps R s) : Keeps R (arrive s l cls w y gaps) :=
  hR.of_only (arrive_only .refl (by decide))

theorem beginExit_keeps {R s e code} (hR : Keeps R s) : Keeps R (beginExit s e code) :=
  hR.of_only (beginExit_only .refl (by decide))

theorem calibrateDone_keeps {R s t p kind} (hR : Keeps R s) : Keeps R (calibrateDone s t p kind) :=
  hR.of_only (calibrateDone_only .refl (by decide))

theorem closeAllOpen_keeps {R s} (hR : Keeps R s) : Keeps R (closeAllOpen s) :=
  hR.of_only (closeAllOpen_only .refl (by decide))

theorem closePart_keeps {R s t} (hR : Keeps R s) : Keeps R (closePart s t) :=
  hR.of_only (closePart_only .refl (by decide))

theorem cmdRead_keeps {R s c addr len} (hR : Keeps R s) : Keeps R (cmdRead s c addr len) :=
  hR.of_only (cmdRead_only .refl (by decide))

theorem countIters_keeps {R s l n c} (hR : Keeps R s) : Keeps R (countIters s l n c) :=
  hR.of_only (countIters_only .refl (by decide))

theorem disarmChannel_keeps {R s c} (hR : Keeps R s) : Keeps R (disarmChannel s c) :=
  hR.of_only (disarmChannel_only .refl (by decide))

theorem dropSample_keeps {R s l k} (hR : Keeps R s) : Keeps R (dropSample s l k) :=
  hR.of_only (dropSample_only .refl (by decide))

theorem endPass_keeps {R s l a llr post iters converged} (hR : Keeps R s) : Keeps R (endPass s l a llr post iters converged) :=
  hR.of_only (endPass_only .refl (by decide))

theorem endPosition_keeps {R s t m c d} (hR : Keeps R s) : Keeps R (endPosition s t m c d) :=
  hR.of_only (endPosition_only .refl (by decide))

theorem endUnconverged_keeps {R s l a} (hR : Keeps R s) : Keeps R (endUnconverged s l a) :=
  hR.of_only (endUnconverged_only .refl (by decide))

theorem endWrite_keeps {R s c k} (hR : Keeps R s) : Keeps R (endWrite s c k) :=
  hR.of_only (endWrite_only .refl (by decide))

theorem enterState_keeps {R s target} (hR : Keeps R s) : Keeps R (enterState s target) :=
  hR.of_only (enterState_only .refl (by decide))

theorem exhaust_keeps {R s t} (hR : Keeps R s) : Keeps R (exhaust s t) :=
  hR.of_only (exhaust_only .refl (by decide))

theorem flushPba_keeps {R s n} (hR : Keeps R s) : Keeps R (flushPba s n) :=
  hR.of_only (flushPba_only .refl (by decide))

theorem followTape_keeps {R s t} (hR : Keeps R s) : Keeps R (followTape s t) :=
  hR.of_only (followTape_only .refl (by decide))

theorem gather_keeps {R s t f} (hR : Keeps R s) : Keeps R (gather s t f) :=
  hR.of_only (gather_only .refl (by decide))

theorem goChannel_keeps {R s c} (hR : Keeps R s) : Keeps R (goChannel s c) :=
  hR.of_only (goChannel_only .refl (by decide))

theorem hostLost_keeps {R s fn} (hR : Keeps R s) : Keeps R (hostLost s fn) :=
  hR.of_only (hostLost_only .refl (by decide))

theorem irqReads_keeps {R s port} (hR : Keeps R s) : Keeps R (irqReads s port) :=
  hR.of_only (irqReads_only .refl (by decide))

theorem judge_keeps {R s t l w cause} (hR : Keeps R s) : Keeps R (judge s t l w cause) :=
  hR.of_only (judge_only .refl (by decide))

theorem judgeServo_keeps {R s t} (hR : Keeps R s) : Keeps R (judgeServo s t) :=
  hR.of_only (judgeServo_only .refl (by decide))

theorem logBoot_keeps {R s r} (hR : Keeps R s) : Keeps R (logBoot s r) :=
  hR.of_only (logBoot_only .refl (by decide))

theorem makeRing_keeps {R s c n} (hR : Keeps R s) : Keeps R (makeRing s c n) :=
  hR.of_only (makeRing_only .refl (by decide))

theorem noteCopy_keeps {R s k} (hR : Keeps R s) : Keeps R (noteCopy s k) :=
  hR.of_only (noteCopy_only .refl (by decide))

theorem noteEw_keeps {R s t} (hR : Keeps R s) : Keeps R (noteEw s t) :=
  hR.of_only (noteEw_only .refl (by decide))

theorem noteLoss_keeps {R s t} (hR : Keeps R s) : Keeps R (noteLoss s t) :=
  hR.of_only (noteLoss_only .refl (by decide))

theorem noteMissing_keeps {R s t gone} (hR : Keeps R s) : Keeps R (noteMissing s t gone) :=
  hR.of_only (noteMissing_only .refl (by decide))

theorem noteNstate_keeps {R before_ s} (hR : Keeps R s) : Keeps R (noteNstate before_ s) :=
  hR.of_only (noteNstate_only .refl (by decide))

theorem openNow_keeps {R s c} (hR : Keeps R s) : Keeps R (openNow s c) :=
  hR.of_only (openNow_only .refl (by decide))

theorem pollPeer_keeps {R answers s k} (hR : Keeps R s) : Keeps R (pollPeer answers s k) :=
  hR.of_only (pollPeer_only .refl (by decide))

theorem pspTurn_keeps {R s port} (hR : Keeps R s) : Keeps R (pspTurn s port) :=
  hR.of_only (pspTurn_only .refl (by decide))

theorem pushMax_keeps {R s d} (hR : Keeps R s) : Keeps R (pushMax s d) :=
  hR.of_only (pushMax_only .refl (by decide))

theorem readBuf_keeps {R s c ps n} (hR : Keeps R s) : Keeps R (readBuf s c ps n) :=
  hR.of_only (readBuf_only .refl (by decide))

theorem readSgl_keeps {R s c addr n} (hR : Keeps R s) : Keeps R (readSgl s c addr n) :=
  hR.of_only (readSgl_only .refl (by decide))

theorem refill_keeps {R s} (hR : Keeps R s) : Keeps R (refill s) :=
  hR.of_only (refill_only .refl (by decide))

theorem retirePage_keeps {R s page} (hR : Keeps R s) : Keeps R (retirePage s page) :=
  hR.of_only (retirePage_only .refl (by decide))

theorem sendPsp_keeps {R s t k n v} (hR : Keeps R s) : Keeps R (sendPsp s t k n v) :=
  hR.of_only (sendPsp_only .refl (by decide))

theorem setCond_keeps {R s t c} (hR : Keeps R s) : Keeps R (setCond s t c) :=
  hR.of_only (setCond_only .refl (by decide))

theorem setEng_keeps {R s cls idx e} (hR : Keeps R s) : Keeps R (setEng s cls idx e) :=
  hR.of_only (setEng_only .refl (by decide))

theorem setLane_keeps {R s l x} (hR : Keeps R s) : Keeps R (setLane s l x) :=
  hR.of_only (setLane_only .refl (by decide))

theorem stageDone_keeps {R s o} (hR : Keeps R s) : Keeps R (stageDone s o) :=
  hR.of_only (stageDone_only .refl (by decide))

theorem startClose_keeps {R s k} (hR : Keeps R s) : Keeps R (startClose s k) :=
  hR.of_only (startClose_only .refl (by decide))

theorem startFirmware_keeps {R s r img bytes} (hR : Keeps R s) : Keeps R (startFirmware s r img bytes) :=
  hR.of_only (startFirmware_only .refl (by decide))

theorem startFlush_keeps {R s c} (hR : Keeps R s) : Keeps R (startFlush s c) :=
  hR.of_only (startFlush_only .refl (by decide))

theorem startJob_keeps {R s c inSgl outSgl j} (hR : Keeps R s) : Keeps R (startJob s c inSgl outSgl j) :=
  hR.of_only (startJob_only .refl (by decide))

theorem startWriting_keeps {R s t} (hR : Keeps R s) : Keeps R (startWriting s t) :=
  hR.of_only (startWriting_only .refl (by decide))

theorem startedUp_keeps {R s t responds} (hR : Keeps R s) : Keeps R (startedUp s t responds) :=
  hR.of_only (startedUp_only .refl (by decide))

theorem statusReads_keeps {R s t} (hR : Keeps R s) : Keeps R (statusReads s t) :=
  hR.of_only (statusReads_only .refl (by decide))

theorem takeBlocks_keeps {R s t} (hR : Keeps R s) : Keeps R (takeBlocks s t) :=
  hR.of_only (takeBlocks_only .refl (by decide))

theorem updRec_keeps {R s id i f} (hR : Keeps R s) : Keeps R (updRec s id i f) :=
  hR.of_only (updRec_only .refl (by decide))

theorem updSample_keeps {R s l k f} (hR : Keeps R s) : Keeps R (updSample s l k f) :=
  hR.of_only (updSample_only .refl (by decide))

theorem updSk_keeps {R s n f} (hR : Keeps R s) : Keeps R (updSk s n f) :=
  hR.of_only (updSk_only .refl (by decide))

theorem windowCommit_keeps {R s fn slot v} (hR : Keeps R s) : Keeps R (windowCommit s fn slot v) :=
  hR.of_only (windowCommit_only .refl (by decide))

theorem writeCause_keeps {R s t v} (hR : Keeps R s) : Keeps R (writeCause s t v) :=
  hR.of_only (writeCause_only .refl (by decide))

section commands
variable {s : State}

/-! ### Rings and entries -/

theorem execEntryFetch_kept {n e batch} : Kept s (execEntryFetch n e batch s) := by
  unfold execEntryFetch
  split
  · exact .next .refl
  · exact .ite (.next (countHw_keeps (.set .refl id id id))) (.next .refl)

theorem execEntryAdmit_kept {n} : Kept s (execEntryAdmit n s) := by
  unfold execEntryAdmit
  split
  · exact .next .refl
  · split
    · exact .ite (.next (admitLook_keeps (refill_keeps .refl))) (.next .refl)
    · exact .next .refl

theorem execOrderedStart_kept {n} : Kept s (execOrderedStart n s) := by
  unfold execOrderedStart
  split
  · exact .ite (.next (setProg_keeps .refl)) (.next .refl)
  · exact .next .refl

theorem execRingEntryReadError_kept {n cause} : Kept s (execRingEntryReadError n cause s) := by
  unfold execRingEntryReadError
  split
  · exact .next .refl
  · exact .ite (.next (faultSpent_keeps (countFault_keeps (logReadErr_keeps (.set .refl id id id))))) (.next .refl)

theorem execIdentify_kept {n} : Kept s (execIdentify n s) := .next (withCmd_keeps .refl fun _ => answer_keeps .refl)

theorem execGetLogPage_kept {n} : Kept s (execGetLogPage n s) :=
  .next (withCmd_keeps .refl fun _ => .ite (complete_keeps .refl) (.ite (complete_keeps .refl) (.ite (complete_keeps .refl)
    (.ite (complete_keeps .refl) (answer_keeps (.ite (clearPage_keeps .refl) .refl))))))

theorem execCreateRing_kept {n} : Kept s (execCreateRing n s) := by
  unfold execCreateRing
  refine .next (withCmd_keeps .refl fun _ => ?_)
  split
  · exact complete_keeps .refl
  · exact .ite (makeRing_keeps .refl) (setProg_keeps (.set .refl id id id))

theorem execCreateRingTagsFreed_kept {n} : Kept s (execCreateRingTagsFreed n s) := by
  unfold execCreateRingTagsFreed
  split
  · split
    · exact .ite (.next (complete_keeps (.set .refl id id id))) (.ite (.next (makeRing_keeps .refl)) (.next .refl))
    · exact .next .refl
  · exact .next .refl

theorem execDeleteRing_kept {n} : Kept s (execDeleteRing n s) := by
  unfold execDeleteRing
  refine .next (withCmd_keeps .refl fun _ => ?_)
  dsimp only
  split
  · exact complete_keeps .refl
  · exact .ite (complete_keeps .refl) (postAll_keeps (setProg_keeps (abortList_keeps (.set .refl id id id))))

theorem execDeleteRingDrained_kept {n} : Kept s (execDeleteRingDrained n s) := by
  unfold execDeleteRingDrained
  split
  · split
    · exact .ite (.next (complete_keeps .refl)) (.ite (.next (complete_keeps (removeRing_keeps (dropStreams_keeps .refl))))
        (.next .refl))
    · exact .next .refl
  · exact .next .refl

theorem execAbort_kept {n} : Kept s (execAbort n s) := by
  unfold execAbort
  refine .next (withCmd_keeps .refl fun _ => ?_)
  dsimp only
  split
  · exact complete_keeps .refl
  · exact .ite (complete_keeps .refl) (postAll_keeps (setProg_keeps (abortList_keeps .refl)))

theorem execAbortComplete_kept {n} : Kept s (execAbortComplete n s) := by
  unfold execAbortComplete
  split
  · split
    · exact .ite (.next .refl) (.next (complete_keeps .refl))
    · exact .next .refl
  · exact .next .refl

/-! ### The auxiliary copy engine -/

theorem execAceArm_kept {c} : Kept s (execAceArm c s) :=
  .next (whenReached_keeps .refl (ctrlWrite_keeps .refl fun _ => armChannel_keeps .refl))

theorem execAceDisarm_kept {c} : Kept s (execAceDisarm c s) :=
  .next (whenReached_keeps .refl (ctrlWrite_keeps .refl fun _ => disarmChannel_keeps .refl))

theorem execAceGo_kept {c} : Kept s (execAceGo c s) :=
  .next (whenReached_keeps .refl (ctrlWrite_keeps .refl fun _ => goChannel_keeps .refl))

theorem execAceIterationComplete_kept {c data} : Kept s (execAceIterationComplete c data s) :=
  .ite (.next .refl) (.next (endIter_keeps (.ite (.set (.ite_left (serveTo_keeps .refl) writeHost_keeps) id id id) (.ite_left
    (serveTo_keeps .refl) writeHost_keeps))))

theorem execAceBurstFail_kept {c done domainClosed err data} : Kept s (execAceBurstFail c done domainClosed err data s) := by
  unfold execAceBurstFail
  refine .ite (.next .refl) ?_
  extract_lets noted counted served written a
  have hnoted : Keeps s noted := by
    unfold noted
    split
    · exact .ite_left .refl logReadErr_keeps
    · exact .ite_right .refl noteBmu_keeps
  have hwritten : Keeps s written := .ite_left (serveTo_keeps (.ite_left hnoted countFault_keeps)) writeHost_keeps
  exact .ite (.next (countFault_keeps (setAce_keeps (setAce_keeps hwritten))))
    (.next (logFault_keeps (countFault_keeps (haltAce_keeps (setAce_keeps hwritten)))))

theorem execAceRetryWaitEnd_kept {dt c} : Kept s (execAceRetryWaitEnd dt c s) := by
  unfold execAceRetryWaitEnd
  dsimp only
  split
  · exact .ite (.next (setAce_keeps (advance_keeps .refl))) (.next (advance_keeps .refl))
  · exact .next (advance_keeps .refl)

/-! ### The host link -/

theorem execSubmissionDoorbell_kept {fn slot v} : Kept s (execSubmissionDoorbell fn slot v s) :=
  .next (.ite (whenReached_keeps .refl (doorbell_keeps .refl)) .refl)

theorem execCompletionDoorbell_kept {fn slot v} : Kept s (execCompletionDoorbell fn slot v s) :=
  .next (.ite (whenReached_keeps .refl (doorbell_keeps .refl)) .refl)

theorem execAdminRingEnable_kept : Kept s (execAdminRingEnable s) := .next (whenReached_keeps .refl (adminOn_keeps .refl))

theorem execAdminRingDisable_kept : Kept s (execAdminRingDisable s) := .next (whenReached_keeps .refl (adminOff_keeps .refl))

theorem execAdminRingDrained_kept : Kept s (execAdminRingDrained s) := .next (.ite (adminGone_keeps .refl) .refl)

theorem execFlrInitiate_kept {fn} : Kept s (execFlrInitiate fn s) :=
  .next (.ite (wake_keeps (flrStart_keeps .refl)) (cfgDo_keeps .refl (flrStart_keeps .refl)))

theorem execFlrComplete_kept {fn} : Kept s (execFlrComplete fn s) := .next (.ite (.set .refl id id id) .refl)

theorem execVfEnableSet_kept : Kept s (execVfEnableSet s) :=
  .next (cfgDo_keeps .refl (.ite .refl (.ite_left (.set .refl id id id) raise_keeps)))

theorem execVfEnableClear_kept : Kept s (execVfEnableClear s) := .next (cfgDo_keeps .refl (removeVfs_keeps .refl))

theorem execBusMasterDisable_kept {fn d3} : Kept s (execBusMasterDisable fn d3 s) :=
  .next (cfgDo_keeps .refl (.ite (settle_keeps (hostLost_keeps (setFn_keeps .refl))) (setFn_keeps .refl)))

theorem execBusMasterEnable_kept {fn d0} : Kept s (execBusMasterEnable fn d0 s) :=
  .next (cfgDo_keeps .refl (hostBack_keeps (setFn_keeps .refl)))

theorem execMsixUnmask_kept {fn vec} : Kept s (execMsixUnmask fn vec s) := by
  unfold execMsixUnmask
  split
  · exact .next (.ite (whenReached_keeps .refl (flushPba_keeps (setFn_keeps .refl))) .refl)
  · exact .next (cfgDo_keeps .refl (flushPba_keeps (setFn_keeps .refl)))

theorem execHoldoffEnd_kept {dt e} : Kept s (execHoldoffEnd dt e s) := by
  unfold execHoldoffEnd
  dsimp only
  split
  · exact .ite (.next (.foldl (fun _ _ => sendMsix_keeps .refl) _ (.set (advance_keeps .refl) id id id)))
      (.next (advance_keeps .refl))
  · exact .next (advance_keeps .refl)

theorem execPerstFall_kept : Kept s (execPerstFall s) :=
  .ite (.next (.ite (.set (hostSideReset_keeps (.set .refl id id id)) id id id) (.foldl (fun _ _ => flrSteps_keeps .refl) _
    (hostSideReset_keeps (.set .refl id id id))))) (.next .refl)

theorem execPerstRise_kept : Kept s (execPerstRise s) :=
  .ite (.next (wake_keeps (openWindow900_keeps (.set .refl id id id)))) (.next .refl)

theorem execCrsWindowEnd_kept {dt} : Kept s (execCrsWindowEnd dt s) :=
  .next (.ite (fwUp_keeps (.set (advance_keeps .refl) id id id)) (advance_keeps .refl))

theorem execLinkUp_kept : Kept s (execLinkUp s) := .ite (.next (hostBack_keeps (fwUp_keeps (.set .refl id id id)))) (.next .refl)

theorem execLinkDown_kept {err} : Kept s (execLinkDown err s) := by
  unfold execLinkDown
  refine .ite (.next (settle_keeps (.foldl (fun _ _ => hostLost_keeps .refl) _ (.set ?_ id id id)))) (.next .refl)
  split
  · exact logUnc_keeps .refl
  · exact .refl

/-! ### Contexts -/

theorem execCreateContext_kept {n desc} : Kept s (execCreateContext n desc s) :=
  .next (withCmd_keeps .refl fun _ => .ite (complete_keeps .refl) (.ite (complete_keeps .refl) (.ite (complete_keeps
    (cmdRead_keeps .refl)) (.ite (complete_keeps (cmdRead_keeps .refl)) (complete_keeps (.set (cmdRead_keeps .refl) id id id))))))

theorem execModifyContext_kept {n desc} : Kept s (execModifyContext n desc s) := by
  unfold execModifyContext
  refine .next (withCmd_keeps .refl fun _ => ?_)
  split
  · exact complete_keeps .refl
  · exact .ite (complete_keeps .refl) (.ite (complete_keeps .refl) (.ite (complete_keeps (cmdRead_keeps .refl))
      (.ite (complete_keeps (cmdRead_keeps .refl)) (.ite (complete_keeps (cmdRead_keeps .refl)) (complete_keeps (countHw_keeps
      (.ite_right (updCtx_keeps (cmdRead_keeps .refl)) loseLooks_keeps)))))))

theorem execDeleteContext_kept {n} : Kept s (execDeleteContext n s) := by
  unfold execDeleteContext
  refine .next (withCmdW_keeps .refl fun _ => ?_)
  split
  · exact continueDelete_keeps .refl
  · split
    · exact complete_keeps .refl
    · refine .ite (complete_keeps .refl) (.ite (complete_keeps .refl) ?_)
      dsimp only
      split
      · split
        · exact continueDelete_keeps (startDelete_keeps .refl)
        · exact startDelete_keeps .refl
      · exact startDelete_keeps .refl

theorem execGetContextStatus_kept {n} : Kept s (execGetContextStatus n s) := .next (withCmd_keeps .refl fun _ => answer_keeps .refl)

/-! ### Faults and the watchdog -/

theorem execSetWatchdog_kept {n} : Kept s (execSetWatchdog n s) :=
  .next (withCmd_keeps .refl fun _ => complete_keeps (.set .refl id id id))

theorem execGetFaultLog_kept {n} : Kept s (execGetFaultLog n s) :=
  .next (withCmd_keeps .refl fun _ => .ite (complete_keeps .refl) (answer_keeps (.ite (.set .refl id id id) .refl)))

theorem execRetireBufferPage_kept {n copy} : Kept s (execRetireBufferPage n copy s) :=
  .next (withCmd_keeps .refl fun _ => .ite (complete_keeps .refl) (.ite (complete_keeps .refl) (.ite (complete_keeps .refl)
    (.ite (complete_keeps .refl) (.ite (complete_keeps .refl) (complete_keeps (retirePage_keeps (noteCopy_keeps .refl))))))))

theorem execLaneDisable_kept {n} : Kept s (execLaneDisable n s) :=
  .next (withCmd_keeps .refl fun _ => .ite (complete_keeps .refl) (complete_keeps (updXp_keeps (.set .refl id id id))))

theorem execWatchdogExamine_kept {dt} : Kept s (execWatchdogExamine dt s) :=
  .next (postAll_keeps (.foldl (fun _ _ => examineOne_keeps .refl) _ (advance_keeps .refl)))

/-! ### Power, gates, engines and thermal levels -/

theorem execThermalSample_kept {dt temps ext} : Kept s (execThermalSample dt temps ext s) :=
  .ite (.next (advance_keeps .refl)) (.next (settle_keeps (applyThermal_keeps (.ite_right (.ite_left
    (.set (advance_keeps .refl) id id id) raise_keeps) changeLevel_keeps))))

theorem execShutdownPowerOff_kept {dt} : Kept s (execShutdownPowerOff dt s) := by
  unfold execShutdownPowerOff
  dsimp only
  split
  · exact .ite (.next (.set (advance_keeps .refl) id id fun _ => rfl)) (.next (advance_keeps .refl))
  · exact .next (advance_keeps .refl)

theorem execThermalConfig_kept {n} : Kept s (execThermalConfig n s) :=
  .next (withCmd_keeps .refl fun _ => .ite (complete_keeps .refl) (.ite (complete_keeps .refl) (complete_keeps
    (.set .refl id id id))))

theorem execGateClosed_kept {dt k} : Kept s (execGateClosed dt k s) := .next (.ite_left (advance_keeps .refl) gateDone_keeps)

theorem execGateForceClose_kept {dt k waiting} : Kept s (execGateForceClose dt k waiting s) :=
  .ite (.next (gateDone_keeps (setGate_keeps (raiseGate_keeps (forceLose_keeps (advance_keeps .refl))))))
    (.next (advance_keeps .refl))

theorem execEnterLull_kept {n} : Kept s (execEnterLull n s) :=
  .next (withCmd_keeps .refl fun _ => .ite (complete_keeps .refl) (.ite (complete_keeps .refl) (setProg_keeps
    (.set .refl id id id))))

theorem execLullQuiesced_kept : Kept s (execLullQuiesced s) := by
  unfold execLullQuiesced
  split
  · exact .ite (.next .refl) (.ite (.next (settle_keeps (closeAllOpen_keeps .refl))) (.next (startClose_keeps
      (.set .refl id id id))))
  · exact .next .refl

theorem execQuiesceTimeout_kept {dt} : Kept s (execQuiesceTimeout dt s) := by
  unfold execQuiesceTimeout
  dsimp only
  split
  · exact .ite (.next (applyThermal_keeps (undoLull_keeps (advance_keeps .refl)))) (.next (advance_keeps .refl))
  · exact .next (advance_keeps .refl)

theorem execLullStateSaved_kept : Kept s (execLullStateSaved s) := by
  unfold execLullStateSaved
  split
  · exact .ite (.next .refl) (.next (.ite (beginExit_keeps (enterState_keeps (.ite (gateDone_keeps .refl) .refl)))
      (.set (enterState_keeps (.ite (gateDone_keeps .refl) .refl)) id id id)))
  · exact .next .refl

theorem execHostLinkWake_kept : Kept s (execHostLinkWake s) := .next (.ite (wake_keeps .refl) .refl)

theorem execLullExitComplete_kept {dt digestOk} : Kept s (execLullExitComplete dt digestOk s) := by
  unfold execLullExitComplete
  dsimp only
  split
  · refine .ite (.next (advance_keeps .refl)) (.next (startMbx_keeps (settle_keeps (applyThermal_keeps (raiseAttn_keeps
      (logPower_keeps (applyAll_keeps ?_)))))))
    exact .ite_else (.ite_else (raiseHeld_keeps (runOwed_keeps (openGates_keeps (.set (.ite_left (advance_keeps .refl)
      leaveLull3_keeps) id id id)))) (fun h => .set h id id id) firmwareStarts_keeps) openWindow900_keeps fwUp_keeps
  · exact .next (advance_keeps .refl)

theorem execFenceEngine_kept {n} : Kept s (execFenceEngine n s) := by
  unfold execFenceEngine
  refine .next (withCmd_keeps .refl fun _ => .ite (complete_keeps .refl) ?_)
  split
  · exact complete_keeps .refl
  · exact complete_keeps (.ite (setEng_keeps .refl) .refl)
  · exact setProg_keeps (setEng_keeps .refl)
  · exact .ite_right (setProg_keeps (setEng_keeps .refl)) fenceDone_keeps

theorem execEngineDrained_kept {cls idx} : Kept s (execEngineDrained cls idx s) := .next (.ite (fenceDone_keeps .refl) .refl)

theorem execEngineDrainTimeout_kept {dt cls idx} : Kept s (execEngineDrainTimeout dt cls idx s) :=
  .ite (.next (.ite_right (.set (stopWork_keeps (advance_keeps .refl)) id id id) fenceDone_keeps)) (.next (advance_keeps .refl))

theorem execResetEngine_kept {n pass} : Kept s (execResetEngine n pass s) :=
  .next (withCmd_keeps .refl fun _ => .ite (complete_keeps .refl) (complete_keeps (.ite_left (setEng_keeps .refl) updXp_keeps)))

theorem execPfailQualified_kept : Kept s (execPfailQualified s) := .ite (.next .refl) (.next (.set .refl id id id))

theorem execPfailRelease_kept : Kept s (execPfailRelease s) :=
  .ite (.next (startMbx_keeps (wake_keeps (raise_keeps (.set .refl id id id))))) (.next (.ite (wake_keeps .refl) .refl))

/-! ### Keys and nonces -/

theorem execNonceReserved_kept : Kept s (execNonceReserved s) := by
  unfold execNonceReserved
  split
  · exact .next (.set .refl id id id)
  · exact .next .refl

theorem execNonceJournalFail_kept : Kept s (execNonceJournalFail s) := by
  unfold execNonceJournalFail
  split
  · exact .next (noteNstate_keeps (raise_keeps (.set .refl id id id)))
  · exact .next .refl

theorem execNonceRetry_kept {dt} : Kept s (execNonceRetry dt s) := by
  unfold execNonceRetry
  dsimp only
  split
  · exact .ite (.next (startJournal_keeps (advance_keeps .refl))) (.next (advance_keeps .refl))
  · exact .next (advance_keeps .refl)

theorem execNonceStatus_kept {n} : Kept s (execNonceStatus n s) := .next (withCmd_keeps .refl fun _ => answer_keeps .refl)

theorem execKeyLoadWrapped_kept {n blob} : Kept s (execKeyLoadWrapped n blob s) := by
  unfold execKeyLoadWrapped
  refine .next (withCmd_keeps .refl fun _ => .ite (complete_keeps .refl) (.ite (complete_keeps (cmdRead_keeps .refl))
    (.ite (complete_keeps (cmdRead_keeps .refl)) (.ite (complete_keeps (cmdRead_keeps .refl)) (.ite (complete_keeps
    (cmdRead_keeps .refl)) (.ite (complete_keeps (cmdRead_keeps .refl)) ?_))))))
  split
  · exact complete_keeps (cmdRead_keeps .refl)
  · exact complete_keeps (.ite (.set (cmdRead_keeps .refl) id id id) (.set (cmdRead_keeps .refl) id id id))

theorem execKeyErase_kept {n} : Kept s (execKeyErase n s) := by
  unfold execKeyErase
  refine .next (withCmdW_keeps .refl fun _ => ?_)
  dsimp only
  split
  · exact .ite (complete_keeps (eraseSlot_keeps .refl)) .refl
  · exact .ite (complete_keeps .refl) (.ite (complete_keeps (eraseSlot_keeps (postAll_keeps (setProg_keeps
      (abortList_keeps .refl))))) (postAll_keeps (setProg_keeps (abortList_keeps .refl))))

theorem execDomainJoin_kept {n blk} : Kept s (execDomainJoin n blk s) := by
  unfold execDomainJoin
  refine .next (withCmd_keeps .refl fun _ => .ite .refl (.ite (complete_keeps .refl) (.ite (complete_keeps (.set .refl id id id))
    (.ite (complete_keeps .refl) ?_))))
  dsimp only
  split
  · exact complete_keeps (cmdRead_keeps .refl)
  · exact complete_keeps (noteNstate_keeps (.set (cmdRead_keeps .refl) id id id))

theorem execGetDeviceCert_kept {n} : Kept s (execGetDeviceCert n s) :=
  .next (withCmd_keeps .refl fun _ => .ite (complete_keeps .refl) (answer_keeps .refl))

theorem execSkCommitGo_kept {fn slot v} : Kept s (execSkCommitGo fn slot v s) :=
  .next (.ite (.ite (windowCommit_keeps .refl) .refl) (.ite (logUnc_keeps .refl) .refl))

theorem execSkCommitClear_kept {fn slot v} : Kept s (execSkCommitClear fn slot v s) :=
  .next (.ite (.ite (windowCommit_keeps .refl) .refl) (.ite (logUnc_keeps .refl) .refl))

theorem execSessionKeyClear_kept {n} : Kept s (execSessionKeyClear n s) := by
  unfold execSessionKeyClear
  refine .next (withCmd_keeps .refl fun _ => ?_)
  dsimp only
  split
  · exact complete_keeps .refl
  · exact .ite .refl (complete_keeps (updSk_keeps .refl))

theorem execCryptBlock_kept {n engine inSgl outSgl input aad ivt} :
    Kept s (execCryptBlock n engine inSgl outSgl input aad ivt s) := by
  unfold execCryptBlock
  refine .next (withCmdW_keeps .refl fun _ => ?_)
  split
  · exact complete_keeps .refl
  · dsimp only
    split
    · exact complete_keeps .refl
    · exact complete_keeps .refl
    · refine .ite (complete_keeps .refl) (.ite (complete_keeps .refl) (.ite (complete_keeps .refl) (.ite (complete_keeps .refl)
        (.ite (updCmd_keeps .refl) ?_))))
      have hdrawn {p : Prop} [Decidable p] : Keeps s (if p then nextIv s else (some 0, s)).2 := by
        split
        · exact nextIv_keeps .refl
        · exact .refl
      split
      · exact complete_keeps (countReject_keeps hdrawn)
      · exact complete_keeps (cmdWrite_keeps (cmdScatter_keeps (cryptReads_keeps hdrawn)))

/-! ### Records on their way to tape -/

theorem execWrite_kept {n sgl} : Kept s (execWrite n sgl s) := by
  unfold execWrite
  refine .next (withCmd_keeps .refl fun _ => ?_)
  split
  · exact endWrite_keeps .refl
  · exact .ite (endWrite_keeps .refl) (.ite (endWrite_keeps (readSgl_keeps .refl)) (updCmd_keeps (readSgl_keeps .refl)))

theorem execWriteBatch_kept {n descs sgls} : Kept s (execWriteBatch n descs sgls s) := by
  unfold execWriteBatch
  refine .next (withCmd_keeps .refl fun _ => ?_)
  split
  · exact endWrite_keeps .refl
  · exact .ite (endWrite_keeps .refl) (.ite .refl (.ite (endWrite_keeps (cmdRead_keeps .refl)) (finishWrite_keeps (updCmd_keeps
      (.foldl (fun _ _ => readSgl_keeps .refl) _ (cmdRead_keeps .refl))))))

theorem execRecordIngest_kept {n label data} : Kept s (execRecordIngest n label data s) := by
  unfold execRecordIngest
  split
  · refine .ite (.next .refl) (.ite (.next (failRec_keeps .refl)) (.ite (.next (failRec_keeps (readBuf_keeps
      (cmdRead_keeps .refl)))) ?_))
    dsimp only
    split
    · exact .next (updRec_keeps (readBuf_keeps (cmdRead_keeps .refl)))
    · exact .next (countHw_keeps (updCtx_keeps (updCmd_keeps (readBuf_keeps (cmdRead_keeps .refl)))))
  · exact .next .refl

theorem execHostReadError_kept {n cause} : Kept s (execHostReadError n cause s) := by
  unfold execHostReadError
  split
  · refine .ite ?_ (.next .refl)
    have hlogged {c e k v} : Keeps s (faultSpent (countFault (logReadErr s c cause) 0 1 0 0 0) e k v) :=
      faultSpent_keeps (countFault_keeps (logReadErr_keeps .refl))
    dsimp only
    split
    · exact .next (.ite_left hlogged failRec_keeps)
    · exact .next (complete_keeps (dropRecords_keeps (.set (.elim_right hlogged fun h _ => .ite_right h uncount_keeps) id id id)))
  · exact .next .refl

theorem execRecordCompress_kept {n ing coded} : Kept s (execRecordCompress n ing coded s) := by
  unfold execRecordCompress
  split
  · split
    · exact .ite (.next .refl) (.ite (.next (failRec_keeps .refl)) (.ite (.next (ingestFault_keeps (noteSeen_keeps .refl)))
        (.ite (.next (noteSeen_keeps .refl)) (.next (updRec_keeps (noteSeen_keeps .refl))))))
    · exact .next .refl
  · exact .next .refl

theorem execRecordSeal_kept {n engine} : Kept s (execRecordSeal n engine s) := by
  unfold execRecordSeal
  split
  · split
    · refine .ite (.next (updRec_keeps .refl)) (.ite (.next (failRec_keeps .refl)) (.ite (.next .refl) ?_))
      split
      · exact .next (failRec_keeps .refl)
      · dsimp only
        split
        · exact .next (failRec_keeps (countReject_keeps (nextIv_keeps .refl)))
        · exact .next (updRec_keeps (nextIv_keeps .refl))
    · exact .next .refl
  · exact .next .refl

theorem execCheckBack_kept {n engine chk} : Kept s (execCheckBack n engine chk s) := by
  unfold execCheckBack
  split
  · split
    · exact .ite (.next (failRec_keeps .refl)) (.ite (.next .refl) (.ite (.next (updRec_keeps (noteSeen_keeps .refl)))
        (.ite (.next (updRec_keeps (countFault_keeps (noteSeen_keeps .refl)))) (.next (failRec_keeps (faultSpent_keeps
        (countFault_keeps (noteSeen_keeps .refl))))))))
    · exact .next .refl
  · exact .next .refl

theorem execRecordPack_kept {n xfr lbl rows} : Kept s (execRecordPack n xfr lbl rows s) := by
  unfold execRecordPack
  split
  · split
    · refine .ite (.next .refl) (.ite (.next (failRec_keeps .refl)) (.ite (.next (failRec_keeps .refl))
        (.ite (.next (ingestFault_keeps (noteSeen_keeps (noteSeen_keeps .refl)))) (.ite (.next (ingestFault_keeps (noteSeen_keeps
        (noteSeen_keeps .refl)))) (.ite (.next (failRec_keeps (noteSeen_keeps (noteSeen_keeps .refl)))) ?_)))))
      dsimp only
      split
      · exact .next (atEop_keeps (noteSeen_keeps (noteSeen_keeps .refl)))
      · exact .next (settle_keeps (finishWrite_keeps (.ite_left (ackRecord_keeps (noteSeen_keeps (noteSeen_keeps .refl)))
          damageRows_keeps)))
    · exact .next .refl
  · exact .next .refl

theorem execFlushWindowExpire_kept {dt t rows} : Kept s (execFlushWindowExpire dt t rows s) := by
  unfold execFlushWindowExpire
  dsimp only
  split
  · split
    · exact .ite (.next (settle_keeps (damageRows_keeps (closeDataset_keeps (advance_keeps .refl))))) (.next (advance_keeps .refl))
    · exact .next (advance_keeps .refl)
  · exact .next (advance_keeps .refl)

/-! ### Writing datasets to tape -/

theorem execWriteSegmentBoundary_kept {dt t rows} : Kept s (execWriteSegmentBoundary dt t rows s) := by
  unfold execWriteSegmentBoundary
  dsimp only
  split
  · split
    · exact .ite (.next (interrupt_keeps (.ite_left (advance_keeps .refl) cutFlight_keeps)))
        (.ite (.ite (.next (updMount_keeps (sendAll_keeps (advance_keeps .refl)))) (.next (advance_keeps .refl)))
        (.ite (.next (.ite_right (advance_keeps .refl) abandon_keeps)) (.next (damageRows_keeps (updMount_keeps (.foldl (fun _ _ =>
        laneSegment_keeps .refl) _ (.ite_left (advance_keeps .refl) updXp_keeps)))))))
    · exact .next (advance_keeps .refl)
  · exact .next (advance_keeps .refl)

theorem execServiceDomainTick_kept {dt} : Kept s (execServiceDomainTick dt s) := .next (recompute_keeps (advance_keeps .refl))

theorem execDatasetBoundary_kept {t} : Kept s (execDatasetBoundary t s) := by
  unfold execDatasetBoundary
  split
  · split
    · exact .ite (.ite (.next (endPosition_keeps .refl)) (.next (afterBoundary_keeps (recomputeXport_keeps (pushMax_keeps
        (noteEw_keeps (takeBlocks_keeps (endPosition_keeps .refl)))))))) (.next .refl)
    · exact .next .refl
  · exact .next .refl

theorem execTransportRestart_kept {t} : Kept s (execTransportRestart t s) := by
  unfold execTransportRestart
  split
  · split
    · exact .ite (.next .refl) (.ite (.ite (.next (updXp_keeps .refl)) (.next .refl)) (.ite (.next .refl)
        (.ite (.next (.ite (startWriting_keeps .refl) (.ite (exhaust_keeps .refl) (updXp_keeps .refl)))) (.next .refl))))
    · exact .next .refl
  · exact .next .refl

theorem execWrapTurnaround_kept {t} : Kept s (execWrapTurnaround t s) := by
  unfold execWrapTurnaround
  split
  · split
    · exact .ite (.next (updXp_keeps (.set .refl id id id))) (.next (.ite (startWriting_keeps (updXp_keeps (.set .refl id id id)))
        (updXp_keeps (updXp_keeps (.set .refl id id id)))))
    · exact .next .refl
  · exact .next .refl

theorem execWritePositionReturn_kept {t} : Kept s (execWritePositionReturn t s) := by
  unfold execWritePositionReturn
  split
  · split
    · exact .ite (.next (updXp_keeps .refl)) (.next .refl)
    · exact .next .refl
  · exact .next .refl

theorem execSpeedMatchTick_kept {dt t} : Kept s (execSpeedMatchTick dt t s) := by
  unfold execSpeedMatchTick
  dsimp only
  split
  · split
    · exact .ite (.next (updXp_keeps (advance_keeps .refl))) (.ite (.next (updXp_keeps (advance_keeps .refl)))
        (.next (advance_keeps .refl)))
    · exact .next (advance_keeps .refl)
  · exact .next (advance_keeps .refl)

/-! ### The read channel -/

theorem execSyncWindowEnd_kept {l found} : Kept s (execSyncWindowEnd l found s) := by
  unfold execSyncWindowEnd
  refine .ite (.next .refl) ?_
  split
  · exact .next (setLane_keeps .refl)
  · exact .next (setLane_keeps .refl)

theorem execSyncAcquired_kept {l matched preErrs markErrs} : Kept s (execSyncAcquired l matched preErrs markErrs s) :=
  .ite (.next (setLane_keeps .refl)) (.next .refl)

theorem execSeparatorDetected_kept {l errs} : Kept s (execSeparatorDetected l errs s) :=
  .ite (.next (setLane_keeps .refl)) (.next .refl)

theorem execDropoutEntry_kept {l} : Kept s (execDropoutEntry l s) := .ite (.next (setLane_keeps (adapt_keeps .refl))) (.next .refl)

theorem execDropoutExit_kept {l} : Kept s (execDropoutExit l s) := .ite (.next (setLane_keeps .refl)) (.next .refl)

theorem execCodewordArrival_kept {l cls y gaps} : Kept s (execCodewordArrival l cls y gaps s) := by
  unfold execCodewordArrival
  refine .ite (.next .refl) (.ite ?_ (.ite (.next (arrive_keeps .refl)) (.next .refl)))
  split
  · exact .ite (.next (judge_keeps (setLane_keeps .refl))) (.next (arrive_keeps (setLane_keeps .refl)))
  · exact .next .refl

theorem execDecoderGrant_kept {d} : Kept s (execDecoderGrant d s) := by
  unfold execDecoderGrant
  refine .ite (.next .refl) ?_
  split
  · exact .next .refl
  · exact .ite (.next (endUnconverged_keeps (dropSample_keeps .refl))) (.next (updSample_keeps
      (.set (.set .refl id id id) id id id)))

theorem execDecodeEnd_kept {d iters} : Kept s (execDecodeEnd d iters s) := by
  unfold execDecodeEnd
  split
  · exact .next .refl
  · split
    · exact .next (.set .refl id id id)
    · exact .ite (.next .refl) (.ite (.next (judge_keeps (dropSample_keeps (countIters_keeps (.set .refl id id id)))))
        (.next (endPass_keeps (countIters_keeps (.set .refl id id id)))))

theorem execPoolEvaluation_kept {dt} : Kept s (execPoolEvaluation dt s) :=
  .next (.ite_left (.set (advance_keeps .refl) id id id) raise_keeps)

/-! ### Streams -/

theorem execOpenStream_kept {n} : Kept s (execOpenStream n s) := by
  unfold execOpenStream
  refine .next (withCmdW_keeps .refl fun _ => ?_)
  split
  · exact complete_keeps .refl
  · split
    · exact complete_keeps .refl
    · dsimp only
      split
      · exact .refl
      · exact .ite (openNow_keeps .refl) (.ite (openNow_keeps (updXp_keeps .refl)) (.ite (complete_keeps .refl) (.ite .refl
          (setProg_keeps (closePart_keeps .refl)))))

theorem execFlush_kept {n} : Kept s (execFlush n s) := .next (withCmd_keeps .refl fun _ => startFlush_keeps .refl)

theorem execSync_kept {n} : Kept s (execSync n s) := .next (withCmd_keeps .refl fun _ => startFlush_keeps .refl)

theorem execCloseStream_kept {n} : Kept s (execCloseStream n s) :=
  .next (withCmd_keeps .refl fun _ => .ite (complete_keeps .refl) (settle_keeps (setProg_keeps .refl)))

theorem execGetPosition_kept {n} : Kept s (execGetPosition n s) := by
  unfold execGetPosition
  refine .next (withCmd_keeps .refl fun _ => ?_)
  split
  · exact complete_keeps .refl
  · split
    · split
      · exact answer_keeps .refl
      · exact complete_keeps .refl
    · exact complete_keeps .refl

/-! ### Mount sessions -/

theorem execMount_kept {n cmOk} : Kept s (execMount n cmOk s) := by
  unfold execMount
  refine .next (withCmd_keeps .refl fun _ => ?_)
  dsimp only
  split
  · exact complete_keeps .refl
  · exact .ite (complete_keeps .refl) (.ite (complete_keeps .refl) (.ite (complete_keeps .refl) (.ite (complete_keeps .refl)
      (.ite (complete_keeps .refl) (.ite .refl (.ite (mountGo_keeps .refl) (cmFail_keeps (setProg_keeps .refl))))))))

theorem execUnmount_kept {n cmOk} : Kept s (execUnmount n cmOk s) := by
  unfold execUnmount
  refine .next (withCmdW_keeps .refl fun _ => ?_)
  dsimp only
  split
  · exact unmountGo_keeps .refl
  · exact .ite (complete_keeps .refl) (.ite (complete_keeps .refl) (unmountGo_keeps (postAll_keeps (setProg_keeps
      (.set (abortList_keeps .refl) id id id)))))

theorem execFormatPartitions_kept {n specs} : Kept s (execFormatPartitions n specs s) := by
  unfold execFormatPartitions
  refine .next (withCmd_keeps .refl fun _ => ?_)
  dsimp only
  split
  · exact complete_keeps .refl
  · exact .ite (complete_keeps .refl) (.ite (complete_keeps .refl) (.ite (complete_keeps .refl) (.ite .refl (.ite (complete_keeps
      (cmdRead_keeps .refl)) (complete_keeps (storeCm_keeps (cmdRead_keeps .refl)))))))

theorem execCmUpdate_kept {t cmOk} : Kept s (execCmUpdate t cmOk s) := by
  unfold execCmUpdate
  split
  · exact .ite (.next (.ite (storeCm_keeps .refl) (cmFail_keeps .refl))) (.next .refl)
  · exact .next .refl

theorem execCmAccessRetry_kept {dt t ok} : Kept s (execCmAccessRetry dt t ok s) := by
  unfold execCmAccessRetry
  dsimp only
  split
  · exact .ite (.next (advance_keeps .refl)) (.ite (.next (cmResume_keeps (countFault_keeps (updXp_keeps (advance_keeps .refl)))))
      (.ite (.next (countFault_keeps (updXp_keeps (advance_keeps .refl)))) (.next (cmGiveUp_keeps (faultSpent_keeps (updXp_keeps
      (advance_keeps .refl)))))))
  · exact .next (advance_keeps .refl)

/-! ### Restore -/

theorem execRead_kept {n sgl} : Kept s (execRead n sgl s) := by
  unfold execRead
  refine .next (withCmdW_keeps .refl fun _ => ?_)
  split
  · split
    · exact readStep_keeps .refl
    · dsimp only
      split
      · exact complete_keeps .refl
      · split
        · exact complete_keeps .refl
        · exact .ite (complete_keeps .refl) (.ite (complete_keeps (readSgl_keeps .refl)) (.ite
            (.elim_right (setProg_keeps (updCmd_keeps (.ite_right (.ite_right (takeTape_keeps .refl) readSgl_keeps) moveTape_keeps)))
              fun h _ => readStep_keeps h)
            (waitTape_keeps (takeTape_keeps .refl))))
  · exact complete_keeps .refl

theorem execRecordOpen_kept {n engine row xfr} : Kept s (execRecordOpen n engine row xfr s) := by
  unfold execRecordOpen
  split
  · split
    · refine .ite (.next (endRead_keeps .refl)) (.ite (.next .refl) (.ite (.next (returnRec_keeps .refl))
        (.ite (.next (restoreFault_keeps (noteSeen_keeps .refl))) (.ite (.next (restoreFault_keeps (noteSeen_keeps
        (noteSeen_keeps .refl)))) ?_))))
      split
      · exact .next (returnRec_keeps (noteSeen_keeps (noteSeen_keeps .refl)))
      · exact .ite (.ite (.next (returnRec_keeps (noteSeen_keeps (noteSeen_keeps .refl)))) (.ite (.next (setProg_keeps
          (countFault_keeps (noteSeen_keeps (noteSeen_keeps .refl))))) (.next (returnRec_keeps (openSpent_keeps (noteSeen_keeps
          (noteSeen_keeps .refl))))))) (.next (setProg_keeps (noteSeen_keeps (noteSeen_keeps .refl))))
    · exact .next .refl
  · exact .next .refl

theorem execRecordDecompress_kept {n egr} : Kept s (execRecordDecompress n egr s) := by
  unfold execRecordDecompress
  split
  · split
    · exact .ite (.next .refl) (.ite (.next (endRead_keeps .refl)) (.ite (.next (restoreFault_keeps (noteSeen_keeps .refl)))
        (.ite (.next (returnRec_keeps (noteSeen_keeps .refl))) (.ite (.next (setProg_keeps (countFault_keeps
        (noteSeen_keeps .refl)))) (.next (returnRec_keeps (.ite_right (noteSeen_keeps .refl) openSpent_keeps)))))))
    · exact .next .refl
  · exact .next .refl

theorem execLocate_kept {n} : Kept s (execLocate n s) := by
  unfold execLocate
  refine .next (withCmdW_keeps .refl fun _ => ?_)
  split
  · exact complete_keeps .refl
  · split
    · exact complete_keeps .refl
    · dsimp only
      split
      · refine .ite .refl ?_
        split
        · exact restTape_keeps (complete_keeps (updStrm_keeps .refl))
        · exact restTape_keeps (complete_keeps (updStrm_keeps .refl))
      · exact .ite (setProg_keeps (moveTape_keeps (takeTape_keeps .refl))) (waitTape_keeps (takeTape_keeps .refl))

theorem execVerifyScan_kept {n} : Kept s (execVerifyScan n s) := by
  unfold execVerifyScan
  refine .next (withCmdW_keeps .refl fun _ => ?_)
  split
  · split
    · exact .ite (endScan_keeps .refl) .refl
    · split
      · exact complete_keeps .refl
      · exact .ite (complete_keeps .refl) (.ite (.ite (setProg_keeps (moveTape_keeps (takeTape_keeps .refl))) (endScan_keeps
          (takeTape_keeps .refl))) (waitTape_keeps (takeTape_keeps .refl)))
  · exact complete_keeps .refl

theorem execDatasetRecover_kept {t ds} : Kept s (execDatasetRecover t ds s) := by
  unfold execDatasetRecover
  split
  · split
    · split
      · dsimp only
        split
        · exact .next .refl
        · refine .ite (.next .refl) ?_
          split
          next hlater => exact .next (recoverLater_keeps hlater (notePins_keeps .refl))
          · have hsettled {r b} : Keeps s (settleDs (readBoundary (countRecover (notePins s t r) t ds r.out) t) t ds b) :=
              settleDs_keeps (readBoundary_keeps (countRecover_keeps (notePins_keeps .refl)))
            split
            · exact .ite (.next (restTape_keeps (complete_keeps (.ite_left hsettled addRestored_keeps))))
                (.next (.ite_left (setProg_keeps (.ite_right (scanTags_keeps (.ite_left hsettled addRestored_keeps))
                  releaseRestored_keeps)) endScan_keeps))
            · exact .next (.ite_left (updCmd_keeps (addRestored_keeps hsettled)) fun h => .elim_right h fun h _ => readStep_keeps h)
            · exact .next (readBoundary_keeps (countRecover_keeps (notePins_keeps .refl)))
      · exact .next .refl
    · exact .next .refl
  · exact .next .refl

/-! ### The offload service -/

theorem execCompress_kept {n inSgl outSgl} : Kept s (execCompress n inSgl outSgl s) :=
  .next (withCmd_keeps .refl fun _ => .ite (complete_keeps .refl) (startJob_keeps .refl))

theorem execDecompress_kept {n inSgl outSgl} : Kept s (execDecompress n inSgl outSgl s) :=
  .next (withCmd_keeps .refl fun _ => .ite (complete_keeps .refl) (startJob_keeps .refl))

theorem execResume_kept {n ctx inSgl outSgl} : Kept s (execResume n ctx inSgl outSgl s) :=
  .next (withCmd_keeps .refl fun _ => .ite (complete_keeps (cmdRead_keeps .refl)) (.ite (complete_keeps (cmdRead_keeps .refl))
    (startJob_keeps (cmdRead_keeps .refl))))

theorem execServiceJobEnd_kept {n r} : Kept s (execServiceJobEnd n r s) := by
  unfold execServiceJobEnd
  split
  · refine .ite (.next .refl) ?_
    extract_lets checked
    have hchecked : Keeps s checked := noteSeen_keeps .refl
    refine .ite (.next hchecked) ?_
    have hscattered {c j f b} : Keeps s (cmdScatter (secondDecode checked c j r f).1 c j.outTo 0 b false) :=
      cmdScatter_keeps (secondDecode_keeps hchecked)
    exact .next (leaveLane_keeps (complete_keeps (.ite (cmdWrite_keeps hscattered) hscattered)))
  · exact .next .refl

/-! ### Parameter blocks and calibration -/

theorem execTransportConfig_kept {n blk} : Kept s (execTransportConfig n blk s) := by
  unfold execTransportConfig
  refine .next (withCmd_keeps .refl fun _ => .ite (complete_keeps .refl) (.ite (complete_keeps .refl) ?_))
  dsimp only
  split
  · exact .elim (complete_keeps (cmdRead_keeps .refl)) fun _ => complete_keeps (updXp_keeps (cmdRead_keeps .refl))
  · exact .elim (complete_keeps (cmdRead_keeps .refl)) fun _ => complete_keeps (updXp_keeps (cmdRead_keeps .refl))
  · exact .elim (complete_keeps (cmdRead_keeps .refl)) fun _ => complete_keeps (.set (cmdRead_keeps .refl) id id id)

theorem execGetTransportStatus_kept {n} : Kept s (execGetTransportStatus n s) := by
  unfold execGetTransportStatus
  refine .next (withCmd_keeps .refl fun _ => ?_)
  dsimp only
  split
  · exact complete_keeps .refl
  · exact answer_keeps .refl

theorem execStartupCalibration_kept {t responds} : Kept s (execStartupCalibration t responds s) := by
  unfold execStartupCalibration
  split
  · exact .ite (.next (raise_keeps (startedUp_keeps .refl))) (.next .refl)
  · exact .next .refl

theorem execCalibrate_kept {n passed} : Kept s (execCalibrate n passed s) := by
  unfold execCalibrate
  refine .next (withCmdW_keeps .refl fun _ => ?_)
  dsimp only
  split
  · exact complete_keeps .refl
  · exact .ite (.ite .refl (complete_keeps (calibrateDone_keeps .refl))) (.ite (complete_keeps .refl) (.ite (complete_keeps .refl)
      (.ite (complete_keeps .refl) (.ite (complete_keeps .refl) (.ite .refl (setProg_keeps (updXp_keeps .refl)))))))

/-! ### Servo and write inhibit -/

theorem execServoFrame_kept {t a b wclkDev} : Kept s (execServoFrame t a b wclkDev s) := by
  unfold execServoFrame
  split
  · exact .ite (.next .refl) (.next (pspTurn_keeps (sendPsp_keeps (noteLoss_keeps (updXp_keeps (.ite_left (setCond_keeps
      (gather_keeps (.set (.set .refl id id id) id id id))) updXp_keeps))))))
  · exact .next .refl

theorem execLposWord_kept {t ch syms} : Kept s (execLposWord t ch syms s) := by
  unfold execLposWord
  split
  · exact .ite (.next .refl) (.next (followTape_keeps (judgeServo_keeps (updXp_keeps .refl))))
  · exact .next .refl

theorem execServoLockLoss_kept {t ch} : Kept s (execServoLockLoss t ch s) := by
  unfold execServoLockLoss
  split
  · exact .ite (.next .refl) (.next (judgeServo_keeps (updXp_keeps .refl)))
  · exact .next .refl

theorem execServoLossTimeout_kept {dt t} : Kept s (execServoLossTimeout dt t s) := by
  unfold execServoLossTimeout
  dsimp only
  split
  · split
    · exact .ite (.next (advance_keeps .refl)) (.ite (.next (raise_keeps (countFault_keeps (updXp_keeps (updXp_keeps
        (interrupt_keeps (countFault_keeps (advance_keeps .refl)))))))) (.next (.ite_right (updXp_keeps (interrupt_keeps
        (countFault_keeps (advance_keeps .refl)))) faultXport_keeps)))
    · exact .next (advance_keeps .refl)
  · exact .next (advance_keeps .refl)

theorem execVelocityLoopTick_kept {t} : Kept s (execVelocityLoopTick t s) := by
  unfold execVelocityLoopTick
  split
  · exact .ite (.next .refl) (.next (.ite (statusReads_keeps (sendPsp_keeps (sendPsp_keeps (judgeServo_keeps (updXp_keeps
      (.set .refl id id id)))))) (pspTurn_keeps (sendPsp_keeps (sendPsp_keeps (judgeServo_keeps (updXp_keeps
      (.set .refl id id id))))))))
  · exact .next .refl

theorem execTensionLoopTick_kept {t mn} : Kept s (execTensionLoopTick t mn s) := by
  unfold execTensionLoopTick
  split
  · exact .ite (.next .refl) (.next (updXp_keeps (noteMissing_keeps (gather_keeps (.set .refl id id id)))))
  · exact .next .refl

theorem execShockInput_kept {t w} : Kept s (execShockInput t w s) := by
  unfold execShockInput
  split
  · exact .next (.ite (setCause_keeps (updXp_keeps (recognised_keeps .refl))) (recognised_keeps .refl))
  · exact .next .refl

theorem execShockCleared_kept {t} : Kept s (execShockCleared t s) := by
  unfold execShockCleared
  split
  · exact .next (setCause_keeps (updXp_keeps .refl))
  · exact .next .refl

theorem execWriteFaultInput_kept {t w} : Kept s (execWriteFaultInput t w s) := by
  unfold execWriteFaultInput
  split
  · exact .ite (.next (setCause_keeps (updXp_keeps (recognised_keeps .refl)))) (.next (recognised_keeps .refl))
  · exact .next .refl

theorem execWfltClearRetry_kept {dt t} : Kept s (execWfltClearRetry dt t s) := by
  unfold execWfltClearRetry
  dsimp only
  split
  · split
    · exact .ite (.next (advance_keeps .refl)) (.ite (.next (countFault_keeps (clearWflt_keeps (.ite (countFault_keeps
        (advance_keeps .refl)) (countFault_keeps (advance_keeps .refl)))))) (.ite (.next (updXp_keeps (.ite (countFault_keeps
        (advance_keeps .refl)) (countFault_keeps (advance_keeps .refl))))) (.next (faultXport_keeps (updXp_keeps
        (.ite (countFault_keeps (advance_keeps .refl)) (countFault_keeps (advance_keeps .refl))))))))
    · exact .next (advance_keeps .refl)
  · exact .next (advance_keeps .refl)

theorem execWiCauseWrite_kept {t v} : Kept s (execWiCauseWrite t v s) := .next (whenReached_keeps .refl (writeCause_keeps .refl))

theorem execForceInhibitWrite_kept {t v} : Kept s (execForceInhibitWrite t v s) :=
  .next (whenReached_keeps .refl (setForce_keeps .refl))

/-! ### Firmware, SYS_RST_N and boot -/

theorem execFwStage_kept {n img data} : Kept s (execFwStage n img data s) :=
  .next (withCmd_keeps .refl fun _ => .ite (complete_keeps .refl) (.ite (complete_keeps .refl) (.ite .refl (setProg_keeps
    (pspQueue_keeps (.set (cmdRead_keeps .refl) id id id))))))

theorem execFlashOperationEnd_kept {ok} : Kept s (execFlashOperationEnd ok s) := by
  unfold execFlashOperationEnd
  split
  · exact .next .refl
  · have hcounted {p : Prop} [Decidable p] : Keeps s (if p then countFault s 11 1 0 0 0 else s) := .ite_left .refl countFault_keeps
    exact .ite (.next (stageDone_keeps (.set (.ite_right hcounted countFault_keeps) id id id)))
      (.ite (.next (.elim_right (countFault_keeps (.set hcounted id id id)) fun h _ => pspQueue_keeps h))
        (.next (complete_keeps (faultSpent_keeps (.set hcounted id id id)))))

theorem execFwActivate_kept {n verified} : Kept s (execFwActivate n verified s) := by
  unfold execFwActivate
  refine .next (withCmdW_keeps .refl fun _ => .ite ?_ (.ite (complete_keeps .refl) ?_))
  · split
    · exact .ite (trySwitch_keeps .refl) (resumeSwitch_keeps .refl)
    · exact .refl
  · split
    · exact complete_keeps .refl
    · exact .ite (complete_keeps .refl) (.ite (.ite .refl (complete_keeps (.set .refl id id id))) (.ite (complete_keeps .refl)
        (startPause_keeps .refl)))

theorem execSelfTestPass_kept : Kept s (execSelfTestPass s) := by
  unfold execSelfTestPass
  dsimp only
  split
  · exact .ite (.next (resumeUpdate_keeps .refl)) (.next (endUpdate_keeps (.set (resumeUpdate_keeps .refl) id id id)))
  · exact .next (resumeUpdate_keeps .refl)

theorem execSelfTestFail_kept : Kept s (execSelfTestFail s) := by
  unfold execSelfTestFail
  dsimp only
  split
  · exact .ite (.next (rollBack_keeps (resumeUpdate_keeps .refl))) (.next (resumeUpdate_keeps .refl))
  · exact .next (resumeUpdate_keeps .refl)

theorem execSelfTestTimeout_kept {dt} : Kept s (execSelfTestTimeout dt s) := by
  unfold execSelfTestTimeout
  dsimp only
  split
  · exact .ite (.next (rollBack_keeps (resumeUpdate_keeps (advance_keeps .refl)))) (.next (resumeUpdate_keeps
      (advance_keeps .refl)))
  · exact .next (resumeUpdate_keeps (advance_keeps .refl))

theorem execSysRstAssert_kept : Kept s (execSysRstAssert s) := .next fun _ => ⟨smpOk_reset, tbuOk_reset, rfl⟩

theorem execSysRstRelease_kept {straps} : Kept s (execSysRstRelease straps s) :=
  .ite (.next .refl) (.next (.ite_left (.foldl (fun _ _ => setCause_keeps .refl) _ (pspQueue_keeps (.set .refl id id id)))
    openWindow900_keeps))

theorem execBootComplete_kept {trainA trainB} : Kept s (execBootComplete trainA trainB s) := by
  unfold execBootComplete
  refine .ite (.next .refl) ?_
  split
  · exact .next .refl
  · dsimp only
    split
    · exact .next (pspQueue_keeps .refl)
    · exact .next (.ite (.set (logBoot_keeps (startFirmware_keeps (pspQueue_keeps .refl))) id id id) (logBoot_keeps
        (startFirmware_keeps (pspQueue_keeps .refl))))

theorem execSupplyOutOfRange_kept {rail} : Kept s (execSupplyOutOfRange rail s) := by
  unfold execSupplyOutOfRange
  refine .next ?_
  split
  · exact dropGates_keeps .refl
  · exact dropGates_keeps .refl
  · exact .set .refl id id id

theorem execSysClkLoss_kept : Kept s (execSysClkLoss s) :=
  .ite (.next .refl) (.next (.set (.foldl (fun _ _ => setForce_keeps .refl) _ .refl) id id id))

/-! ### Telemetry -/

theorem execTelemetryConfig_kept {n} : Kept s (execTelemetryConfig n s) :=
  .next (withCmdW_keeps .refl fun _ => .ite (complete_keeps .refl) (.ite (setProg_keeps (setAce_keeps .refl)) (.ite (complete_keeps
    (.ite (stopStream_keeps .refl) .refl)) (complete_keeps (startStream_keeps (.ite (stopStream_keeps .refl) .refl))))))

/-! ### The time base -/

theorem execSetTime_kept {n} : Kept s (execSetTime n s) := by
  unfold execSetTime
  refine .next (withCmd_keeps .refl fun _ => .ite .refl ?_)
  split
  · exact complete_keeps (stepBySet_keeps .refl)
  · exact complete_keeps (stepBySet_keeps .refl)
  · exact .ite .refl (setProg_keeps (.set .refl id id id))

theorem execSetTimeTimeout_kept {dt} : Kept s (execSetTimeTimeout dt s) := by
  unfold execSetTimeTimeout
  dsimp only
  split
  · exact .ite (.next (complete_keeps (.set (advance_keeps .refl) id id id))) (.next (advance_keeps .refl))
  · exact .next (advance_keeps .refl)

theorem execPpsEdge_kept {dt} : Kept s (execPpsEdge dt s) :=
  .ite (.next (advance_keeps .refl)) (.ite (.next (.set (advance_keeps .refl) id id id)) (.next (.ite (acceptEdge_keeps
    (.set (setAtEdge_keeps (advance_keeps .refl)) id id id)) (rejectEdge_keeps (.set (setAtEdge_keeps
    (advance_keeps .refl)) id id id)))))

theorem execSlewEnd_kept {dt} : Kept s (execSlewEnd dt s) :=
  .next (.ite (.set (advance_keeps .refl) id id id) (advance_keeps .refl))

theorem execPpsHoldover_kept {dt} : Kept s (execPpsHoldover dt s) :=
  .ite (.next (setPps_keeps (.set (advance_keeps .refl) id id id))) (.next (advance_keeps .refl))

theorem execSecondBoundary_kept {dt} : Kept s (execSecondBoundary dt s) := .next (.ite_left (advance_keeps .refl) fireSource_keeps)

theorem execPacingTimerFire_kept {dt k} : Kept s (execPacingTimerFire dt k s) :=
  .ite (.next (fireTimer_keeps (.set (advance_keeps .refl) id id id))) (.next (advance_keeps .refl))

theorem execAlarmFire_kept {dt a} : Kept s (execAlarmFire dt a s) :=
  .ite (.next (wake_keeps (raise_keeps (.set (advance_keeps .refl) id id id)))) (.next (advance_keeps .refl))

theorem execPpsOutRise_kept {dt} : Kept s (execPpsOutRise dt s) :=
  .next (.ite (.set (risePpsOut_keeps (advance_keeps .refl)) id id id) (advance_keeps .refl))

theorem execPpsOutFall_kept {dt} : Kept s (execPpsOutFall dt s) :=
  .next (.ite (.set (advance_keeps .refl) id id id) (advance_keeps .refl))

theorem execTbuCfgWrite_kept {v} : Kept s (execTbuCfgWrite v s) := .next (whenReached_keeps .refl (writeTbuCfg_keeps .refl))

theorem execPacingTimerCtrlWrite_kept {k isCtrl v} : Kept s (execPacingTimerCtrlWrite k isCtrl v s) :=
  .next (whenReached_keeps .refl (writeTimer_keeps .refl))

theorem execAlarmCtrlWrite_kept {a v} : Kept s (execAlarmCtrlWrite a v s) :=
  .next (whenReached_keeps .refl (writeAlarm_keeps .refl))

theorem execTbuTimeRead_kept {wide} : Kept s (execTbuTimeRead wide s) :=
  .next (.ite (reply_keeps (readTime_keeps .refl)) (.ite (refuseRead_keeps .refl) (.ite (reply_keeps .refl) .refl)))

/-! ### Register access -/

theorem execRegisterWrite_kept {fn t} : Kept s (execRegisterWrite fn t s) := by
  unfold execRegisterWrite
  split
  · exact .next (barWrite_keeps .refl)
  · exact .next (cfgDo_keeps .refl (writeCfg_keeps .refl))
  · exact .next (cfgDo_keeps .refl (writeAer_keeps .refl))
  · exact .next (.ite (busError_keeps .refl) .refl)

theorem execRcRegisterRead_kept {fn t} : Kept s (execRcRegisterRead fn t s) := by
  unfold execRcRegisterRead
  split
  · exact .next (barRead_keeps .refl)
  · exact .next (cfgDo_keeps .refl (cfgRead_keeps .refl))

/-! ### The SMP and the peripheral ports -/

theorem execSmpIndRead_kept {inc} : Kept s (execSmpIndRead inc s) := .next (.ite (writeIndCtrl_keeps .refl) .refl)

theorem execSmpIndWrite_kept {inc} : Kept s (execSmpIndWrite inc s) := .next (.ite (writeIndCtrl_keeps .refl) .refl)

theorem execSmpIndDone_kept : Kept s (execSmpIndDone s) := by
  unfold execSmpIndDone
  split
  · exact .next .refl
  · exact .ite (.next .refl) (.ite (.next (endInd_keeps .refl (by decide))) (.ite (.next (endInd_keeps
      (.ite (refusePosted_keeps .refl) (readDev_keeps .refl)) (by decide))) (.ite (.next (endInd_keeps (writeDev_keeps .refl)
      (by decide))) (.next (endInd_keeps (readBar0_keeps .refl) (by decide))))))

theorem execMailboxGo_kept : Kept s (execMailboxGo s) := .next (.ite (mailboxGo_keeps .refl) .refl)

theorem execMailboxComplete_kept : Kept s (execMailboxComplete s) := by
  unfold execMailboxComplete
  split
  · split
    · exact .next (deliverMbx_keeps (.set .refl id id id))
    · exact .next .refl
  · exact .next .refl

theorem execSmpPageWrite_kept {p} : Kept s (execSmpPageWrite p s) := .next (.ite (commit_keeps .refl) .refl)

theorem execSmpCsFall_kept {sck} : Kept s (execSmpCsFall sck s) :=
  .ite (.next (.set .refl id id id)) (.ite (.next .refl) (.next (wake_keeps (.set .refl
    (fun ⟨_, _, h⟩ => ⟨Nat.zero_le _, Nat.zero_le _, h⟩) id id))))

theorem execSmpCsRise_kept {bits} : Kept s (execSmpCsRise bits s) :=
  .ite (.next (.ite (.set .refl id id id) .refl)) (.ite (.next .refl) (.next (.set (.ite (byteOut_keeps .refl) (setErr_keeps .refl
    (by decide))) id id id)))

theorem execSmpCommandByte_kept {b} : Kept s (execSmpCommandByte b s) :=
  .next (.ite (.set .refl (fun ⟨hwb, hwaits, _, h⟩ => ⟨hwb, hwaits, Nat.mod_lt _ (by decide), h⟩) id id) .refl)

theorem execSmpWriteByte_kept {b} : Kept s (execSmpWriteByte b s) := by
  unfold execSmpWriteByte
  refine .ite ?_ (.next .refl)
  split
  next hroom =>
    refine .next fun hok => ?_
    have hcommit : StateOk (commit { s with smp.sdo := some 0x4E } s.smp.page s.smp.addr b) := commit_keeps (.set .refl id id id) hok
    obtain ⟨⟨_, hwaits, _, hsmp⟩, hrest⟩ := hcommit
    have hwb := (commit_wb { s with smp.sdo := some 0x4E } s.smp.page s.smp.addr b).trans_lt hroom
    exact ⟨⟨hwb, hwaits, nextAddr_lt hok.1.2.2.1, hsmp⟩, hrest⟩
  · exact .next (setErr_keeps (.set .refl id id id) (by decide))

theorem execSmpReadByte_kept : Kept s (execSmpReadByte s) := by
  unfold execSmpReadByte
  refine .ite (.next .refl) ?_
  split
  · refine .ite (.next (.set .refl id id id)) ?_
    split
    · exact .next (setErr_keeps (.set .refl id id id) (by decide))
    next hwaits => exact .next (.set .refl (fun ⟨hwb, hle, h⟩ => ⟨hwb, Nat.lt_of_le_of_ne hle hwaits, h⟩) id id)
  · exact .next (sendByte_keeps (byteOut_keeps .refl))
  · exact .next (.set .refl id id id)
  · exact .next .refl

theorem execAttentionNotchEnd_kept : Kept s (execAttentionNotchEnd s) := .next (.ite (startNotch_keeps (.set .refl id id id)) .refl)

theorem execPspIrq_kept {port changes} : Kept s (execPspIrq port changes s) :=
  .next (.ite (wake_keeps (.foldl (fun _ _ => applyChange_keeps .refl) _ (.ite (irqReads_keeps .refl) .refl))) .refl)

theorem execPeerPoll_kept {answers} : Kept s (execPeerPoll answers s) :=
  .ite (.next (.foldl (fun _ _ => pollPeer_keeps .refl) _ .refl)) (.next .refl)

theorem execPeripheralRetry_kept {dt port sel answer} : Kept s (execPeripheralRetry dt port sel answer s) := by
  unfold execPeripheralRetry
  dsimp only
  split
  · exact .next (advance_keeps .refl)
  · refine .ite (.next (advance_keeps .refl)) ?_
    have hcounted {k} : Keeps s (countFault (peerRead (advance s dt) k) 10 0 0 0 1) :=
      countFault_keeps (peerRead_keeps (advance_keeps .refl))
    split
    · exact .next (notePeer_keeps (countFault_keeps (.set hcounted id id id)))
    · exact .ite (.next (.set hcounted id id id)) (.next (peerLost_keeps hcounted))

/-! ### Every command -/

/-- Every command keeps the invariant. -/
theorem exec_kept : ∀ c : Instr, Kept s (exec c s)
  | .identify .. => execIdentify_kept | .createRing .. => execCreateRing_kept
  | .createRingTagsFreed .. => execCreateRingTagsFreed_kept | .deleteRing .. => execDeleteRing_kept
  | .deleteRingDrained .. => execDeleteRingDrained_kept | .abort .. => execAbort_kept
  | .abortComplete .. => execAbortComplete_kept | .getLogPage .. => execGetLogPage_kept
  | .createContext .. => execCreateContext_kept | .modifyContext .. => execModifyContext_kept
  | .deleteContext .. => execDeleteContext_kept | .getContextStatus .. => execGetContextStatus_kept
  | .keyLoadWrapped .. => execKeyLoadWrapped_kept | .keyErase .. => execKeyErase_kept | .domainJoin .. => execDomainJoin_kept
  | .getDeviceCert .. => execGetDeviceCert_kept | .nonceStatus .. => execNonceStatus_kept | .mount .. => execMount_kept
  | .unmount .. => execUnmount_kept | .formatPartitions .. => execFormatPartitions_kept
  | .transportConfig .. => execTransportConfig_kept | .getTransportStatus .. => execGetTransportStatus_kept
  | .calibrate .. => execCalibrate_kept | .setTime .. => execSetTime_kept | .telemetryConfig .. => execTelemetryConfig_kept
  | .enterLull .. => execEnterLull_kept | .fwStage .. => execFwStage_kept | .fwActivate .. => execFwActivate_kept
  | .thermalConfig .. => execThermalConfig_kept | .fenceEngine .. => execFenceEngine_kept
  | .resetEngine .. => execResetEngine_kept | .setWatchdog .. => execSetWatchdog_kept | .getFaultLog .. => execGetFaultLog_kept
  | .retireBufferPage .. => execRetireBufferPage_kept | .laneDisable .. => execLaneDisable_kept
  | .openStream .. => execOpenStream_kept | .write .. => execWrite_kept | .writeBatch .. => execWriteBatch_kept
  | .flush .. => execFlush_kept | .sync .. => execSync_kept | .closeStream .. => execCloseStream_kept | .read .. => execRead_kept
  | .locate .. => execLocate_kept | .verifyScan .. => execVerifyScan_kept | .getPosition .. => execGetPosition_kept
  | .compress .. => execCompress_kept | .decompress .. => execDecompress_kept | .resume .. => execResume_kept
  | .serviceJobEnd .. => execServiceJobEnd_kept | .cryptBlock .. => execCryptBlock_kept
  | .sessionKeyClear .. => execSessionKeyClear_kept | .entryFetch .. => execEntryFetch_kept
  | .entryAdmit .. => execEntryAdmit_kept | .orderedStart .. => execOrderedStart_kept
  | .submissionDoorbell .. => execSubmissionDoorbell_kept | .completionDoorbell .. => execCompletionDoorbell_kept
  | .adminRingEnable => execAdminRingEnable_kept | .adminRingDisable => execAdminRingDisable_kept
  | .adminRingDrained => execAdminRingDrained_kept | .registerWrite .. => execRegisterWrite_kept
  | .flrInitiate .. => execFlrInitiate_kept | .vfEnableSet => execVfEnableSet_kept | .vfEnableClear => execVfEnableClear_kept
  | .busMasterDisable .. => execBusMasterDisable_kept | .busMasterEnable .. => execBusMasterEnable_kept
  | .msixUnmask .. => execMsixUnmask_kept | .holdoffEnd .. => execHoldoffEnd_kept | .perstFall => execPerstFall_kept
  | .perstRise => execPerstRise_kept | .crsWindowEnd .. => execCrsWindowEnd_kept | .linkUp => execLinkUp_kept
  | .linkDown .. => execLinkDown_kept | .ringEntryReadError .. => execRingEntryReadError_kept
  | .sysRstAssert => execSysRstAssert_kept | .sysRstRelease .. => execSysRstRelease_kept
  | .bootComplete .. => execBootComplete_kept | .startupCalibration .. => execStartupCalibration_kept
  | .recordIngest .. => execRecordIngest_kept | .recordCompress .. => execRecordCompress_kept
  | .recordSeal .. => execRecordSeal_kept | .checkBack .. => execCheckBack_kept | .recordPack .. => execRecordPack_kept
  | .flushWindowExpire .. => execFlushWindowExpire_kept | .codewordArrival .. => execCodewordArrival_kept
  | .syncWindowEnd .. => execSyncWindowEnd_kept | .decoderGrant .. => execDecoderGrant_kept | .decodeEnd .. => execDecodeEnd_kept
  | .datasetBoundary .. => execDatasetBoundary_kept | .cmUpdate .. => execCmUpdate_kept
  | .wrapTurnaround .. => execWrapTurnaround_kept | .speedMatchTick .. => execSpeedMatchTick_kept
  | .transportRestart .. => execTransportRestart_kept | .writePositionReturn .. => execWritePositionReturn_kept
  | .datasetRecover .. => execDatasetRecover_kept | .recordOpen .. => execRecordOpen_kept
  | .recordDecompress .. => execRecordDecompress_kept | .poolEvaluation .. => execPoolEvaluation_kept
  | .serviceDomainTick .. => execServiceDomainTick_kept | .watchdogExamine .. => execWatchdogExamine_kept
  | .servoFrame .. => execServoFrame_kept | .lposWord .. => execLposWord_kept | .servoLockLoss .. => execServoLockLoss_kept
  | .servoLossTimeout .. => execServoLossTimeout_kept | .velocityLoopTick .. => execVelocityLoopTick_kept
  | .tensionLoopTick .. => execTensionLoopTick_kept | .shockInput .. => execShockInput_kept
  | .writeFaultInput .. => execWriteFaultInput_kept | .forceInhibitWrite .. => execForceInhibitWrite_kept
  | .wiCauseWrite .. => execWiCauseWrite_kept | .dropoutEntry .. => execDropoutEntry_kept
  | .dropoutExit .. => execDropoutExit_kept | .aceArm .. => execAceArm_kept | .aceDisarm .. => execAceDisarm_kept
  | .aceGo .. => execAceGo_kept | .aceIterationComplete .. => execAceIterationComplete_kept
  | .aceBurstFail .. => execAceBurstFail_kept | .aceRetryWaitEnd .. => execAceRetryWaitEnd_kept
  | .smpCsFall .. => execSmpCsFall_kept | .smpCsRise .. => execSmpCsRise_kept | .smpCommandByte .. => execSmpCommandByte_kept
  | .smpWriteByte .. => execSmpWriteByte_kept | .smpReadByte => execSmpReadByte_kept | .smpPageWrite .. => execSmpPageWrite_kept
  | .smpIndRead .. => execSmpIndRead_kept | .smpIndWrite .. => execSmpIndWrite_kept | .smpIndDone => execSmpIndDone_kept
  | .mailboxGo => execMailboxGo_kept | .mailboxComplete => execMailboxComplete_kept
  | .attentionNotchEnd => execAttentionNotchEnd_kept | .pspIrq .. => execPspIrq_kept | .peerPoll .. => execPeerPoll_kept
  | .skCommitGo .. => execSkCommitGo_kept | .skCommitClear .. => execSkCommitClear_kept | .nonceReserved => execNonceReserved_kept
  | .nonceJournalFail => execNonceJournalFail_kept | .nonceRetry .. => execNonceRetry_kept | .ppsEdge .. => execPpsEdge_kept
  | .slewEnd .. => execSlewEnd_kept | .ppsHoldover .. => execPpsHoldover_kept | .setTimeTimeout .. => execSetTimeTimeout_kept
  | .pacingTimerFire .. => execPacingTimerFire_kept | .secondBoundary .. => execSecondBoundary_kept
  | .alarmFire .. => execAlarmFire_kept | .ppsOutRise .. => execPpsOutRise_kept | .ppsOutFall .. => execPpsOutFall_kept
  | .tbuCfgWrite .. => execTbuCfgWrite_kept | .pacingTimerCtrlWrite .. => execPacingTimerCtrlWrite_kept
  | .alarmCtrlWrite .. => execAlarmCtrlWrite_kept | .tbuTimeRead .. => execTbuTimeRead_kept | .sysClkLoss => execSysClkLoss_kept
  | .lullQuiesced => execLullQuiesced_kept | .quiesceTimeout .. => execQuiesceTimeout_kept | .gateClosed .. => execGateClosed_kept
  | .gateForceClose .. => execGateForceClose_kept | .lullStateSaved => execLullStateSaved_kept
  | .hostLinkWake => execHostLinkWake_kept | .lullExitComplete .. => execLullExitComplete_kept
  | .engineDrained .. => execEngineDrained_kept | .engineDrainTimeout .. => execEngineDrainTimeout_kept
  | .thermalSample .. => execThermalSample_kept | .shutdownPowerOff .. => execShutdownPowerOff_kept
  | .pfailQualified => execPfailQualified_kept | .pfailRelease => execPfailRelease_kept | .selfTestPass => execSelfTestPass_kept
  | .selfTestFail => execSelfTestFail_kept | .selfTestTimeout .. => execSelfTestTimeout_kept
  | .flrComplete .. => execFlrComplete_kept | .rcRegisterRead .. => execRcRegisterRead_kept
  | .syncAcquired .. => execSyncAcquired_kept | .separatorDetected .. => execSeparatorDetected_kept
  | .shockCleared .. => execShockCleared_kept | .writeSegmentBoundary .. => execWriteSegmentBoundary_kept
  | .supplyOutOfRange .. => execSupplyOutOfRange_kept | .flashOperationEnd .. => execFlashOperationEnd_kept
  | .cmAccessRetry .. => execCmAccessRetry_kept | .peripheralRetry .. => execPeripheralRetry_kept
  | .wfltClearRetry .. => execWfltClearRetry_kept | .hostReadError .. => execHostReadError_kept

end commands

/-- Settles O5: the front command runs on the queue's rest, of which StateOk does not speak, and a step of an empty queue lets time
pass. -/
theorem everyStepKeepsInv : Obligations.EveryStepKeepsInv := by
  unfold Obligations.EveryStepKeepsInv
  intro s t hok hstep
  unfold step at hstep
  split at hstep
  next => exact Kept.next (advance_keeps .refl) t hstep hok
  next c rest _ => exact exec_kept c t hstep hok

end Sys2Proof.Machine
end

section
/-! The sideband management port: the level of SMP_RB, transactions, pages and indirect accesses, and what a write byte stores (O60, O57,
O58). -/

namespace Sys2Proof.Machine

/-! ### SMP_RB (R655) -/

/-- Settles O60: the level is the negation of the reasons to hold it low. -/
theorem smpReadyLevel : Obligations.SmpReadyLevel := by
  unfold Obligations.SmpReadyLevel
  intro s
  simp only [smpRb, rbHeld, Bool.not_eq_false', Bool.or_eq_true, Bool.not_eq_true', or_assoc]

/-! ### SMP_ERR (Table 13-3, R652) -/

/-- SMP_ERR and its count, written. -/
def noteErr (s : State) (k : Nat) : State :=
  { s with smp.err := s.smp.err ||| BitVec.ofNat 8 (2 ^ k), smp.errCount := satAdd 8 s.smp.errCount 1 }

/-- Setting an error bit writes SMP_ERR and its count, and may raise an event. -/
theorem setErr_onlyRaises (s : State) (k : Nat) : Only raising (noteErr s k) (setErr s k) :=
  .ite .refl (raise_only .refl (by decide))

theorem setErr_port (s : State) (k : Nat) : Part.smpPort.same (noteErr s k) (setErr s k) := setErr_onlyRaises s k .smpPort (by decide)

theorem setErr_err (s : State) (k : Nat) : (setErr s k).smp.err = s.smp.err ||| BitVec.ofNat 8 (2 ^ k) := by
  obtain ⟨_, _, _, _, _, _, _, _, _, _, herr, _⟩ := setErr_port s k
  exact herr

theorem setErr_page (s : State) (k : Nat) : (setErr s k).smp.page = s.smp.page := by
  obtain ⟨_, _, hpage, _⟩ := setErr_port s k
  exact hpage

theorem setErr_addr (s : State) (k : Nat) : (setErr s k).smp.addr = s.smp.addr := by
  obtain ⟨_, _, _, haddr, _⟩ := setErr_port s k
  exact haddr

theorem setErr_indOp (s : State) (k : Nat) : (setErr s k).smp.indOp = s.smp.indOp := by
  obtain ⟨_, _, _, _, hop, _⟩ := setErr_onlyRaises s k .indirect (by decide)
  exact hop

theorem setErr_sqe (s : State) (k : Nat) : (setErr s k).smp.sqe = s.smp.sqe := (setErr_onlyRaises s k .mailbox (by decide)).1

theorem setErr_mbxData (s : State) (k : Nat) : (setErr s k).smp.mbxData = s.smp.mbxData :=
  setErr_onlyRaises s k .mailboxData (by decide)

/-! ### SMP_ATTN (R656) -/

@[simp] theorem startNotch_attn (s : State) : (startNotch s).smp.attn = s.smp.attn := by
  unfold startNotch
  split <;> rfl

/-! ### What a write byte stores (R646, R649, R652, R665, R669) -/

/-- Byte `k` of a number after its byte `i` was replaced. -/
theorem byte_of_replaced (V i k b : Nat) (hb : b < 256) :
    (V - V / 2 ^ (8 * i) % 256 * 2 ^ (8 * i) + b * 2 ^ (8 * i)) / 2 ^ (8 * k) % 256 =
      if k = i then b else V / 2 ^ (8 * k) % 256 := by
  obtain ⟨lo, hi, y, hlo, hy, hV⟩ : ∃ lo hi y, lo < 2 ^ (8 * i) ∧ V / 2 ^ (8 * i) % 256 = y ∧ V = 2 ^ (8 * i) * (256 * hi + y) + lo :=
    ⟨V % 2 ^ (8 * i), V / 2 ^ (8 * i) / 256, _, Nat.mod_lt _ (by positivity), rfl, by
      rw [Nat.div_add_mod, Nat.div_add_mod]⟩
  have hnew : V - y * 2 ^ (8 * i) + b * 2 ^ (8 * i) = 2 ^ (8 * i) * (256 * hi + b) + lo := by
    rw [hV, show 2 ^ (8 * i) * (256 * hi + y) + lo = (2 ^ (8 * i) * (256 * hi) + lo) + y * 2 ^ (8 * i) by ring, Nat.add_sub_cancel]
    ring
  rw [hy, hnew, hV]
  rcases Nat.lt_trichotomy k i with h | h | h
  · obtain ⟨j, rfl⟩ : ∃ j, i = k + 1 + j := ⟨i - (k + 1), by omega⟩
    have hsplit (x : Nat) : (2 ^ (8 * (k + 1 + j)) * x + lo) / 2 ^ (8 * k) % 256 = lo / 2 ^ (8 * k) % 256 := by
      rw [show 2 ^ (8 * (k + 1 + j)) * x + lo = 2 ^ (8 * k) * (256 * (2 ^ (8 * j) * x)) + lo by ring,
        Nat.mul_add_div (by positivity), Nat.mul_add_mod]
    rw [if_neg (by omega), hsplit, hsplit]
  · subst h
    rw [if_pos rfl, Nat.mul_add_div (by positivity), Nat.div_eq_of_lt hlo, Nat.add_zero, Nat.mul_add_mod, Nat.mod_eq_of_lt hb]
  · obtain ⟨j, rfl⟩ : ∃ j, k = i + 1 + j := ⟨k - (i + 1), by omega⟩
    have hsplit (x : Nat) (hx : x < 256) : (2 ^ (8 * i) * (256 * hi + x) + lo) / 2 ^ (8 * (i + 1 + j)) = hi / 2 ^ (8 * j) := by
      rw [show 2 ^ (8 * (i + 1 + j)) = 2 ^ (8 * i) * 256 * 2 ^ (8 * j) by ring, ← Nat.div_div_eq_div_mul, ← Nat.div_div_eq_div_mul,
        Nat.mul_add_div (by positivity), Nat.div_eq_of_lt hlo, Nat.add_zero, Nat.mul_add_div (by decide), Nat.div_eq_of_lt hx,
        Nat.add_zero]
    rw [if_neg (by omega), hsplit b hb, hsplit y (hy ▸ Nat.mod_lt _ (by decide))]

theorem byte_of_mod_two_pow {w k : Nat} (n : Nat) (h : 8 * k + 8 ≤ w) : n % 2 ^ w / 2 ^ (8 * k) % 2 ^ 8 = n / 2 ^ (8 * k) % 2 ^ 8 := by
  obtain ⟨j, rfl⟩ := Nat.exists_eq_add_of_le h
  rw [show 8 * k + 8 + j = 8 * k + (8 + j) by omega, pow_add, Nat.mod_mul_right_div_self, pow_add, Nat.mod_mul_right_mod]

/-- Byte `k` of a word after a byte of it was written. -/
theorem fieldOf_putByte {w : Nat} (v : BitVec w) (i k : Nat) (b : Byte) (hk : 8 * k + 8 ≤ w) :
    fieldOf (putByte v i b.toNat) k 1 = if k = i then b.toNat else fieldOf v k 1 := by
  have hbyte := byte_of_replaced v.toNat i k b.toNat b.isLt
  simp only [fieldOf, putByte, wordByte, Nat.mul_one, Nat.shiftRight_eq_div_pow, BitVec.toNat_ofNat, Nat.mod_eq_of_lt b.isLt]
  rw [byte_of_mod_two_pow _ hk]
  exact hbyte

section commit
variable (s : State) {p a : Nat} (b : Byte)

theorem commit_pageRegister : commit s p 0x7F b = { s with smp.page := b.toNat } := rfl

theorem commit_entry (ha : a < 0x40) : commit s 1 a b = { s with smp.sqe := putByte s.smp.sqe a b.toNat } := by
  simp [commit, show a ≠ 0x7F by omega, ha]

theorem commit_data (hlo : 0x40 ≤ p) (hhi : p ≤ 0x7F) (ha : a < 0x40) : commit s p a b = putMbx s (64 * (p - 0x40) + a) [b] := by
  simp [commit, show a ≠ 0x7F by omega, show p ≠ 0 by omega, show p ≠ 1 by omega, hlo, hhi, ha]

theorem commit_reserved (hp : pageKnown p = false) (ha : a ≠ 0x7F) : commit s p a b = setErr s 3 := by
  simp only [pageKnown, Bool.or_eq_false_iff, beq_eq_false_iff_ne, Bool.and_eq_false_iff, decide_eq_false_iff_not] at hp
  obtain ⟨⟨h0, h1⟩, hdata⟩ := hp
  simp [commit, ha, h0, h1, show ¬(0x40 ≤ p ∧ p ≤ 0x7F) by tauto, errBadPage]

end commit

/-! ### Transactions (R643 to R651, R687, R688) -/

section live
variable {s : State} (h : smpLive s = true)
include h

theorem sysRst_of_smpLive : s.host.sysRst = true := by
  simp only [smpLive, Bool.and_eq_true] at h
  exact h.1.1

theorem exec_smpWriteByte_room (hst : s.smp.st = .wdata) (hwb : s.smp.wb < 64) (b : Byte) : exec (.smpWriteByte b) s =
    .next { commit { s with smp.sdo := some 0x4E } s.smp.page s.smp.addr b with
      smp.wb := (commit { s with smp.sdo := some 0x4E } s.smp.page s.smp.addr b).smp.wb + 1, smp.addr := nextAddr s.smp.addr } := by
  change execSmpWriteByte b s = _
  rw [execSmpWriteByte, if_pos ⟨h, hst⟩, if_pos hwb]

theorem exec_smpWriteByte_full (hst : s.smp.st = .wdata) (hwb : 64 ≤ s.smp.wb) (b : Byte) :
    exec (.smpWriteByte b) s = .next (setErr { s with smp.sdo := some 0xE7 } 1) := by
  change execSmpWriteByte b s = _
  rw [execSmpWriteByte, if_pos ⟨h, hst⟩, if_neg (not_lt.2 hwb), errOverflow]

end live

/-- Settles O58: with room the byte is committed, and the page and address select what `commit` stores. -/
theorem smpWriteEffect : Obligations.SmpWriteEffect := by
  unfold Obligations.SmpWriteEffect
  intro s b hlive hst hroom hwf
  refine ⟨_, exec_smpWriteByte_room hlive hst hroom b, fun ha => ?page, fun hp ha => ?entry, fun hlo hhi ha => ?data, fun hp ha => ?reserved⟩
  case page =>
    rw [ha, commit_pageRegister]
    exact ⟨rfl, rfl, rfl⟩
  case entry =>
    rw [hp, commit_entry _ _ ha]
    exact ⟨rfl, fun k hk => fieldOf_putByte _ _ _ _ (by omega)⟩
  case data =>
    rw [commit_data _ _ hlo hhi ha]
    refine ⟨rfl, fun p => ?_⟩
    change Memory.read (Memory.write s.smp.mbxData _ b) p = _
    split
    next hpos => rw [hpos, Memory.read_write_self _ _ _ hwf]
    next hpos => exact Memory.read_write_of_ne _ _ hpos
  case reserved =>
    rw [commit_reserved _ _ hp ha]
    exact ⟨setErr_err _ _, setErr_sqe _ _, setErr_mbxData _ _, setErr_page _ _⟩

/-- What a committed byte leaves of the transaction. -/
def SameTransaction (s t : State) : Prop := t.smp.st = s.smp.st ∧ t.smp.sdo = s.smp.sdo

theorem SameTransaction.of_only {l : List Part} {s t : State} (h : Only l s t) (hl : .smpPort ∉ l) : SameTransaction s t := by
  obtain ⟨hst, _, _, _, _, _, hsdo, _⟩ := h .smpPort hl
  exact ⟨hst, hsdo⟩

theorem setErr_sameTransaction (s : State) (k : Nat) : SameTransaction s (setErr s k) := by
  obtain ⟨hst, _, _, _, _, _, hsdo, _⟩ := setErr_port s k
  exact ⟨hst, hsdo⟩

theorem writeIndCtrl_sameTransaction (s : State) (v : Nat) : SameTransaction s (writeIndCtrl s v) := by
  unfold writeIndCtrl
  split
  · exact setErr_sameTransaction s _
  · split
    · exact setErr_sameTransaction s _
    · exact .of_only (startInd_only (L := [.events, .indirect]) .refl (by decide)) (by decide)

/-- The mailbox with GO taken. -/
def goTaken (s : State) : State := { s with smp.mbxBusy := true, smp.mbxDone := false }

/-- The entry of the mailbox submitted as a command of its own. -/
def goSubmitted (s : State) : State :=
  { goTaken s with rings.cmds := s.rings.cmds ++ [{ newCmd (goTaken s) 32768 0 0 s.smp.sqe none with mailbox := true, prog := .ordered }] }

theorem mailboxGo_of_busy {s : State} (hb : s.smp.mbxBusy = true) : mailboxGo s = setErr s 4 := if_pos hb

theorem mailboxGo_notReady {s : State} (hb : s.smp.mbxBusy = false) (hfw : s.host.fwReady = false) :
    mailboxGo s = deliverMbx (goTaken s) (fieldOf s.smp.sqe 2 2) (Compl.of 0x67) := by
  simp [mailboxGo, hb, hfw, goTaken]

theorem mailboxGo_ready {s : State} (hb : s.smp.mbxBusy = false) (hfw : s.host.fwReady = true) :
    mailboxGo s = startMbx (goSubmitted s) := by
  simp [mailboxGo, hb, hfw, goSubmitted, goTaken, mbxId]

theorem mailboxGo_sameTransaction (s : State) : SameTransaction s (mailboxGo s) := by
  cases hb : s.smp.mbxBusy with
  | true => rw [mailboxGo_of_busy hb]; exact setErr_sameTransaction s _
  | false =>
    cases hfw : s.host.fwReady with
    | false =>
      rw [mailboxGo_notReady hb hfw]
      exact .of_only (s := goTaken s) (deliverMbx_only (L := [.events, .mailbox]) .refl (by decide)) (by decide)
    | true =>
      rw [mailboxGo_ready hb hfw]
      exact .of_only (s := goSubmitted s) (startMbx_only (L := [.commands, .headwind]) .refl (by decide)) (by decide)

theorem writePage0_sameTransaction (s : State) (a : Nat) (b : Byte) : SameTransaction s (writePage0 s a b) := by
  unfold writePage0
  split
  case h_5 => exact writeIndCtrl_sameTransaction s _
  case h_6 =>
    split
    · split
      · exact setErr_sameTransaction s _
      · split <;> exact ⟨rfl, rfl⟩
    · exact ⟨rfl, rfl⟩
  all_goals exact ⟨rfl, rfl⟩

theorem commit_sameTransaction (s : State) (p a : Nat) (b : Byte) : SameTransaction s (commit s p a b) := by
  unfold commit
  split
  · exact ⟨rfl, rfl⟩
  · split
    · exact writePage0_sameTransaction s a b
    · split
      · split
        · exact ⟨rfl, rfl⟩
        · split
          · exact mailboxGo_sameTransaction s
          · exact ⟨rfl, rfl⟩
      · split
        · split <;> exact ⟨rfl, rfl⟩
        · exact setErr_sameTransaction s _

/-! ### A byte that goes out (R650, R652) -/

theorem byteOut_page (s : State) : (byteOut s).smp.page = s.smp.page := by
  unfold byteOut
  split <;> rfl

theorem byteOut_addr (s : State) : (byteOut s).smp.addr = s.smp.addr := by
  unfold byteOut
  split <;> rfl

/-- A byte of a known page, or of SMP_PAGE, flags nothing; one of a reserved page sets BAD_PAGE. -/
theorem sendByte_eq (s : State) : sendByte s =
    let u := if s.smp.addr = 0x7F ∨ pageKnown s.smp.page = true then s else setErr s 3
    { u with smp := { u.smp with
      sdo := some (BitVec.ofNat 8 (smpValue u s.smp.page s.smp.addr)),
      rcOut := decide (s.smp.page = 0 ∧ s.smp.addr = 6), addr := nextAddr s.smp.addr } } := by
  have hcond : (s.smp.addr ≠ 0x7F ∧ (!pageKnown s.smp.page) = true) ↔ ¬(s.smp.addr = 0x7F ∨ pageKnown s.smp.page = true) := by
    simp [not_or]
  have hrc : (s.smp.page == 0 && s.smp.addr == 6) = decide (s.smp.page = 0 ∧ s.smp.addr = 6) := by
    rw [Bool.eq_iff_iff]
    simp
  unfold sendByte
  simp only [hcond, ite_not, hrc, errBadPage]

/-! ### Indirect accesses (R659 to R664) -/

theorem writeIndCtrl_of_busy {s : State} (v : Nat) (hb : s.smp.indBusy = true) : writeIndCtrl s v = setErr s 4 := if_pos hb

theorem writeIndCtrl_read {s : State} (inc : Bool) (hb : s.smp.indBusy = false) :
    writeIndCtrl s (1 + 4 * b2n inc) = startInd s false inc := by
  rw [writeIndCtrl, if_neg (by simp [hb])]
  cases inc <;> rfl

theorem writeIndCtrl_write {s : State} (inc : Bool) (hb : s.smp.indBusy = false) :
    writeIndCtrl s (2 + 4 * b2n inc) = startInd s true inc := by
  rw [writeIndCtrl, if_neg (by simp [hb])]
  cases inc <;> rfl

/-- The end of an access writes its registers and raises IND_DONE. -/
theorem endInd_registers (s : State) (w inc : Bool) (err v : Nat) :
    (endInd s w inc err v).smp.indErr = err ∧ (endInd s w inc err v).smp.indBusy = false ∧
      (endInd s w inc err v).smp.indData = if w then s.smp.indData else BitVec.ofNat 32 (if err = 0 then v else 0) := by
  unfold endInd
  obtain ⟨_, hdata, hbusy, herr, _⟩ := startNotch_only (L := [.events]) (raiseAttn_only .refl (by decide)) (by decide) .indirect (by decide)
  exact ⟨herr, hbusy, hdata⟩

theorem endInd_attn (s : State) (w inc : Bool) (err v : Nat) : (endInd s w inc err v).smp.attn.getLsbD 2 = true := by
  unfold endInd
  rw [startNotch_attn]
  change (s.smp.attn ||| 4).getLsbD 2 = true
  simp

theorem startInd_of_reach {s : State} {w : Bool} (hr : indReach w s.smp.indAddr.toNat = true) (inc : Bool) :
    startInd s w inc = { s with smp.indBusy := true, smp.indOp := some (w, inc), smp.indLost := false } := if_pos hr

theorem startInd_of_not_reach {s : State} {w : Bool} (hr : indReach w s.smp.indAddr.toNat = false) (inc : Bool) :
    startInd s w inc = endInd s w inc 2 0 := by
  rw [startInd, if_neg (by simp [hr])]

/-! ### The transitions of the port -/

section live
variable {s : State} (h : smpLive s = true)
include h

theorem exec_smpCsFall_live (sck : Bool) : exec (.smpCsFall sck) s = .next (wake { s with smp := { s.smp with
    mode3 := sck, st := .cmd, wb := 0, waits := 0, sdo := some 0xB1, rcOut := false } } 4) := by
  change execSmpCsFall sck s = _
  simp [execSmpCsFall, h, sysRst_of_smpLive h]

theorem exec_smpCommandByte_live (hst : s.smp.st = .cmd) (b : Byte) : exec (.smpCommandByte b) s = .next { s with smp := { s.smp with
    addr := b.toNat % 128, st := if b.getLsbD 7 then .rwait else .wdata } } := by
  change execSmpCommandByte b s = _
  rw [execSmpCommandByte, if_pos ⟨h, hst⟩]

theorem exec_smpReadByte_ready (hst : s.smp.st = .rwait) (hr : smpReady s s.smp.page s.smp.addr = true) :
    exec .smpReadByte s = .next { s with smp := { s.smp with sdo := some 0x4E, st := .rdata } } := by
  change execSmpReadByte s = _
  simp [execSmpReadByte, h, hst, hr]

theorem exec_smpReadByte_wait (hst : s.smp.st = .rwait) (hr : smpReady s s.smp.page s.smp.addr = false) (hw : s.smp.waits < 256) :
    exec .smpReadByte s = .next { s with smp := { s.smp with sdo := some 0xB1, waits := s.smp.waits + 1 } } := by
  change execSmpReadByte s = _
  simp [execSmpReadByte, h, hst, hr, hw.ne]

theorem exec_smpReadByte_abort (hst : s.smp.st = .rwait) (hr : smpReady s s.smp.page s.smp.addr = false) (hw : s.smp.waits = 256) :
    exec .smpReadByte s = .next (setErr { s with smp := { s.smp with sdo := some 0xE7, st := .rabort } } 2) := by
  change execSmpReadByte s = _
  simp [execSmpReadByte, h, hst, hr, hw, errAbort]

theorem exec_smpReadByte_aborted (hst : s.smp.st = .rabort) : exec .smpReadByte s = .next { s with smp.sdo := some 0xE7 } := by
  change execSmpReadByte s = _
  simp [execSmpReadByte, h, hst]

theorem exec_smpReadByte_data (hst : s.smp.st = .rdata) : exec .smpReadByte s = .next (sendByte (byteOut s)) := by
  change execSmpReadByte s = _
  simp [execSmpReadByte, h, hst]

theorem exec_smpCsRise_whole (hst : s.smp.st ≠ .idle) {n : Nat} (hn : n % 8 = 0) : exec (.smpCsRise n) s =
    .next { s with smp := { s.smp with
      st := .idle, sdo := none, rcOut := false, errCount := if s.smp.rcOut then 0 else s.smp.errCount } } := by
  change execSmpCsRise n s = _
  cases hrc : s.smp.rcOut <;> simp [execSmpCsRise, h, hst, hn, byteOut, hrc]

theorem exec_smpCsRise_partial (hst : s.smp.st ≠ .idle) {n : Nat} (hn : n % 8 ≠ 0) : exec (.smpCsRise n) s =
    .next { setErr s 0 with smp := { (setErr s 0).smp with st := .idle, sdo := none, rcOut := false } } := by
  change execSmpCsRise n s = _
  simp [execSmpCsRise, h, hst, hn, errPartial]

theorem exec_smpPageWrite_live (p : Byte) : exec (.smpPageWrite p) s = .next { s with smp := { s.smp with page := p.toNat } } := by
  change execSmpPageWrite p s = _
  rw [execSmpPageWrite, if_pos h, commit_pageRegister]

theorem exec_smpIndRead_live (inc : Bool) : exec (.smpIndRead inc) s = .next (writeIndCtrl s (1 + 4 * b2n inc)) := by
  change execSmpIndRead inc s = _
  rw [execSmpIndRead, if_pos h]

theorem exec_smpIndWrite_live (inc : Bool) : exec (.smpIndWrite inc) s = .next (writeIndCtrl s (2 + 4 * b2n inc)) := by
  change execSmpIndWrite inc s = _
  rw [execSmpIndWrite, if_pos h]

end live

section deaf
variable {s : State} (h : smpLive s = false)
include h

theorem exec_smpCommandByte_deaf (b : Byte) : exec (.smpCommandByte b) s = .next s := by
  change execSmpCommandByte b s = _
  simp [execSmpCommandByte, h]

theorem exec_smpWriteByte_deaf (b : Byte) : exec (.smpWriteByte b) s = .next s := by
  change execSmpWriteByte b s = _
  simp [execSmpWriteByte, h]

theorem exec_smpReadByte_deaf : exec .smpReadByte s = .next s := by
  change execSmpReadByte s = _
  simp [execSmpReadByte, h]

theorem exec_smpCsFall_deaf (sck : Bool) :
    exec (.smpCsFall sck) s = .next (if s.host.sysRst then s else { s with smp := { s.smp with deaf := true } }) := by
  change execSmpCsFall sck s = _
  cases hrst : s.host.sysRst <;> simp [execSmpCsFall, h, hrst]

theorem exec_smpCsRise_deaf (n : Nat) :
    exec (.smpCsRise n) s = .next (if s.host.sysRst then { s with smp := { s.smp with deaf := false } } else s) := by
  change execSmpCsRise n s = _
  simp [execSmpCsRise, h]

end deaf

/-! ### The end of an indirect access (R661 to R664) -/

section indirect
variable {s : State} {w inc : Bool} (hop : s.smp.indOp = some (w, inc)) (hps : s.pmu.ps = .run) (hfz : s.clk.frozen = false)
include hop hps hfz

theorem exec_smpIndDone_lost (hl : s.smp.indLost = true) : exec .smpIndDone s = .next (endInd s w inc 3 0) := by
  change execSmpIndDone s = _
  simp [execSmpIndDone, hop, hps, hfz, hl]

theorem exec_smpIndDone_closed (hl : s.smp.indLost = false) (ha : inAce s.smp.indAddr.toNat = true) (hg : (gateOf s 13).st ≠ 0) :
    exec .smpIndDone s =
      .next (endInd (if w then refusePosted s 13 0x21 else (readDev s s.smp.indAddr.toNat).2) w inc 1 0) := by
  change execSmpIndDone s = _
  simp [execSmpIndDone, hop, hps, hfz, hl, ha, hg]

theorem exec_smpIndDone_open (hl : s.smp.indLost = false) (ha : inAce s.smp.indAddr.toNat = false ∨ (gateOf s 13).st = 0) :
    exec .smpIndDone s = .next (if w then endInd (writeDev s 0x21 s.smp.indAddr.toNat s.smp.indData) true inc 0 0
      else endInd (readBar0 s 0 s.smp.indAddr.toNat).2 false inc 0 (readBar0 s 0 s.smp.indAddr.toNat).1) := by
  have hopen : ¬(inAce s.smp.indAddr.toNat = true ∧ (gateOf s 13).st ≠ 0) := by
    rintro ⟨hace, hgate⟩
    exact ha.elim (by simp [hace]) hgate
  change execSmpIndDone s = _
  cases w <;> simp only [execSmpIndDone, hop, hps, hfz, hl, if_neg hopen] <;> simp

end indirect

/-- Settles O57: each command by the law of its transition. -/
theorem smpTransactions : Obligations.SmpTransactions := by
  unfold Obligations.SmpTransactions
  refine ⟨fun s => ⟨?csFall, exec_smpCommandByte_live, ?writeByte, ?wait, exec_smpReadByte_aborted, ?dataByte, ?csRise, ?deaf⟩,
    fun s inc => ⟨fun h => ⟨exec_smpPageWrite_live h, ?read, ?write, ?readOut, ?writeOut, ?busy⟩, ?done⟩⟩
  case csFall =>
    intro h sck
    refine ⟨exec_smpCsFall_live h sck, fun hlull => ?_⟩
    rw [exec_smpCsFall_live h sck, wake_of_lull_none]
    exact hlull
  case writeByte =>
    intro h hst b
    refine ⟨fun hroom => ?_, fun hfull => ?_⟩
    · obtain ⟨hst', hsdo⟩ := commit_sameTransaction { s with smp.sdo := some 0x4E } s.smp.page s.smp.addr b
      exact ⟨exec_smpWriteByte_room h hst hroom b, commit_wb _ _ _ _, hsdo, hst'.trans hst, rfl⟩
    · exact ⟨exec_smpWriteByte_full h hst hfull b, setErr_err _ _, setErr_wb _ _, setErr_addr _ _, setErr_page _ _⟩
  case wait =>
    exact fun h hst => ⟨exec_smpReadByte_ready h hst, exec_smpReadByte_wait h hst, exec_smpReadByte_abort h hst⟩
  case dataByte =>
    intro h hst
    rw [exec_smpReadByte_data h hst, sendByte_eq, byteOut_page, byteOut_addr]
    rfl
  case csRise =>
    exact fun h hst n => ⟨exec_smpCsRise_whole h hst, fun hn => ⟨exec_smpCsRise_partial h hst hn, setErr_err s 0⟩⟩
  case deaf =>
    intro h b n sck
    refine ⟨exec_smpCommandByte_deaf h b, exec_smpWriteByte_deaf h b, exec_smpReadByte_deaf h, fun hrst => ?_, fun hrst => ?_⟩
    · rw [exec_smpCsFall_deaf h, exec_smpCsRise_deaf h, if_pos hrst, if_pos hrst]
      exact ⟨rfl, rfl⟩
    · rw [exec_smpCsFall_deaf h, exec_smpCsRise_deaf h, hrst]
      exact ⟨rfl, rfl⟩
  case read =>
    intro hb hr
    rw [exec_smpIndRead_live h, writeIndCtrl_read inc hb, startInd_of_reach hr]
  case write =>
    intro hb hr
    rw [exec_smpIndWrite_live h, writeIndCtrl_write inc hb, startInd_of_reach hr]
  case readOut =>
    intro hb hr
    obtain ⟨herr, hbusy, hdata⟩ := endInd_registers s false inc 2 0
    rw [exec_smpIndRead_live h, writeIndCtrl_read inc hb, startInd_of_not_reach hr]
    exact ⟨rfl, herr, hbusy, hdata, endInd_attn _ _ _ _ _⟩
  case writeOut =>
    intro hb hr
    obtain ⟨herr, hbusy, hdata⟩ := endInd_registers s true inc 2 0
    rw [exec_smpIndWrite_live h, writeIndCtrl_write inc hb, startInd_of_not_reach hr]
    exact ⟨rfl, herr, hbusy, hdata, endInd_attn _ _ _ _ _⟩
  case busy =>
    intro hb
    rw [exec_smpIndRead_live h, exec_smpIndWrite_live h, writeIndCtrl_of_busy _ hb, writeIndCtrl_of_busy _ hb]
    exact ⟨rfl, rfl, setErr_err s 4, setErr_indOp s 4⟩
  case done =>
    intro w hop hps hfz off
    refine ⟨exec_smpIndDone_lost hop hps hfz, fun hl ha hg => ?closed, fun hl ha => ?reached⟩
    case closed =>
      rw [exec_smpIndDone_closed hop hps hfz hl ha hg]
      refine ⟨fun hw => ?_, fun hw => ?_⟩ <;> subst hw <;> rfl
    case reached =>
      rw [exec_smpIndDone_open hop hps hfz hl ha]
      obtain ⟨_, _, hdata⟩ := endInd_registers (readBar0 s 0 off).2 false inc 0 (readBar0 s 0 off).1
      refine ⟨fun hw => ?_, fun hw => ⟨?_, hdata⟩⟩ <;> subst hw <;> rfl

end Sys2Proof.Machine
end

section
/-! The mailbox, the attention notch and the peripherals of the serial ports (O59). -/

namespace Sys2Proof.Machine

/-! ### The mailbox (R665 to R671) -/

@[simp] theorem startNotch_rings (s : State) : (startNotch s).rings = s.rings := by
  unfold startNotch
  split <;> rfl

@[simp] theorem deliverMbx_rings (s : State) (cid : Nat) (k : Compl) : (deliverMbx s cid k).rings = s.rings := startNotch_rings _

/-- The completion delivered, MBX_DONE raised. -/
theorem deliverMbx_registers (s : State) (cid : Nat) (k : Compl) :
    (deliverMbx s cid k).smp.mbxBusy = false ∧ (deliverMbx s cid k).smp.mbxDone = true ∧
      (deliverMbx s cid k).smp.attn.getLsbD 1 = true ∧
      (deliverMbx s cid k).smp.cqe = BitVec.ofNat 128 (leNat (complBytes cid k 1)) := by
  unfold deliverMbx
  obtain ⟨_, hcqe, hbusy, hdone⟩ := startNotch_only (L := [.events]) .refl (by decide) .mailbox (by decide)
  refine ⟨hbusy, hdone, ?_, hcqe⟩
  rw [startNotch_attn]
  change (s.smp.attn ||| 2).getLsbD 1 = true
  simp

theorem cmdOf_of_removed (s : State) (id : Nat) :
    cmdOf { s with rings.cmds := s.rings.cmds.filter fun x => x.id != id } id = none := by
  simp [cmdOf]

theorem exec_mailboxGo_live {s : State} (h : smpLive s = true) : exec .mailboxGo s = .next (mailboxGo s) := by
  change execMailboxGo s = _
  rw [execMailboxGo, if_pos h]

theorem exec_mailboxComplete {s : State} {c : Cmd} {k : Compl} (hc : cmdOf s 32768 = some c) (hk : c.done = some k) :
    exec .mailboxComplete s =
      .next (deliverMbx { s with rings.cmds := s.rings.cmds.filter fun x => x.id != 32768 } c.cid k) := by
  change execMailboxComplete s = _
  simp [execMailboxComplete, mbxId, hc, hk]

/-! ### The attention notch (R655 to R657) -/

theorem exec_attentionNotchEnd {s : State} (hn : s.smp.notch = true) : exec .attentionNotchEnd s =
    .next (if s.smp.notchWait = true ∧ rbHeld s = false
      then { s with smp := { s.smp with notch := true, notchWait := false } } else { s with smp := { s.smp with notch := false } }) := by
  have hheld : rbHeld { s with smp.notch := false } = rbHeld s := rfl
  change execAttentionNotchEnd s = _
  simp [execAttentionNotchEnd, hn, startNotch, hheld]

/-! ### PSPn_IRQ_N (R678) -/

theorem exec_pspIrq {s : State} (h : s.host.sysRst = true) {port : Nat} (hp : port < 2) (l : List (Nat × CartChange)) :
    exec (.pspIrq port l) s = .next (wake (l.foldl (applyChange port) (if s.pmu.booted then irqReads s port else s)) (6 + port)) := by
  change execPspIrq port l s = _
  rw [execPspIrq, if_pos ⟨h, hp⟩]

/-- The state after the port's interrupt registers were read. -/
def irqRead (s : State) (port : Nat) : State := if s.pmu.booted then irqReads s port else s

theorem irqRead_only (s : State) (port : Nat) : Only [.free, .outputs, .peripherals] s (irqRead s port) :=
  .ite (irqReads_only .refl (by decide)) .refl

@[simp] theorem irqRead_xp (s : State) (port : Nat) : (irqRead s port).xp = s.xp := irqRead_only s port .transports (by decide)

theorem irqRead_evr (s : State) (port : Nat) : (irqRead s port).evr = s.evr := by
  obtain ⟨_, _, _, _, _, _, hevr, _⟩ := irqRead_only s port .events (by decide)
  exact hevr

theorem irqRead_rings (s : State) (port : Nat) : (irqRead s port).rings = s.rings := by
  unfold irqRead
  split <;> rfl

theorem lull_irqRead (s : State) (port : Nat) : (irqRead s port).pmu.lull = s.pmu.lull := by
  obtain ⟨_, hlull, _⟩ := irqRead_only s port .power (by decide)
  exact hlull

theorem applyChange_lull (port : Nat) (s : State) (p : Nat × CartChange) : (applyChange port s p).pmu.lull = s.pmu.lull := by
  obtain ⟨_, hlull, _⟩ := applyChange_only (port := port) (s := s) (p := p) (L := [.outputs, .events, .transports]) .refl (by decide)
    .power (by decide)
  exact hlull

/-- One change, outside any Lull entry. -/
theorem exec_pspIrq_one {s : State} (h : s.host.sysRst = true) (hl : s.pmu.lull = none) {t : Nat} (ht : t < 4) (c : CartChange) :
    exec (.pspIrq (t / 2) [(t, c)]) s = .next (applyChange (t / 2) (irqRead s (t / 2)) (t, c)) := by
  rw [exec_pspIrq h (by omega)]
  exact congrArg _ (wake_of_lull_none _ (by rw [List.foldl_cons, List.foldl_nil, applyChange_lull]; exact (lull_irqRead s _).trans hl))

/-- The cartridge of a transport is now `c`, and its reader's interrupt is told (R678). -/
def cartNow (s : State) (t : Nat) (c : Option Cart) : State :=
  let u := updXp s t fun x => { x with cart := c }
  if u.pmu.booted && readerIrq u t then raise u (evXp t 9) subjXp t 0 else u

theorem xpOf_cartNow {s : State} {t : Nat} {x : Xport} (hx : xpOf s t = some x) (c : Option Cart) :
    xpOf (cartNow s t c) t = some { x with cart := c } := by
  have hxp : (cartNow s t c).xp = (updXp s t fun x => { x with cart := c }).xp := by
    unfold cartNow
    dsimp only
    split
    · exact raise_xp _ _ _ _ _
    · rfl
  rw [xpOf, hxp]
  exact xpOf_updXp_of_xport hx _

section change
variable {s : State} {t : Nat} {x : Xport} (hx : xpOf s t = some x)
include hx

theorem applyChange_inserted (hc : x.cart = none) (c : Cart) :
    applyChange (t / 2) s (t, .inserted c) = cartNow s t (some c) := by
  simp [applyChange, hx, hc, cartNow]

theorem applyChange_inserted_of_held (hc : x.cart ≠ none) (c : Cart) : applyChange (t / 2) s (t, .inserted c) = s := by
  simp [applyChange, hx, hc]

theorem applyChange_removed (hc : x.cart ≠ none) (hm : x.mount = none) :
    applyChange (t / 2) s (t, .removed) = cartNow s t none := by
  simp [applyChange, hx, Option.isSome_iff_ne_none.2 hc, hm, cartNow]

end change

/-! ### Peers (R684, R685) -/

theorem exec_peerPoll {s : State} (hrst : s.host.sysRst = true) (hboot : s.pmu.booted = true) (hps : s.pmu.ps = .run)
    (hfz : s.clk.frozen = false) {k : Nat} {e : Periph} (hone : s.smp.periph.filter (fun p => p.2.typ == 7) = [(k, e)])
    (answers : List (Nat × Option Byte)) : exec (.peerPoll answers) s = .next (pollPeer answers s k) := by
  change execPeerPoll answers s = _
  rw [execPeerPoll, if_pos ⟨hrst, hboot, hps, by simp [hfz]⟩, hone]
  rfl

theorem pollPeer_answered {s : State} {k : Nat} (hno : Tbl.has s.smp.pspTry k = false) (b : Byte) :
    pollPeer [(k, some b)] s k = notePeer (peerRead s k) k b := by
  simp [pollPeer, hno]

theorem pollPeer_silent {s : State} {k : Nat} (hno : Tbl.has s.smp.pspTry k = false) :
    pollPeer [(k, none)] s k = peerFail (peerRead s k) k := by
  simp [pollPeer, hno]

theorem raise_peripherals (s : State) (e kind subj detail : Nat) : Part.peripherals.same s (raise s e kind subj detail) :=
  raise_only (L := raising) .refl (by decide) .peripherals (by decide)

theorem raise_peers (s : State) (e kind subj detail : Nat) : (raise s e kind subj detail).smp.peers = s.smp.peers := by
  obtain ⟨_, _, _, hpeers⟩ := raise_peripherals s e kind subj detail
  exact hpeers

theorem peers_notePeer (s : State) (k : Nat) (b : Byte) : Tbl.get? (notePeer s k b).smp.peers k = some (some b) := by
  have hpeers : (notePeer s k b).smp.peers = Tbl.put s.smp.peers k (some b) := by
    unfold notePeer
    dsimp only
    split
    · split
      · exact raise_peers _ _ _ _ _
      · rfl
    · rfl
  rw [hpeers, Tbl.get?_put_self]

/-- A peer that is retried no more and known lost. -/
def peerForgotten (s : State) (k : Nat) : State :=
  { s with smp.pspTry := Tbl.del s.smp.pspTry k, smp.peers := Tbl.put s.smp.peers k none }

/-- The fault log entry of a lost peer (Table 16-4). -/
def peerLossEntry (k : Nat) : FltLog := { FltLog.blank with cls := 10, event := evPeripheral, tries := 4, detail := k }

theorem peerLost_onlyRaises (s : State) (k : Nat) :
    Only raising (faultSpent (peerForgotten s k) (peerLossEntry k) subjNone 0) (peerLost s k) :=
  .ite (raise_only .refl (by decide)) .refl

theorem peerLost_of_forgotten (s : State) (k : Nat) : Only [.outputs, .events, .faults] (peerForgotten s k) (peerLost s k) :=
  (faultSpent_only .refl (by decide)).trans ((peerLost_onlyRaises s k).mono (by decide))

theorem fltNext_peerLost (s : State) (k : Nat) : (peerLost s k).flt.next = s.flt.next + 1 := by
  have hflt : (peerLost s k).flt = (faultSpent (peerForgotten s k) (peerLossEntry k) subjNone 0).flt :=
    peerLost_onlyRaises s k .faults (by decide)
  have hspent : faultSpent (peerForgotten s k) (peerLossEntry k) subjNone 0 =
      logFault (raise (countFault (peerForgotten s k) 10 0 0 1 0) evPeripheral subjNone 0 k) (peerLossEntry k) := rfl
  rw [hflt, hspent, fltNext_logFault, flt_raise, fltNext_countFault]
  rfl

/-- A peer that is lost is retried no more, is known lost, and its fault is logged. -/
theorem peerLost_effect (s : State) (k : Nat) (hwf : Tbl.wf s.smp.pspTry = true) :
    Tbl.get? (peerLost s k).smp.pspTry k = none ∧ Tbl.get? (peerLost s k).smp.peers k = some none ∧
      (peerLost s k).flt.next = s.flt.next + 1 := by
  obtain ⟨_, _, htry, hpeers⟩ := peerLost_of_forgotten s k .peripherals (by decide)
  rw [htry, hpeers]
  exact ⟨Tbl.get?_del_self _ _ hwf, Tbl.get?_put_self _ _ _, fltNext_peerLost s k⟩

/-- The state after the retry's read was sent. -/
def retried (s : State) (k : Nat) : State := countFault (peerRead s k) 10 0 0 0 1

/-- The retry was answered: the fault is fixed and the answer stored. -/
def retryAnswered (s : State) (k : Nat) (b : Byte) : State :=
  notePeer (countFault { s with smp.pspTry := Tbl.del s.smp.pspTry k } 10 0 1 0 0) k b

/-- The retry that follows retry `n`: 20, then 40 microseconds on. -/
def retryAgain (s : State) (k n : Nat) : State :=
  { s with smp.pspTry := Tbl.put s.smp.pspTry k (n + 1, now s + 10 * 2 ^ (n + 1) * 250) }

theorem advance_smp (s : State) (dt : Nat) : (advance s dt).smp = s.smp := by
  unfold advance
  split <;> rfl

theorem advance_flt (s : State) (dt : Nat) : (advance s dt).flt = s.flt :=
  advance_only (L := [.time, .rings, .contexts, .pool, .timeBase]) .refl (by decide) .faults (by decide)

section retry
variable {s : State} {dt port sel n due : Nat} (htry : Tbl.get? s.smp.pspTry (16 * port + sel) = some (n, due))
  (hdue : due ≤ now (advance s dt)) (hfz : s.clk.frozen = false) (hps : s.pmu.ps = .run)

include htry hdue hfz hps

theorem exec_peripheralRetry_answered (b : Byte) : exec (.peripheralRetry dt port sel (some b)) s =
    .next (retryAnswered (retried (advance s dt) (16 * port + sel)) (16 * port + sel) b) := by
  change execPeripheralRetry dt port sel (some b) s = _
  simp [execPeripheralRetry, advance_smp, htry, frozen_advance, hfz, advance_pmu, hps, hdue.not_gt, retried, retryAnswered]

theorem exec_peripheralRetry_again (hn : n < 2) : exec (.peripheralRetry dt port sel none) s =
    .next (retryAgain (retried (advance s dt) (16 * port + sel)) (16 * port + sel) n) := by
  change execPeripheralRetry dt port sel none s = _
  simp [execPeripheralRetry, advance_smp, htry, frozen_advance, hfz, advance_pmu, hps, hdue.not_gt, hn, retried, retryAgain]
  rfl

theorem exec_peripheralRetry_lost (hn : 2 ≤ n) : exec (.peripheralRetry dt port sel none) s =
    .next (peerLost (retried (advance s dt) (16 * port + sel)) (16 * port + sel)) := by
  change execPeripheralRetry dt port sel none s = _
  simp [execPeripheralRetry, advance_smp, htry, frozen_advance, hfz, advance_pmu, hps, hdue.not_gt, hn.not_gt, retried]

end retry

/-- Settles O59: each command by the law of its transition. -/
theorem mailboxAndPeripherals : Obligations.MailboxAndPeripherals := by
  unfold Obligations.MailboxAndPeripherals
  refine ⟨fun s => ⟨?goBusy, ?goNotReady, ?goReady, ?complete, ?notch⟩, fun s => ⟨?irq, ?cart, ?poll, ?retry⟩⟩
  case goBusy =>
    intro h hb
    rw [exec_mailboxGo_live h, mailboxGo_of_busy hb]
    exact ⟨rfl, setErr_err s 4, setErr_onlyRaises s 4 .rings (by decide), setErr_onlyRaises s 4 .commands (by decide), setErr_sqe s 4⟩
  case goNotReady =>
    intro h hb hfw
    obtain ⟨hbusy, hdone, hattn, hcqe⟩ := deliverMbx_registers (goTaken s) (fieldOf s.smp.sqe 2 2) (Compl.of 0x67)
    rw [exec_mailboxGo_live h, mailboxGo_notReady hb hfw]
    exact ⟨_, rfl, hbusy, hdone, deliverMbx_rings _ _ _, hattn, hcqe⟩
  case goReady =>
    intro h hb hfw
    rw [exec_mailboxGo_live h, mailboxGo_ready hb hfw]
    rfl
  case complete =>
    intro c k hc hk
    obtain ⟨hbusy, hdone, hattn, hcqe⟩ :=
      deliverMbx_registers { s with rings.cmds := s.rings.cmds.filter fun x => x.id != 32768 } c.cid k
    refine ⟨exec_mailboxComplete hc hk, _, exec_mailboxComplete hc hk, ?_, hbusy, hdone, hattn, hcqe⟩
    rw [cmdOf, deliverMbx_rings]
    exact cmdOf_of_removed s 32768
  case notch =>
    intro hn
    rw [exec_attentionNotchEnd hn]
    refine ⟨fun hstay => ?_, fun hw hheld => by rw [if_pos ⟨hw, hheld⟩]⟩
    rw [if_neg]
    rintro ⟨hw, hheld⟩
    exact hstay.elim (by simp [hw]) (by simp [hheld])
  case irq => exact fun port l h hp => exec_pspIrq h hp l
  case cart =>
    intro t x c h hl ht hx
    have hx' : xpOf (irqRead s (t / 2)) t = some x := by rw [xpOf, irqRead_xp]; exact hx
    refine ⟨fun hc => ⟨_, exec_pspIrq_one h hl ht _, ?_⟩, fun hc hm => ⟨_, exec_pspIrq_one h hl ht _, ?_⟩,
      fun hc => ⟨_, exec_pspIrq_one h hl ht _, ?_⟩⟩
    · rw [applyChange_inserted hx' hc]
      exact xpOf_cartNow hx' _
    · rw [applyChange_removed hx' hc hm]
      exact xpOf_cartNow hx' _
    · rw [applyChange_inserted_of_held hx' hc]
      exact ⟨irqRead_xp _ _, irqRead_rings _ _, irqRead_evr _ _⟩
  case poll =>
    intro k e hrst hboot hps hfz hone hno q v
    refine ⟨fun b => ⟨?_, peers_notePeer _ _ _⟩, ?_⟩
    · rw [exec_peerPoll hrst hboot hps hfz hone, pollPeer_answered hno]
      rfl
    · rw [exec_peerPoll hrst hboot hps hfz hone, pollPeer_silent hno]
      rfl
  case retry =>
    intro dt port sel n due hwf htry hdue hfz hps k v
    have hv : v.smp.pspTry = s.smp.pspTry := by
      change (advance s dt).smp.pspTry = _
      rw [advance_smp]
    have hnext : v.flt.next = s.flt.next := by
      change (advance s dt).flt.next = _
      rw [advance_flt]
    refine ⟨exec_peripheralRetry_answered htry hdue hfz hps, fun hn => ?again, fun hn => ⟨?lost, ?_⟩⟩
    case again =>
      rw [exec_peripheralRetry_again htry hdue hfz hps hn, retryAgain, show 10 * 2 ^ (n + 1) * 250 = 2500 * 2 ^ (n + 1) by ring]
      rfl
    case lost => exact exec_peripheralRetry_lost htry hdue hfz hps hn
    rw [← hnext]
    exact peerLost_effect v k (hv ▸ hwf)

end Sys2Proof.Machine
end

section
/-! Every command answers a next state and changes only the parts that its row names (O6): one lemma per command, in the order of
the model's files. -/

namespace Sys2Proof.Machine

/-! ### Answers in a frame -/

/-- `a` answers a next state that differs from `s` in the parts of `l` only. -/
def Frames (l : List Part) (s : State) (a : Answer) : Prop := ∃ t, a = .next t ∧ Only l s t

theorem Frames.next {l : List Part} {s t : State} (h : Only l s t) : Frames l s (.next t) := ⟨t, rfl, h⟩

theorem Frames.ite {l : List Part} {s : State} {a b : Answer} {c : Prop} {d : Decidable c} (h : Frames l s a) (k : Frames l s b) :
    Frames l s (if c then a else b) := by
  split
  · exact h
  · exact k

/-- A change that is made or not. -/
theorem Only.ite_left {l : List Part} {s t u : State} {c : Prop} {d : Decidable c} (h : Only l s u) (k : Only l s u → Only l s t) :
    Only l s (if c then t else u) := .ite (k h) h

/-- A change that is left out or not. -/
theorem Only.ite_right {l : List Part} {s t u : State} {c : Prop} {d : Decidable c} (h : Only l s t) (k : Only l s t → Only l s u) :
    Only l s (if c then t else u) := .ite h (k h)

/-- One of two changes, or none. -/
theorem Only.ite_else {l : List Part} {s t u v : State} {c c' : Prop} {d : Decidable c} {d' : Decidable c'} (h : Only l s u)
    (k : Only l s u → Only l s t) (m : Only l s u → Only l s v) : Only l s (if c then t else if c' then v else u) :=
  .ite (k h) (.ite (m h) h)

theorem Only.elim_right {l : List Part} {s t : State} {α : Type} {o : Option α} {f : α → State} (h : Only l s t)
    (k : Only l s t → ∀ x, Only l s (f x)) : Only l s (o.elim t f) := .elim h (k h)

/-- The parts of `m` are the same in two states. -/
def Agree (m : List Part) (s t : State) : Prop := m.foldr (fun p rest => p.same s t ∧ rest) True

theorem same_of_agree {m : List Part} {s t : State} (h : Agree m s t) {p : Part} (hp : p ∈ m) : p.same s t := by
  induction m with
  | nil => exact absurd hp List.not_mem_nil
  | cons q r ih =>
    obtain ⟨hq, hr⟩ := h
    rcases List.mem_cons.1 hp with rfl | hp
    · exact hq
    · exact ih hr hp

theorem Agree.refl (m : List Part) (s : State) : Agree m s s := by
  induction m with
  | nil => trivial
  | cons p r ih => exact ⟨p.same_refl s, ih⟩

/-- A part that is not in `l` is one of the others. -/
theorem mem_but {l : List Part} {p : Part} (hp : p ∉ l) : p ∈ but l := by
  have hall : p ∈ allParts := by cases p <;> decide
  simp [but, hall, hp]

/-- An update of parts of `l`. The fields of the other parts are literally those of `u`, so that to agree with `u` says of the new
state what it says of `u`: `k` is `rfl`. -/
theorem Only.set {l : List Part} {s u : State} {a2 a3 a4 a5 a6 a7 a8 a9 a10 a11 a12 a13 a14 a15 a16 a17} (h : Only l s u)
    (k : Agree (but l) u u = Agree (but l) u ⟨u.pending, a2, a3, a4, a5, a6, a7, a8, a9, a10, a11, a12, a13, a14, a15, a16, a17⟩) :
    Only l s ⟨u.pending, a2, a3, a4, a5, a6, a7, a8, a9, a10, a11, a12, a13, a14, a15, a16, a17⟩ :=
  h.trans fun _ hp => same_of_agree (k.mp (Agree.refl (but l) u)) (mem_but hp)

section commands
variable {s : State}

/-! ### Rings and entries -/

theorem execEntryFetch_frames {n e batch} : Frames [.outputs, .rings, .contexts] s (execEntryFetch n e batch s) := by
  unfold execEntryFetch
  split
  · exact .next .refl
  · exact .ite (.next (countHw_only (.set .refl rfl) (by decide))) (.next .refl)

theorem execEntryAdmit_frames {n} : Frames (ending ++ [Part.streams, .jobs]) s (execEntryAdmit n s) := by
  unfold execEntryAdmit
  split
  · exact .next .refl
  · split
    · exact .ite (.next (admitLook_only (refill_only .refl (by decide)) (by decide))) (.next .refl)
    · exact .next .refl

theorem execOrderedStart_frames {n} : Frames [.commands] s (execOrderedStart n s) := by
  unfold execOrderedStart
  split
  · exact .ite (.next (setProg_only .refl (by decide))) (.next .refl)
  · exact .next .refl

theorem execRingEntryReadError_frames {n cause} :
    Frames (raising ++ [Part.free, .functions, .rings, .faults]) s (execRingEntryReadError n cause s) := by
  unfold execRingEntryReadError
  split
  · exact .next .refl
  · exact .ite (.next (faultSpent_only (countFault_only (logReadErr_only (.set .refl rfl) (by decide)) (by decide)) (by decide)))
      (.next .refl)

theorem execIdentify_frames {n} : Frames (ending ++ [Part.mailboxData]) s (execIdentify n s) :=
  .next (withCmd_only .refl fun _ => answer_only .refl (by decide))

theorem execGetLogPage_frames {n} :
    Frames (ending ++ [Part.ringLog, .transports, .lanes, .pool, .mailboxData, .faults]) s (execGetLogPage n s) :=
  .next (withCmd_only .refl fun _ => .ite (complete_only .refl (by decide)) (.ite (complete_only .refl (by decide)) (.ite
    (complete_only .refl (by decide)) (.ite (complete_only .refl (by decide)) (answer_only (.ite (clearPage_only .refl
    (by decide)) .refl) (by decide))))))

theorem execCreateRing_frames {n} : Frames (ending ++ [Part.ringLog]) s (execCreateRing n s) := by
  unfold execCreateRing
  refine .next (withCmd_only .refl fun _ => ?_)
  split
  · exact complete_only .refl (by decide)
  · exact .ite (makeRing_only .refl (by decide)) (setProg_only (.set .refl rfl) (by decide))

theorem execCreateRingTagsFreed_frames {n} : Frames (ending ++ [Part.ringLog]) s (execCreateRingTagsFreed n s) := by
  unfold execCreateRingTagsFreed
  split
  · split
    · exact .ite (.next (complete_only (.set .refl rfl) (by decide))) (.ite (.next (makeRing_only .refl (by decide))) (.next
        .refl))
    · exact .next .refl
  · exact .next .refl

theorem execDeleteRing_frames {n} : Frames (ending ++ [Part.jobs, .mailboxData]) s (execDeleteRing n s) := by
  unfold execDeleteRing
  refine .next (withCmd_only .refl fun _ => ?_)
  dsimp only
  split
  · exact complete_only .refl (by decide)
  · exact .ite (complete_only .refl (by decide)) (postAll_only (setProg_only (abortList_only (.set .refl rfl) (by decide))
      (by decide)) (by decide))

theorem execDeleteRingDrained_frames {n} : Frames (ending ++ [Part.streams, .transports]) s (execDeleteRingDrained n s) := by
  unfold execDeleteRingDrained
  split
  · split
    · exact .ite (.next (complete_only .refl (by decide))) (.ite (.next (complete_only (removeRing_only (dropStreams_only .refl
        (by decide)) (by decide)) (by decide))) (.next .refl))
    · exact .next .refl
  · exact .next .refl

theorem execAbort_frames {n} : Frames (ending ++ [Part.jobs, .mailboxData]) s (execAbort n s) := by
  unfold execAbort
  refine .next (withCmd_only .refl fun _ => ?_)
  dsimp only
  split
  · exact complete_only .refl (by decide)
  · exact .ite (complete_only .refl (by decide)) (postAll_only (setProg_only (abortList_only .refl (by decide)) (by decide))
      (by decide))

theorem execAbortComplete_frames {n} : Frames ending s (execAbortComplete n s) := by
  unfold execAbortComplete
  split
  · split
    · exact .ite (.next .refl) (.next (complete_only .refl (by decide)))
    · exact .next .refl
  · exact .next .refl

/-! ### The auxiliary copy engine -/

theorem execAceArm_frames {c} : Frames (raising ++ [Part.free, .functions, .copyEngine, .gates]) s (execAceArm c s) :=
  .next (whenReached_only .refl (ctrlWrite_only (fun _ => armChannel_only .refl (by decide)) .refl (by decide)) (by decide))

theorem execAceDisarm_frames {c} : Frames (raising ++ [Part.free, .functions, .copyEngine, .gates]) s (execAceDisarm c s) :=
  .next (whenReached_only .refl (ctrlWrite_only (fun _ => disarmChannel_only .refl (by decide)) .refl (by decide)) (by decide))

theorem execAceGo_frames {c} : Frames (raising ++ [Part.free, .functions, .copyEngine, .gates]) s (execAceGo c s) :=
  .next (whenReached_only .refl (ctrlWrite_only (fun _ => goChannel_only .refl (by decide)) .refl (by decide)) (by decide))

theorem execAceIterationComplete_frames {c data} :
    Frames (raising ++ [Part.copyEngine, .telemetry, .buffer]) s (execAceIterationComplete c data s) :=
  .ite (.next .refl) (.next (endIter_only (.ite (.set (.ite_left (serveTo_only .refl (by decide)) fun h => writeHost_only h
    (by decide)) rfl) (.ite_left (serveTo_only .refl (by decide)) fun h => writeHost_only h (by decide))) (by decide)))

theorem execAceBurstFail_frames {c done domainClosed err data} :
    Frames (raising ++ [Part.free, .functions, .copyEngine, .buffer, .faults]) s (execAceBurstFail c done domainClosed err data s)
    := by
  unfold execAceBurstFail
  refine .ite (.next .refl) ?_
  extract_lets noted counted served written a
  have hnoted : Only (raising ++ [Part.free, .functions, .copyEngine, .buffer, .faults]) s noted := by
    unfold noted
    split
    · exact .ite_left .refl (fun h => logReadErr_only h (by decide))
    · exact .ite_right .refl (fun h => noteBmu_only h (by decide))
  have hwritten : Only (raising ++ [Part.free, .functions, .copyEngine, .buffer, .faults]) s written := .ite_left (serveTo_only
    (.ite_left hnoted fun h => countFault_only h (by decide)) (by decide)) (fun h => writeHost_only h (by decide))
  exact .ite (.next (countFault_only (setAce_only (setAce_only hwritten (by decide)) (by decide)) (by decide))) (.next
    (logFault_only (countFault_only (haltAce_only (setAce_only hwritten (by decide)) (by decide)) (by decide)) (by decide)))

theorem execAceRetryWaitEnd_frames {dt c} : Frames (passing ++ [Part.copyEngine]) s (execAceRetryWaitEnd dt c s) := by
  unfold execAceRetryWaitEnd
  dsimp only
  split
  · exact .ite (.next (setAce_only (advance_only .refl (by decide)) (by decide))) (.next (advance_only .refl (by decide)))
  · exact .next (advance_only .refl (by decide))

/-! ### The host link -/

theorem execSubmissionDoorbell_frames {fn slot v} :
    Frames (ending ++ [Part.free, .functions, .link, .power, .gates]) s (execSubmissionDoorbell fn slot v s) :=
  .next (.ite (whenReached_only .refl (doorbell_only .refl (by decide)) (by decide)) .refl)

theorem execCompletionDoorbell_frames {fn slot v} :
    Frames (ending ++ [Part.free, .functions, .link, .power, .gates]) s (execCompletionDoorbell fn slot v s) :=
  .next (.ite (whenReached_only .refl (doorbell_only .refl (by decide)) (by decide)) .refl)

theorem execAdminRingEnable_frames : Frames [.free, .functions, .config, .rings, .commands] s (execAdminRingEnable s) :=
  .next (whenReached_only .refl (adminOn_only .refl (by decide)) (by decide))

theorem execAdminRingDisable_frames : Frames [.free, .functions, .config, .rings] s (execAdminRingDisable s) :=
  .next (whenReached_only .refl (adminOff_only .refl (by decide)) (by decide))

theorem execAdminRingDrained_frames : Frames [.config, .rings, .streams, .transports] s (execAdminRingDrained s) :=
  .next (.ite (adminGone_only .refl (by decide)) .refl)

theorem execFlrInitiate_frames {fn} :
    Frames (ending ++ [Part.free, .functions, .config, .link, .ringLog, .streams, .transports, .jobs, .copyEngine, .timeBase,
    .power, .gates, .firmware]) s (execFlrInitiate fn s) :=
  .next (.ite (wake_only (flrStart_only .refl (by decide)) (by decide)) (cfgDo_only .refl (flrStart_only .refl (by decide))
    (by decide)))

theorem execFlrComplete_frames {fn} : Frames [.functions, .events] s (execFlrComplete fn s) := .next (.ite (.set .refl rfl) .refl)

theorem execVfEnableSet_frames : Frames (raising ++ [Part.config]) s (execVfEnableSet s) :=
  .next (cfgDo_only .refl (.ite .refl (.ite_left (.set .refl rfl) fun h => raise_only h (by decide))) (by decide))

theorem execVfEnableClear_frames :
    Frames (ending ++ [Part.free, .functions, .config, .link, .ringLog, .streams, .transports, .jobs, .timeBase, .power, .gates,
    .firmware]) s (execVfEnableClear s) :=
  .next (cfgDo_only .refl (removeVfs_only .refl (by decide)) (by decide))

theorem execBusMasterDisable_frames {fn d3} :
    Frames (ending ++ [Part.free, .functions, .streams, .transports, .jobs, .engines]) s (execBusMasterDisable fn d3 s) :=
  .next (cfgDo_only .refl (.ite (settle_only (hostLost_only (setFn_only .refl (by decide)) (by decide)) (by decide)) (setFn_only
    .refl (by decide))) (by decide))

theorem execBusMasterEnable_frames {fn d0} :
    Frames (raising ++ [Part.functions, .rings, .commands, .contexts]) s (execBusMasterEnable fn d0 s) :=
  .next (cfgDo_only .refl (hostBack_only (setFn_only .refl (by decide)) (by decide)) (by decide))

theorem execMsixUnmask_frames {fn vec} : Frames (raising ++ [Part.free, .functions]) s (execMsixUnmask fn vec s) := by
  unfold execMsixUnmask
  split
  · exact .next (.ite (whenReached_only .refl (flushPba_only (setFn_only .refl (by decide)) (by decide)) (by decide)) .refl)
  · exact .next (cfgDo_only .refl (flushPba_only (setFn_only .refl (by decide)) (by decide)) (by decide))

theorem execHoldoffEnd_frames {dt e} : Frames (passing ++ raising) s (execHoldoffEnd dt e s) := by
  unfold execHoldoffEnd
  dsimp only
  split
  · exact .ite (.next (.foldl (fun _ _ => sendMsix_only .refl (by decide)) _ (.set (advance_only .refl (by decide)) rfl))) (.next
      (advance_only .refl (by decide)))
  · exact .next (advance_only .refl (by decide))

theorem execPerstFall_frames :
    Frames (ending ++ [Part.free, .functions, .config, .link, .ringLog, .streams, .transports, .jobs, .copyEngine, .timeBase,
    .power, .gates, .firmware]) s (execPerstFall s) :=
  .ite (.next (.ite (.set (hostSideReset_only (.set .refl rfl) (by decide)) rfl) (.foldl (fun _ _ => flrSteps_only .refl
    (by decide)) _ (hostSideReset_only (.set .refl rfl) (by decide))))) (.next .refl)

theorem execPerstRise_frames : Frames (ending ++ [Part.functions, .link, .power, .gates]) s (execPerstRise s) :=
  .ite (.next (wake_only (openWindow900_only (.set .refl rfl) (by decide)) (by decide))) (.next .refl)

theorem execCrsWindowEnd_frames {dt} : Frames (passing ++ [Part.functions, .link]) s (execCrsWindowEnd dt s) :=
  .next (.ite (fwUp_only (.set (advance_only .refl (by decide)) rfl) (by decide)) (advance_only .refl (by decide)))

theorem execLinkUp_frames : Frames (raising ++ [Part.functions, .link, .rings, .commands, .contexts]) s (execLinkUp s) :=
  .ite (.next (hostBack_only (fwUp_only (.set .refl rfl) (by decide)) (by decide))) (.next .refl)

theorem execLinkDown_frames {err} :
    Frames (ending ++ [Part.free, .functions, .link, .streams, .transports, .jobs, .engines]) s (execLinkDown err s) := by
  unfold execLinkDown
  refine .ite (.next (settle_only (.foldl (fun _ _ => hostLost_only .refl (by decide)) _ (.set ?_ rfl)) (by decide))) (.next
    .refl)
  split
  · exact logUnc_only .refl (by decide)
  · exact .refl

/-! ### Contexts -/

theorem execCreateContext_frames {n desc} : Frames ending s (execCreateContext n desc s) :=
  .next (withCmd_only .refl fun _ => .ite (complete_only .refl (by decide)) (.ite (complete_only .refl (by decide)) (.ite
    (complete_only (cmdRead_only .refl (by decide)) (by decide)) (.ite (complete_only (cmdRead_only .refl (by decide))
    (by decide)) (complete_only (.set (cmdRead_only .refl (by decide)) rfl) (by decide))))))

theorem execModifyContext_frames {n desc} : Frames ending s (execModifyContext n desc s) := by
  unfold execModifyContext
  refine .next (withCmd_only .refl fun _ => ?_)
  split
  · exact complete_only .refl (by decide)
  · exact .ite (complete_only .refl (by decide)) (.ite (complete_only .refl (by decide)) (.ite (complete_only (cmdRead_only .refl
      (by decide)) (by decide)) (.ite (complete_only (cmdRead_only .refl (by decide)) (by decide)) (.ite (complete_only
      (cmdRead_only .refl (by decide)) (by decide)) (complete_only (countHw_only (.ite_right (updCtx_only (cmdRead_only .refl
      (by decide)) (by decide)) fun h => loseLooks_only h (by decide)) (by decide)) (by decide))))))

theorem execDeleteContext_frames {n} :
    Frames (ending ++ [Part.streams, .transports, .jobs, .mailboxData]) s (execDeleteContext n s) := by
  unfold execDeleteContext
  refine .next (withCmdW_only .refl fun _ => ?_)
  split
  · exact continueDelete_only .refl (by decide)
  · split
    · exact complete_only .refl (by decide)
    · refine .ite (complete_only .refl (by decide)) (.ite (complete_only .refl (by decide)) ?_)
      dsimp only
      split
      · split
        · exact continueDelete_only (startDelete_only .refl (by decide)) (by decide)
        · exact startDelete_only .refl (by decide)
      · exact startDelete_only .refl (by decide)

theorem execGetContextStatus_frames {n} : Frames (ending ++ [Part.mailboxData]) s (execGetContextStatus n s) :=
  .next (withCmd_only .refl fun _ => answer_only .refl (by decide))

/-! ### Faults and the watchdog -/

theorem execSetWatchdog_frames {n} : Frames (ending ++ [Part.faults]) s (execSetWatchdog n s) :=
  .next (withCmd_only .refl fun _ => complete_only (.set .refl rfl) (by decide))

theorem execGetFaultLog_frames {n} : Frames (ending ++ [Part.mailboxData, .faults]) s (execGetFaultLog n s) :=
  .next (withCmd_only .refl fun _ => .ite (complete_only .refl (by decide)) (answer_only (.ite (.set .refl rfl) .refl)
    (by decide)))

theorem execRetireBufferPage_frames {n copy} : Frames (ending ++ [Part.firmware, .faults]) s (execRetireBufferPage n copy s) :=
  .next (withCmd_only .refl fun _ => .ite (complete_only .refl (by decide)) (.ite (complete_only .refl (by decide)) (.ite
    (complete_only .refl (by decide)) (.ite (complete_only .refl (by decide)) (.ite (complete_only .refl (by decide))
    (complete_only (retirePage_only (noteCopy_only .refl (by decide)) (by decide)) (by decide)))))))

theorem execLaneDisable_frames {n} : Frames (ending ++ [Part.transports, .firmware]) s (execLaneDisable n s) :=
  .next (withCmd_only .refl fun _ => .ite (complete_only .refl (by decide)) (complete_only (updXp_only (.set .refl rfl)
    (by decide)) (by decide)))

theorem execWatchdogExamine_frames {dt} :
    Frames (passing ++ ending ++ [Part.free, .jobs, .mailboxData, .faults]) s (execWatchdogExamine dt s) :=
  .next (postAll_only (.foldl (fun _ _ => examineOne_only .refl (by decide)) _ (advance_only .refl (by decide))) (by decide))

/-! ### Power, gates, engines and thermal levels -/

theorem execThermalSample_frames {dt temps ext} :
    Frames (passing ++ ending ++ [Part.free, .functions, .link, .streams, .transports, .thermal, .firmware]) s (execThermalSample
    dt temps ext s) := by
  unfold execThermalSample
  have hu : Only (passing ++ ending ++ [Part.free, .functions, .link, .streams, .transports, .thermal, .firmware]) s (advance s
    dt) := advance_only .refl (by decide)
  generalize advance s dt = u at hu ⊢
  exact .ite (.next hu) (.next (settle_only (applyThermal_only (.ite_right (.ite_left (.set hu rfl) fun h => raise_only h
    (by decide)) fun h => changeLevel_only h (by decide)) (by decide)) (by decide)))

theorem execShutdownPowerOff_frames {dt} :
    Frames (but [.queue, .free, .outputs, .smpPort, .indirect, .mailbox, .mailboxData, .peripherals, .gates, .faults]) s
    (execShutdownPowerOff dt s) := by
  unfold execShutdownPowerOff
  dsimp only
  split
  · exact .ite (.next (.set (advance_only .refl (by decide)) rfl)) (.next (advance_only .refl (by decide)))
  · exact .next (advance_only .refl (by decide))

theorem execThermalConfig_frames {n} : Frames (ending ++ [Part.thermal]) s (execThermalConfig n s) :=
  .next (withCmd_only .refl fun _ => .ite (complete_only .refl (by decide)) (.ite (complete_only .refl (by decide)) (complete_only
    (.set .refl rfl) (by decide))))

theorem execGateClosed_frames {dt k} : Frames (passing ++ ending ++ [Part.mailbox, .power, .gates]) s (execGateClosed dt k s) :=
  .next (.ite_left (advance_only .refl (by decide)) fun h => gateDone_only h (by decide))

theorem execGateForceClose_frames {dt k waiting} :
    Frames (passing ++ ending ++ [Part.free, .copyEngine, .indirect, .mailbox, .power, .gates]) s (execGateForceClose dt k waiting
    s) :=
  .ite (.next (gateDone_only (setGate_only (raiseGate_only (forceLose_only (advance_only .refl (by decide)) (by decide))
    (by decide)) (by decide)) (by decide))) (.next (advance_only .refl (by decide)))

theorem execEnterLull_frames {n} : Frames (ending ++ [Part.link, .power, .gates]) s (execEnterLull n s) :=
  .next (withCmd_only .refl fun _ => .ite (complete_only .refl (by decide)) (.ite (complete_only .refl (by decide)) (setProg_only
    (.set .refl rfl) (by decide))))

theorem execLullQuiesced_frames :
    Frames (ending ++ [Part.free, .streams, .transports, .power, .gates]) s (execLullQuiesced s) := by
  unfold execLullQuiesced
  split
  · exact .ite (.next .refl) (.ite (.next (settle_only (closeAllOpen_only .refl (by decide)) (by decide))) (.next (startClose_only
      (.set .refl rfl) (by decide))))
  · exact .next .refl

theorem execQuiesceTimeout_frames {dt} :
    Frames (passing ++ ending ++ [Part.transports, .power, .gates]) s (execQuiesceTimeout dt s) := by
  unfold execQuiesceTimeout
  dsimp only
  split
  · exact .ite (.next (applyThermal_only (undoLull_only (advance_only .refl (by decide)) (by decide)) (by decide))) (.next
      (advance_only .refl (by decide)))
  · exact .next (advance_only .refl (by decide))

theorem execLullStateSaved_frames :
    Frames (ending ++ [Part.link, .keySlots, .copyEngine, .mailbox, .power, .gates]) s (execLullStateSaved s) := by
  unfold execLullStateSaved
  split
  · exact .ite (.next .refl) (.next (.ite (beginExit_only (enterState_only (.ite (gateDone_only .refl (by decide)) .refl)
      (by decide)) (by decide)) (.set (enterState_only (.ite (gateDone_only .refl (by decide)) .refl) (by decide)) rfl)))
  · exact .next .refl

theorem execHostLinkWake_frames : Frames (ending ++ [Part.link, .power, .gates]) s (execHostLinkWake s) :=
  .next (.ite (wake_only .refl (by decide)) .refl)

theorem execLullExitComplete_frames {dt digestOk} :
    Frames (but [.queue, .lanes, .smpPort, .indirect, .mailbox, .mailboxData, .faults]) s (execLullExitComplete dt digestOk s) :=
    by
  unfold execLullExitComplete
  have hu : Only (but [.queue, .lanes, .smpPort, .indirect, .mailbox, .mailboxData, .faults]) s (advance s dt) := advance_only
    .refl (by decide)
  generalize advance s dt = u at hu ⊢
  dsimp only
  split
  next e _ =>
    refine .ite (.next hu) (.next (startMbx_only (settle_only (applyThermal_only (raiseAttn_only (logPower_only (applyAll_only ?_
      (by decide)) (by decide)) (by decide)) (by decide)) (by decide)) (by decide)))
    have hleft : Only (but [.queue, .lanes, .smpPort, .indirect, .mailbox, .mailboxData, .faults]) s (if e.target = 3 then
      leaveLull3 u else u) := .ite_left hu fun h => leaveLull3_only h (by decide)
    generalize (if e.target = 3 then leaveLull3 u else u) = v at hleft ⊢
    exact .ite_else (.ite_else (raiseHeld_only (runOwed_only (openGates_only (.set hleft rfl) (by decide)) (by decide))
      (by decide)) (fun h => .set h rfl) fun h => firmwareStarts_only h (by decide)) (fun h => openWindow900_only h (by decide))
      fun h => fwUp_only h (by decide)
  · exact .next hu

theorem execFenceEngine_frames {n} : Frames (ending ++ [Part.engines]) s (execFenceEngine n s) := by
  unfold execFenceEngine
  refine .next (withCmd_only .refl fun _ => .ite (complete_only .refl (by decide)) ?_)
  split
  · exact complete_only .refl (by decide)
  · exact complete_only (.ite (setEng_only .refl (by decide)) .refl) (by decide)
  · exact setProg_only (setEng_only .refl (by decide)) (by decide)
  · exact .ite_right (setProg_only (setEng_only .refl (by decide)) (by decide)) (fun h => fenceDone_only h (by decide))

theorem execEngineDrained_frames {cls idx} : Frames (ending ++ [Part.engines]) s (execEngineDrained cls idx s) :=
  .next (.ite (fenceDone_only .refl (by decide)) .refl)

theorem execEngineDrainTimeout_frames {dt cls idx} :
    Frames (passing ++ ending ++ [Part.lanes, .jobs, .engines]) s (execEngineDrainTimeout dt cls idx s) :=
  .ite (.next (.ite_right (.set (stopWork_only (advance_only .refl (by decide)) (by decide)) rfl) fun h => fenceDone_only h
    (by decide))) (.next (advance_only .refl (by decide)))

theorem execResetEngine_frames {n pass} : Frames (ending ++ [Part.transports, .engines]) s (execResetEngine n pass s) :=
  .next (withCmd_only .refl fun _ => .ite (complete_only .refl (by decide)) (complete_only (.ite_left (setEng_only .refl
    (by decide)) fun h => updXp_only h (by decide)) (by decide)))

theorem execPfailQualified_frames : Frames [.transports, .thermal] s (execPfailQualified s) :=
  .ite (.next .refl) (.next (.set .refl rfl))

theorem execPfailRelease_frames : Frames (ending ++ [Part.link, .power, .gates, .thermal]) s (execPfailRelease s) :=
  .ite (.next (startMbx_only (wake_only (raise_only (.set .refl rfl) (by decide)) (by decide)) (by decide))) (.next (.ite
    (wake_only .refl (by decide)) .refl))

/-! ### Keys and nonces -/

theorem execNonceReserved_frames : Frames [.nonces, .firmware] s (execNonceReserved s) := by
  unfold execNonceReserved
  split
  · exact .next (.set .refl rfl)
  · exact .next .refl

theorem execNonceJournalFail_frames : Frames (raising ++ [Part.nonces]) s (execNonceJournalFail s) := by
  unfold execNonceJournalFail
  split
  · exact .next (noteNstate_only (raise_only (.set .refl rfl) (by decide)) (by decide))
  · exact .next .refl

theorem execNonceRetry_frames {dt} : Frames (passing ++ [Part.outputs, .nonces, .peripherals]) s (execNonceRetry dt s) := by
  unfold execNonceRetry
  dsimp only
  split
  · exact .ite (.next (startJournal_only (advance_only .refl (by decide)) (by decide))) (.next (advance_only .refl (by decide)))
  · exact .next (advance_only .refl (by decide))

theorem execNonceStatus_frames {n} : Frames (ending ++ [Part.mailboxData]) s (execNonceStatus n s) :=
  .next (withCmd_only .refl fun _ => answer_only .refl (by decide))

theorem execKeyLoadWrapped_frames {n blob} : Frames (ending ++ [Part.keySlots]) s (execKeyLoadWrapped n blob s) := by
  unfold execKeyLoadWrapped
  refine .next (withCmd_only .refl fun _ => .ite (complete_only .refl (by decide)) (.ite (complete_only (cmdRead_only .refl
    (by decide)) (by decide)) (.ite (complete_only (cmdRead_only .refl (by decide)) (by decide)) (.ite (complete_only
    (cmdRead_only .refl (by decide)) (by decide)) (.ite (complete_only (cmdRead_only .refl (by decide)) (by decide)) (.ite
    (complete_only (cmdRead_only .refl (by decide)) (by decide)) ?_))))))
  split
  · exact complete_only (cmdRead_only .refl (by decide)) (by decide)
  · exact complete_only (.ite (.set (cmdRead_only .refl (by decide)) rfl) (.set (cmdRead_only .refl (by decide)) rfl)) (by decide)

theorem execKeyErase_frames {n} : Frames (ending ++ [Part.keySlots, .jobs, .mailboxData]) s (execKeyErase n s) := by
  unfold execKeyErase
  refine .next (withCmdW_only .refl fun _ => ?_)
  dsimp only
  split
  · exact .ite (complete_only (eraseSlot_only .refl (by decide)) (by decide)) .refl
  · exact .ite (complete_only .refl (by decide)) (.ite (complete_only (eraseSlot_only (postAll_only (setProg_only (abortList_only
      .refl (by decide)) (by decide)) (by decide)) (by decide)) (by decide)) (postAll_only (setProg_only (abortList_only .refl
      (by decide)) (by decide)) (by decide)))

theorem execDomainJoin_frames {n blk} : Frames (ending ++ [Part.keySlots, .nonces, .firmware]) s (execDomainJoin n blk s) := by
  unfold execDomainJoin
  refine .next (withCmd_only .refl fun _ => .ite .refl (.ite (complete_only .refl (by decide)) (.ite (complete_only (.set
    .refl rfl) (by decide)) (.ite (complete_only .refl (by decide)) ?_))))
  dsimp only
  split
  · exact complete_only (cmdRead_only .refl (by decide)) (by decide)
  · exact complete_only (noteNstate_only (.set (cmdRead_only .refl (by decide)) rfl) (by decide)) (by decide)

theorem execGetDeviceCert_frames {n} : Frames (ending ++ [Part.mailboxData]) s (execGetDeviceCert n s) :=
  .next (withCmd_only .refl fun _ => .ite (complete_only .refl (by decide)) (answer_only .refl (by decide)))

theorem execSkCommitGo_frames {fn slot v} : Frames (raising ++ [Part.free, .functions, .rings]) s (execSkCommitGo fn slot v s) :=
  .next (.ite (.ite (windowCommit_only .refl (by decide)) .refl) (.ite (logUnc_only .refl (by decide)) .refl))

theorem execSkCommitClear_frames {fn slot v} :
    Frames (raising ++ [Part.free, .functions, .rings]) s (execSkCommitClear fn slot v s) :=
  .next (.ite (.ite (windowCommit_only .refl (by decide)) .refl) (.ite (logUnc_only .refl (by decide)) .refl))

theorem execSessionKeyClear_frames {n} : Frames ending s (execSessionKeyClear n s) := by
  unfold execSessionKeyClear
  refine .next (withCmd_only .refl fun _ => ?_)
  dsimp only
  split
  · exact complete_only .refl (by decide)
  · exact .ite .refl (complete_only (updSk_only .refl (by decide)) (by decide))

theorem execCryptBlock_frames {n engine inSgl outSgl input aad ivt} :
    Frames (ending ++ [Part.nonces, .mailboxData, .peripherals]) s (execCryptBlock n engine inSgl outSgl input aad ivt s) := by
  unfold execCryptBlock
  refine .next (withCmdW_only .refl fun _ => ?_)
  split
  · exact complete_only .refl (by decide)
  · dsimp only
    split
    · exact complete_only .refl (by decide)
    · exact complete_only .refl (by decide)
    · refine .ite (complete_only .refl (by decide)) (.ite (complete_only .refl (by decide)) (.ite (complete_only .refl
        (by decide)) (.ite (complete_only .refl (by decide)) (.ite (updCmd_only .refl (by decide)) ?_))))
      have hdrawn {p : Prop} [Decidable p] : Only (ending ++ [Part.nonces, .mailboxData, .peripherals]) s (if p then nextIv s else
        (some 0, s)).2 := by
        split
        · exact nextIv_only .refl (by decide)
        · exact .refl
      split
      · exact complete_only (countReject_only hdrawn (by decide)) (by decide)
      · exact complete_only (cmdWrite_only (cmdScatter_only (cryptReads_only hdrawn (by decide)) (by decide)) (by decide))
          (by decide)

/-! ### Records on their way to tape -/

theorem execWrite_frames {n sgl} : Frames ending s (execWrite n sgl s) := by
  unfold execWrite
  refine .next (withCmd_only .refl fun _ => ?_)
  split
  · exact endWrite_only .refl (by decide)
  · exact .ite (endWrite_only .refl (by decide)) (.ite (endWrite_only (readSgl_only .refl (by decide)) (by decide)) (updCmd_only
      (readSgl_only .refl (by decide)) (by decide)))

theorem execWriteBatch_frames {n descs sgls} : Frames ending s (execWriteBatch n descs sgls s) := by
  unfold execWriteBatch
  refine .next (withCmd_only .refl fun _ => ?_)
  split
  · exact endWrite_only .refl (by decide)
  · exact .ite (endWrite_only .refl (by decide)) (.ite .refl (.ite (endWrite_only (cmdRead_only .refl (by decide)) (by decide))
      (finishWrite_only (updCmd_only (.foldl (fun _ _ => readSgl_only .refl (by decide)) _ (cmdRead_only .refl (by decide)))
      (by decide)) (by decide))))

theorem execRecordIngest_frames {n label data} : Frames ending s (execRecordIngest n label data s) := by
  unfold execRecordIngest
  split
  · refine .ite (.next .refl) (.ite (.next (failRec_only .refl (by decide))) (.ite (.next (failRec_only (readBuf_only
      (cmdRead_only .refl (by decide)) (by decide)) (by decide))) ?_))
    dsimp only
    split
    · exact .next (updRec_only (readBuf_only (cmdRead_only .refl (by decide)) (by decide)) (by decide))
    · exact .next (countHw_only (updCtx_only (updCmd_only (readBuf_only (cmdRead_only .refl (by decide)) (by decide)) (by decide))
        (by decide)) (by decide))
  · exact .next .refl

theorem execHostReadError_frames {n cause} :
    Frames (ending ++ [Part.free, .functions, .jobs, .engines, .faults]) s (execHostReadError n cause s) := by
  unfold execHostReadError
  split
  · refine .ite ?_ (.next .refl)
    have hlogged {c e k v} : Only (ending ++ [Part.free, .functions, .jobs, .engines, .faults]) s (faultSpent (countFault
      (logReadErr s c cause) 0 1 0 0 0) e k v) := faultSpent_only (countFault_only (logReadErr_only .refl (by decide))
      (by decide)) (by decide)
    dsimp only
    split
    · exact .next (.ite_left hlogged fun h => failRec_only h (by decide))
    · exact .next (complete_only (dropRecords_only (.set (.elim_right hlogged fun h _ => .ite_right h fun h => uncount_only h
        (by decide)) rfl) (by decide)) (by decide))
  · exact .next .refl

theorem execRecordCompress_frames {n ing coded} : Frames (ending ++ [Part.faults]) s (execRecordCompress n ing coded s) := by
  unfold execRecordCompress
  split
  · split
    · exact .ite (.next .refl) (.ite (.next (failRec_only .refl (by decide))) (.ite (.next (ingestFault_only (noteSeen_only .refl
        (by decide)) (by decide))) (.ite (.next (noteSeen_only .refl (by decide))) (.next (updRec_only (noteSeen_only .refl
        (by decide)) (by decide))))))
    · exact .next .refl
  · exact .next .refl

theorem execRecordSeal_frames {n engine} : Frames (ending ++ [Part.nonces, .peripherals]) s (execRecordSeal n engine s) := by
  unfold execRecordSeal
  split
  · split
    · refine .ite (.next (updRec_only .refl (by decide))) (.ite (.next (failRec_only .refl (by decide))) (.ite (.next .refl) ?_))
      split
      · exact .next (failRec_only .refl (by decide))
      · dsimp only
        split
        · exact .next (failRec_only (countReject_only (nextIv_only .refl (by decide)) (by decide)) (by decide))
        · exact .next (updRec_only (nextIv_only .refl (by decide)) (by decide))
    · exact .next .refl
  · exact .next .refl

theorem execCheckBack_frames {n engine chk} : Frames (ending ++ [Part.faults]) s (execCheckBack n engine chk s) := by
  unfold execCheckBack
  split
  · split
    · exact .ite (.next (failRec_only .refl (by decide))) (.ite (.next .refl) (.ite (.next (updRec_only (noteSeen_only .refl
        (by decide)) (by decide))) (.ite (.next (updRec_only (countFault_only (noteSeen_only .refl (by decide)) (by decide))
        (by decide))) (.next (failRec_only (faultSpent_only (countFault_only (noteSeen_only .refl (by decide)) (by decide))
        (by decide)) (by decide))))))
    · exact .next .refl
  · exact .next .refl

theorem execRecordPack_frames {n xfr lbl rows} :
    Frames (ending ++ [Part.free, .streams, .transports, .mailboxData, .faults]) s (execRecordPack n xfr lbl rows s) := by
  unfold execRecordPack
  split
  · split
    · refine .ite (.next .refl) (.ite (.next (failRec_only .refl (by decide))) (.ite (.next (failRec_only .refl (by decide)))
        (.ite (.next (ingestFault_only (noteSeen_only (noteSeen_only .refl (by decide)) (by decide)) (by decide))) (.ite (.next
        (ingestFault_only (noteSeen_only (noteSeen_only .refl (by decide)) (by decide)) (by decide))) (.ite (.next (failRec_only
        (noteSeen_only (noteSeen_only .refl (by decide)) (by decide)) (by decide))) ?_)))))
      dsimp only
      split
      · exact .next (atEop_only (noteSeen_only (noteSeen_only .refl (by decide)) (by decide)) (by decide))
      · exact .next (settle_only (finishWrite_only (.ite_left (ackRecord_only (noteSeen_only (noteSeen_only .refl (by decide))
          (by decide)) (by decide)) fun h => damageRows_only h (by decide)) (by decide)) (by decide))
    · exact .next .refl
  · exact .next .refl

theorem execFlushWindowExpire_frames {dt t rows} :
    Frames (passing ++ ending ++ [Part.free, .streams, .transports, .faults]) s (execFlushWindowExpire dt t rows s) := by
  unfold execFlushWindowExpire
  dsimp only
  split
  · split
    · exact .ite (.next (settle_only (damageRows_only (closeDataset_only (advance_only .refl (by decide)) (by decide))
        (by decide)) (by decide))) (.next (advance_only .refl (by decide)))
    · exact .next (advance_only .refl (by decide))
  · exact .next (advance_only .refl (by decide))

/-! ### Writing datasets to tape -/

theorem execWriteSegmentBoundary_frames {dt t rows} :
    Frames (passing ++ ending ++ [Part.free, .streams, .transports, .lanes, .faults]) s (execWriteSegmentBoundary dt t rows s) :=
    by
  unfold execWriteSegmentBoundary
  dsimp only
  split
  · split
    · exact .ite (.next (interrupt_only (.ite_left (advance_only .refl (by decide)) fun h => cutFlight_only h (by decide))
        (by decide))) (.ite (.ite (.next (updMount_only (sendAll_only (advance_only .refl (by decide)) (by decide)) (by decide)))
        (.next (advance_only .refl (by decide)))) (.ite (.next (.ite_right (advance_only .refl (by decide)) fun h => abandon_only
        h (by decide))) (.next (damageRows_only (updMount_only (.foldl (fun _ _ =>
        laneSegment_only .refl (by decide)) _ (.ite_left (advance_only .refl (by decide)) fun h => updXp_only h (by decide)))
          (by decide)) (by decide)))))
    · exact .next (advance_only .refl (by decide))
  · exact .next (advance_only .refl (by decide))

theorem execServiceDomainTick_frames {dt} : Frames passing s (execServiceDomainTick dt s) :=
  .next (recompute_only (advance_only .refl (by decide)) (by decide))

theorem execDatasetBoundary_frames {t} :
    Frames (ending ++ [Part.free, .streams, .transports, .pool, .faults]) s (execDatasetBoundary t s) := by
  unfold execDatasetBoundary
  split
  · split
    · exact .ite (.ite (.next (endPosition_only .refl (by decide))) (.next (afterBoundary_only (recomputeXport_only (pushMax_only
        (noteEw_only (takeBlocks_only (endPosition_only .refl (by decide)) (by decide)) (by decide)) (by decide)) (by decide))
        (by decide)))) (.next .refl)
    · exact .next .refl
  · exact .next .refl

theorem execTransportRestart_frames {t} :
    Frames (ending ++ [Part.free, .streams, .transports, .pool, .peripherals]) s (execTransportRestart t s) := by
  unfold execTransportRestart
  split
  · split
    · exact .ite (.next .refl) (.ite (.ite (.next (updXp_only .refl (by decide))) (.next .refl)) (.ite (.next .refl) (.ite (.next
        (.ite (startWriting_only .refl (by decide)) (.ite (exhaust_only .refl (by decide)) (updXp_only .refl (by decide)))))
        (.next .refl))))
    · exact .next .refl
  · exact .next .refl

theorem execWrapTurnaround_frames {t} :
    Frames [.outputs, .contexts, .transports, .pool, .peripherals, .power] s (execWrapTurnaround t s) := by
  unfold execWrapTurnaround
  split
  · split
    · exact .ite (.next (updXp_only (.set .refl rfl) (by decide))) (.next (.ite (startWriting_only (updXp_only (.set .refl rfl)
        (by decide)) (by decide)) (updXp_only (updXp_only (.set .refl rfl) (by decide)) (by decide))))
    · exact .next .refl
  · exact .next .refl

theorem execWritePositionReturn_frames {t} : Frames [.transports] s (execWritePositionReturn t s) := by
  unfold execWritePositionReturn
  split
  · split
    · exact .ite (.next (updXp_only .refl (by decide))) (.next .refl)
    · exact .next .refl
  · exact .next .refl

theorem execSpeedMatchTick_frames {dt t} : Frames (passing ++ [Part.transports]) s (execSpeedMatchTick dt t s) := by
  unfold execSpeedMatchTick
  dsimp only
  split
  · split
    · exact .ite (.next (updXp_only (advance_only .refl (by decide)) (by decide))) (.ite (.next (updXp_only (advance_only .refl
        (by decide)) (by decide))) (.next (advance_only .refl (by decide))))
    · exact .next (advance_only .refl (by decide))
  · exact .next (advance_only .refl (by decide))

/-! ### The read channel -/

theorem execSyncWindowEnd_frames {l found} : Frames [.lanes] s (execSyncWindowEnd l found s) := by
  unfold execSyncWindowEnd
  refine .ite (.next .refl) ?_
  split
  · exact .next (setLane_only .refl (by decide))
  · exact .next (setLane_only .refl (by decide))

theorem execSyncAcquired_frames {l matched preErrs markErrs} :
    Frames [.lanes] s (execSyncAcquired l matched preErrs markErrs s) :=
  .ite (.next (setLane_only .refl (by decide))) (.next .refl)

theorem execSeparatorDetected_frames {l errs} : Frames [.lanes] s (execSeparatorDetected l errs s) :=
  .ite (.next (setLane_only .refl (by decide))) (.next .refl)

theorem execDropoutEntry_frames {l} : Frames [.free, .lanes] s (execDropoutEntry l s) :=
  .ite (.next (setLane_only (adapt_only .refl (by decide)) (by decide))) (.next .refl)

theorem execDropoutExit_frames {l} : Frames [.lanes] s (execDropoutExit l s) :=
  .ite (.next (setLane_only .refl (by decide))) (.next .refl)

theorem execCodewordArrival_frames {l cls y gaps} :
    Frames (ending ++ [Part.free, .streams, .transports, .lanes, .pool, .faults]) s (execCodewordArrival l cls y gaps s) := by
  unfold execCodewordArrival
  refine .ite (.next .refl) (.ite ?_ (.ite (.next (arrive_only .refl (by decide))) (.next .refl)))
  split
  · exact .ite (.next (judge_only (setLane_only .refl (by decide)) (by decide))) (.next (arrive_only (setLane_only .refl
      (by decide)) (by decide)))
  · exact .next .refl

theorem execDecoderGrant_frames {d} : Frames [.transports, .lanes, .pool] s (execDecoderGrant d s) := by
  unfold execDecoderGrant
  refine .ite (.next .refl) ?_
  split
  · exact .next .refl
  · exact .ite (.next (endUnconverged_only (dropSample_only .refl (by decide)) (by decide))) (.next (updSample_only (.set (.set
      .refl rfl) rfl) (by decide)))

theorem execDecodeEnd_frames {d iters} :
    Frames (ending ++ [Part.free, .streams, .transports, .lanes, .pool, .faults]) s (execDecodeEnd d iters s) := by
  unfold execDecodeEnd
  split
  · exact .next .refl
  · split
    · exact .next (.set .refl rfl)
    · exact .ite (.next .refl) (.ite (.next (judge_only (dropSample_only (countIters_only (.set .refl rfl) (by decide))
        (by decide)) (by decide))) (.next (endPass_only (countIters_only (.set .refl rfl) (by decide)) (by decide))))

theorem execPoolEvaluation_frames {dt} : Frames (passing ++ raising) s (execPoolEvaluation dt s) :=
  .next (.ite_left (.set (advance_only .refl (by decide)) rfl) fun h => raise_only h (by decide))

/-! ### Streams -/

theorem execOpenStream_frames {n} : Frames (ending ++ [Part.streams, .transports]) s (execOpenStream n s) := by
  unfold execOpenStream
  refine .next (withCmdW_only .refl fun _ => ?_)
  split
  · exact complete_only .refl (by decide)
  · split
    · exact complete_only .refl (by decide)
    · dsimp only
      split
      · exact .refl
      · exact .ite (openNow_only .refl (by decide)) (.ite (openNow_only (updXp_only .refl (by decide)) (by decide)) (.ite
          (complete_only .refl (by decide)) (.ite .refl (setProg_only (closePart_only .refl (by decide)) (by decide)))))

theorem execFlush_frames {n} : Frames (ending ++ [Part.free, .streams, .transports]) s (execFlush n s) :=
  .next (withCmd_only .refl fun _ => startFlush_only .refl (by decide))

theorem execSync_frames {n} : Frames (ending ++ [Part.free, .streams, .transports]) s (execSync n s) :=
  .next (withCmd_only .refl fun _ => startFlush_only .refl (by decide))

theorem execCloseStream_frames {n} : Frames (ending ++ [Part.free, .streams, .transports]) s (execCloseStream n s) :=
  .next (withCmd_only .refl fun _ => .ite (complete_only .refl (by decide)) (settle_only (setProg_only .refl (by decide))
    (by decide)))

theorem execGetPosition_frames {n} : Frames (ending ++ [Part.mailboxData]) s (execGetPosition n s) := by
  unfold execGetPosition
  refine .next (withCmd_only .refl fun _ => ?_)
  split
  · exact complete_only .refl (by decide)
  · split
    · split
      · exact answer_only .refl (by decide)
      · exact complete_only .refl (by decide)
    · exact complete_only .refl (by decide)

/-! ### Mount sessions -/

theorem execMount_frames {n cmOk} :
    Frames (ending ++ [Part.transports, .lanes, .mailboxData, .faults]) s (execMount n cmOk s) := by
  unfold execMount
  refine .next (withCmd_only .refl fun _ => ?_)
  dsimp only
  split
  · exact complete_only .refl (by decide)
  · exact .ite (complete_only .refl (by decide)) (.ite (complete_only .refl (by decide)) (.ite (complete_only .refl (by decide))
      (.ite (complete_only .refl (by decide)) (.ite (complete_only .refl (by decide)) (.ite .refl (.ite (mountGo_only .refl
      (by decide)) (cmFail_only (setProg_only .refl (by decide)) (by decide))))))))

theorem execUnmount_frames {n cmOk} :
    Frames (ending ++ [Part.streams, .transports, .lanes, .jobs, .mailboxData, .peripherals, .faults]) s (execUnmount n cmOk s) :=
    by
  unfold execUnmount
  refine .next (withCmdW_only .refl fun _ => ?_)
  dsimp only
  split
  · exact unmountGo_only .refl (by decide)
  · exact .ite (complete_only .refl (by decide)) (.ite (complete_only .refl (by decide)) (unmountGo_only (postAll_only
      (setProg_only (.set (abortList_only .refl (by decide)) rfl) (by decide)) (by decide)) (by decide)))

theorem execFormatPartitions_frames {n specs} :
    Frames (ending ++ [Part.transports, .peripherals]) s (execFormatPartitions n specs s) := by
  unfold execFormatPartitions
  refine .next (withCmd_only .refl fun _ => ?_)
  dsimp only
  split
  · exact complete_only .refl (by decide)
  · exact .ite (complete_only .refl (by decide)) (.ite (complete_only .refl (by decide)) (.ite (complete_only .refl (by decide))
      (.ite .refl (.ite (complete_only (cmdRead_only .refl (by decide)) (by decide)) (complete_only (storeCm_only (cmdRead_only
      .refl (by decide)) (by decide)) (by decide))))))

theorem execCmUpdate_frames {t cmOk} : Frames [.outputs, .transports, .peripherals, .faults] s (execCmUpdate t cmOk s) := by
  unfold execCmUpdate
  split
  · exact .ite (.next (.ite (storeCm_only .refl (by decide)) (cmFail_only .refl (by decide)))) (.next .refl)
  · exact .next .refl

theorem execCmAccessRetry_frames {dt t ok} :
    Frames (passing ++ ending ++ [Part.streams, .transports, .lanes, .mailboxData, .peripherals, .faults]) s (execCmAccessRetry dt
    t ok s) := by
  unfold execCmAccessRetry
  dsimp only
  split
  · exact .ite (.next (advance_only .refl (by decide))) (.ite (.next (cmResume_only (countFault_only (updXp_only (advance_only
      .refl (by decide)) (by decide)) (by decide)) (by decide))) (.ite (.next (countFault_only (updXp_only (advance_only .refl
      (by decide)) (by decide)) (by decide))) (.next (cmGiveUp_only (faultSpent_only (updXp_only (advance_only .refl (by decide))
      (by decide)) (by decide)) (by decide)))))
  · exact .next (advance_only .refl (by decide))

/-! ### Restore -/

theorem execRead_frames {n sgl} : Frames (ending ++ [Part.transports, .pool, .faults]) s (execRead n sgl s) := by
  unfold execRead
  refine .next (withCmdW_only .refl fun _ => ?_)
  split
  · split
    · exact readStep_only .refl (by decide)
    · dsimp only
      split
      · exact complete_only .refl (by decide)
      · split
        · exact complete_only .refl (by decide)
        · exact .ite (complete_only .refl (by decide)) (.ite (complete_only (readSgl_only .refl (by decide)) (by decide)) (.ite
            (.elim_right (setProg_only (updCmd_only (.ite_right (.ite_right (takeTape_only .refl (by decide)) fun h =>
            readSgl_only h (by decide)) fun h => moveTape_only h (by decide)) (by decide)) (by decide)) fun h _ => readStep_only h
            (by decide)) (waitTape_only (takeTape_only .refl (by decide)) (by decide))))
  · exact complete_only .refl (by decide)

theorem execRecordOpen_frames {n engine row xfr} :
    Frames (ending ++ [Part.streams, .transports, .pool, .mailboxData, .faults]) s (execRecordOpen n engine row xfr s) := by
  unfold execRecordOpen
  split
  · split
    · refine .ite (.next (endRead_only .refl (by decide))) (.ite (.next .refl) (.ite (.next (returnRec_only .refl (by decide)))
        (.ite (.next (restoreFault_only (noteSeen_only .refl (by decide)) (by decide))) (.ite (.next (restoreFault_only
        (noteSeen_only (noteSeen_only .refl (by decide)) (by decide)) (by decide))) ?_))))
      split
      · exact .next (returnRec_only (noteSeen_only (noteSeen_only .refl (by decide)) (by decide)) (by decide))
      · exact .ite (.ite (.next (returnRec_only (noteSeen_only (noteSeen_only .refl (by decide)) (by decide)) (by decide))) (.ite
          (.next (setProg_only (countFault_only (noteSeen_only (noteSeen_only .refl (by decide)) (by decide)) (by decide))
          (by decide))) (.next (returnRec_only (openSpent_only (noteSeen_only (noteSeen_only .refl (by decide)) (by decide))
          (by decide)) (by decide))))) (.next (setProg_only (noteSeen_only (noteSeen_only .refl (by decide)) (by decide))
          (by decide)))
    · exact .next .refl
  · exact .next .refl

theorem execRecordDecompress_frames {n egr} :
    Frames (ending ++ [Part.streams, .transports, .pool, .mailboxData, .faults]) s (execRecordDecompress n egr s) := by
  unfold execRecordDecompress
  split
  · split
    · exact .ite (.next .refl) (.ite (.next (endRead_only .refl (by decide))) (.ite (.next (restoreFault_only (noteSeen_only .refl
        (by decide)) (by decide))) (.ite (.next (returnRec_only (noteSeen_only .refl (by decide)) (by decide))) (.ite (.next
        (setProg_only (countFault_only (noteSeen_only .refl (by decide)) (by decide)) (by decide))) (.next (returnRec_only
        (.ite_right (noteSeen_only .refl (by decide)) fun h => openSpent_only h (by decide)) (by decide)))))))
    · exact .next .refl
  · exact .next .refl

theorem execLocate_frames {n} : Frames (ending ++ [Part.streams, .transports, .pool]) s (execLocate n s) := by
  unfold execLocate
  refine .next (withCmdW_only .refl fun _ => ?_)
  split
  · exact complete_only .refl (by decide)
  · split
    · exact complete_only .refl (by decide)
    · dsimp only
      split
      · refine .ite .refl ?_
        split
        · exact restTape_only (complete_only (updStrm_only .refl (by decide)) (by decide)) (by decide)
        · exact restTape_only (complete_only (updStrm_only .refl (by decide)) (by decide)) (by decide)
      · exact .ite (setProg_only (moveTape_only (takeTape_only .refl (by decide)) (by decide)) (by decide)) (waitTape_only
          (takeTape_only .refl (by decide)) (by decide))

theorem execVerifyScan_frames {n} :
    Frames (ending ++ [Part.streams, .transports, .pool, .mailboxData]) s (execVerifyScan n s) := by
  unfold execVerifyScan
  refine .next (withCmdW_only .refl fun _ => ?_)
  split
  · split
    · exact .ite (endScan_only .refl (by decide)) .refl
    · split
      · exact complete_only .refl (by decide)
      · exact .ite (complete_only .refl (by decide)) (.ite (.ite (setProg_only (moveTape_only (takeTape_only .refl (by decide))
          (by decide)) (by decide)) (endScan_only (takeTape_only .refl (by decide)) (by decide))) (waitTape_only (takeTape_only
          .refl (by decide)) (by decide)))
  · exact complete_only .refl (by decide)

theorem execDatasetRecover_frames {t ds} :
    Frames (ending ++ [Part.streams, .transports, .lanes, .pool, .mailboxData, .faults]) s (execDatasetRecover t ds s) := by
  unfold execDatasetRecover
  split
  · split
    · split
      · dsimp only
        split
        · exact .next .refl
        · refine .ite (.next .refl) ?_
          split
          next hlater => exact .next (recoverLater_some hlater (notePins_only .refl (by decide)) (by decide))
          · have hsettled {r b} : Only (ending ++ [Part.streams, .transports, .lanes, .pool, .mailboxData, .faults]) s (settleDs
              (readBoundary (countRecover (notePins s t r) t ds r.out) t) t ds b) :=
              settleDs_only (readBoundary_only (countRecover_only (notePins_only .refl (by decide)) (by decide)) (by decide))
                (by decide)
            split
            · exact .ite (.next (restTape_only (complete_only (.ite_left hsettled fun h => addRestored_only h (by decide))
                (by decide)) (by decide))) (.next (.ite_left (setProg_only (.ite_right (scanTags_only (.ite_left hsettled fun h =>
                addRestored_only h (by decide)) (by decide)) fun h => releaseRestored_only h (by decide)) (by decide)) fun h =>
                endScan_only h (by decide)))
            · exact .next (.ite_left (updCmd_only (addRestored_only hsettled (by decide)) (by decide)) fun h => .elim_right h fun
                h _ => readStep_only h (by decide))
            · exact .next (readBoundary_only (countRecover_only (notePins_only .refl (by decide)) (by decide)) (by decide))
      · exact .next .refl
    · exact .next .refl
  · exact .next .refl

/-! ### The offload service -/

theorem execCompress_frames {n inSgl outSgl} : Frames (ending ++ [Part.jobs]) s (execCompress n inSgl outSgl s) :=
  .next (withCmd_only .refl fun _ => .ite (complete_only .refl (by decide)) (startJob_only .refl (by decide)))

theorem execDecompress_frames {n inSgl outSgl} : Frames (ending ++ [Part.jobs]) s (execDecompress n inSgl outSgl s) :=
  .next (withCmd_only .refl fun _ => .ite (complete_only .refl (by decide)) (startJob_only .refl (by decide)))

theorem execResume_frames {n ctx inSgl outSgl} : Frames (ending ++ [Part.jobs]) s (execResume n ctx inSgl outSgl s) :=
  .next (withCmd_only .refl fun _ => .ite (complete_only (cmdRead_only .refl (by decide)) (by decide)) (.ite (complete_only
    (cmdRead_only .refl (by decide)) (by decide)) (startJob_only (cmdRead_only .refl (by decide)) (by decide))))

theorem execServiceJobEnd_frames {n r} :
    Frames (ending ++ [Part.free, .functions, .link, .ringLog, .streams, .transports, .jobs, .mailboxData, .timeBase, .engines,
    .firmware, .faults]) s (execServiceJobEnd n r s) := by
  unfold execServiceJobEnd
  split
  · refine .ite (.next .refl) ?_
    extract_lets checked
    have hchecked : Only (ending ++ [Part.free, .functions, .link, .ringLog, .streams, .transports, .jobs, .mailboxData,
      .timeBase, .engines, .firmware, .faults]) s checked := noteSeen_only .refl (by decide)
    refine .ite (.next hchecked) ?_
    have hscattered {c j f b} : Only (ending ++ [Part.free, .functions, .link, .ringLog, .streams, .transports, .jobs,
      .mailboxData, .timeBase, .engines, .firmware, .faults]) s (cmdScatter (secondDecode checked c j r f).1 c j.outTo 0 b false)
      := cmdScatter_only (secondDecode_only hchecked (by decide)) (by decide)
    exact .next (leaveLane_only (complete_only (.ite (cmdWrite_only hscattered (by decide)) hscattered) (by decide)) (by decide))
  · exact .next .refl

/-! ### Parameter blocks and calibration -/

theorem execTransportConfig_frames {n blk} : Frames (ending ++ [Part.transports, .pool]) s (execTransportConfig n blk s) := by
  unfold execTransportConfig
  refine .next (withCmd_only .refl fun _ => .ite (complete_only .refl (by decide)) (.ite (complete_only .refl (by decide)) ?_))
  dsimp only
  split
  · exact .elim (complete_only (cmdRead_only .refl (by decide)) (by decide)) fun _ => complete_only (updXp_only (cmdRead_only
      .refl (by decide)) (by decide)) (by decide)
  · exact .elim (complete_only (cmdRead_only .refl (by decide)) (by decide)) fun _ => complete_only (updXp_only (cmdRead_only
      .refl (by decide)) (by decide)) (by decide)
  · exact .elim (complete_only (cmdRead_only .refl (by decide)) (by decide)) fun _ => complete_only (.set (cmdRead_only .refl
      (by decide)) rfl) (by decide)

theorem execGetTransportStatus_frames {n} : Frames (ending ++ [Part.mailboxData]) s (execGetTransportStatus n s) := by
  unfold execGetTransportStatus
  refine .next (withCmd_only .refl fun _ => ?_)
  dsimp only
  split
  · exact complete_only .refl (by decide)
  · exact answer_only .refl (by decide)

theorem execStartupCalibration_frames {t responds} :
    Frames (raising ++ [Part.transports]) s (execStartupCalibration t responds s) := by
  unfold execStartupCalibration
  split
  · exact .ite (.next (raise_only (startedUp_only .refl (by decide)) (by decide))) (.next .refl)
  · exact .next .refl

theorem execCalibrate_frames {n passed} :
    Frames (ending ++ [Part.free, .transports, .firmware]) s (execCalibrate n passed s) := by
  unfold execCalibrate
  refine .next (withCmdW_only .refl fun _ => ?_)
  dsimp only
  split
  · exact complete_only .refl (by decide)
  · exact .ite (.ite .refl (complete_only (calibrateDone_only .refl (by decide)) (by decide))) (.ite (complete_only .refl
      (by decide)) (.ite (complete_only .refl (by decide)) (.ite (complete_only .refl (by decide)) (.ite (complete_only .refl
      (by decide)) (.ite .refl (setProg_only (updXp_only .refl (by decide)) (by decide)))))))

/-! ### Servo and write inhibit -/

theorem execServoFrame_frames {t a b wclkDev} :
    Frames (raising ++ [Part.free, .transports, .telemetry, .peripherals]) s (execServoFrame t a b wclkDev s) := by
  unfold execServoFrame
  split
  · exact .ite (.next .refl) (.next (pspTurn_only (sendPsp_only (noteLoss_only (updXp_only (.ite_left (setCond_only (gather_only
      (.set (.set .refl rfl) rfl) (by decide)) (by decide)) fun h => updXp_only h (by decide)) (by decide)) (by decide))
      (by decide)) (by decide)))
  · exact .next .refl

theorem execLposWord_frames {t ch syms} : Frames (raising ++ [Part.transports, .lanes]) s (execLposWord t ch syms s) := by
  unfold execLposWord
  split
  · exact .ite (.next .refl) (.next (followTape_only (judgeServo_only (updXp_only .refl (by decide)) (by decide)) (by decide)))
  · exact .next .refl

theorem execServoLockLoss_frames {t ch} : Frames (raising ++ [Part.transports]) s (execServoLockLoss t ch s) := by
  unfold execServoLockLoss
  split
  · exact .ite (.next .refl) (.next (judgeServo_only (updXp_only .refl (by decide)) (by decide)))
  · exact .next .refl

theorem execServoLossTimeout_frames {dt t} :
    Frames (passing ++ ending ++ [Part.free, .streams, .transports, .faults]) s (execServoLossTimeout dt t s) := by
  unfold execServoLossTimeout
  dsimp only
  split
  · split
    · exact .ite (.next (advance_only .refl (by decide))) (.ite (.next (raise_only (countFault_only (updXp_only (updXp_only
        (interrupt_only (countFault_only (advance_only .refl (by decide)) (by decide)) (by decide)) (by decide)) (by decide))
        (by decide)) (by decide))) (.next (.ite_right (updXp_only (interrupt_only (countFault_only (advance_only .refl
        (by decide)) (by decide)) (by decide)) (by decide)) fun h => faultXport_only h (by decide))))
    · exact .next (advance_only .refl (by decide))
  · exact .next (advance_only .refl (by decide))

theorem execVelocityLoopTick_frames {t} :
    Frames (raising ++ [Part.free, .transports, .peripherals]) s (execVelocityLoopTick t s) := by
  unfold execVelocityLoopTick
  split
  · exact .ite (.next .refl) (.next (.ite (statusReads_only (sendPsp_only (sendPsp_only (judgeServo_only (updXp_only (.set
      .refl rfl) (by decide)) (by decide)) (by decide)) (by decide)) (by decide)) (pspTurn_only (sendPsp_only (sendPsp_only
      (judgeServo_only (updXp_only (.set .refl rfl) (by decide)) (by decide)) (by decide)) (by decide)) (by decide))))
  · exact .next .refl

theorem execTensionLoopTick_frames {t mn} : Frames [.free, .transports, .telemetry] s (execTensionLoopTick t mn s) := by
  unfold execTensionLoopTick
  split
  · exact .ite (.next .refl) (.next (updXp_only (noteMissing_only (gather_only (.set .refl rfl) (by decide)) (by decide))
      (by decide)))
  · exact .next .refl

theorem execShockInput_frames {t w} : Frames (raising ++ [Part.free, .transports]) s (execShockInput t w s) := by
  unfold execShockInput
  split
  · exact .next (.ite (setCause_only (updXp_only (recognised_only .refl (by decide)) (by decide)) (by decide)) (recognised_only
      .refl (by decide)))
  · exact .next .refl

theorem execShockCleared_frames {t} : Frames (raising ++ [Part.transports]) s (execShockCleared t s) := by
  unfold execShockCleared
  split
  · exact .next (setCause_only (updXp_only .refl (by decide)) (by decide))
  · exact .next .refl

theorem execWriteFaultInput_frames {t w} : Frames (raising ++ [Part.free, .transports]) s (execWriteFaultInput t w s) := by
  unfold execWriteFaultInput
  split
  · exact .ite (.next (setCause_only (updXp_only (recognised_only .refl (by decide)) (by decide)) (by decide))) (.next
      (recognised_only .refl (by decide)))
  · exact .next .refl

theorem execWfltClearRetry_frames {dt t} :
    Frames (passing ++ ending ++ [Part.free, .streams, .transports, .faults]) s (execWfltClearRetry dt t s) := by
  unfold execWfltClearRetry
  dsimp only
  split
  · split
    · exact .ite (.next (advance_only .refl (by decide))) (.ite (.next (countFault_only (clearWflt_only (.ite (countFault_only
        (advance_only .refl (by decide)) (by decide)) (countFault_only (advance_only .refl (by decide)) (by decide))) (by decide))
        (by decide))) (.ite (.next (updXp_only (.ite (countFault_only (advance_only .refl (by decide)) (by decide))
        (countFault_only (advance_only .refl (by decide)) (by decide))) (by decide))) (.next (faultXport_only (updXp_only (.ite
        (countFault_only (advance_only .refl (by decide)) (by decide)) (countFault_only (advance_only .refl (by decide))
        (by decide))) (by decide)) (by decide)))))
    · exact .next (advance_only .refl (by decide))
  · exact .next (advance_only .refl (by decide))

theorem execWiCauseWrite_frames {t v} : Frames (raising ++ [Part.free, .functions, .transports]) s (execWiCauseWrite t v s) :=
  .next (whenReached_only .refl (writeCause_only .refl (by decide)) (by decide))

theorem execForceInhibitWrite_frames {t v} :
    Frames (raising ++ [Part.free, .functions, .transports]) s (execForceInhibitWrite t v s) :=
  .next (whenReached_only .refl (setForce_only .refl (by decide)) (by decide))

/-! ### Firmware, SYS_RST_N and boot -/

theorem execFwStage_frames {n img data} : Frames (ending ++ [Part.peripherals, .firmware]) s (execFwStage n img data s) := by
  unfold execFwStage
  refine .next (withCmd_only .refl fun c => .ite (complete_only .refl (by decide)) (.ite (complete_only .refl (by decide)) (.ite
    .refl (setProg_only (pspQueue_only ?_ (by decide)) (by decide)))))
  have hread : Only (ending ++ [Part.peripherals, .firmware]) s (cmdRead s c (c.fld 0x10 8) (c.fld 0x1C 4)) := cmdRead_only .refl
    (by decide)
  generalize cmdRead s c _ _ = u at hread ⊢
  exact .set hread rfl

theorem execFlashOperationEnd_frames {ok} :
    Frames (ending ++ [Part.peripherals, .firmware, .faults]) s (execFlashOperationEnd ok s) := by
  unfold execFlashOperationEnd
  split
  · exact .next .refl
  · have hcounted {p : Prop} [Decidable p] : Only (ending ++ [Part.peripherals, .firmware, .faults]) s (if p then countFault s 11
      1 0 0 0 else s) := .ite_left .refl (fun h => countFault_only h (by decide))
    exact .ite (.next (stageDone_only (.set (.ite_right hcounted fun h => countFault_only h (by decide)) rfl) (by decide))) (.ite
      (.next (.elim_right (countFault_only (.set hcounted rfl) (by decide)) fun h _ => pspQueue_only h (by decide))) (.next
      (complete_only (faultSpent_only (.set hcounted rfl) (by decide)) (by decide))))

theorem execFwActivate_frames {n verified} :
    Frames (ending ++ [Part.free, .functions, .link, .ringLog, .streams, .transports, .jobs, .mailboxData, .timeBase, .power,
    .gates, .firmware]) s (execFwActivate n verified s) := by
  unfold execFwActivate
  refine .next (withCmdW_only .refl fun _ => .ite ?_ (.ite (complete_only .refl (by decide)) ?_))
  · split
    · exact .ite (trySwitch_only .refl (by decide)) (resumeSwitch_only .refl (by decide))
    · exact .refl
  · split
    · exact complete_only .refl (by decide)
    · exact .ite (complete_only .refl (by decide)) (.ite (.ite .refl (complete_only (.set .refl rfl) (by decide))) (.ite
        (complete_only .refl (by decide)) (startPause_only .refl (by decide))))

theorem execSelfTestPass_frames :
    Frames (ending ++ [Part.free, .functions, .link, .ringLog, .streams, .transports, .jobs, .mailboxData, .timeBase, .power,
    .firmware]) s (execSelfTestPass s) := by
  unfold execSelfTestPass
  dsimp only
  split
  · exact .ite (.next (resumeUpdate_only .refl (by decide))) (.next (endUpdate_only (.set (resumeUpdate_only .refl
      (by decide)) rfl) (by decide)))
  · exact .next (resumeUpdate_only .refl (by decide))

theorem execSelfTestFail_frames :
    Frames (ending ++ [Part.free, .functions, .link, .ringLog, .streams, .transports, .jobs, .mailboxData, .timeBase, .firmware])
    s (execSelfTestFail s) := by
  unfold execSelfTestFail
  dsimp only
  split
  · exact .ite (.next (rollBack_only (resumeUpdate_only .refl (by decide)) (by decide))) (.next (resumeUpdate_only .refl
      (by decide)))
  · exact .next (resumeUpdate_only .refl (by decide))

theorem execSelfTestTimeout_frames {dt} :
    Frames (passing ++ ending ++ [Part.free, .functions, .link, .ringLog, .streams, .transports, .jobs, .mailboxData, .firmware])
    s (execSelfTestTimeout dt s) := by
  unfold execSelfTestTimeout
  dsimp only
  split
  · exact .ite (.next (rollBack_only (resumeUpdate_only (advance_only .refl (by decide)) (by decide)) (by decide))) (.next
      (resumeUpdate_only (advance_only .refl (by decide)) (by decide)))
  · exact .next (resumeUpdate_only (advance_only .refl (by decide)) (by decide))

theorem execSysRstAssert_frames : Frames (but [.queue]) s (execSysRstAssert s) := .next (.set .refl rfl)

theorem execSysRstRelease_frames {straps} :
    Frames (raising ++ [Part.functions, .link, .rings, .transports, .smpPort, .peripherals, .firmware]) s (execSysRstRelease
    straps s) :=
  .ite (.next .refl) (.next (.ite_left (.foldl (fun _ _ => setCause_only .refl (by decide)) _ (pspQueue_only (.set .refl rfl)
    (by decide))) fun h => openWindow900_only h (by decide)))

theorem execBootComplete_frames {trainA trainB} :
    Frames (raising ++ [Part.link, .keySlots, .nonces, .transports, .pool, .peripherals, .engines, .thermal, .firmware]) s
    (execBootComplete trainA trainB s) := by
  unfold execBootComplete
  refine .ite (.next .refl) ?_
  split
  · exact .next .refl
  · dsimp only
    split
    · exact .next (pspQueue_only .refl (by decide))
    · exact .next (.ite (.set (logBoot_only (startFirmware_only (pspQueue_only .refl (by decide)) (by decide)) (by decide)) rfl)
        (logBoot_only (startFirmware_only (pspQueue_only .refl (by decide)) (by decide)) (by decide)))

theorem execSupplyOutOfRange_frames {rail} : Frames [.transports, .smpPort, .firmware] s (execSupplyOutOfRange rail s) := by
  unfold execSupplyOutOfRange
  refine .next ?_
  split
  · exact dropGates_only .refl (by decide)
  · exact dropGates_only .refl (by decide)
  · exact .set .refl rfl

theorem execSysClkLoss_frames : Frames (raising ++ [Part.time, .transports, .timeBase]) s (execSysClkLoss s) :=
  .ite (.next .refl) (.next (.set (.foldl (fun _ _ => setForce_only .refl (by decide)) _ .refl) rfl))

/-! ### Telemetry -/

theorem execTelemetryConfig_frames {n} :
    Frames (ending ++ [Part.copyEngine, .telemetry, .timeBase]) s (execTelemetryConfig n s) :=
  .next (withCmdW_only .refl fun _ => .ite (complete_only .refl (by decide)) (.ite (setProg_only (setAce_only .refl (by decide))
    (by decide)) (.ite (complete_only (.ite (stopStream_only .refl (by decide)) .refl) (by decide)) (complete_only
    (startStream_only (.ite (stopStream_only .refl (by decide)) .refl) (by decide)) (by decide)))))

/-! ### The time base -/

theorem execSetTime_frames {n} : Frames (ending ++ [Part.free, .copyEngine, .telemetry, .timeBase]) s (execSetTime n s) := by
  unfold execSetTime
  refine .next (withCmd_only .refl fun _ => .ite .refl ?_)
  split
  · exact complete_only (stepBySet_only .refl (by decide)) (by decide)
  · exact complete_only (stepBySet_only .refl (by decide)) (by decide)
  · exact .ite .refl (setProg_only (.set .refl rfl) (by decide))

theorem execSetTimeTimeout_frames {dt} : Frames (passing ++ ending) s (execSetTimeTimeout dt s) := by
  unfold execSetTimeTimeout
  have hu : Only (passing ++ ending) s (advance s dt) := advance_only .refl (by decide)
  generalize advance s dt = u at hu ⊢
  dsimp only
  split
  · exact .ite (.next (complete_only (.set hu rfl) (by decide))) (.next hu)
  · exact .next hu

theorem execPpsEdge_frames {dt} : Frames (passing ++ ending ++ [Part.free, .copyEngine, .telemetry]) s (execPpsEdge dt s) := by
  unfold execPpsEdge
  have hu : Only (passing ++ ending ++ [Part.free, .copyEngine, .telemetry]) s (advance s dt) := advance_only .refl (by decide)
  generalize advance s dt = u at hu ⊢
  have hset := setAtEdge_only hu (by decide)
  dsimp only
  generalize setAtEdge u = v at hset ⊢
  exact .ite (.next hu) (.ite (.next (.set hu rfl)) (.next (.ite (acceptEdge_only (.set hset rfl) (by decide)) (rejectEdge_only
    (.set hset rfl) (by decide)))))

theorem execSlewEnd_frames {dt} : Frames passing s (execSlewEnd dt s) := by
  unfold execSlewEnd
  have hu : Only passing s (advance s dt) := advance_only .refl (by decide)
  generalize advance s dt = u at hu ⊢
  exact .next (.ite (.set hu rfl) hu)

theorem execPpsHoldover_frames {dt} : Frames (passing ++ raising) s (execPpsHoldover dt s) := by
  unfold execPpsHoldover
  have hu : Only (passing ++ raising) s (advance s dt) := advance_only .refl (by decide)
  generalize advance s dt = u at hu ⊢
  exact .ite (.next (setPps_only (.set hu rfl) (by decide))) (.next hu)

theorem execSecondBoundary_frames {dt} : Frames (passing ++ [Part.copyEngine]) s (execSecondBoundary dt s) :=
  .next (.ite_left (advance_only .refl (by decide)) fun h => fireSource_only h (by decide))

theorem execPacingTimerFire_frames {dt k} :
    Frames (passing ++ [Part.free, .copyEngine, .telemetry]) s (execPacingTimerFire dt k s) := by
  unfold execPacingTimerFire
  have hu : Only (passing ++ [Part.free, .copyEngine, .telemetry]) s (advance s dt) := advance_only .refl (by decide)
  generalize advance s dt = u at hu ⊢
  exact .ite (.next (fireTimer_only (.set hu rfl) (by decide))) (.next hu)

theorem execAlarmFire_frames {dt a} : Frames (passing ++ ending ++ [Part.link, .power, .gates]) s (execAlarmFire dt a s) := by
  unfold execAlarmFire
  have hu : Only (passing ++ ending ++ [Part.link, .power, .gates]) s (advance s dt) := advance_only .refl (by decide)
  generalize advance s dt = u at hu ⊢
  exact .ite (.next (wake_only (raise_only (.set hu rfl) (by decide)) (by decide))) (.next hu)

theorem execPpsOutRise_frames {dt} : Frames passing s (execPpsOutRise dt s) := by
  unfold execPpsOutRise
  have hu : Only passing s (advance s dt) := advance_only .refl (by decide)
  generalize advance s dt = u at hu ⊢
  have hrise := risePpsOut_only hu (by decide)
  dsimp only
  generalize risePpsOut u = v at hrise ⊢
  exact .next (.ite (.set hrise rfl) hu)

theorem execPpsOutFall_frames {dt} : Frames passing s (execPpsOutFall dt s) := by
  unfold execPpsOutFall
  have hu : Only passing s (advance s dt) := advance_only .refl (by decide)
  generalize advance s dt = u at hu ⊢
  exact .next (.ite (.set hu rfl) hu)

theorem execTbuCfgWrite_frames {v} : Frames (raising ++ [Part.free, .functions, .timeBase]) s (execTbuCfgWrite v s) :=
  .next (whenReached_only .refl (writeTbuCfg_only .refl (by decide)) (by decide))

theorem execPacingTimerCtrlWrite_frames {k isCtrl v} :
    Frames [.free, .functions, .timeBase] s (execPacingTimerCtrlWrite k isCtrl v s) :=
  .next (whenReached_only .refl (writeTimer_only .refl (by decide)) (by decide))

theorem execAlarmCtrlWrite_frames {a v} : Frames [.free, .functions, .timeBase] s (execAlarmCtrlWrite a v s) :=
  .next (whenReached_only .refl (writeAlarm_only .refl (by decide)) (by decide))

theorem execTbuTimeRead_frames {wide} : Frames [.free, .outputs, .functions, .timeBase] s (execTbuTimeRead wide s) :=
  .next (.ite (reply_only (readTime_only .refl (by decide)) (by decide)) (.ite (refuseRead_only .refl (by decide)) (.ite
    (reply_only .refl (by decide)) .refl)))

/-! ### Register access -/

theorem execRegisterWrite_frames {fn t} :
    Frames (ending ++ [Part.free, .functions, .config, .link, .streams, .transports, .jobs, .copyEngine, .timeBase, .power,
    .gates, .engines, .faults]) s (execRegisterWrite fn t s) := by
  unfold execRegisterWrite
  split
  · exact .next (barWrite_only .refl (by decide))
  · exact .next (cfgDo_only .refl (writeCfg_only .refl (by decide)) (by decide))
  · exact .next (cfgDo_only .refl (writeAer_only .refl (by decide)) (by decide))
  · exact .next (.ite (busError_only .refl (by decide)) .refl)

theorem execRcRegisterRead_frames {fn t} :
    Frames (raising ++ [Part.free, .functions, .copyEngine, .timeBase, .gates]) s (execRcRegisterRead fn t s) := by
  unfold execRcRegisterRead
  split
  · exact .next (barRead_only .refl (by decide))
  · exact .next (cfgDo_only .refl (cfgRead_only .refl (by decide)) (by decide))

/-! ### The SMP and the peripheral ports -/

theorem execSmpIndRead_frames {inc} : Frames (raising ++ [Part.smpPort, .indirect]) s (execSmpIndRead inc s) :=
  .next (.ite (writeIndCtrl_only .refl (by decide)) .refl)

theorem execSmpIndWrite_frames {inc} : Frames (raising ++ [Part.smpPort, .indirect]) s (execSmpIndWrite inc s) :=
  .next (.ite (writeIndCtrl_only .refl (by decide)) .refl)

theorem execSmpIndDone_frames :
    Frames (raising ++ [Part.free, .functions, .transports, .copyEngine, .indirect, .timeBase, .gates]) s (execSmpIndDone s) := by
  unfold execSmpIndDone
  split
  · exact .next .refl
  · exact .ite (.next .refl) (.ite (.next (endInd_only .refl (by decide))) (.ite (.next (endInd_only (.ite (refusePosted_only
      .refl (by decide)) (readDev_only .refl (by decide))) (by decide))) (.ite (.next (endInd_only (writeDev_only .refl
      (by decide)) (by decide))) (.next (endInd_only (readBar0_only .refl (by decide)) (by decide))))))

theorem execMailboxGo_frames : Frames (raising ++ [Part.commands, .headwind, .smpPort, .mailbox]) s (execMailboxGo s) :=
  .next (.ite (mailboxGo_only .refl (by decide)) .refl)

theorem execMailboxComplete_frames : Frames [.commands, .events, .mailbox] s (execMailboxComplete s) := by
  unfold execMailboxComplete
  split
  · split
    · exact .next (deliverMbx_only (.set .refl rfl) (by decide))
    · exact .next .refl
  · exact .next .refl

theorem execSmpPageWrite_frames {p} :
    Frames (raising ++ [Part.commands, .headwind, .smpPort, .indirect, .mailbox, .mailboxData]) s (execSmpPageWrite p s) :=
  .next (.ite (commit_only .refl (by decide)) .refl)

theorem execSmpCsFall_frames {sck} : Frames (ending ++ [Part.link, .smpPort, .power, .gates]) s (execSmpCsFall sck s) :=
  .ite (.next (.set .refl rfl)) (.ite (.next .refl) (.next (wake_only (.set .refl rfl) (by decide))))

theorem execSmpCsRise_frames {bits} : Frames (raising ++ [Part.smpPort]) s (execSmpCsRise bits s) :=
  .ite (.next (.ite (.set .refl rfl) .refl)) (.ite (.next .refl) (.next (.set (.ite (byteOut_only .refl (by decide)) (setErr_only
    .refl (by decide))) rfl)))

theorem execSmpCommandByte_frames {b} : Frames [.smpPort] s (execSmpCommandByte b s) :=
  .next (.ite (.set .refl rfl) .refl)

theorem execSmpWriteByte_frames {b} :
    Frames (raising ++ [Part.commands, .headwind, .smpPort, .indirect, .mailbox, .mailboxData]) s (execSmpWriteByte b s) := by
  unfold execSmpWriteByte
  refine .ite ?_ (.next .refl)
  split
  · exact .next (.set (commit_only (.set .refl rfl) (by decide)) rfl)
  · exact .next (setErr_only (.set .refl rfl) (by decide))

theorem execSmpReadByte_frames : Frames (raising ++ [Part.smpPort]) s (execSmpReadByte s) := by
  unfold execSmpReadByte
  refine .ite (.next .refl) ?_
  split
  · refine .ite (.next (.set .refl rfl)) ?_
    split
    · exact .next (setErr_only (.set .refl rfl) (by decide))
    · exact .next (.set .refl rfl)
  · exact .next (sendByte_only (byteOut_only .refl (by decide)) (by decide))
  · exact .next (.set .refl rfl)
  · exact .next .refl

theorem execAttentionNotchEnd_frames : Frames [.events] s (execAttentionNotchEnd s) :=
  .next (.ite (startNotch_only (.set .refl rfl) (by decide)) .refl)

theorem execPspIrq_frames {port changes} :
    Frames (ending ++ [Part.free, .link, .transports, .peripherals, .power, .gates]) s (execPspIrq port changes s) :=
  .next (.ite (wake_only (.foldl (fun _ _ => applyChange_only .refl (by decide)) _ (.ite (irqReads_only .refl (by decide)) .refl))
    (by decide)) .refl)

theorem execPeerPoll_frames {answers} : Frames (raising ++ [Part.peripherals, .faults]) s (execPeerPoll answers s) :=
  .ite (.next (.foldl (fun _ _ => pollPeer_only .refl (by decide)) _ .refl)) (.next .refl)

theorem execPeripheralRetry_frames {dt port sel answer} :
    Frames (passing ++ raising ++ [Part.peripherals, .faults]) s (execPeripheralRetry dt port sel answer s) := by
  unfold execPeripheralRetry
  have hu : Only (passing ++ raising ++ [Part.peripherals, .faults]) s (advance s dt) := advance_only .refl (by decide)
  generalize advance s dt = u at hu ⊢
  dsimp only
  split
  · exact .next hu
  · refine .ite (.next hu) ?_
    have hcounted : Only (passing ++ raising ++ [Part.peripherals, .faults]) s (countFault (peerRead u (16 * port + sel)) 10 0 0 0
      1) := countFault_only (peerRead_only hu (by decide)) (by decide)
    generalize countFault _ _ _ _ _ _ = v at hcounted ⊢
    split
    · exact .next (notePeer_only (countFault_only (.set hcounted rfl) (by decide)) (by decide))
    · exact .ite (.next (.set hcounted rfl)) (.next (peerLost_only hcounted (by decide)))

/-! ### Every command -/

/-- Every command answers a next state that differs in the parts of its row only. -/
theorem exec_frames : ∀ c : Instr, Frames (mayChange c) s (exec c s)
  | .identify .. => execIdentify_frames | .createRing .. => execCreateRing_frames
  | .createRingTagsFreed .. => execCreateRingTagsFreed_frames | .deleteRing .. => execDeleteRing_frames
  | .deleteRingDrained .. => execDeleteRingDrained_frames | .abort .. => execAbort_frames
  | .abortComplete .. => execAbortComplete_frames | .getLogPage .. => execGetLogPage_frames
  | .createContext .. => execCreateContext_frames | .modifyContext .. => execModifyContext_frames
  | .deleteContext .. => execDeleteContext_frames | .getContextStatus .. => execGetContextStatus_frames
  | .keyLoadWrapped .. => execKeyLoadWrapped_frames | .keyErase .. => execKeyErase_frames | .domainJoin .. => execDomainJoin_frames
  | .getDeviceCert .. => execGetDeviceCert_frames | .nonceStatus .. => execNonceStatus_frames | .mount .. => execMount_frames
  | .unmount .. => execUnmount_frames | .formatPartitions .. => execFormatPartitions_frames
  | .transportConfig .. => execTransportConfig_frames | .getTransportStatus .. => execGetTransportStatus_frames
  | .calibrate .. => execCalibrate_frames | .setTime .. => execSetTime_frames | .telemetryConfig .. => execTelemetryConfig_frames
  | .enterLull .. => execEnterLull_frames | .fwStage .. => execFwStage_frames | .fwActivate .. => execFwActivate_frames
  | .thermalConfig .. => execThermalConfig_frames | .fenceEngine .. => execFenceEngine_frames
  | .resetEngine .. => execResetEngine_frames | .setWatchdog .. => execSetWatchdog_frames | .getFaultLog .. => execGetFaultLog_frames
  | .retireBufferPage .. => execRetireBufferPage_frames | .laneDisable .. => execLaneDisable_frames
  | .openStream .. => execOpenStream_frames | .write .. => execWrite_frames | .writeBatch .. => execWriteBatch_frames
  | .flush .. => execFlush_frames | .sync .. => execSync_frames | .closeStream .. => execCloseStream_frames | .read .. => execRead_frames
  | .locate .. => execLocate_frames | .verifyScan .. => execVerifyScan_frames | .getPosition .. => execGetPosition_frames
  | .compress .. => execCompress_frames | .decompress .. => execDecompress_frames | .resume .. => execResume_frames
  | .serviceJobEnd .. => execServiceJobEnd_frames | .cryptBlock .. => execCryptBlock_frames
  | .sessionKeyClear .. => execSessionKeyClear_frames | .entryFetch .. => execEntryFetch_frames
  | .entryAdmit .. => execEntryAdmit_frames | .orderedStart .. => execOrderedStart_frames
  | .submissionDoorbell .. => execSubmissionDoorbell_frames | .completionDoorbell .. => execCompletionDoorbell_frames
  | .adminRingEnable => execAdminRingEnable_frames | .adminRingDisable => execAdminRingDisable_frames
  | .adminRingDrained => execAdminRingDrained_frames | .registerWrite .. => execRegisterWrite_frames
  | .flrInitiate .. => execFlrInitiate_frames | .vfEnableSet => execVfEnableSet_frames | .vfEnableClear => execVfEnableClear_frames
  | .busMasterDisable .. => execBusMasterDisable_frames | .busMasterEnable .. => execBusMasterEnable_frames
  | .msixUnmask .. => execMsixUnmask_frames | .holdoffEnd .. => execHoldoffEnd_frames | .perstFall => execPerstFall_frames
  | .perstRise => execPerstRise_frames | .crsWindowEnd .. => execCrsWindowEnd_frames | .linkUp => execLinkUp_frames
  | .linkDown .. => execLinkDown_frames | .ringEntryReadError .. => execRingEntryReadError_frames
  | .sysRstAssert => execSysRstAssert_frames | .sysRstRelease .. => execSysRstRelease_frames
  | .bootComplete .. => execBootComplete_frames | .startupCalibration .. => execStartupCalibration_frames
  | .recordIngest .. => execRecordIngest_frames | .recordCompress .. => execRecordCompress_frames
  | .recordSeal .. => execRecordSeal_frames | .checkBack .. => execCheckBack_frames | .recordPack .. => execRecordPack_frames
  | .flushWindowExpire .. => execFlushWindowExpire_frames | .codewordArrival .. => execCodewordArrival_frames
  | .syncWindowEnd .. => execSyncWindowEnd_frames | .decoderGrant .. => execDecoderGrant_frames | .decodeEnd .. => execDecodeEnd_frames
  | .datasetBoundary .. => execDatasetBoundary_frames | .cmUpdate .. => execCmUpdate_frames
  | .wrapTurnaround .. => execWrapTurnaround_frames | .speedMatchTick .. => execSpeedMatchTick_frames
  | .transportRestart .. => execTransportRestart_frames | .writePositionReturn .. => execWritePositionReturn_frames
  | .datasetRecover .. => execDatasetRecover_frames | .recordOpen .. => execRecordOpen_frames
  | .recordDecompress .. => execRecordDecompress_frames | .poolEvaluation .. => execPoolEvaluation_frames
  | .serviceDomainTick .. => execServiceDomainTick_frames | .watchdogExamine .. => execWatchdogExamine_frames
  | .servoFrame .. => execServoFrame_frames | .lposWord .. => execLposWord_frames | .servoLockLoss .. => execServoLockLoss_frames
  | .servoLossTimeout .. => execServoLossTimeout_frames | .velocityLoopTick .. => execVelocityLoopTick_frames
  | .tensionLoopTick .. => execTensionLoopTick_frames | .shockInput .. => execShockInput_frames
  | .writeFaultInput .. => execWriteFaultInput_frames | .forceInhibitWrite .. => execForceInhibitWrite_frames
  | .wiCauseWrite .. => execWiCauseWrite_frames | .dropoutEntry .. => execDropoutEntry_frames
  | .dropoutExit .. => execDropoutExit_frames | .aceArm .. => execAceArm_frames | .aceDisarm .. => execAceDisarm_frames
  | .aceGo .. => execAceGo_frames | .aceIterationComplete .. => execAceIterationComplete_frames
  | .aceBurstFail .. => execAceBurstFail_frames | .aceRetryWaitEnd .. => execAceRetryWaitEnd_frames
  | .smpCsFall .. => execSmpCsFall_frames | .smpCsRise .. => execSmpCsRise_frames | .smpCommandByte .. => execSmpCommandByte_frames
  | .smpWriteByte .. => execSmpWriteByte_frames | .smpReadByte => execSmpReadByte_frames | .smpPageWrite .. => execSmpPageWrite_frames
  | .smpIndRead .. => execSmpIndRead_frames | .smpIndWrite .. => execSmpIndWrite_frames | .smpIndDone => execSmpIndDone_frames
  | .mailboxGo => execMailboxGo_frames | .mailboxComplete => execMailboxComplete_frames
  | .attentionNotchEnd => execAttentionNotchEnd_frames | .pspIrq .. => execPspIrq_frames | .peerPoll .. => execPeerPoll_frames
  | .skCommitGo .. => execSkCommitGo_frames | .skCommitClear .. => execSkCommitClear_frames | .nonceReserved => execNonceReserved_frames
  | .nonceJournalFail => execNonceJournalFail_frames | .nonceRetry .. => execNonceRetry_frames | .ppsEdge .. => execPpsEdge_frames
  | .slewEnd .. => execSlewEnd_frames | .ppsHoldover .. => execPpsHoldover_frames | .setTimeTimeout .. => execSetTimeTimeout_frames
  | .pacingTimerFire .. => execPacingTimerFire_frames | .secondBoundary .. => execSecondBoundary_frames
  | .alarmFire .. => execAlarmFire_frames | .ppsOutRise .. => execPpsOutRise_frames | .ppsOutFall .. => execPpsOutFall_frames
  | .tbuCfgWrite .. => execTbuCfgWrite_frames | .pacingTimerCtrlWrite .. => execPacingTimerCtrlWrite_frames
  | .alarmCtrlWrite .. => execAlarmCtrlWrite_frames | .tbuTimeRead .. => execTbuTimeRead_frames | .sysClkLoss => execSysClkLoss_frames
  | .lullQuiesced => execLullQuiesced_frames | .quiesceTimeout .. => execQuiesceTimeout_frames | .gateClosed .. => execGateClosed_frames
  | .gateForceClose .. => execGateForceClose_frames | .lullStateSaved => execLullStateSaved_frames
  | .hostLinkWake => execHostLinkWake_frames | .lullExitComplete .. => execLullExitComplete_frames
  | .engineDrained .. => execEngineDrained_frames | .engineDrainTimeout .. => execEngineDrainTimeout_frames
  | .thermalSample .. => execThermalSample_frames | .shutdownPowerOff .. => execShutdownPowerOff_frames
  | .pfailQualified => execPfailQualified_frames | .pfailRelease => execPfailRelease_frames | .selfTestPass => execSelfTestPass_frames
  | .selfTestFail => execSelfTestFail_frames | .selfTestTimeout .. => execSelfTestTimeout_frames
  | .flrComplete .. => execFlrComplete_frames | .rcRegisterRead .. => execRcRegisterRead_frames
  | .syncAcquired .. => execSyncAcquired_frames | .separatorDetected .. => execSeparatorDetected_frames
  | .shockCleared .. => execShockCleared_frames | .writeSegmentBoundary .. => execWriteSegmentBoundary_frames
  | .supplyOutOfRange .. => execSupplyOutOfRange_frames | .flashOperationEnd .. => execFlashOperationEnd_frames
  | .cmAccessRetry .. => execCmAccessRetry_frames | .peripheralRetry .. => execPeripheralRetry_frames
  | .wfltClearRetry .. => execWfltClearRetry_frames | .hostReadError .. => execHostReadError_frames

end commands

/-- No row lists the queue. -/
theorem queue_not_mem_mayChange (c : Instr) : Part.queue ∉ mayChange c := by
  cases c <;> exact of_decide_eq_false rfl

/-- Settles O6: the frame of every command's meaning is the one that its row names; none has the queue in it. -/
theorem commandsStayInTheirParts : Obligations.CommandsStayInTheirParts := by
  unfold Obligations.CommandsStayInTheirParts
  intro c s
  obtain ⟨t, hexec, honly⟩ : Frames (mayChange c) s (exec c s) := exec_frames c
  exact ⟨t, hexec, honly, honly .queue (queue_not_mem_mayChange c)⟩

end Sys2Proof.Machine
end

section
/-! A step and the passage of time, the state after reset, and formatter time along the wrapping count (O1, O2, O4, O39). -/

namespace Sys2Proof.Machine

/-- Settles O1: `step` reads the queue and nothing else of the state. -/
theorem stepRunsFrontCommand : Obligations.StepRunsFrontCommand := by
  unfold Obligations.StepRunsFrontCommand
  intro s c r
  rfl

/-- While SYS_CLK_IN is present, time moves on by the ticks that pass. -/
theorem advance_of_clock {s : State} (hf : s.clk.frozen = false) (dt : Nat) :
    (advance s dt).clk.ticks = s.clk.ticks + dt ∧ (advance s dt).tbu = tickTime s.tbu dt := by
  simp [advance, hf]

/-- Settles O2: with an empty queue `step` is the passage of one tick. -/
theorem idleStepIsOneTick : Obligations.IdleStepIsOneTick := by
  unfold Obligations.IdleStepIsOneTick
  intro s hq hf
  obtain ⟨hticks, htbu⟩ := advance_of_clock hf 1
  have hkept : (advance s 1).pending = s.pending :=
    advance_only (L := [.time, .rings, .contexts, .pool, .timeBase]) .refl (by decide) .queue (by decide)
  exact ⟨advance s 1, by rw [step, hq], hkept.trans hq, hticks, by rw [htbu]; rfl, by rw [htbu]; rfl⟩

/-- Settles O4. -/
theorem resetMeetsInv : Obligations.ResetMeetsInv := by
  unfold Obligations.ResetMeetsInv
  exact ⟨smpOk_reset, tbuOk_reset, rfl⟩

/-! ### Formatter time along the wrapping count (R694, R717) -/

theorem setNs_ns_lt (u : Tbu) (t : Int) : (setNs u t).ns < 1000000000 := Nat.mod_lt _ (by decide)

/-- The count that `setNs` stores is `t` modulo the period. -/
theorem setNs_count (u : Tbu) (t : Int) :
    (((setNs u t).sec * 1000000000 + (setNs u t).ns : Nat) : Int) = t % timeMod := by
  have hpos : 0 ≤ t % timeMod := Int.emod_nonneg _ (by decide)
  simp only [setNs]
  omega

theorem setNs_sec_lt (u : Tbu) (t : Int) : (setNs u t).sec < 2 ^ 48 := by
  have hlt : t % timeMod < timeMod := Int.emod_lt_of_pos _ (by decide)
  have hcount := setNs_count u t
  simp only [timeMod] at hlt hcount
  omega

/-- Going from `b` by the distance to `a` arrives at `a`. -/
theorem add_timeDiff_emod (a b : Int) : (b + timeDiff a b) % timeMod = a % timeMod := by
  simp only [timeDiff, timeMod]
  omega

theorem timeDiff_bounds (a b : Int) : -(timeMod / 2) ≤ timeDiff a b ∧ timeDiff a b < timeMod / 2 := by
  simp only [timeDiff, timeMod]
  omega

/-- Settles O39. -/
theorem timeStepRule : Obligations.TimeStepRule := by
  unfold Obligations.TimeStepRule
  intro u t
  exact ⟨setNs_ns_lt u t, setNs_sec_lt u t, by rw [setNs_count, Int.emod_emod],
    fun a b => ⟨add_timeDiff_emod a b, timeDiff_bounds a b⟩⟩

end Sys2Proof.Machine
end

section
/-! Which thermal level a sample leads to (O34). -/

namespace Sys2Proof.Machine

/-! ### Thermal levels (R755 to R762, R776) -/

section levels
variable {h : Thermal}

/-- The level entered is not below one whose entry value is reached. -/
theorem le_code_riseLevel {l : ThLevel} {t : Int} (hl : entryT h l ≤ t) : l.code ≤ (riseLevel h t).code := by
  cases l with
  | normal => exact Nat.zero_le _
  | shutdown => exact (congrArg ThLevel.code (if_pos hl : riseLevel h t = .shutdown)).ge
  | writeStop =>
    unfold riseLevel
    split
    · decide
    exact le_rfl
  | throttle =>
    unfold riseLevel
    split
    · decide
    split
    · decide
    exact le_rfl
  | warn =>
    unfold riseLevel
    split
    · decide
    split
    · decide
    split
    · decide
    exact le_rfl

/-- Normal has no entry value; every other level is entered when its value is reached. -/
theorem riseLevel_entered (t : Int) : riseLevel h t = .normal ∨ entryT h (riseLevel h t) ≤ t := by
  unfold riseLevel
  split
  next hl => exact .inr hl
  split
  next hl => exact .inr hl
  split
  next hl => exact .inr hl
  split
  next hl => exact .inr hl
  exact .inl rfl

/-- A hotter temperature enters a level that is at least as high. -/
theorem riseLevel_mono {a b : Int} (hab : a ≤ b) : (riseLevel h a).code ≤ (riseLevel h b).code := by
  rcases riseLevel_entered (h := h) a with hn | he
  · rw [hn]
    exact Nat.zero_le _
  · exact le_code_riseLevel (he.trans hab)

theorem ThLevel.code_below_le (l : ThLevel) : l.below.code ≤ l.code := by cases l <;> decide

/-- Below a level that is above `k` no level is passed over. -/
theorem ThLevel.le_code_below {l : ThLevel} {k : Nat} (hk : k < l.code) (hl : l ≠ .shutdown) : k ≤ l.below.code := by
  cases l with
  | normal => exact absurd hk (Nat.not_lt_zero k)
  | warn => exact Nat.le_of_lt_succ hk
  | throttle => exact Nat.le_of_lt_succ hk
  | writeStop => exact Nat.le_of_lt_succ hk
  | shutdown => exact absurd rfl hl

theorem fallLevel_le {t : Int} (l : ThLevel) (n : Nat) : (fallLevel h t l n).code ≤ l.code := by
  induction n generalizing l with
  | zero => exact le_rfl
  | succ m ih =>
    unfold fallLevel
    split
    · exact (ih l.below).trans l.code_below_le
    · exact le_rfl

/-- Shutdown is not left by falling (R760). -/
theorem fallLevel_shutdown {t : Int} (n : Nat) : fallLevel h t .shutdown n = .shutdown := by
  induction n with
  | zero => rfl
  | succ m ih =>
    unfold fallLevel
    split
    · exact ih
    · rfl

/-- A fall ends at the latched level or above it (R761). -/
theorem latch_le_fallLevel {t : Int} (l : ThLevel) (n : Nat) (hlat : h.latched.elim 0 (·.code) ≤ l.code) :
    h.latched.elim 0 (·.code) ≤ (fallLevel h t l n).code := by
  induction n generalizing l with
  | zero => exact hlat
  | succ m ih =>
    unfold fallLevel
    split
    next hfall =>
      by_cases hl : l = .shutdown
      · subst hl; exact ih _ hlat
      · exact ih _ (l.le_code_below hfall.1 hl)
    · exact hlat

/-- Where the latched level is above, nothing falls (R761). -/
theorem fallLevel_of_latch {t : Int} {l : ThLevel} (n : Nat) (hlat : l.code ≤ h.latched.elim 0 (·.code)) :
    fallLevel h t l n = l := by
  cases n with
  | zero => rfl
  | succ m => rw [fallLevel, if_neg fun hfall => absurd hfall.1 (not_lt.2 hlat)]

theorem sampleLevel_of_rise (hr : h.level.code < (riseLevel h (governing h).2).code) :
    sampleLevel h = riseLevel h (governing h).2 := if_pos hr

theorem sampleLevel_le_of_no_rise (hr : ¬ h.level.code < (riseLevel h (governing h).2).code) :
    (sampleLevel h).code ≤ h.level.code := by
  simp only [sampleLevel, if_neg hr]
  split
  · exact fallLevel_le _ _
  · exact le_rfl

/-- A lower level is one that the present level falls to after 250 samples. -/
theorem sampleLevel_of_lower (hl : (sampleLevel h).code < h.level.code) :
    250 ≤ h.dwell ∧ sampleLevel h = fallLevel h (governing h).2 h.level 4 := by
  simp only [sampleLevel] at hl ⊢
  split at hl
  · omega
  next hr =>
    rw [if_neg hr]
    split at hl
    next hf => exact ⟨hf.2, if_pos hf⟩
    · exact absurd hl (lt_irrefl _)

/-- Six readings change neither the level nor the parameters nor the dwell. -/
theorem foldl_pushSample_kept (l : List (Nat × Int)) (h : Thermal) :
    let g := l.foldl (fun h p => pushSample h p.1 p.2) h
    g.level = h.level ∧ g.next = h.next ∧ g.dwell = h.dwell := by
  induction l generalizing h with
  | nil => exact ⟨rfl, rfl, rfl⟩
  | cons p r ih => exact ih (pushSample h p.1 p.2)

theorem takeExt_kept (h : Thermal) (e : ExtReading) :
    (takeExt h e).level = h.level ∧ (takeExt h e).next = h.next ∧ (takeExt h e).dwell = h.dwell := by
  unfold takeExt
  split
  · exact ⟨rfl, rfl, rfl⟩
  · split
    · exact ⟨rfl, rfl, rfl⟩
    · exact ⟨rfl, rfl, rfl⟩

theorem takeParams_effect (h : Thermal) :
    (takeParams h).level = h.level ∧ (takeParams h).next = none ∧ (takeParams h).dwell = h.dwell := by
  unfold takeParams
  split
  · exact ⟨rfl, rfl, rfl⟩
  next hn => exact ⟨rfl, hn, rfl⟩

theorem takeSamples_effect (h : Thermal) (temps : List Int) (e : ExtReading) : (takeSamples h temps e).level = h.level ∧
    (takeSamples h temps e).next = none ∧ (takeSamples h temps e).dwell = h.dwell + 1 := by
  obtain ⟨hpl, hpn, hpd⟩ := takeParams_effect h
  obtain ⟨hfl, hfn, hfd⟩ := foldl_pushSample_kept (numbered temps 0) (takeParams h)
  obtain ⟨hel, hen, hed⟩ := takeExt_kept ((numbered temps 0).foldl (fun h p => pushSample h p.1 p.2) (takeParams h)) e
  exact ⟨hel.trans (hfl.trans hpl), hen.trans (hfn.trans hpn), congrArg (· + 1) (hed.trans (hfd.trans hpd))⟩

end levels

/-- Settles O34: a sample raises the level at once, and lowers it by a fall that the dwell, the latch and Shutdown limit. -/
theorem thermalLevelRules : Obligations.ThermalLevelRules := by
  unfold Obligations.ThermalLevelRules
  intro h
  refine ⟨fun a b hab => riseLevel_mono hab, ⟨fun hup => ?_, fun hr => ?_⟩, sampleLevel_of_rise, fun hl => ?_,
    takeSamples_effect h⟩
  · by_contra hr
    exact absurd hup (not_lt.2 (sampleLevel_le_of_no_rise hr))
  · rwa [sampleLevel_of_rise hr]
  · obtain ⟨hdwell, hfall⟩ := sampleLevel_of_lower hl
    rw [hfall] at hl ⊢
    refine ⟨hdwell, fun hs => ?_, fun l hlat => ?_⟩
    · rw [hs, fallLevel_shutdown] at hl
      exact absurd hl (lt_irrefl _)
    · have hle := latch_le_fallLevel (h := h) (t := (governing h).2) h.level 4
      rw [hlat] at hle
      refine hle (not_lt.1 fun hgt => ?_)
      rw [fallLevel_of_latch 4 (by rw [hlat]; exact hgt.le)] at hl
      exact absurd hl (lt_irrefl _)

end Sys2Proof.Machine
end

section
/-! SET_TIME and the edges of PPS_IN (O38). -/

namespace Sys2Proof.Machine

/-! ### SET_TIME (R715 to R717) -/

section setTime
variable {s : State} {id : Nat} {c : Cmd} (h : Started s id 0x20 c) (hf : s.clk.frozen = false)
include h hf

theorem exec_setTime_absolute (hk : c.fld 0x10 1 = 0) : exec (.setTime id) s = .next (
    let d := timeDiff (c.fld 0x18 8 * 1000000000 + c.fld 0x20 4 : Nat) (timeNs s)
    complete (stepBySet s d) id (Compl.ok 0 (stepResult d))) := by
  change execSetTime id s = _
  simp [execSetTime, withCmd_of_started h, hf, hk]

theorem exec_setTime_relative (hk : c.fld 0x10 1 = 1) : exec (.setTime id) s = .next (
    complete (stepBySet s (signed 64 (c.fld 0x18 8))) id (Compl.ok 0 (stepResult (signed 64 (c.fld 0x18 8))))) := by
  change execSetTime id s = _
  simp [execSetTime, withCmd_of_started h, hf, hk]

theorem exec_setTime_atPps (hk : c.fld 0x10 1 = 2) (hw : s.tbu.atPps = none) : exec (.setTime id) s = .next (
    setProg { s with tbu.atPps := some (id, c.fld 0x18 8, now s + 5 * secTicks / 2) } id (.waiting 0)) := by
  change execSetTime id s = _
  simp [execSetTime, withCmd_of_started h, hf, hk, hw]

end setTime

theorem exec_setTimeTimeout {s : State} {dt j w till : Nat} (hw : (advance s dt).tbu.atPps = some (j, w, till))
    (hdue : till ≤ now (advance s dt)) (hf : (advance s dt).clk.frozen = false) : exec (.setTimeTimeout dt) s =
    .next (complete { advance s dt with tbu.atPps := none } j (Compl.of 0x67)) := by
  change execSetTimeTimeout dt s = _
  simp [execSetTimeTimeout, hw, hdue, hf]

/-! ### Edges of PPS_IN (R697 to R704, R718 to R720) -/

section edges
variable {s : State} {dt : Nat}

theorem exec_ppsEdge_ignored (hen : (advance s dt).tbu.ppsEn = false) : exec (.ppsEdge dt) s = .next (advance s dt) := by
  change execPpsEdge dt s = _
  simp [execPpsEdge, hen]

theorem exec_slewEnd (hf : (advance s dt).clk.frozen = false) (hslew : (advance s dt).tbu.slew ≠ 0)
    (hdue : (advance s dt).tbu.slewAt ≤ now (advance s dt)) :
    exec (.slewEnd dt) s = .next { advance s dt with tbu.slew := 0 } := by
  change execSlewEnd dt s = _
  simp [execSlewEnd, hf, hslew, hdue]

theorem exec_ppsHoldover (hf : (advance s dt).clk.frozen = false)
    (hst : (advance s dt).tbu.pps = .acquiring ∨ (advance s dt).tbu.pps = .locked)
    (hdue : (advance s dt).tbu.accAt + 5 * secTicks / 2 ≤ now (advance s dt)) : exec (.ppsHoldover dt) s = .next (
    let u := advance s dt
    setPps { u with tbu.slew := 0, tbu.near := 0, tbu.holdovers := satAdd 32 u.tbu.holdovers 1 } .holdover) := by
  change execPpsHoldover dt s = _
  rw [execPpsHoldover, if_pos ⟨hst, hdue, by rw [hf]; rfl⟩]

/-- What an edge leaves noted before it is judged: a waiting AT_PPS has taken effect, and the edge's time and offset are kept. -/
def edgeNoted (u : State) : State :=
  let w := setAtEdge u
  { w with tbu := { w.tbu with prev := some (timeNs w), lastOff := edgeOffset w } }

variable (hrst : (advance s dt).host.sysRst = true) (hf : (advance s dt).clk.frozen = false)
  (hen : (advance s dt).tbu.ppsEn = true)
include hrst hf hen

theorem exec_ppsEdge_duplicate {p : Int} (hprev : (advance s dt).tbu.prev = some p)
    (hgap : timeDiff (timeNs (advance s dt)) p < 500000000) : exec (.ppsEdge dt) s =
    .next { advance s dt with tbu.dups := satAdd 32 (advance s dt).tbu.dups 1 } := by
  change execPpsEdge dt s = _
  simp [execPpsEdge, hrst, hf, hen, hprev, hgap]

/-- An edge that is no duplicate is accepted or out of its window. -/
theorem exec_ppsEdge_judged (hgap : ∀ p, (advance s dt).tbu.prev = some p → 500000000 ≤ timeDiff (timeNs (advance s dt)) p) :
    exec (.ppsEdge dt) s = .next (
      let u := advance s dt
      let o := edgeOffset (setAtEdge u)
      if |o| ≤ 1000 * ((edgeNoted u).tbu.win : Int) then acceptEdge (edgeNoted u) o
      else rejectEdge (edgeNoted u) o (u.tbu.prev.map fun p => timeDiff (timeNs u) p)) := by
  change execPpsEdge dt s = _
  have hlate : (((advance s dt).tbu.prev.map fun p => timeDiff (timeNs (advance s dt)) p).elim false
      fun g => decide (g < 500000000)) = false := by
    cases hprev : (advance s dt).tbu.prev with
    | none => rfl
    | some p => exact decide_eq_false (not_lt.2 (hgap p hprev))
  simp only [execPpsEdge, hrst, hf, hen, hlate]
  rfl

end edges

theorem setAtEdge_of_none {u : State} (hw : u.tbu.atPps = none) : setAtEdge u = u := by rw [setAtEdge, hw]

theorem setAtEdge_of_waiting {u : State} {j w till : Nat} (hw : u.tbu.atPps = some (j, w, till)) : setAtEdge u = (
    let d := timeDiff ((w * 1000000000 : Nat) + u.tbu.cable) (timeNs u)
    complete (stepBySet { u with tbu.atPps := none } d) j (Compl.ok 0 (stepResult d))) := by rw [setAtEdge, hw]

/-- Settles O38: the rules above; of the edges, those that are judged split by the offset into accepted and out of window. -/
theorem timeSetAndPps : Obligations.TimeSetAndPps := by
  unfold Obligations.TimeSetAndPps
  refine ⟨fun s id dt c => ⟨fun h hf => ⟨exec_setTime_absolute h hf, exec_setTime_relative h hf, exec_setTime_atPps h hf⟩,
    fun j w till => exec_setTimeTimeout⟩, fun s dt => ?_⟩
  intro u hrst hf
  refine ⟨fun hen ⟨p, hprev, hgap⟩ => exec_ppsEdge_duplicate hrst hf hen hprev hgap, fun hen hgap => ?judged,
    setAtEdge_of_none, fun j w till => setAtEdge_of_waiting, exec_ppsEdge_ignored, exec_slewEnd hf, exec_ppsHoldover hf⟩
  case judged =>
    have hjudged := exec_ppsEdge_judged hrst hf hen hgap
    exact ⟨fun hin => hjudged.trans (congrArg _ (if_pos hin)), fun hout => hjudged.trans (congrArg _ (if_neg (not_le.2 hout)))⟩

end Sys2Proof.Machine
end

section
/-! Fault commands, the watchdog and telemetry streams (O31, O32). -/

namespace Sys2Proof.Machine

section commands
variable {s : State} {id : Nat} {c : Cmd}

/-! ### SET_WATCHDOG and GET_FAULT_LOG (R814, R815, R821) -/

theorem exec_setWatchdog (h : Started s id 0x2A c) : exec (.setWatchdog id) s = .next (complete
    { s with flt.period := if c.fld 0x10 4 = 0 then 2000 else c.fld 0x10 4 } id (Compl.ok s.flt.period 0)) := by
  change execSetWatchdog id s = _
  rw [execSetWatchdog, withCmd_of_started h]

/-- The structure that GET_FAULT_LOG writes for the entries `l`: a header, and each entry. -/
def faultLogBytes (s : State) (l : List FltLog) : Bytes :=
  pageOf 64 [(0, 4, l.length), (4, 4, (s.flt.log.getLast?).elim 0 (·.seq)),
    (8, 4, (l.getLast?).elim s.flt.next fun e => e.seq + 1), (0xC, 4, s.flt.overwritten)] ++ (l.map fltEntry).flatten

/-- Its completion: how many entries, the SEQ to ask for next, and whether a held entry follows. -/
def faultLogCompl (s : State) (l : List FltLog) : Compl :=
  let next := (l.getLast?).elim s.flt.next fun e => e.seq + 1
  { Compl.ok l.length next with more := s.flt.log.any fun e => decide (next ≤ e.seq) }

theorem exec_getFaultLog (h : Started s id 0x2B c) (hd : dataOk s c = true) : exec (.getFaultLog id) s = .next (
    let l := fltPick s (c.fld 0x18 4) (c.fld 0x1C 2)
    answer (if bitOf (c.fld 0x1E 1) 0 = true then
      { s with flt.log := s.flt.log.filter fun e => !(l.map (·.seq)).elem e.seq } else s) c 0x10 (faultLogBytes s l)
      (faultLogCompl s l)) := by
  change execGetFaultLog id s = _
  rw [execGetFaultLog, withCmd_of_started h, hd]
  rfl

/-! ### RETIRE_BUFFER_PAGE (R800, R802, R816) -/

section retire
variable {k : Seen} (h : Started s id 0x2C c)
include h

theorem exec_retireBufferPage : exec (.retireBufferPage id k) s = .next (
    let held := Tbl.has s.pmu.flash.retired (c.fld 0x10 8 / 65536)
    let report (s : State) : Compl := Compl.ok (1024 - s.pmu.flash.spareUsed) s.pmu.flash.spareUsed
    if s.pmu.bufBytes ≤ c.fld 0x10 8 then complete s id (Compl.field 0x10)
    else if bitOf (c.fld 0x18 1) 0 then complete s id (report s)
    else if bitOf (c.fld 0x18 1) 1 && !held then complete s id (Compl.field 0x18)
    else if !bitOf (c.fld 0x18 1) 1 && held then complete s id (report s)
    else if 1024 ≤ s.pmu.flash.spareUsed then complete s id { Compl.field 0x10 with result2 := 2 }
    else
      let u := retirePage (noteCopy s k) (c.fld 0x10 8 / 65536)
      complete u id (report u)) := by
  change execRetireBufferPage id k s = _
  rw [execRetireBufferPage, withCmd_of_started h]

theorem exec_retireBufferPage_beyond (hb : s.pmu.bufBytes ≤ c.fld 0x10 8) :
    exec (.retireBufferPage id k) s = .next (complete s id (Compl.field 0x10)) := by
  rw [exec_retireBufferPage h, if_pos hb]

variable (hb : c.fld 0x10 8 < s.pmu.bufBytes)
include hb

theorem exec_retireBufferPage_report (hq : bitOf (c.fld 0x18 1) 0 = true ∨
      (bitOf (c.fld 0x18 1) 1 = false ∧ Tbl.has s.pmu.flash.retired (c.fld 0x10 8 / 65536) = true)) :
    exec (.retireBufferPage id k) s = .next (complete s id (Compl.ok (1024 - s.pmu.flash.spareUsed) s.pmu.flash.spareUsed)) := by
  rw [exec_retireBufferPage h, if_neg (not_le.2 hb)]
  rcases hq with hq | ⟨hagain, hheld⟩
  · rw [hq]; rfl
  · simp [hagain, hheld]

theorem exec_retireBufferPage_again (hq : bitOf (c.fld 0x18 1) 0 = false) (hagain : bitOf (c.fld 0x18 1) 1 = true)
    (hheld : Tbl.has s.pmu.flash.retired (c.fld 0x10 8 / 65536) = false) :
    exec (.retireBufferPage id k) s = .next (complete s id (Compl.field 0x18)) := by
  rw [exec_retireBufferPage h, if_neg (not_le.2 hb)]
  simp [hq, hagain, hheld]

variable (hq : bitOf (c.fld 0x18 1) 0 = false)
  (hheld : bitOf (c.fld 0x18 1) 1 = Tbl.has s.pmu.flash.retired (c.fld 0x10 8 / 65536))
include hq hheld

theorem exec_retireBufferPage_spent (hused : 1024 ≤ s.pmu.flash.spareUsed) :
    exec (.retireBufferPage id k) s = .next (complete s id { Compl.field 0x10 with result2 := 2 }) := by
  rw [exec_retireBufferPage h, if_neg (not_le.2 hb)]
  simp [hq, hheld, hused]

theorem exec_retireBufferPage_remaps (hused : s.pmu.flash.spareUsed < 1024) : exec (.retireBufferPage id k) s = .next (
    let u := retirePage (noteCopy s k) (c.fld 0x10 8 / 65536)
    complete u id (Compl.ok (1024 - u.pmu.flash.spareUsed) u.pmu.flash.spareUsed)) := by
  rw [exec_retireBufferPage h, if_neg (not_le.2 hb)]
  simp [hq, hheld, hused.not_ge]

end retire

/-! ### LANE_DISABLE (R803, R804, R816, R820) -/

/-- The list of the calibration record with a lane's new setting, and the change queued for the transport. -/
def laneSet (s : State) (c : Cmd) : State :=
  updXp { s with pmu.flash.disabled := if c.fld 0x11 1 = 0 then setIns s.pmu.flash.disabled (c.fld 0x10 1)
      else setDel s.pmu.flash.disabled (c.fld 0x10 1) } (c.fld 0x10 1 / 32) fun x =>
    { x with lanesNext := x.lanesNext ++ [(c.fld 0x10 1, c.fld 0x11 1 == 0)] }

/-- Would the command disable a fourth lane of its transport? -/
def FourthLane (s : State) (c : Cmd) : Prop :=
  c.fld 0x11 1 = 0 ∧ s.pmu.flash.disabled.elem (c.fld 0x10 1) = false ∧ 3 ≤ (disabledOf s (c.fld 0x10 1 / 32)).length

/-- LANE_DISABLE answers its refusal, or records the setting and reports the transport's disabled lanes. -/
def laneAnswer (s : State) (id : Nat) (c : Cmd) : State :=
  complete (laneSet s c) id (Compl.ok (maskOf ((disabledOf (laneSet s c) (c.fld 0x10 1 / 32)).map (· % 32))) 0)

theorem exec_laneDisable_refused (h : Started s id 0x2D c) (hf : FourthLane s c) :
    exec (.laneDisable id) s = .next (complete s id (Compl.field 0x10)) := by
  obtain ⟨hoff, hnew, hthree⟩ := hf
  change execLaneDisable id s = _
  rw [execLaneDisable, withCmd_of_started h]
  simp only [hoff, hnew, hthree]
  rfl

theorem exec_laneDisable_recorded (h : Started s id 0x2D c) (hf : ¬ FourthLane s c) :
    exec (.laneDisable id) s = .next (laneAnswer s id c) := by
  change execLaneDisable id s = _
  rw [execLaneDisable, withCmd_of_started h]
  simp only [laneAnswer, laneSet, beq_iff_eq]
  rw [if_neg]
  simpa [FourthLane, and_assoc] using hf

/-- Without a LANE_DISABLE to start, its row changes nothing. -/
theorem exec_laneDisable_idle (h : ∀ c, ¬ Started s id 0x2D c) : exec (.laneDisable id) s = .next s := by
  change execLaneDisable id s = _
  rw [execLaneDisable, withCmd]
  split
  next k hk => rw [if_neg fun hs => h k ⟨hk, hs.1, Option.isNone_iff_eq_none.1 hs.2.1, hs.2.2⟩]
  · rfl

end commands

/-! ### At most three disabled lanes (R803, R804, R816) -/

/-- Where the firmware's part stays, so does the flash. -/
theorem flash_of_only {l : List Part} {s t : State} (h : Only l s t) (hf : .firmware ∉ l) : t.pmu.flash = s.pmu.flash := by
  obtain ⟨_, _, _, _, _, hflash, _⟩ := h .firmware hf
  exact hflash

theorem setIns_pairwise {l : List Nat} (k : Nat) (h : l.Pairwise (· < ·)) : (setIns l k).Pairwise (· < ·) := by
  induction l with
  | nil => exact List.pairwise_singleton _ _
  | cons j r ih =>
    obtain ⟨hj, hr⟩ := List.pairwise_cons.1 h
    unfold setIns
    split
    · exact h
    split
    next hkj => exact List.pairwise_cons.2 ⟨fun x hx => (List.mem_cons.1 hx).elim (fun e => e ▸ hkj)
      fun hx => hkj.trans (hj x hx), h⟩
    next hne hle =>
      refine List.pairwise_cons.2 ⟨fun x hx => ?_, ih hr⟩
      rcases (mem_setIns r k x).1 hx with rfl | hx
      · omega
      · exact hj x hx

/-- What is in a rising list already is not put in again. -/
theorem setIns_of_mem {l : List Nat} {k : Nat} (h : l.Pairwise (· < ·)) (hk : k ∈ l) : setIns l k = l := by
  induction l with
  | nil => exact absurd hk List.not_mem_nil
  | cons j r ih =>
    obtain ⟨hj, hr⟩ := List.pairwise_cons.1 h
    unfold setIns
    split
    · rfl
    next hne =>
      have hkr : k ∈ r := (List.mem_cons.1 hk).resolve_left fun e => hne e.symm
      rw [if_neg (hj k hkr).not_gt, ih hr hkr]

/-- An insertion puts in nothing but the number. -/
theorem countP_setIns_le (p : Nat → Bool) (l : List Nat) (k : Nat) :
    (setIns l k).countP p ≤ l.countP p + if p k then 1 else 0 := by
  induction l with
  | nil => simp [setIns, List.countP_cons]
  | cons j r ih =>
    unfold setIns
    split
    · exact Nat.le_add_right _ _
    split
    · rw [List.countP_cons]
    · rw [List.countP_cons, List.countP_cons]
      omega

theorem length_disabledOf (s : State) (x : Nat) :
    (disabledOf s x).length = s.pmu.flash.disabled.countP fun l => l / 32 == x := List.countP_eq_length_filter.symm

/-- The calibration record lists disabled lanes in rising order, at most three of each transport. -/
def AtMostThree (s : State) : Prop := s.pmu.flash.disabled.Pairwise (· < ·) ∧ ∀ x, (disabledOf s x).length ≤ 3

/-- A completion leaves the calibration record as it is. -/
theorem AtMostThree.complete {s : State} (h : AtMostThree s) (id : Nat) (k : Compl) : AtMostThree (complete s id k) := by
  have hflash : (Machine.complete s id k).pmu.flash = s.pmu.flash :=
    flash_of_only (l := ending) (complete_only .refl (by decide)) (by decide)
  simpa only [AtMostThree, disabledOf, hflash] using h

theorem disabled_laneSet (s : State) (c : Cmd) : (laneSet s c).pmu.flash.disabled =
    if c.fld 0x11 1 = 0 then setIns s.pmu.flash.disabled (c.fld 0x10 1) else setDel s.pmu.flash.disabled (c.fld 0x10 1) := rfl

/-- A setting that disables no fourth lane keeps at most three. -/
theorem AtMostThree.laneSet {s : State} {c : Cmd} (h : AtMostThree s) (hf : ¬ FourthLane s c) : AtMostThree (laneSet s c) := by
  obtain ⟨hsorted, hthree⟩ := h
  simp only [AtMostThree, length_disabledOf, disabled_laneSet] at hthree ⊢
  split
  next hoff =>
    refine ⟨setIns_pairwise _ hsorted, fun x => ?_⟩
    by_cases hin : c.fld 0x10 1 ∈ s.pmu.flash.disabled
    · rw [setIns_of_mem hsorted hin]
      exact hthree x
    · refine (countP_setIns_le _ _ _).trans ?_
      split
      next hx =>
        have hlane : c.fld 0x10 1 / 32 = x := beq_iff_eq.1 hx
        have hroom : ¬ 3 ≤ (disabledOf s (c.fld 0x10 1 / 32)).length := fun h3 => hf ⟨hoff, by simpa using hin, h3⟩
        rw [length_disabledOf, hlane] at hroom
        omega
      · exact hthree x
  next => exact ⟨hsorted.filter _, fun x => (List.Sublist.countP_le List.filter_sublist).trans (hthree x)⟩

/-- Settles O32: the command starts and is refused, starts and records a setting that disables no fourth lane, or does not start. -/
theorem fourthLaneRefused : Obligations.FourthLaneRefused := by
  unfold Obligations.FourthLaneRefused
  intro s t id hsorted hthree hexec
  have h : AtMostThree s := ⟨hsorted, hthree⟩
  by_cases hstart : ∃ c, Started s id 0x2D c
  · obtain ⟨c, hc⟩ := hstart
    by_cases hf : FourthLane s c
    · rw [exec_laneDisable_refused hc hf] at hexec
      cases hexec
      exact h.complete id _
    · rw [exec_laneDisable_recorded hc hf] at hexec
      cases hexec
      exact (h.laneSet hf).complete id _
  · rw [exec_laneDisable_idle fun c hc => hstart ⟨c, hc⟩] at hexec
    cases hexec
    exact h

/-! ### WATCHDOG_EXAMINE (R810 to R813) -/

section watchdog
variable {s : State} {id : Nat} {c : Cmd} (hc : cmdOf s id = some c)
include hc

theorem examineOne_of_no_holder (h : holders s c = []) : examineOne s id = s := by simp [examineOne, hc, h]

theorem examineOne_of_not_stalled (h : stalled s (chain s [c] 256) = false) : examineOne s id = s := by simp [examineOne, hc, h]

theorem examineOne_of_stalled (hh : holders s c ≠ []) (h : stalled s (chain s [c] 256) = true) :
    examineOne s id = breakChain s (chain s [c] 256) := by simp [examineOne, hc, hh, h]

end watchdog

/-- Where the fault log stays, so does the count of fires. -/
theorem flt_of_only {l : List Part} {s t : State} (h : Only l s t) (hf : .faults ∉ l) : t.flt = s.flt := h .faults hf

theorem fires_logFault (s : State) (e : FltLog) : (logFault s e).flt.fires = s.flt.fires := by
  rw [logFault, flt_raise]

/-- A chain that starts to be measured anew counts no fire. -/
theorem flt_restart (l : List Cmd) (s : State) :
    (l.foldl (fun s c => updCmd s c.id fun c => { c with moved := now s }) s).flt = s.flt :=
  flt_of_only (l := [.commands]) (.foldl (fun _ _ => updCmd_only .refl (by decide)) l .refl) (by decide)

/-- A broken chain counts one fire, with a victim or without. -/
theorem fires_breakChain (s : State) (l : List Cmd) : (breakChain s l).flt.fires = satAdd 32 s.flt.fires 1 := by
  unfold breakChain
  dsimp only
  split
  · rw [flt_restart, flt_raise]
  · rw [flt_restart, fires_logFault]
    rw [flt_of_only (l := [.free]) (drawFree_only .refl (by decide)) (by decide), flt_raise]
    change (abortOne 0x44 noCmd _ _).flt.fires = _
    rw [flt_of_only (l := but [.faults]) (abortOne_only .refl (by decide)) (by decide)]

/-! ### TELEMETRY_CONFIG (R634 to R637) -/

section telemetry
variable {s : State} {id : Nat} {c : Cmd} (hc : cmdOf s id = some c) (hop : c.opcode = 0x21) (hd : c.done = none)
  (hp : c.prog ≠ .ordered)
include hc hop hd hp

theorem exec_telemetryConfig : exec (.telemetryConfig id) s = .next (
    let k := c.fld 0x10 1
    let a := aceOf s (teleCh k)
    let held := Tbl.has s.ace.tele k
    let off := c.fld 0x11 1 == 0
    if !held && !off && aceLive a then complete s id (Compl.of 5)
    else if held && a.st == .running then
      setProg (setAce s (teleCh k) { a with pending := false, disarm := true }) id (.waiting 0)
    else
      let u := if held then stopStream s k else s
      if off then complete u id (Compl.ok 0 0) else complete (startStream u k c) id (Compl.ok (24 + k) (8 + k))) := by
  change execTelemetryConfig id s = _
  rw [execTelemetryConfig, withCmdW_of_cmdOf hc hop hd hp]
  rfl

/-- The channel of another owner is live. -/
theorem exec_telemetryConfig_live (hk : c.fld 0x11 1 ≠ 0) (hheld : Tbl.has s.ace.tele (c.fld 0x10 1) = false)
    (hlive : aceLive (aceOf s (teleCh (c.fld 0x10 1))) = true) :
    exec (.telemetryConfig id) s = .next (complete s id (Compl.of 5)) := by
  rw [exec_telemetryConfig hc hop hd hp]
  simp [hk, hheld, hlive]

theorem exec_telemetryConfig_new (hk : c.fld 0x11 1 ≠ 0) (hheld : Tbl.has s.ace.tele (c.fld 0x10 1) = false)
    (hlive : aceLive (aceOf s (teleCh (c.fld 0x10 1))) = false) : exec (.telemetryConfig id) s = .next (
      complete (startStream s (c.fld 0x10 1) c) id (Compl.ok (24 + c.fld 0x10 1) (8 + c.fld 0x10 1))) := by
  rw [exec_telemetryConfig hc hop hd hp]
  simp [hk, hheld, hlive]

theorem exec_telemetryConfig_anew (hk : c.fld 0x11 1 ≠ 0) (hheld : Tbl.has s.ace.tele (c.fld 0x10 1) = true)
    (hst : (aceOf s (teleCh (c.fld 0x10 1))).st ≠ .running) : exec (.telemetryConfig id) s = .next (complete
      (startStream (stopStream s (c.fld 0x10 1)) (c.fld 0x10 1) c) id (Compl.ok (24 + c.fld 0x10 1) (8 + c.fld 0x10 1))) := by
  rw [exec_telemetryConfig hc hop hd hp]
  simp [hk, hheld, hst]

theorem exec_telemetryConfig_stop (hk : c.fld 0x11 1 = 0) (hheld : Tbl.has s.ace.tele (c.fld 0x10 1) = true)
    (hst : (aceOf s (teleCh (c.fld 0x10 1))).st ≠ .running) :
    exec (.telemetryConfig id) s = .next (complete (stopStream s (c.fld 0x10 1)) id (Compl.ok 0 0)) := by
  rw [exec_telemetryConfig hc hop hd hp]
  simp [hk, hheld, hst]

theorem exec_telemetryConfig_none (hk : c.fld 0x11 1 = 0) (hheld : Tbl.has s.ace.tele (c.fld 0x10 1) = false) :
    exec (.telemetryConfig id) s = .next (complete s id (Compl.ok 0 0)) := by
  rw [exec_telemetryConfig hc hop hd hp]
  simp [hk, hheld]

theorem exec_telemetryConfig_running (hheld : Tbl.has s.ace.tele (c.fld 0x10 1) = true)
    (hst : (aceOf s (teleCh (c.fld 0x10 1))).st = .running) : exec (.telemetryConfig id) s = .next (setProg (setAce s
      (teleCh (c.fld 0x10 1)) { aceOf s (teleCh (c.fld 0x10 1)) with pending := false, disarm := true }) id (.waiting 0)) := by
  rw [exec_telemetryConfig hc hop hd hp]
  simp [hheld, hst]

end telemetry

/-- Settles O31: the rules of the commands above, each for a started command. -/
theorem faultsWatchdogTelemetry : Obligations.FaultsWatchdogTelemetry := by
  unfold Obligations.FaultsWatchdogTelemetry
  refine ⟨fun s id c k => ⟨exec_setWatchdog, exec_getFaultLog, fun h => ?retire, fun h hroom => ?recorded,
    fun h hoff hnew hthree => exec_laneDisable_refused h ⟨hoff, hnew, hthree⟩⟩, fun s dt => ⟨rfl, fun id c hc h => ?alone,
    fun id c hc hh hs => ⟨examineOne_of_stalled hc hh hs, fires_breakChain _ _⟩⟩, fun s id c hc hop hd hp => ?telemetry⟩
  case retire =>
    refine ⟨exec_retireBufferPage_beyond h, fun hb => ⟨exec_retireBufferPage_report h hb, exec_retireBufferPage_again h hb,
      fun hq hheld => ⟨exec_retireBufferPage_spent h hb hq hheld, exec_retireBufferPage_remaps h hb hq hheld⟩⟩⟩
  case recorded => exact exec_laneDisable_recorded h fun ⟨hoff, hnew, hthree⟩ => absurd (hroom hoff hnew) (not_lt.2 hthree)
  case alone => exact h.elim (examineOne_of_no_holder hc) (examineOne_of_not_stalled hc)
  case telemetry =>
    exact ⟨exec_telemetryConfig_live hc hop hd hp, exec_telemetryConfig_new hc hop hd hp, exec_telemetryConfig_anew hc hop hd hp,
      exec_telemetryConfig_stop hc hop hd hp, exec_telemetryConfig_none hc hop hd hp, exec_telemetryConfig_running hc hop hd hp⟩

end Sys2Proof.Machine
end

section
/-! Thermal commands, power failure and engine fencing (O33). -/

namespace Sys2Proof.Machine

/-! ### Thermal commands (R755 to R762, R776) -/

section thermalConfig
variable {s : State} {id : Nat} {c : Cmd} (h : Started s id 0x27 c)
include h

theorem exec_thermalConfig : exec (.thermalConfig id) s = .next (
    if 118 + c.fld 0x10 1 ≤ 110 + c.fld 0x11 1 then complete s id (Compl.field 0x10)
    else if 125 + c.fld 0x11 1 ≤ 118 + c.fld 0x12 1 then complete s id (Compl.field 0x11)
    else complete { s with pmu.th.next := some (c.fld 0x10 1, c.fld 0x11 1, c.fld 0x12 1, bitOf (c.fld 0x13 1) 0,
      signed 8 (c.fld 0x14 1), c.fld 0x15 1) } id (Compl.ok 0 0)) := by
  change execThermalConfig id s = _
  rw [execThermalConfig, withCmd_of_started h]

end thermalConfig

section sample
variable {s : State} {dt : Nat}

/-- Time passing leaves the host link, the outputs, the event router and the queue as they are. -/
theorem advance_rest (s : State) (dt : Nat) : (advance s dt).host = s.host ∧ (advance s dt).out = s.out ∧
    (advance s dt).evr = s.evr ∧ (advance s dt).pending = s.pending := by
  unfold advance
  split <;> exact ⟨rfl, rfl, rfl, rfl⟩

theorem exec_thermalSample {temps : List Int} {e : ExtReading} (hlen : temps.length = 6) (hps : s.pmu.ps ≠ .off)
    (hrst : s.host.sysRst = true) : exec (.thermalSample dt temps e) s = .next (
    let u := advance s dt
    let h := takeSamples u.pmu.th temps e
    let v := { u with pmu.th := h }
    let v := if h.extFault && !u.pmu.th.extFault then raise v evExtFault subjNone 0 0 else v
    settle (applyThermal (if sampleLevel h = h.level then v else changeLevel v (sampleLevel h)))) := by
  obtain ⟨hhost, -⟩ := advance_rest s dt
  change execThermalSample dt temps e s = _
  rw [execThermalSample, if_neg]
  rw [advance_pmu, hhost]
  simp [hlen, hps, hrst]

/-- What SHUTDOWN_POWER_OFF leaves of the state `u`: the reset values, but for the AON domain. -/
def poweredOff (u : State) : State :=
  let fl := { u.pmu.flash with thermal := some (u.tbu.sec, (governing u.pmu.th).2) }
  let z := State.afterReset fl (fun t => (xpOf u t).bind (·.cart)) u.host.perst u.clk.free
  { z with
    pending := u.pending, clk := u.clk, out := u.out, smp := u.smp, tbu := u.tbu, host := { z.host with sysRst := true },
    xp := Tbl.mapVal z.xp fun t x => { x with wi := ((xpOf u t).elim x.wi (·.wi)) },
    evr := { Evr.reset with log := u.evr.log, logSeq := u.evr.logSeq, overwritten := u.evr.overwritten }, flt := u.flt,
    pmu := { z.pmu with ps := .off, th := { u.pmu.th with offAt := none }, gates := u.pmu.gates, gateEvt := u.pmu.gateEvt,
                        log := u.pmu.log, logTotal := u.pmu.logTotal, entrySeq := u.pmu.entrySeq } }

theorem exec_shutdownPowerOff {t : Nat} (hoff : (advance s dt).pmu.th.offAt = some t) (hdue : t ≤ now (advance s dt)) :
    exec (.shutdownPowerOff dt) s = .next (poweredOff (advance s dt)) := by
  change execShutdownPowerOff dt s = _
  simp only [execShutdownPowerOff, hoff, if_pos hdue]
  rfl

/-- The cartridges stay where they are. -/
theorem cart_poweredOff (u : State) {t : Nat} (ht : t < 4) :
    (xpOf (poweredOff u) t).bind (·.cart) = (xpOf u t).bind (·.cart) := by
  have hx := xpOf_afterReset { u.pmu.flash with thermal := some (u.tbu.sec, (governing u.pmu.th).2) }
    (fun t => (xpOf u t).bind (·.cart)) u.host.perst u.clk.free ht
  rw [xpOf] at hx
  rw [xpOf, poweredOff, Tbl.get?_mapVal, hx]
  rfl

end sample

/-! ### PFAIL_N, the supplies and the clock (R252, R763 to R765, R840, R857, R859) -/

section pfail
variable {s : State}

theorem exec_pfailQualified (hp : s.pmu.pfail = false) (hrst : s.host.sysRst = true) : exec .pfailQualified s = .next { s with
    pmu.pfail := true, xp := Tbl.mapVal s.xp fun _ x =>
      if x.motion == .writing then { x with haltReq := 2, haltAt := now s + 20 * usTicks } else x } := by
  change execPfailQualified s = _
  rw [execPfailQualified, if_neg (by simp [hp, hrst])]

theorem exec_pfailQualified_idle (h : s.pmu.pfail = true ∨ s.host.sysRst = false) : exec .pfailQualified s = .next s := by
  change execPfailQualified s = _
  rw [execPfailQualified, if_pos (h.imp_right fun hrst => by rw [hrst]; rfl)]

theorem exec_pfailRelease (hp : s.pmu.pfail = true) : exec .pfailRelease s =
    .next (startMbx (wake (raise { s with pmu.pfail := false } evPfail subjNone 0 0) 8)) := by
  change execPfailRelease s = _
  rw [execPfailRelease, if_pos hp]

theorem exec_pfailRelease_unqualified (hp : s.pmu.pfail = false) (hrst : s.host.sysRst = true) :
    exec .pfailRelease s = .next (wake s 8) := by
  change execPfailRelease s = _
  rw [execPfailRelease, if_neg (Bool.eq_false_iff.1 hp), if_pos hrst]

/-- The state without SYS_CLK_IN: every transport inhibited, PPS_OUT low, and time standing still. -/
def clockLost (s : State) : State :=
  let v := (s.xp.map (·.1)).foldl (fun s t => setForce s t true) s
  { v with clk.frozen := true, tbu.ppsOut := false }

theorem exec_sysClkLoss (hrst : s.host.sysRst = true) (hf : s.clk.frozen = false) : exec .sysClkLoss s = .next (clockLost s) := by
  change execSysClkLoss s = _
  rw [execSysClkLoss, if_neg (by simp [hrst, hf])]
  rfl

/-- Formatter time is as it was. -/
theorem time_clockLost (s : State) : (clockLost s).tbu.ns = s.tbu.ns ∧ (clockLost s).tbu.sec = s.tbu.sec := by
  have hforced : ((s.xp.map (·.1)).foldl (fun s t => setForce s t true) s).tbu = s.tbu :=
    Only.foldl (l := but [.timeBase]) (fun _ _ => setForce_only .refl (by decide)) _ .refl .timeBase (by decide)
  rw [clockLost, hforced]
  exact ⟨rfl, rfl⟩

theorem advance_of_frozen (h : s.clk.frozen = true) (dt : Nat) : advance s dt = s := by rw [advance, if_pos h]

end pfail

/-! ### Engines (R750 to R754, R774, R775, R782) -/

/-- No transport with a mount session is concerned. -/
theorem not_in_session {s : State} {c : Cmd}
    (hm : c.fld 0x10 1 = 4 → (xpOf s (c.fld 0x11 1)).elim false (·.mount.isSome) = false) :
    ¬ (c.fld 0x10 1 = 4 ∧ (xpOf s (c.fld 0x11 1)).elim false (·.mount.isSome) = true) :=
  fun ⟨hcls, hs⟩ => Bool.eq_false_iff.1 (hm hcls) hs

section fence
variable {s : State} {id : Nat} {c : Cmd} (h : Started s id 0x28 c)
include h

theorem exec_fenceEngine_in_session (hcls : c.fld 0x10 1 = 4) (hm : (xpOf s (c.fld 0x11 1)).elim false (·.mount.isSome) = true) :
    exec (.fenceEngine id) s = .next (complete s id (Compl.of 5)) := by
  change execFenceEngine id s = _
  rw [execFenceEngine, withCmd_of_started h]
  simp only [hcls, hm, and_self, if_true]

variable (hm : c.fld 0x10 1 = 4 → (xpOf s (c.fld 0x11 1)).elim false (·.mount.isSome) = false)
include hm

theorem exec_fenceEngine_off (hst : (engOf s (c.fld 0x10 1) (c.fld 0x11 1)).st = .off) :
    exec (.fenceEngine id) s = .next (complete s id (Compl.ok 0 0)) := by
  change execFenceEngine id s = _
  rw [execFenceEngine, withCmd_of_started h]
  simp only [if_neg (not_in_session hm), hst]

theorem exec_fenceEngine_fenced (hst : (engOf s (c.fld 0x10 1) (c.fld 0x11 1)).st = .fenced) :
    exec (.fenceEngine id) s = .next (complete (if bitOf (c.fld 0x14 1) 0 then
      setEng s (c.fld 0x10 1) (c.fld 0x11 1) { engOf s (c.fld 0x10 1) (c.fld 0x11 1) with st := .off } else s) id
      (Compl.ok 0 0)) := by
  change execFenceEngine id s = _
  rw [execFenceEngine, withCmd_of_started h]
  simp only [if_neg (not_in_session hm), hst]

theorem exec_fenceEngine_drain (hst : (engOf s (c.fld 0x10 1) (c.fld 0x11 1)).st = .drain) : exec (.fenceEngine id) s = .next (
    let e := engOf s (c.fld 0x10 1) (c.fld 0x11 1)
    setProg (setEng s (c.fld 0x10 1) (c.fld 0x11 1) { e with offReq := e.offReq || bitOf (c.fld 0x14 1) 0 }) id
      (.engine (engKey (c.fld 0x10 1) (c.fld 0x11 1)))) := by
  change execFenceEngine id s = _
  rw [execFenceEngine, withCmd_of_started h]
  simp only [if_neg (not_in_session hm), hst]

theorem exec_fenceEngine_run (hst : (engOf s (c.fld 0x10 1) (c.fld 0x11 1)).st = .run) : exec (.fenceEngine id) s = .next (
    let v := setProg (setEng s (c.fld 0x10 1) (c.fld 0x11 1) { engOf s (c.fld 0x10 1) (c.fld 0x11 1) with
      st := .drain, deadline := now s + (if c.fld 0x12 2 = 0 then 100 else c.fld 0x12 2) * msTicks,
      offReq := bitOf (c.fld 0x14 1) 0, stopped := 0 }) id (.engine (engKey (c.fld 0x10 1) (c.fld 0x11 1)))
    if engBusy v (c.fld 0x10 1) (c.fld 0x11 1) then v else fenceDone v (c.fld 0x10 1) (c.fld 0x11 1)) := by
  change execFenceEngine id s = _
  rw [execFenceEngine, withCmd_of_started h]
  simp only [if_neg (not_in_session hm), hst]

end fence

section engines
variable {s : State} {id dt cls idx : Nat} {c : Cmd}

theorem exec_engineDrained (hst : (engOf s cls idx).st = .drain) (hidle : engBusy s cls idx = false) :
    exec (.engineDrained cls idx) s = .next (fenceDone s cls idx) := by
  change execEngineDrained cls idx s = _
  rw [execEngineDrained, if_pos ⟨hst, by rw [hidle]; rfl⟩]

theorem exec_engineDrainTimeout (hst : (engOf (advance s dt) cls idx).st = .drain)
    (hdue : (engOf (advance s dt) cls idx).deadline ≤ now (advance s dt)) : exec (.engineDrainTimeout dt cls idx) s = .next (
    let u := advance s dt
    let p := stopWork u cls idx
    let v := { p.1 with
      pmu.engines := Tbl.put p.1.pmu.engines (engKey cls idx) { engOf u cls idx with stopped := (engOf u cls idx).stopped + p.2 } }
    if engBusy v cls idx then v else fenceDone v cls idx) := by
  change execEngineDrainTimeout dt cls idx s = _
  rw [execEngineDrainTimeout, if_pos ⟨hst, hdue⟩]

theorem exec_resetEngine (ok : Bool) (h : Started s id 0x29 c)
    (hst : (engOf s (c.fld 0x10 1) (c.fld 0x11 1)).st = .fenced ∨ (engOf s (c.fld 0x10 1) (c.fld 0x11 1)).st = .off) :
    exec (.resetEngine id ok) s = .next (
      let v := setEng s (c.fld 0x10 1) (c.fld 0x11 1) { engOf s (c.fld 0x10 1) (c.fld 0x11 1) with
        st := if ok then .run else .fenced, failed := !ok }
      complete (if c.fld 0x10 1 = 4 then updXp v (c.fld 0x11 1) fun x => { x with startup := false } else v) id
        (Compl.ok (b2n ok) 0)) := by
  change execResetEngine id ok s = _
  rw [execResetEngine, withCmd_of_started h]
  exact congrArg _ (if_neg (by rcases hst with hst | hst <;> simp [hst]))

theorem exec_resetEngine_live (ok : Bool) (h : Started s id 0x29 c)
    (hst : (engOf s (c.fld 0x10 1) (c.fld 0x11 1)).st = .run ∨ (engOf s (c.fld 0x10 1) (c.fld 0x11 1)).st = .drain) :
    exec (.resetEngine id ok) s = .next (complete s id (Compl.field 0x11)) := by
  change execResetEngine id ok s = _
  rw [execResetEngine, withCmd_of_started h]
  exact congrArg _ (if_pos hst)

/-- The running jobs of a compression lane are asked to stop, for the FENCE_ENGINE that waits on the lane. -/
theorem svc_stopWork_compress (s : State) (idx : Nat) : (stopWork s 0 idx).1.svc = Tbl.mapVal s.svc fun _ j =>
    if j.compress && j.lane == idx && j.stopBy == 0 then { j with stopBy := 0x47, stopFor :=
      ((s.rings.cmds.find? fun c => c.opcode == 0x28 && c.done.isNone && c.prog == .engine (engKey 0 idx)).map (·.id)).getD noCmd }
    else j := by
  simp [stopWork]

end engines

/-- Settles O33: the rules of the commands above, one clause each. -/
theorem thermalPowerFencing : Obligations.ThermalPowerFencing := by
  unfold Obligations.ThermalPowerFencing
  refine ⟨fun s id dt c temps e => ⟨fun h => ?config, exec_thermalSample, fun t hoff hdue => ?powerOff⟩,
    fun s => ⟨exec_pfailQualified, exec_pfailQualified_idle, exec_pfailRelease, exec_pfailRelease_unqualified, rfl, rfl, rfl,
      fun hrst hf => ?clock⟩,
    fun s id dt cls idx c => ⟨fun h => ⟨exec_fenceEngine_in_session h, fun hm => ⟨exec_fenceEngine_run h hm,
      exec_fenceEngine_fenced h hm, exec_fenceEngine_off h hm, exec_fenceEngine_drain h hm⟩⟩, exec_engineDrained,
      exec_engineDrainTimeout, fun ok h => ⟨exec_resetEngine ok h, exec_resetEngine_live ok h⟩, rfl, rfl,
      svc_stopWork_compress s idx⟩⟩
  case config =>
    rw [exec_thermalConfig h]
    exact ⟨fun hw => by rw [if_pos hw], fun hw hws => by rw [if_neg (not_le.2 hw), if_pos hws],
      fun hw hws => by rw [if_neg (not_le.2 hw), if_neg (not_le.2 hws)]⟩
  case powerOff =>
    obtain ⟨hhost, hout, hevr, hpend⟩ := advance_rest s dt
    refine ⟨_, exec_shutdownPowerOff hoff hdue, rfl, rfl, hpend, ?_, rfl, rfl, rfl, advance_smp s dt, rfl, rfl, hout, rfl, rfl,
      rfl, rfl, ?_, advance_flt s dt, ?_, fun t ht => ?_⟩
    · rw [← advance_pmu s dt]; rfl
    · rw [← hhost]; rfl
    · rw [← hevr]; rfl
    · rw [cart_poweredOff _ ht, xpOf_advance]
  case clock =>
    obtain ⟨hns, hsec⟩ := time_clockLost s
    exact ⟨exec_sysClkLoss hrst hf, hns, hsec, advance_of_frozen rfl⟩

end Sys2Proof.Machine
end

section
/-! Firmware staging, activation and the end of a live update (O36). -/

namespace Sys2Proof.Machine

/-! ### FW_STAGE and the flash operation (R679, R729, R763, R766, R767) -/

section stage
variable {s : State} {id : Nat} {c : Cmd} {o : FlashOp}

theorem exec_fwStage_updating (img : Image) (data : Bytes) (h : Started s id 0x25 c) (hu : s.pmu.upd ≠ none) :
    exec (.fwStage id img data) s = .next (complete s id (Compl.of 0x67)) := by
  change execFwStage id img data s = _
  rw [execFwStage, withCmd_of_started h, if_pos (Option.isSome_iff_ne_none.2 hu)]

theorem exec_fwStage (img : Image) (data : Bytes) (h : Started s id 0x25 c) (hu : s.pmu.upd = none) (hd : dataOk s c = true)
    (ho : s.pmu.flashOp = none) (hp : s.pmu.pfail = false) : exec (.fwStage id img data) s = .next (
      let f := s.pmu.flash
      let u := cmdRead s c (c.fld 0x10 8) (c.fld 0x1C 4)
      setProg (pspQueue { u with
        pmu.flash := { f with staged := false, images := Tbl.del f.images (stageRegion f) },
        pmu.flashOp := some ⟨id, img, data.take (c.fld 0x1C 4), 0⟩ } 1 (stageOps f c (data.take (c.fld 0x1C 4)))) id
        (.waiting 0)) := by
  change execFwStage id img data s = _
  rw [execFwStage, withCmd_of_started h]
  simp only [hu, hd, ho, hp]
  rfl

variable (ho : s.pmu.flashOp = some o)
include ho

theorem exec_flashOperationEnd_ok (ht : o.tries = 0) :
    exec (.flashOperationEnd true) s = .next (stageDone { s with pmu.flashOp := none } o) := by
  change execFlashOperationEnd true s = _
  simp only [execFlashOperationEnd, ho, ht]
  rfl

/-- A success after a failure is a recovery (R797). -/
theorem exec_flashOperationEnd_recovered (ht : o.tries ≠ 0) :
    exec (.flashOperationEnd true) s = .next (stageDone { countFault s 11 0 1 0 0 with pmu.flashOp := none } o) := by
  change execFlashOperationEnd true s = _
  simp only [execFlashOperationEnd, ho, if_neg ht]
  rfl

/-- The state after a first failure: the fault and a retry are counted. -/
def stageRetried (s : State) (o : FlashOp) : State :=
  countFault { countFault s 11 1 0 0 0 with pmu.flashOp := some { o with tries := 1 } } 11 0 0 0 1

theorem exec_flashOperationEnd_failed (ht : o.tries = 0) : exec (.flashOperationEnd false) s = .next (
    (cmdOf (stageRetried s o) o.cmd).elim (stageRetried s o) fun c =>
      pspQueue (stageRetried s o) 1 (restageOps (stageRetried s o).pmu.flash c o.data)) := by
  change execFlashOperationEnd false s = _
  simp only [execFlashOperationEnd, ho, ht]
  rfl

theorem exec_flashOperationEnd_spent (ht : 2 ≤ o.tries) : exec (.flashOperationEnd false) s = .next (complete
    (faultSpent { s with pmu.flashOp := none } { FltLog.blank with cls := 11, status := 2, tries := 3 } subjNone 0) o.cmd
    { Compl.field 0xFF with result2 := 3 }) := by
  have hnot : (!false && o.tries == 0) = false := by simp; omega
  change execFlashOperationEnd false s = _
  simp only [execFlashOperationEnd, ho, hnot, if_neg ht.not_gt]
  rfl

end stage

/-! ### FW_ACTIVATE (R768, R769) -/

section activate
variable {s : State} {id : Nat} {c : Cmd} (b : Bool) (h : Started s id 0x26 c)
include h

/-- FW_ACTIVATE when it starts. -/
theorem exec_fwActivate_of_started : exec (.fwActivate id b) s = .next (
    if s.pmu.upd.isSome then complete s id (Compl.of 0x67)
    else (Tbl.get? s.pmu.flash.images (stageRegion s.pmu.flash)).elim (complete s id (Compl.field 0xFE)) fun img =>
      if !s.pmu.flash.staged then complete s id (Compl.field 0xFE)
      else if c.fld 0x10 1 % 2 = 1 then
        (if s.pmu.pfail then s
         else complete { s with pmu.flash := { s.pmu.flash with
           active := stageRegion s.pmu.flash, trial := true, staged := false } } id (Compl.ok 0 0))
      else if !b || img.stfmt != s.pmu.runImg.stfmt then complete s id (Compl.field 0xFE)
      else startPause s id) := by
  obtain ⟨hc, hop, hd, hp⟩ := h
  change execFwActivate id b s = _
  rw [execFwActivate, withCmdW_of_cmdOf hc hop hd (by rw [hp]; nofun), if_neg (by rw [hp]; nofun)]
  dsimp only
  cases Tbl.get? s.pmu.flash.images (stageRegion s.pmu.flash) <;> rfl

theorem exec_fwActivate_updating (hu : s.pmu.upd ≠ none) :
    exec (.fwActivate id b) s = .next (complete s id (Compl.of 0x67)) := by
  rw [exec_fwActivate_of_started b h, if_pos (Option.isSome_iff_ne_none.2 hu)]

variable (hu : s.pmu.upd = none)
include hu

theorem exec_fwActivate_unstaged
    (hno : Tbl.get? s.pmu.flash.images (stageRegion s.pmu.flash) = none ∨ s.pmu.flash.staged = false) :
    exec (.fwActivate id b) s = .next (complete s id (Compl.field 0xFE)) := by
  rw [exec_fwActivate_of_started b h, hu]
  rcases hno with hno | hno
  · rw [hno]; rfl
  · rw [hno]
    cases Tbl.get? s.pmu.flash.images (stageRegion s.pmu.flash) <;> rfl

variable {i : Image} (hi : Tbl.get? s.pmu.flash.images (stageRegion s.pmu.flash) = some i) (hs : s.pmu.flash.staged = true)
include hi hs

theorem exec_fwActivate_atReset (hk : c.fld 0x10 1 % 2 = 1) (hp : s.pmu.pfail = false) : exec (.fwActivate id b) s = .next (
    complete { s with pmu.flash := { s.pmu.flash with active := stageRegion s.pmu.flash, trial := true, staged := false } } id
      (Compl.ok 0 0)) := by
  rw [exec_fwActivate_of_started b h, hu, hi, hs, hp, hk]
  rfl

theorem exec_fwActivate_live (hk : c.fld 0x10 1 % 2 = 0) (hb : b = true) (hfmt : i.stfmt = s.pmu.runImg.stfmt) :
    exec (.fwActivate id b) s = .next (startPause s id) := by
  rw [exec_fwActivate_of_started b h, hu, hi, hs, hk, hb]
  simp [hfmt]

theorem exec_fwActivate_unverified (hk : c.fld 0x10 1 % 2 = 0) (hno : b = false ∨ i.stfmt ≠ s.pmu.runImg.stfmt) :
    exec (.fwActivate id b) s = .next (complete s id (Compl.field 0xFE)) := by
  rw [exec_fwActivate_of_started b h, hu, hi, hs, hk]
  rcases hno with hno | hno <;> simp [hno]

end activate

/-! ### The switch to another image (R224, R342, R769) -/

theorem any_jobRuns_eq_false {s : State} : s.rings.cmds.any jobRuns = false ↔ ∀ k ∈ s.rings.cmds, jobRuns k = false := by
  simp

section switch
variable {s : State} {u : Update}

theorem trySwitch_now (h : carries s u = true ∨ ∀ k ∈ s.rings.cmds, jobRuns k = false) : trySwitch s u = doSwitch s u := by
  rw [← any_jobRuns_eq_false] at h
  rw [trySwitch, if_pos]
  rcases h with h | h <;> simp [h]

/-- The jobs that run are stopped first. -/
theorem trySwitch_stops (hc : carries s u = false) (hj : ∃ k ∈ s.rings.cmds, jobRuns k = true) : trySwitch s u = (
    let v := (s.rings.cmds.filter jobRuns).foldl (abortOne 0x45 noCmd) s
    { v with pmu.upd := some { u with phase := 3 } }) := by
  rw [← List.any_eq_true] at hj
  rw [trySwitch, if_neg (by simp [hc, hj])]

variable (hu : s.pmu.upd = some u)
include hu

theorem resumeSwitch_done (hph : u.phase = 3) (hj : ∀ k ∈ s.rings.cmds, jobRuns k = false) :
    resumeSwitch s = doSwitch s u := by
  rw [← any_jobRuns_eq_false] at hj
  simp only [resumeSwitch, hu, hph, hj]
  rfl

theorem resumeSwitch_waits (hph : u.phase = 3) (hj : ∃ k ∈ s.rings.cmds, jobRuns k = true) : resumeSwitch s = s := by
  rw [← List.any_eq_true] at hj
  simp only [resumeSwitch, hu, hph, hj]
  rfl

/-- In its self-test an update neither waits to switch nor for jobs. -/
theorem resumeUpdate_of_testing (hph : u.phase = 2) : resumeUpdate s = s := by
  simp [resumeUpdate, resumeSwitch, hu, hph]

section waiting
variable {id : Nat} {c : Cmd} (b : Bool) (h : Waiting s id 0x26 c (.waiting 1))
include h

theorem exec_fwActivate_paused (hid : u.cmd = id) (hph : u.phase = 1) :
    exec (.fwActivate id b) s = .next (trySwitch s u) := by
  obtain ⟨hc, hop, hd, hp⟩ := h
  change execFwActivate id b s = _
  rw [execFwActivate, withCmdW_of_cmdOf hc hop hd (by rw [hp]; nofun), if_pos hp]
  simp only [hu, hid, hph, and_self, if_true]

theorem exec_fwActivate_stopping (hph : u.phase = 3) : exec (.fwActivate id b) s = .next (resumeSwitch s) := by
  obtain ⟨hc, hop, hd, hp⟩ := h
  change execFwActivate id b s = _
  rw [execFwActivate, withCmdW_of_cmdOf hc hop hd (by rw [hp]; nofun), if_pos hp]
  simp [hu, hph]

end waiting

/-! ### The self-test and the rollback (R770 to R773, R784) -/

section test
variable (hph : u.phase = 2)
include hph

/-- The state with the running image confirmed: ACTIVE, out of trial, and the real-time cores of moving transports still to be
replaced. -/
def confirmed (s : State) (u : Update) : State :=
  { s with
    pmu.flash := { s.pmu.flash with active := s.pmu.runReg, trial := false, staged := u.trial && s.pmu.flash.staged },
    pmu.rtOwed := if u.trial then s.pmu.rtOwed else (s.xp.filter fun p => p.2.motion != .stopped).map (·.1) }

theorem exec_selfTestPass (hp : s.pmu.pfail = false) : exec .selfTestPass s = .next (endUpdate (confirmed s u) u 0
    (if u.trial then 15 else maskOf ((s.xp.filter fun p => p.2.motion == .stopped).map (·.1))) false) := by
  have hgo : ¬ (u.phase ≠ 2 ∨ s.pmu.pfail = true) := by simp [hph, hp]
  change execSelfTestPass s = _
  rw [execSelfTestPass, resumeUpdate_of_testing hu hph]
  dsimp only
  split
  next v hv =>
    cases hu.symm.trans hv
    exact if_neg hgo
  next hno => cases hu.symm.trans hno

theorem exec_selfTestPass_pfail (hp : s.pmu.pfail = true) : exec .selfTestPass s = .next s := by
  change execSelfTestPass s = _
  simp [execSelfTestPass, resumeUpdate_of_testing hu hph, hu, hp]

theorem exec_selfTestFail : exec .selfTestFail s = .next (rollBack s u 1) := by
  change execSelfTestFail s = _
  simp [execSelfTestFail, resumeUpdate_of_testing hu hph, hu, hph]

end test

end switch

theorem exec_selfTestTimeout {s : State} {dt : Nat} {u : Update} (hu : (advance s dt).pmu.upd = some u) (hph : u.phase = 2)
    (hdue : u.deadline ≤ now (advance s dt)) : exec (.selfTestTimeout dt) s = .next (rollBack (advance s dt) u 2) := by
  change execSelfTestTimeout dt s = _
  simp only [execSelfTestTimeout, resumeUpdate_of_testing hu hph, hu, if_pos (And.intro hph hdue)]

/-- Where the firmware's part stays, so does the running image. -/
theorem running_of_only {l : List Part} {s t : State} (h : Only l s t) (hf : .firmware ∉ l) :
    t.pmu.runReg = s.pmu.runReg ∧ t.pmu.runImg = s.pmu.runImg := by
  obtain ⟨_, himg, hreg, _⟩ := h .firmware hf
  exact ⟨hreg, himg⟩

theorem running_switchImage (s : State) (u : Update) (carry : Bool) (img : Image) (r : Nat) :
    (switchImage s u carry img r).1.pmu.runReg = r ∧ (switchImage s u carry img r).1.pmu.runImg = img := by
  unfold switchImage
  exact running_of_only (l := but [.firmware]) (startMbx_only (settle_only (endPause_only .refl (by decide)) (by decide))
    (by decide)) (by decide)

theorem running_endUpdate (s : State) (u : Update) (outcome mask : Nat) (back : Bool) :
    (endUpdate s u outcome mask back).pmu.runReg = s.pmu.runReg ∧
      (endUpdate s u outcome mask back).pmu.runImg = s.pmu.runImg := by
  obtain ⟨hreg, himg⟩ := running_of_only (l := ending) (t := endUpdate s u outcome mask back)
    (complete_only (raise_only .refl (by decide)) (by decide)) (by decide)
  exact ⟨hreg, himg⟩

/-- The end of a rolled-back switch leaves the image that the switch started. -/
theorem running_doSwitch_back {s : State} {u : Update} {o : Nat} (hback : u.back = some o) :
    (doSwitch s u).pmu.runReg = nextRegion s u ∧ (doSwitch s u).pmu.runImg = nextImage s u := by
  obtain ⟨hreg, himg⟩ := running_switchImage s u (carries s u) (nextImage s u) (nextRegion s u)
  simp only [doSwitch, hback]
  obtain ⟨hreg', himg'⟩ := running_endUpdate (switchImage s u (carries s u) (nextImage s u) (nextRegion s u)).1
    (switchImage s u (carries s u) (nextImage s u) (nextRegion s u)).2 (if u.trial ∧ nextRegion s u = 2 then 4 else o) 0 true
  exact ⟨hreg'.trans hreg, himg'.trans himg⟩

/-- A rolled-back live activation runs the image it replaced (R771). -/
theorem running_rollBack {s : State} {u : Update} {o : Nat} {i : Image} (htrial : u.trial = false)
    (hi : Tbl.get? s.pmu.flash.images u.from_ = some i)
    (h : carries { s with host.updatePause := true } { u with back := some o, deadline := now s } = true ∨
      ∀ k ∈ s.rings.cmds, jobRuns k = false) : (rollBack s u o).pmu.runReg = u.from_ ∧ (rollBack s u o).pmu.runImg = i := by
  have hreg : nextRegion { s with host.updatePause := true } { u with back := some o, deadline := now s } = u.from_ := by
    simp [nextRegion, htrial]
  have himg : nextImage { s with host.updatePause := true } { u with back := some o, deadline := now s } = i := by
    rw [nextImage, hreg, hi]
    rfl
  obtain ⟨h1, h2⟩ := running_doSwitch_back (s := { s with host.updatePause := true })
    (u := { u with back := some o, deadline := now s }) rfl
  rw [rollBack, trySwitch_now h]
  exact ⟨h1.trans hreg, h2.trans himg⟩

/-- Settles O36: the rules above; that the rolled-back update runs the image it replaced follows from what ending it keeps. -/
theorem firmwareUpdate : Obligations.FirmwareUpdate := by
  unfold Obligations.FirmwareUpdate
  refine ⟨fun s id c img o => ⟨fun h => ⟨fun data => exec_fwStage_updating img data h, fun data => exec_fwStage img data h⟩,
      fun ho ht => ⟨exec_flashOperationEnd_ok ho ht, ?failed⟩, exec_flashOperationEnd_recovered, exec_flashOperationEnd_spent,
      fun b h => ⟨exec_fwActivate_updating b h, exec_fwActivate_unstaged b h, fun i hu hi hs =>
        ⟨exec_fwActivate_atReset b h hu hi hs, exec_fwActivate_live b h hu hi hs,
          exec_fwActivate_unverified b h hu hi hs⟩⟩⟩,
    fun s id dt c u b => ⟨fun h hu hid hph => ?paused, fun h hu hph => ?stopping,
      fun hu hph hp => ⟨confirmed s u, exec_selfTestPass hu hph hp, rfl⟩, exec_selfTestPass_pfail, exec_selfTestFail,
      exec_selfTestTimeout, fun o i => running_rollBack⟩⟩
  case failed =>
    have hfailed := exec_flashOperationEnd_failed ho ht
    exact ⟨fun hc => hfailed.trans (by rw [show cmdOf (stageRetried s o) o.cmd = none from hc]; rfl),
      fun k hc => hfailed.trans (by rw [show cmdOf (stageRetried s o) o.cmd = some k from hc]; rfl)⟩
  case paused =>
    rw [exec_fwActivate_paused hu b h hid hph]
    exact ⟨fun hsw => by rw [trySwitch_now hsw], fun hc hj => by rw [trySwitch_stops hc hj]⟩
  case stopping =>
    rw [exec_fwActivate_stopping hu b h hph]
    exact ⟨fun hj => by rw [resumeSwitch_done hu hph hj], fun hj => by rw [resumeSwitch_waits hu hph hj]⟩

end Sys2Proof.Machine
end

section
/-! Entering and leaving a Lull state (O35). -/

namespace Sys2Proof.Machine

/-! ### Entering a Lull state (R733 to R737, R743 to R746, R780) -/

section enter
variable {s : State} {id dt k : Nat} {c : Cmd} {e : LullEntry}

theorem exec_enterLull_busy (h : Started s id 0x24 c) (hb : s.pmu.lull ≠ none ∨ s.pmu.upd ≠ none) :
    exec (.enterLull id) s = .next (complete s id (Compl.of 0x67)) := by
  rw [← Option.isSome_iff_ne_none, ← Option.isSome_iff_ne_none, ← Bool.or_eq_true] at hb
  change execEnterLull id s = _
  rw [execEnterLull, withCmd_of_started h]
  exact congrArg _ (if_pos hb)

/-- Does a transport hold a mount session? -/
theorem any_mount_iff {l : Tbl Xport} : (l.any fun p => p.2.mount.isSome) = true ↔ ∃ p ∈ l, p.2.mount ≠ none := by
  simp [Option.isSome_iff_ne_none]

section
variable (h : Started s id 0x24 c) (hl : s.pmu.lull = none) (hu : s.pmu.upd = none)
include h hl hu

theorem exec_enterLull_in_session (hk : 2 ≤ c.fld 0x10 1) (hm : ∃ p ∈ s.xp, p.2.mount ≠ none) :
    exec (.enterLull id) s = .next (complete s id (Compl.of 5)) := by
  have hfree : ¬ (s.pmu.lull.isSome || updating s) = true := by simp [hl, hu, updating]
  change execEnterLull id s = _
  rw [execEnterLull, withCmd_of_started h]
  exact congrArg _ ((if_neg hfree).trans (if_pos (And.intro hk (any_mount_iff.2 hm))))

theorem exec_enterLull_begins (hk : c.fld 0x10 1 < 2 ∨ ∀ p ∈ s.xp, p.2.mount = none) : exec (.enterLull id) s = .next (
    setProg { s with
      pmu.entrySeq := (s.pmu.entrySeq + 1) % 2 ^ 32,
      pmu.lull := some {
        cmd := id, seq := (s.pmu.entrySeq + 1) % 2 ^ 32, target := c.fld 0x10 1,
        deadline := now s + (if c.fld 0x12 2 = 0 then 1000 else c.fld 0x12 2) * msTicks, phase := 0, wake := 0, after := false,
        wakeAt := 0, sec := 0, ns := 0, gateMax := 0, forced := 0 } } id (.waiting 0)) := by
  have hno : ¬ (2 ≤ c.fld 0x10 1 ∧ (s.xp.any fun p => p.2.mount.isSome) = true) := by
    rw [any_mount_iff]
    rintro ⟨h2, p, hp, hpm⟩
    exact hk.elim (fun hlt => absurd h2 (not_le.2 hlt)) fun hnone => hpm (hnone p hp)
  have hfree : ¬ (s.pmu.lull.isSome || updating s) = true := by simp [hl, hu, updating]
  change execEnterLull id s = _
  rw [execEnterLull, withCmd_of_started h]
  exact congrArg _ ((if_neg hfree).trans (if_neg hno))

end

/-- The commands other than ENTER_LULL have completed, or wait in the mailbox for fetch. -/
theorem any_unfinished_eq_false {l : List Cmd} {j : Nat}
    (h : ∀ c ∈ l, c.id = j ∨ c.done ≠ none ∨ (c.mailbox = true ∧ c.prog = .ordered)) :
    (l.any fun c => c.id != j && c.done.isNone && !(c.mailbox && c.prog == .ordered)) = false := by
  rw [List.any_eq_false]
  intro c hc
  rcases h c hc with h | h | ⟨h, h'⟩
  · simp [h]
  · simp [h]
  · simp [h, h']

section
variable (hl : s.pmu.lull = some e) (hph : e.phase = 0)
  (hq : ∀ c ∈ s.rings.cmds, c.id = e.cmd ∨ c.done ≠ none ∨ (c.mailbox = true ∧ c.prog = .ordered))
include hl hph hq

theorem exec_lullQuiesced : exec .lullQuiesced s = .next (
    if e.target = 1 ∧ !allWritten s then settle (closeAllOpen s)
    else startClose { s with
      pmu.lull := some { e with phase := 1 },
      xp := Tbl.mapVal s.xp fun _ x => { stopTape x .stopped with target := 0, goal := none } } 0) := by
  change execLullQuiesced s = _
  simp only [execLullQuiesced, hl, hph, any_unfinished_eq_false hq]
  split
  next h => exact absurd h (by simp)
  · exact (apply_ite Host.Outcome.next _ _ _).symm

theorem exec_lullQuiesced_unwritten (ht : e.target = 1) (hw : allWritten s = false) :
    exec .lullQuiesced s = .next (settle (closeAllOpen s)) := by
  rw [exec_lullQuiesced hl hph hq, if_pos ⟨ht, by rw [hw]; rfl⟩]

theorem exec_lullQuiesced_written (hw : e.target = 1 → allWritten s = true) : exec .lullQuiesced s = .next (startClose { s with
    pmu.lull := some { e with phase := 1 },
    xp := Tbl.mapVal s.xp fun _ x => { stopTape x .stopped with target := 0, goal := none } } 0) := by
  rw [exec_lullQuiesced hl hph hq, if_neg]
  rintro ⟨ht, hno⟩
  simp [hw ht] at hno

end

theorem exec_gateClosed (hst : (gateOf (advance s dt) k).st = 1) (hidle : gateBusy (advance s dt) k = false) :
    exec (.gateClosed dt k) s = .next (gateDone (advance s dt) k false) := by
  change execGateClosed dt k s = _
  exact congrArg _ (if_pos ⟨hst, by rw [hidle]; rfl⟩)

theorem exec_gateForceClose (l : List Nat) (hst : (gateOf (advance s dt) k).st = 1)
    (hdue : (gateOf (advance s dt) k).since + 10 * usTicks ≤ now (advance s dt)) : exec (.gateForceClose dt k l) s = .next (
    let u := raiseGate (forceLose (advance s dt) k l) k
    gateDone (setGate u k { gateOf u k with refused := satAdd 32 (gateOf u k).refused l.length }) k true) := by
  change execGateForceClose dt k l s = _
  exact if_pos ⟨hst, hdue⟩

theorem exec_quiesceTimeout (hl : (advance s dt).pmu.lull = some e) (hph : e.phase = 0) (hdue : e.deadline ≤ now (advance s dt)) :
    exec (.quiesceTimeout dt) s = .next (applyThermal (undoLull (advance s dt) e 0 0x67)) := by
  change execQuiesceTimeout dt s = _
  simp only [execQuiesceTimeout, hl]
  exact if_pos ⟨hph, hdue⟩

theorem exec_lullStateSaved (hl : s.pmu.lull = some e) (hph : e.phase = 2) (hg : (gateOf s 14).st ≠ 1) :
    exec .lullStateSaved s = .next (if e.wake ≠ 0 then beginExit (enterState s e.target) { e with phase := 3 } e.wake
      else
        let u := enterState s e.target
        { u with pmu.lull := some { e with phase := 3 } }) := by
  change execLullStateSaved s = _
  simp only [execLullStateSaved, hl, if_neg hg]
  exact if_neg (not_not.2 hph)

/-! ### Leaving a Lull state (R736 to R742) -/

theorem exec_hostLinkWake_exit (hp : s.host.perst = true) (hl : s.pmu.lull = some e) (hph : e.phase = 3) (ht : e.target = 2) :
    exec .hostLinkWake s = .next (beginExit s e 2) := by
  change execHostLinkWake s = _
  rw [execHostLinkWake, if_pos hp]
  simp [wake, hl, hph, ht, wakes]

theorem exec_hostLinkWake_other (hp : s.host.perst = true) (hl : s.pmu.lull = some e) (hph : e.phase = 3) (ht : e.target ≠ 2) :
    exec .hostLinkWake s = .next s := by
  change execHostLinkWake s = _
  rw [execHostLinkWake, if_pos hp]
  simp [wake, hl, hph, ht, wakes]

theorem exec_hostLinkWake_idle (h : s.host.perst = false ∨ s.pmu.lull = none) : exec .hostLinkWake s = .next s := by
  change execHostLinkWake s = _
  rcases h with h | h
  · simp [execHostLinkWake, h]
  · simp [execHostLinkWake, wake_of_lull_none 2 h]

end enter

/-! ### What stays once Run is entered -/

/-- The formatter is in Run: no Lull entry, ACE running, every gate open. -/
def InRun (s : State) : Prop := s.pmu.lull = none ∧ s.pmu.ps = .run ∧ s.ace.stopped = false ∧ ∀ k, (gateOf s k).st = 0

/-- What leaves the power state, the gates and the copy engine alone stays in Run. -/
theorem InRun.of_only {l : List Part} {s t : State} (h : InRun s) (ho : Only l s t) (hp : .power ∉ l) (hg : .gates ∉ l)
    (hc : .copyEngine ∉ l) : InRun t := by
  obtain ⟨hlull, hps, hstop, hopen⟩ := h
  obtain ⟨hps', hlull', -⟩ := ho .power hp
  obtain ⟨hgates, -⟩ := ho .gates hg
  obtain ⟨-, -, -, hstop', -⟩ := ho .copyEngine hc
  exact ⟨hlull'.trans hlull, hps'.trans hps, hstop'.trans hstop, fun k => by rw [gateOf, hgates]; exact hopen k⟩

/-- In Run a command that is forgotten has no Lull entry to undo. -/
theorem InRun.forgetCmd {s : State} (h : InRun s) (id : Nat) : InRun (forgetCmd s id) := by
  have hupd {c : Cmd} : InRun (updXp s (c.fld 0x10 1) fun x => { x with calibrating := false, motion := .stopped }) := h
  unfold Machine.forgetCmd
  simp only [h.1]
  split
  · split
    · exact hupd
    · exact h
  · exact h

theorem InRun.flrAbortOne {s : State} (h : InRun s) (fn seq : Nat) (c : Cmd) : InRun (flrAbortOne fn seq s c) :=
  InRun.forgetCmd (h.of_only (l := but [.power, .gates, .copyEngine]) (freeSlot_only (dropRecords_only (flrLogOne_only .refl
    (by decide)) (by decide)) (by decide)) (by decide) (by decide) (by decide)) c.id

/-- In Run the steps of an FLR stay in Run. -/
theorem InRun.flrSteps {s : State} (h : InRun s) (fn : Nat) : InRun (flrSteps s fn) := by
  unfold Machine.flrSteps
  extract_lets rs cs seq src counted aborted gone src' kept orphaned dels freed dropped removed ended
  have haborted : InRun aborted := List.foldlRecOn cs _ (show InRun counted from h) fun u hu c _ => hu.flrAbortOne fn seq c
  have hkept : InRun kept := haborted
  clear_value kept
  have hfreed : Only (but [.power, .gates, .copyEngine]) kept freed := .foldl (fun u k => by
    have hdrop : Only (but [.power, .gates, .copyEngine]) u (dropStreams u (·.ctx == k)) := dropStreams_only .refl (by decide)
    generalize dropStreams u (·.ctx == k) = v at hdrop
    exact .set hdrop rfl) _ (.foldl (fun _ _ => orphanOne_only .refl (by decide)) _ .refl)
  refine hkept.of_only (l := but [.power, .gates, .copyEngine]) (settle_only (raise_only (.foldl (fun _ _ => fixDone_only .refl
    (by decide)) _ (.foldl (fun _ _ => removeRing_only .refl (by decide)) _ (dropStreams_only hfreed (by decide)))) (by decide))
    (by decide)) (by decide) (by decide) (by decide)

theorem InRun.runOwed {s : State} (h : InRun s) : InRun (runOwed s) := by
  have hsteps : InRun (s.host.flrOwed.foldl Machine.flrSteps { s with host.flrOwed := [] }) :=
    List.foldlRecOn _ _ h fun u hu fn _ => hu.flrSteps fn
  exact hsteps.of_only (l := but [.power, .gates, .copyEngine]) (hostBack_only .refl (by decide)) (by decide) (by decide)
    (by decide)

/-! ### Bits of SMP_ATTN stay set (Table 13-3) -/

section attn
variable {s : State} {k : Nat}

theorem raiseAttn_getLsbD (m : BitVec 8) (h : s.smp.attn.getLsbD k = true) : (raiseAttn s m).smp.attn.getLsbD k = true :=
  (BitVec.getLsbD_or ..).trans (by rw [h]; rfl)

theorem sendMsix_smp (s : State) (n v : Nat) : (sendMsix s n v).smp = s.smp := by
  unfold sendMsix
  split
  · rfl
  · split <;> rfl

theorem notify_smp (s : State) (e : Nat) (tgt : Nat × Nat) (holdUs : Nat) : (notify s e tgt holdUs).smp = s.smp := by
  unfold notify
  split
  · rfl
  · dsimp only
    split
    · exact sendMsix_smp ..
    · exact sendMsix_smp ..

theorem raiseNow_getLsbD (e kind subj detail : Nat) (h : s.smp.attn.getLsbD k = true) :
    (raiseNow s e kind subj detail).smp.attn.getLsbD k = true := by
  unfold raiseNow
  extract_lets r tgt entry src v logged told
  have htold : told.smp.attn.getLsbD k = true := by rw [show told.smp = logged.smp from notify_smp ..]; exact h
  split
  · split
    · exact raiseAttn_getLsbD 1 htold
    · exact htold
  · exact h

theorem raise_getLsbD (e kind subj detail : Nat) (h : s.smp.attn.getLsbD k = true) :
    (raise s e kind subj detail).smp.attn.getLsbD k = true := by
  unfold raise
  split
  · exact h
  · exact raiseNow_getLsbD e kind subj detail h

/-- What raises no event and sends no message keeps SMP_ATTN. -/
theorem attn_of_only {l : List Part} {t : State} (ho : Only l s t) (he : .events ∉ l) : t.smp.attn = s.smp.attn :=
  (ho .events he).2.1

theorem applyThermal_getLsbD (h : s.smp.attn.getLsbD k = true) : (applyThermal s).smp.attn.getLsbD k = true := by
  unfold applyThermal
  split
  · exact h
  · refine List.foldlRecOn (motive := fun u : State => u.smp.attn.getLsbD k = true) _ _ h fun u hu t _ => ?_
    split
    · exact hu
    · dsimp only
      split
      · exact raise_getLsbD _ _ _ _ hu
      · exact hu

theorem postOne_attn (s : State) (c : Cmd) (x : Compl) : (postOne s c x).smp.attn = s.smp.attn := by
  have hlat : (noteLatency s c x).smp.attn = s.smp.attn :=
    attn_of_only (l := [.contexts]) (noteLatency_only .refl (by decide)) (by decide)
  cases hr : Tbl.get? s.rings.tbl c.ring with
  | none => simp only [postOne, hr]
  | some r =>
    rw [postOne_of_ring x hr]
    split
    · exact hlat
    · unfold raiseRing
      dsimp only
      split
      · rw [notify_smp]; exact hlat
      · exact hlat

theorem postStep_attn (p : State × List Cmd) (c : Cmd) : (postStep p c).1.smp.attn = p.1.smp.attn := by
  unfold postStep
  split
  · split
    · exact postOne_attn ..
    · rfl
  · rfl

theorem postAll_attn (s : State) : (postAll s).smp.attn = s.smp.attn :=
  List.foldlRecOn (motive := fun p : State × List Cmd => p.1.smp.attn = s.smp.attn) s.rings.cmds postStep rfl fun p hp c _ =>
    (postStep_attn p c).trans hp

/-- Settling completes and posts commands: SMP_ATTN stays. -/
theorem settle_attn (s : State) : (settle s).smp.attn = s.smp.attn :=
  (postAll_attn _).trans (attn_of_only (l := [.free, .commands, .headwind, .streams, .transports]) (reap_only (.foldl
    (fun _ _ => settleOne_only .refl (by decide)) _ .refl) (by decide)) (by decide))

end attn

/-! ### LULL_EXIT_COMPLETE (R740 to R742) -/

section exit
variable (s : State) (e : LullEntry) (b : Bool)

/-- Run is entered, with every gate open, ACE running and no Lull entry. -/
def enterRun : State := openGates { s with
  pmu.lull := none, pmu.ps := .run, ace.stopped := false,
  ace.ch := Tbl.mapVal s.ace.ch fun _ a => { a with parked := false } }

/-- Is the state that Lull-3 saved lost, so that firmware does not start? -/
def stateLost : Bool := e.target == 3 && !b

/-- Firmware on leaving Lull-3: it starts again, or stays down when the saved state is lost. -/
def restarted : State :=
  if stateLost e b then { s with pmu.booted := false, host.fwReady := false } else if e.target = 3 then firmwareStarts s else s

/-- The link on the way out: its window opens, or firmware's readiness shows. -/
def relinked : State :=
  if s.host.perst && !s.host.dlActive then openWindow900 s else if s.host.dlActive then fwUp s else s

/-- What follows once Run is entered, up to the stored doorbells. -/
def resumed : State := applyAll (relinked (restarted (raiseHeld (runOwed s)) e b))

/-- The entry of the power log that ends a Lull state (Table 15-15). -/
def exitLog : PwrLog := {
  seq := e.seq, target := e.target, entered := true, wake := e.wake, flags := b2n e.after + 2 * b2n (stateLost e b), sec := e.sec,
  ns := e.ns, exitUs := min ((now s - e.wakeAt) / usTicks) (satMax 32), gateMax := e.gateMax, forced := e.forced }

/-- The state that leaves a Lull state. -/
def lullLeft : State :=
  let u := resumed (enterRun (if e.target = 3 then leaveLull3 s else s)) e b
  startMbx (settle (applyThermal (raiseAttn (logPower u (exitLog u e b)) 8)))

variable {s e}

theorem exec_lullExitComplete {dt : Nat} (hl : (advance s dt).pmu.lull = some e) (hph : e.phase = 4) :
    exec (.lullExitComplete dt b) s = .next (lullLeft (advance s dt) e b) := by
  change execLullExitComplete dt b s = _
  simp only [execLullExitComplete, hl, if_neg (not_not.2 hph)]
  rfl

theorem gateOf_openGates (s : State) (k : Nat) : (gateOf (openGates s) k).st = 0 := by
  unfold gateOf openGates
  rw [Tbl.get?_mapVal]
  cases Tbl.get? s.pmu.gates k <;> rfl

theorem enterRun_inRun (s : State) : InRun (enterRun s) := ⟨rfl, rfl, rfl, gateOf_openGates _⟩

theorem InRun.restarted (h : InRun s) : InRun (restarted s e b) := by
  unfold Machine.restarted
  split
  · exact h
  · split
    · exact h.of_only (l := but [.power, .gates, .copyEngine]) (firmwareStarts_only .refl (by decide)) (by decide) (by decide)
        (by decide)
    · exact h

theorem relinked_only (s : State) : Only [.functions, .link, .rings] s (relinked s) :=
  .ite (openWindow900_only .refl (by decide)) (.ite (fwUp_only .refl (by decide)) .refl)

theorem InRun.resumed (h : InRun s) : InRun (resumed s e b) := by
  have hheld : InRun (raiseHeld (Machine.runOwed s)) :=
    h.runOwed.of_only (l := [.outputs, .events]) (raiseHeld_only .refl (by decide)) (by decide) (by decide) (by decide)
  exact (hheld.restarted b).of_only (applyAll_only (relinked_only _) (by decide)) (by decide) (by decide) (by decide)

theorem InRun.logPower (h : InRun s) (x : PwrLog) : InRun (logPower s x) :=
  InRun.of_only (s := { s with pmu.log := (x :: s.pmu.log).take 64, pmu.logTotal := s.pmu.logTotal + 1 }) h
    (l := [.outputs, .events]) (raise_only .refl (by decide)) (by decide) (by decide) (by decide)

variable (s e)

theorem lullLeft_inRun : InRun (lullLeft s e b) :=
  (((enterRun_inRun (if e.target = 3 then leaveLull3 s else s)).resumed b).logPower _).of_only
    (l := but [.power, .gates, .copyEngine]) (startMbx_only (settle_only (applyThermal_only (raiseAttn_only .refl (by decide))
      (by decide)) (by decide)) (by decide)) (by decide) (by decide) (by decide)

/-- Leaving a Lull state raises RUN in SMP_ATTN. -/
theorem lullLeft_attn : (lullLeft s e b).smp.attn.getLsbD 3 = true := by
  unfold lullLeft
  extract_lets u
  generalize logPower u (exitLog u e b) = v
  have hrun : (raiseAttn v 8).smp.attn.getLsbD 3 = true := (BitVec.getLsbD_or ..).trans (Bool.or_true _)
  rw [attn_of_only (l := [.commands, .headwind]) (startMbx_only .refl (by decide)) (by decide), settle_attn]
  exact applyThermal_getLsbD hrun

end exit

/-- Settles O35: the rules above; on the exit Run is entered first, and nothing that follows leaves it or clears RUN in SMP_ATTN. -/
theorem lullStates : Obligations.LullStates := by
  unfold Obligations.LullStates
  refine ⟨fun s id dt k c e => ⟨fun h => ⟨exec_enterLull_busy h, fun hl hu => ⟨exec_enterLull_in_session h hl hu,
    exec_enterLull_begins h hl hu⟩⟩, fun hl hph hq => ⟨exec_lullQuiesced_unwritten hl hph hq,
    exec_lullQuiesced_written hl hph hq⟩,
    exec_gateClosed, exec_gateForceClose, exec_quiesceTimeout, fun hl hph hg => ?_⟩, fun s e => ⟨fun hp hl hph =>
    ⟨exec_hostLinkWake_exit hp hl hph, exec_hostLinkWake_other hp hl hph⟩, exec_hostLinkWake_idle, fun dt b hl hph => ?_⟩⟩
  · rw [exec_lullStateSaved hl hph hg]
    exact ⟨fun hw => congrArg _ (if_neg (not_not.2 hw)), fun hw => congrArg _ (if_pos hw)⟩
  · intro u bad u₁ u₂ u₃ u₄ u₅ u₆ u₇ t
    have ht : t = startMbx (settle (applyThermal (raiseAttn u₇ 8))) := rfl
    have hlog : u₇ = logPower u₆ (exitLog u₆ e b) := rfl
    have happly : u₆ = applyAll u₅ := rfl
    have hlink : u₅ = relinked u₄ := rfl
    have hstart : u₄ = restarted u₃ e b := rfl
    have howed : u₃ = raiseHeld (runOwed u₂) := rfl
    have hrun : u₂ = enterRun u₁ := rfl
    clear_value t u₇ u₆ u₅ u₄ u₃ u₂
    subst hrun howed hstart hlink happly hlog
    rw [show t = lullLeft u e b from ht]
    obtain ⟨hlull, hps, hstop, hopen⟩ := lullLeft_inRun u e b
    exact ⟨exec_lullExitComplete b ((congrArg Pmu.lull (advance_pmu s dt)).trans hl) hph, hlull, hps, hstop, hopen,
      lullLeft_attn u e b⟩

end Sys2Proof.Machine
end
